-- ==== Sys2Proof/Word.lean ====
section
/-! DEFINITION. The word types of the VB-41 (R7, R57, R199) and their plainest arithmetic. -/

namespace Sys2Proof

abbrev Byte := BitVec 8
abbrev Half := BitVec 16
abbrev Word := BitVec 32
abbrev Dword := BitVec 64
abbrev Qword := BitVec 128

/-- A scalar register number, `s0` to `s31` (R199). -/
abbrev Reg := BitVec 5
/-- A command register number, `k0` to `k7` (R199). -/
abbrev KReg := BitVec 3

/-- Bits `hi : lo` of a natural number. -/
def bitsOf (x hi lo : Nat) : Nat := (x >>> lo) % 2 ^ (hi + 1 - lo)

/-- Bit `k` of a natural number. -/
def bitOf (x k : Nat) : Bool := x.testBit k

/-- A Bool as 0 or 1. -/
def b2n (b : Bool) : Nat := if b then 1 else 0

/-- `x` with bits `hi : lo` replaced by `v` (cut to the field). -/
def setBits (x hi lo v : Nat) : Nat :=
  let w := 2 ^ (hi + 1 - lo)
  x - (bitsOf x hi lo) * 2 ^ lo + (v % w) * 2 ^ lo

end Sys2Proof
end

