-- ==== Sys2Proof/Config.lean ====
section
/-! DEFINITION. What an implementation fixes, and the free values: constants with no body, so that
nothing proved here can rest on a number for them. -/

namespace Sys2Proof

/-- Byte `i` of what an attestation report for a nonce holds beside the nonce, with its signature (R342): the report's
layout, the measurement, the certificate and the device key are not stated. Free value. Log 11 (DESIGN CHOICE, safe). -/
opaque Config.attestByte : Nat → Nat → Byte

/-- The number of bytes of an attestation report before its nonce (R342): not stated. Free value. Log 11. -/
opaque Config.attestBefore : Nat

/-- The number of bytes of an attestation report beside the nonce, its 32-byte measurement and the bytes before the nonce
(R342): not stated. Free value. Log 11. -/
opaque Config.attestAfter : Nat

/-- Clock cycles that the `n`-th step of a run takes (CYCLE of R207): latencies and issue times are not
all stated, and the model does not count them. Free value. Log 10 (DESIGN CHOICE, safe). -/
opaque Config.cyclesOfStep : Nat → Nat

/-- Nanoseconds of the desk timer that the `n`-th step of a run takes (R152). Free value. Log 10. -/
opaque Config.nsOfStep : Nat → Nat

/-- The ready-queue link that a desk writes to word 14 of a TCB (R146, R150), by the desk's time: its form is
not stated. Free value. Log 15 (DESIGN CHOICE, safe). -/
opaque Config.deskLink : Nat → Dword

/-- A result that an operator of the fabric gives where its slots' rates leave it without an operand (R158, R175):
not stated. Free value. Log 16 (DESIGN CHOICE, safe). -/
opaque Config.fabricWord : Nat → Word

/-- FADDR that a FAULTEND write gives a task of another core, whose cause registers the model does not hold (R154),
by the step. Free value. Log 17 (DESIGN CHOICE, safe). -/
opaque Config.otherFaddress : Nat → Nat

/-- Whether the clerk's fetch at the `n`-th step of a run that finds its word in the instruction cache is answered
from it, or the line has been replaced and memory is read (R2, R255): the cache's organisation is not stated. Free
value. Log 14 (DESIGN CHOICE, safe). -/
opaque Config.fetchHits : Nat → Bool

/-- How many further instructions a fetch brings into the instruction cache: the `2n`-th value is for those that follow at the
`n`-th step, the next one for those at a branch's target. A clerk may fetch beyond a branch on either path, how far is not
stated. Free value. Log 14. -/
opaque Config.fetchAhead : Nat → Nat

/-- Whether the `k`-th such fetch goes on at the target of a branch that it meets with `n` instructions left, or behind it.
Free value. Log 14. -/
opaque Config.fetchPath : Nat → Nat → Bool

/-- What a load of a control register of another core returns at the `n`-th step: the model holds the registers of one
core (log 2). Free value. Log 84 (DESIGN CHOICE, safe). -/
opaque Config.otherCoreReg : Nat → Dword

/-- The offset in its core's window that ECCADDR gives for an uncorrectable error, found at the `n`-th step, in a store of
the core that has no address: a plane, an accumulator, a queue (R333). Free value. Log 97 (DESIGN CHOICE, safe). -/
opaque Config.sramAddress : Nat → Nat

/-- Which of the up Span ports of a wing a request for an address goes out by (R338): not stated. Free value. Log 100
(DESIGN CHOICE, safe). -/
opaque Config.spanPort : Nat → Nat

end Sys2Proof
end

