-- ==== Sys2Proof/Syntax.lean ====
section
/-! DEFINITION. The instructions of the VB-41: one constructor for every row of spec/opcode_table.json.
The first part are the clerk's instructions (R201 to R204), the second the stream commands (R209 to
R211), the third the machine's own steps, which other agents take and which no encoding names
(spec/95_what_each_step_holds.md). -/

namespace Sys2Proof

/-- Scope suffixes .e, .c, .w, .m, .s (R96); FUNC of `fence` and SCOPE of an atomic (R198, R201). -/
inductive Scope where
  | e | c | w | m | s
  deriving DecidableEq, Repr

/-- ORD of an atomic (R198). -/
inductive Ord where
  | rlx | acq | rel | ar
  deriving DecidableEq, Repr

/-- ORD, SCOPE and W of a 64-bit form (R198). -/
structure AmoOrder where
  ord : Ord
  scope : Scope
  wide : Bool
  deriving DecidableEq, Repr

/-- WID of `ldl` (R204) and the class B loads (R233). -/
inductive LoadWidth where
  | u8 | u16 | u32 | u64 | s8 | s16 | s32
  deriving DecidableEq, Repr

/-- WID of `stl` (R204) and the class B stores (R233). -/
inductive StoreWidth where
  | b8 | b16 | b32 | b64
  deriving DecidableEq, Repr

/-- A side of a fabric element, and the direction of a hop through it (R157, R174). -/
inductive Dir where
  | n | e | s | w
  deriving DecidableEq, Repr

/-- A task, named by its context and the virtual address of its TCB (R146, R362). -/
structure TaskKey where
  ctx : BitVec 12
  tcb : Nat
  deriving DecidableEq, Repr

/-- `sread` (R259). -/
structure ReadFields where
  r1 : Reg
  r2 : Reg
  handle : BitVec 6
  stride : BitVec 10
  rows : BitVec 12
  len : BitVec 20
  addr : BitVec 48
  hv : Bool
  rlvl : BitVec 3
  opn : Bool
  deriving DecidableEq, Repr

/-- `swrite` (R259). -/
structure WriteFields where
  r1 : Reg
  r2 : Reg
  stride : BitVec 10
  rows : BitVec 12
  len : BitVec 20
  addr : BitVec 48
  deriving DecidableEq, Repr

/-- `sgather` (R260). -/
structure GatherFields where
  r1 : Reg
  r2 : Reg
  handle : BitVec 6
  esz : BitVec 3
  count : Half
  idx : BitVec 23
  base : BitVec 48
  hv : Bool
  rlvl : BitVec 3
  opn : Bool
  deriving DecidableEq, Repr

/-- `sscatter` (R260). -/
structure ScatterFields where
  r1 : Reg
  r2 : Reg
  esz : BitVec 3
  count : Half
  idx : BitVec 23
  base : BitVec 48
  deriving DecidableEq, Repr

/-- `stile` (R262). -/
structure TileFields where
  r1 : Reg
  r2 : Reg
  exp : BitVec 42
  trec : BitVec 44
  n : BitVec 10
  close : Bool
  deriving DecidableEq, Repr

/-- `ssegt` (R263). -/
structure SegtFields where
  r1 : Reg
  r2 : Reg
  nkb : Half
  kb0 : Half
  nrows : BitVec 7
  frow : BitVec 6
  trec : BitVec 44
  deriving DecidableEq, Repr

/-- `mload` (R276). -/
structure LoadFields where
  r1 : Reg
  r2 : Reg
  trec : BitVec 43
  src : Bool
  pfmt : BitVec 2
  kb : Half
  n : Half
  deriving DecidableEq, Repr

/-- The fields all four product commands share (R282). -/
structure ProductFields where
  r1 : Reg
  src : Bool
  afmt : Bool
  bank : Bool
  acc : BitVec 2
  gamma : Half
  n : Half
  ach : BitVec 3
  deriving DecidableEq, Repr

/-- `mdrain` (R293). -/
structure DrainFields where
  r1 : Reg
  scale : BitVec 42
  bank : Bool
  bar : Byte
  bv : Bool
  za : Bool
  sv : Bool
  ofmt : Bool
  n : Half
  deriving DecidableEq, Repr

/-- Which outstanding request a step of the memory system acts on: the `k`-th unfinished instruction
of the clerk (R200), or the `k`-th outstanding request of the fabric (R110, R257). -/
inductive ReqRef where
  | clerk (k : Nat)
  | fabric (k : Nat)
  deriving DecidableEq, Repr

/-- A request of a master over UCIe or the sideband (R103, R335). -/
inductive HostReq where
  | readCtrl (master : BitVec 2) (off : Nat) (wide : Bool)
  | writeCtrl (master : BitVec 2) (off : Nat) (wide : Bool) (v : Dword)
  | readMem (ctx : BitVec 12) (va : Nat) (size : Nat)
  | writeMem (ctx : BitVec 12) (va : Nat) (size : Nat) (v : Dword)
  deriving DecidableEq, Repr

/-- A request for a synchronisation object that reaches its home (R107): the clerk's `k`-th unfinished
instruction, or one of another task at the object with this home address. -/
inductive ObjectReq where
  | own (k : Nat)
  | other (t : TaskKey) (obj : Nat) (excl : Bool)
  deriving DecidableEq, Repr

/-- A release that reaches its home (R239). -/
inductive ObjectRel where
  | own (k : Nat)
  | other (t : TaskKey) (obj : Nat)
  deriving DecidableEq, Repr

/-- The instructions, in the table's order, but for the steps at the end. -/
inductive Instr where
  /-- ADD (R216). Writes sa + sb modulo 2^64 to sd. -/
  | add (d a b : Reg)
  /-- SUB (R216). Writes sa - sb modulo 2^64 to sd. -/
  | sub (d a b : Reg)
  /-- MUL (R216). Writes bits 63:0 of sa x sb to sd. -/
  | mul (d a b : Reg)
  /-- MULH (R216). Writes bits 127:64 of the signed product to sd. -/
  | mulh (d a b : Reg)
  /-- MULHU (R216). Writes bits 127:64 of the unsigned product to sd. -/
  | mulhu (d a b : Reg)
  /-- DIV (R217). Signed division rounded toward zero; traps 0x0A on a zero divisor. -/
  | div (d a b : Reg)
  /-- DIVU (R217). Unsigned division; traps 0x0A on a zero divisor. -/
  | divu (d a b : Reg)
  /-- REM (R217). Signed remainder with the sign of the dividend; traps on a zero divisor. -/
  | rem (d a b : Reg)
  /-- REMU (R217). Unsigned remainder; traps on a zero divisor. -/
  | remu (d a b : Reg)
  /-- AND (R216). Writes sa AND sb to sd. -/
  | and (d a b : Reg)
  /-- OR (R216). Writes sa OR sb to sd. -/
  | or (d a b : Reg)
  /-- XOR (R216). Writes sa XOR sb to sd. -/
  | xor (d a b : Reg)
  /-- ANDN (R216). Writes sa AND NOT sb to sd. -/
  | andn (d a b : Reg)
  /-- ORN (R216). Writes sa OR NOT sb to sd. -/
  | orn (d a b : Reg)
  /-- SLL (R216). Shifts sa left by sb<5:0>. -/
  | sll (d a b : Reg)
  /-- SRL (R216). Shifts sa right logically by sb<5:0>. -/
  | srl (d a b : Reg)
  /-- SRA (R216). Shifts sa right arithmetically by sb<5:0>. -/
  | sra (d a b : Reg)
  /-- ROL (R216). Rotates sa left by sb<5:0>. -/
  | rol (d a b : Reg)
  /-- ROR (R216). Rotates sa right by sb<5:0>. -/
  | ror (d a b : Reg)
  /-- MIN (R216). Writes the signed lesser of sa and sb. -/
  | min (d a b : Reg)
  /-- MAX (R216). Writes the signed greater of sa and sb. -/
  | max (d a b : Reg)
  /-- MINU (R216). Writes the unsigned lesser of sa and sb. -/
  | minu (d a b : Reg)
  /-- MAXU (R216). Writes the unsigned greater of sa and sb. -/
  | maxu (d a b : Reg)
  /-- SEQ (R216). Writes 1 if sa equals sb, else 0. -/
  | seq (d a b : Reg)
  /-- SNE (R216). Writes 1 if sa differs from sb, else 0. -/
  | sne (d a b : Reg)
  /-- SLT (R216). Writes 1 if sa < sb signed. -/
  | slt (d a b : Reg)
  /-- SLTU (R216). Writes 1 if sa < sb unsigned. -/
  | sltu (d a b : Reg)
  /-- SLE (R216). Writes 1 if sa <= sb signed. -/
  | sle (d a b : Reg)
  /-- SLEU (R216). Writes 1 if sa <= sb unsigned. -/
  | sleu (d a b : Reg)
  /-- CLZ (R218). Counts leading zero bits of sa. -/
  | clz (d a : Reg)
  /-- CTZ (R218). Counts trailing zero bits of sa. -/
  | ctz (d a : Reg)
  /-- POPC (R218). Counts the one bits of sa. -/
  | popc (d a : Reg)
  /-- SEXT8 (R218). Sign-extends sa<7:0>. -/
  | sext8 (d a : Reg)
  /-- SEXT16 (R218). Sign-extends sa<15:0>. -/
  | sext16 (d a : Reg)
  /-- SEXT32 (R218). Sign-extends sa<31:0>. -/
  | sext32 (d a : Reg)
  /-- ZEXT32 (R218). Zero-extends sa<31:0>. -/
  | zext32 (d a : Reg)
  /-- BSWAP (R218). Reverses the eight bytes of sa. -/
  | bswap (d a : Reg)
  /-- FADD (R223). FP32 addition rounded by FPCTL.RM. -/
  | fadd (d a b : Reg)
  /-- FSUB (R223). FP32 subtraction rounded by FPCTL.RM. -/
  | fsub (d a b : Reg)
  /-- FMUL (R223). FP32 multiplication rounded by FPCTL.RM. -/
  | fmul (d a b : Reg)
  /-- FDIV (R223). FP32 division with DZ and NV cases. -/
  | fdiv (d a b : Reg)
  /-- FSQRT (R223). FP32 square root. -/
  | fsqrt (d a : Reg)
  /-- FMIN (R223). FP32 minimum by R63. -/
  | fmin (d a b : Reg)
  /-- FMAX (R223). FP32 maximum by R63. -/
  | fmax (d a b : Reg)
  /-- FEQ (R223). FP32 equality compare writing 1 or 0. -/
  | feq (d a b : Reg)
  /-- FLT (R223). FP32 less-than compare writing 1 or 0. -/
  | flt (d a b : Reg)
  /-- FLE (R223). FP32 less-or-equal compare writing 1 or 0. -/
  | fle (d a b : Reg)
  /-- FMA (R223). Fused multiply-add sa x sb + old sd with one rounding. -/
  | fma (d a b : Reg)
  /-- FCVT_F32_I64 (R224). Converts an INT64 to FP32. -/
  | fcvtF32I64 (d a : Reg)
  /-- FCVT_I64_F32 (R224). Converts FP32 to a saturated INT64. -/
  | fcvtI64F32 (d a : Reg)
  /-- FCVT_BF16_F32 (R224). Converts FP32 to BF16. -/
  | fcvtBf16F32 (d a : Reg)
  /-- FCVT_F32_BF16 (R224). Converts BF16 to FP32 exactly. -/
  | fcvtF32Bf16 (d a : Reg)
  /-- FCLASS (R225). Writes the class, sign, integrality and exponent of an FP32 value. -/
  | fclass (d a : Reg)
  /-- FABS (R223). Clears the sign bit of an FP32 value. -/
  | fabs (d a : Reg)
  /-- FNEG (R223). Flips the sign bit of an FP32 value. -/
  | fneg (d a : Reg)
  /-- ACQ (R238). Requests a synchronisation object exclusively; sd gets GEN at grant. -/
  | acq (d a : Reg)
  /-- ACQS (R238). Requests a synchronisation object shared. -/
  | acqs (d a : Reg)
  /-- REL (R239). Releases a held synchronisation object. -/
  | rel (a : Reg)
  /-- BIND (R240). Binds a region to an object and writes a result code. -/
  | bind (d a b : Reg)
  /-- UNBIND (R240). Removes the binding whose base is sa. -/
  | unbind (d a : Reg)
  /-- WAITW (R241). Waits until a 32-bit word equals a value, then acquires at .m. -/
  | waitw (d a b : Reg)
  /-- JOIN (R242). Joins a cohort and writes the rank when the count is reached. -/
  | join (d a b : Reg)
  /-- LEAVE (R242). Withdraws the task from its cohort. -/
  | leave 
  /-- CBAR (R242). Cohort barrier among all current members. -/
  | cbar 
  /-- LOAN (R243). Declares a loan set and writes its declaration number. -/
  | loan (d a b : Reg)
  /-- LSTAT (R243). Reads the state word of a declaration or the restart and undo counts. -/
  | lstat (d a : Reg)
  /-- SPAWN (R244). Launches a TCB in the issuing task's context and writes a refusal code. -/
  | spawn (d a : Reg)
  /-- ARM (R245). Sets the dependence counter of an idle or ended TCB. -/
  | arm (d a b : Reg)
  /-- RLS (R245). Decrements a TCB's counter as a predecessor end would. -/
  | rls (d a : Reg)
  /-- TEND (R246). Ends the task: leaves cohort, releases objects, returns sets, runs deferred operations and decrements successors. -/
  | tend 
  /-- TYIELD (R247). Pre-empts the task at this point and requeues it. -/
  | tyield 
  /-- TSELF (R247). Writes the task's TCB address. -/
  | tself (d : Reg)
  /-- TAGE (R247). Writes the restart count and age stamp. -/
  | tage (d : Reg)
  /-- TLOOK (R248). Looks up a global address in the tag table. -/
  | tlook (d a : Reg)
  /-- TINS (R248). Installs a tag or advances the set's victim pointer. -/
  | tins (d a : Reg)
  /-- TDEL (R248). Deletes a tag once its PIN is clear. -/
  | tdel (d a : Reg)
  /-- XBANK (R249). Sends an in-bank transform word to a bank of the clerk's core. -/
  | xbank (a b : Reg)
  /-- ISSUE (R250). Issues the command held in a command register. -/
  | issue (k : KReg)
  /-- ISSUEX (R250). Issues a command from the command pool by index. -/
  | issuex (idx : BitVec 15)
  /-- KMOV (R250). Writes a command register from two scalar registers. -/
  | kmov (k : KReg) (a b : Reg)
  /-- KLD (R250). Loads 16 bytes into a command register. -/
  | kld (k : KReg) (a : Reg)
  /-- KST (R250). Stores a command register to memory. -/
  | kst (k : KReg) (a : Reg)
  /-- CFGLD (R251). Loads, checks and sends a folio of a configuration image. -/
  | cfgld (a b : Reg)
  /-- CFGWAIT (R251). Waits until every FE of the last folio sent is configured. -/
  | cfgwait 
  /-- WBAR (R252). Waits until a barrier has reached every sink, then acquires at .c. -/
  | wbar (a : Reg)
  /-- HWAIT (R253). Waits on a buffer handle, claims it and writes its BYTES, ERR and STATE. -/
  | hwait (d a : Reg)
  /-- HALLOC (R253). Moves a handle from FREE to FILLING. -/
  | halloc (a : Reg)
  /-- HFREE (R253). Moves a handle from FULL or DRAINING to FREE. -/
  | hfree (a : Reg)
  /-- MFS (R254). Reads a system register. -/
  | mfs (d : Reg) (n : BitVec 10)
  /-- MTS (R254). Writes a system register. -/
  | mts (n : BitVec 10) (d : Reg)
  /-- TRAP (R255). Takes a software trap 0x13 with detail n. -/
  | trap (n : BitVec 10)
  /-- TRAPRET (R320). Reissues stalled requests, re-injects the replay queue and resumes. -/
  | trapret 
  /-- TACK (R320). Unfreezes the cause registers. -/
  | tack 
  /-- HALT (R255). Stops the clerk with the task running. -/
  | halt 
  /-- WFE (R255). Waits for an event. -/
  | wfe 
  /-- NOP (R255). Does nothing. -/
  | nop 
  /-- BRK (R255). Takes a breakpoint trap 0x12. -/
  | brk 
  /-- IFENCE (R255). Waits for earlier stores and discards fetched words and the instruction cache. -/
  | ifence 
  /-- FENCE (R237). Holds issue until earlier accesses are performed at the scope in FUNC. -/
  | fence (scope : Scope)
  /-- ADDI (R219). Adds a sign-extended immediate. -/
  | addi (d a : Reg) (imm : BitVec 14)
  /-- ANDI (R219). ANDs a sign-extended immediate. -/
  | andi (d a : Reg) (imm : BitVec 14)
  /-- ORI (R219). ORs a sign-extended immediate. -/
  | ori (d a : Reg) (imm : BitVec 14)
  /-- XORI (R219). XORs a sign-extended immediate. -/
  | xori (d a : Reg) (imm : BitVec 14)
  /-- SLLI (R219). Shifts left by an immediate count. -/
  | slli (d a : Reg) (n : BitVec 6)
  /-- SRLI (R219). Shifts right logically by an immediate count. -/
  | srli (d a : Reg) (n : BitVec 6)
  /-- SRAI (R219). Shifts right arithmetically by an immediate count. -/
  | srai (d a : Reg) (n : BitVec 6)
  /-- SLTI (R219). Signed compare with an immediate. -/
  | slti (d a : Reg) (imm : BitVec 14)
  /-- SLTUI (R219). Unsigned compare with a sign-extended immediate. -/
  | sltui (d a : Reg) (imm : BitVec 14)
  /-- LUI (R220). Writes sext(IMM19) x 2^13. -/
  | lui (d : Reg) (imm : BitVec 19)
  /-- LD8 (R233). Loads a zero-extended byte. -/
  | ld8 (d a : Reg) (imm : BitVec 14)
  /-- LD16 (R233). Loads a zero-extended half. -/
  | ld16 (d a : Reg) (imm : BitVec 14)
  /-- LD32 (R233). Loads a zero-extended word. -/
  | ld32 (d a : Reg) (imm : BitVec 14)
  /-- LD64 (R233). Loads a doubleword. -/
  | ld64 (d a : Reg) (imm : BitVec 14)
  /-- LDS8 (R233). Loads a sign-extended byte. -/
  | lds8 (d a : Reg) (imm : BitVec 14)
  /-- LDS16 (R233). Loads a sign-extended half. -/
  | lds16 (d a : Reg) (imm : BitVec 14)
  /-- LDS32 (R233). Loads a sign-extended word. -/
  | lds32 (d a : Reg) (imm : BitVec 14)
  /-- ST8 (R233). Stores the low byte of sd. -/
  | st8 (a d : Reg) (imm : BitVec 14)
  /-- ST16 (R233). Stores the low half of sd. -/
  | st16 (a d : Reg) (imm : BitVec 14)
  /-- ST32 (R233). Stores the low word of sd. -/
  | st32 (a d : Reg) (imm : BitVec 14)
  /-- ST64 (R233). Stores sd. -/
  | st64 (a d : Reg) (imm : BitVec 14)
  /-- BEQ (R226). Branches if equal. -/
  | beq (a b : Reg) (off : BitVec 14)
  /-- BNE (R226). Branches if not equal. -/
  | bne (a b : Reg) (off : BitVec 14)
  /-- BLT (R226). Branches if less, signed. -/
  | blt (a b : Reg) (off : BitVec 14)
  /-- BGE (R226). Branches if greater or equal, signed. -/
  | bge (a b : Reg) (off : BitVec 14)
  /-- BLTU (R226). Branches if less, unsigned. -/
  | bltu (a b : Reg) (off : BitVec 14)
  /-- BGEU (R226). Branches if greater or equal, unsigned. -/
  | bgeu (a b : Reg) (off : BitVec 14)
  /-- JAL (R227). Jumps PC-relative and writes the link. -/
  | jal (d : Reg) (imm : BitVec 19)
  /-- JALR (R227). Jumps to a register plus offset and writes the link. -/
  | jalr (d a : Reg) (imm : BitVec 14)
  /-- AMOADD (R235). Atomic add at the home. -/
  | amoadd (d a b : Reg) (imm : BitVec 16) (o : AmoOrder)
  /-- AMOAND (R235). Atomic AND at the home. -/
  | amoand (d a b : Reg) (imm : BitVec 16) (o : AmoOrder)
  /-- AMOOR (R235). Atomic OR at the home. -/
  | amoor (d a b : Reg) (imm : BitVec 16) (o : AmoOrder)
  /-- AMOXOR (R235). Atomic XOR at the home. -/
  | amoxor (d a b : Reg) (imm : BitVec 16) (o : AmoOrder)
  /-- AMOMIN (R235). Atomic signed minimum. -/
  | amomin (d a b : Reg) (imm : BitVec 16) (o : AmoOrder)
  /-- AMOMAX (R235). Atomic signed maximum. -/
  | amomax (d a b : Reg) (imm : BitVec 16) (o : AmoOrder)
  /-- AMOMINU (R235). Atomic unsigned minimum. -/
  | amominu (d a b : Reg) (imm : BitVec 16) (o : AmoOrder)
  /-- AMOMAXU (R235). Atomic unsigned maximum. -/
  | amomaxu (d a b : Reg) (imm : BitVec 16) (o : AmoOrder)
  /-- AMOSWAP (R235). Atomic swap. -/
  | amoswap (d a b : Reg) (imm : BitVec 16) (o : AmoOrder)
  /-- AMOCAS (R235). Atomic compare and swap. -/
  | amocas (d a b c : Reg) (imm : BitVec 16) (o : AmoOrder)
  /-- AMOFADD (R235). Atomic FP32 add rounded to nearest even. -/
  | amofadd (d a b : Reg) (imm : BitVec 16) (o : AmoOrder)
  /-- LI (R221). Loads a sign-extended 32-bit literal. -/
  | li (d : Reg) (lit : Word)
  /-- LIH (R221). Replaces the high half of sd with a literal. -/
  | lih (d : Reg) (lit : Word)
  /-- ADDLI (R221). Adds a sign-extended 32-bit literal. -/
  | addli (d a : Reg) (lit : Word)
  /-- LDL (R234). Load with a 32-bit offset, width by WID. -/
  | ldl (w : LoadWidth) (d a : Reg) (lit : Word)
  /-- STL (R234). Store with a 32-bit offset, width by WID. -/
  | stl (w : StoreWidth) (a d : Reg) (lit : Word)
  -- stream commands (R209 to R211)
  /-- SREAD (R259). Emit lane reads rows of memory and emits them as tokens. -/
  | sread (p : BitVec 4) (f : ReadFields)
  /-- SWRITE (R259). Absorb lane writes arriving tokens to a row pattern. -/
  | swrite (p : BitVec 4) (f : WriteFields)
  /-- SGATHER (R260). Emit lane reads indexed elements. -/
  | sgather (p : BitVec 4) (f : GatherFields)
  /-- SSCATTER (R260). Absorb lane writes tokens to indexed elements. -/
  | sscatter (p : BitVec 4) (f : ScatterFields)
  /-- STILE (R262). Emits tile bursts described by a tile record. -/
  | stile (p : BitVec 4) (f : TileFields)
  /-- SSEGT (R263). Emits segment words of a stored segment tile. -/
  | ssegt (p : BitVec 4) (f : SegtFields)
  /-- SCFG (R264). Sends one configuration word on the row's lane. -/
  | scfg (p : BitVec 4) (r1 : Reg) (word : Dword)
  /-- SBAR (R264). Emits a barrier token, optionally with snapshot. -/
  | sbar (p : BitVec 4) (r1 : Reg) (id : Byte) (snap : Bool)
  /-- SEND (R264). Emits an end token or an error end. -/
  | send (p : BitVec 4) (r1 : Reg) (lvl : BitVec 3) (pay : Word) (err : Bool)
  /-- SCLOSE (R265). Cuts the emitting command at its next boundary of a level. -/
  | sclose (p : BitVec 4) (r1 : Reg) (lvl : BitVec 3)
  /-- SGATE_SET_PLVL (R265). Sets the port's pre-emption level. -/
  | sgateSetPlvl (p : BitVec 4) (r1 : Reg) (lvl : BitVec 3)
  /-- SGATE_GATE (R265). Stops the emit lane at its next boundary of a level. -/
  | sgateGate (p : BitVec 4) (r1 : Reg) (lvl : BitVec 3)
  /-- SGATE_UNGATE (R265). Resumes a gated emit lane. -/
  | sgateUngate (p : BitVec 4) (r1 : Reg) (lvl : BitVec 3)
  /-- SREQ (R267). Makes the port a load server answering request tokens. -/
  | sreq (p : BitVec 4) (r1 : Reg) (base : BitVec 48) (sz : BitVec 3)
  /-- CCHAIN (R268). Starts a copy chain as a CEHEAD write does. -/
  | cchain (e : BitVec 1) (r1 : Reg) (head : BitVec 48)
  /-- CABORT (R268). Aborts the current copy record as a CECTL ABORT does. -/
  | cabort (e : BitVec 1)
  /-- MLOAD (R276). Fills the shadow plane from a burst or a direct tile read. -/
  | mload (e : BitVec 1) (f : LoadFields)
  /-- MSWAP (R277). Exchanges the active and shadow planes. -/
  | mswap (e : BitVec 1)
  /-- MDENSE (R285). Dense product of 64 A rows against the active plane. -/
  | mdense (e : BitVec 1) (f : ProductFields)
  /-- MSEG (R287). Segment product against a sum-table plane. -/
  | mseg (e : BitVec 1) (r2 : Reg) (kb : Half) (trec : BitVec 43) (f : ProductFields)
  /-- MBATCH (R291). Sixteen independent small dense products. -/
  | mbatch (e : BitVec 1) (f : ProductFields)
  /-- MGATHER (R292). Product of gathered rows committed to named target rows. -/
  | mgather (e : BitVec 1) (desc : BitVec 19) (f : ProductFields)
  /-- MDRAIN (R293). Converts and emits accumulator rows on the drain port. -/
  | mdrain (e : BitVec 1) (f : DrainFields)
  /-- MZERO (R280). Sets accumulator columns EMPTY. -/
  | mzero (e : BitVec 1) (r1 : Reg) (n : Half) (bank : Bool)
  /-- MBANK_CLAIM (R279). Takes the other physical bank as the context's second bank. -/
  | mbankClaim (e : BitVec 1)
  /-- MBANK_RELEASE (R279). Gives up the context's second bank. -/
  | mbankRelease (e : BitVec 1)
  /-- MSPILL (R281). Writes a bank image to memory. -/
  | mspill (e : BitVec 1) (addr : BitVec 42) (bank : Bool)
  /-- MFILL (R281). Reads a bank image into a bank. -/
  | mfill (e : BitVec 1) (addr : BitVec 42) (bank : Bool)
  /-- MSTAT (R295). Writes the engine's status record. -/
  | mstat (e : BitVec 1) (r1 : Reg) (addr : BitVec 42) (clr : Bool) (seq : Word)
  /-- TMATCH (R303). Matches tokens by key similarity into a concordance. -/
  | tmatch (r1 : Reg) (slot : BitVec 4) (desc : BitVec 19) (num : BitVec 10)
  /-- TMERGE (R307). Averages value rows over a concordance. -/
  | tmerge (r1 : Reg) (slot : BitVec 4) (num : BitVec 10) (vf : Bool)
  /-- TLOGSZ (R308). Emits the log of each merged token's size. -/
  | tlogsz (slot : BitVec 4) (b2 : Bool)
  /-- TUNMERGE (R307). Restores the original token count by copying merged rows. -/
  | tunmerge (r1 : Reg) (slot : BitVec 4) (num : BitVec 10) (vf : Bool)
  /-- TCOMPOSE (R309). Composes two concordances into one. -/
  | tcompose (slot sla slb : BitVec 4)
  /-- TSAVE (R310). Writes a slot as a concordance image. -/
  | tsave (slot : BitVec 4) (addr : BitVec 42)
  /-- TLOAD (R310). Reads a concordance image into a slot. -/
  | tload (slot : BitVec 4) (addr : BitVec 42)
  /-- TFREE (R310). Discards a slot's contents. -/
  | tfree (slot : BitVec 4)
  /-- TSTAT (R311). Writes the TMU status record. -/
  | tstat (r1 : Reg) (addr : BitVec 42) (seq : Word)
  -- the machine's own steps
  /-- ASYNC_RESULT_WRITE (R200). An asynchronous result arrives, is written and its presence bit set. -/
  | asyncResultWrite (k : Nat)
  /-- ACCESS_PERFORM (R93). An access takes effect at its home. -/
  | accessPerform (r : ReqRef)
  /-- BANK_ACCESS (R37). The bank arbiter takes one 64-byte block access. -/
  | bankAccess (r : ReqRef)
  /-- ATOMIC_PERFORM (R116). An atomic is performed at its home. -/
  | atomicPerform (r : ReqRef)
  /-- BANK_TRANSFORM (R56). An in-bank transform is performed whole at its bank. -/
  | bankTransform (r : ReqRef)
  /-- COMPRESSED_TILE_ACCESS (R49). A tile access to a compressed page is performed whole at its home core. -/
  | compressedTileAccess (r : ReqRef)
  /-- PAGE_LAYOUT_DONE (R50). The layout completes, LOCK clears and waiting accesses proceed. -/
  | pageLayoutDone (t : BitVec 6)
  /-- PAGE_WALK_END (R32). A walk fills the TLBs or delivers its fault to every joined requester. -/
  | pageWalkEnd (k : Nat)
  /-- TDEL_PERFORM (R41). A waiting tdel clears V once PIN reads 0. -/
  | tdelPerform (k : Nat)
  /-- OBJECT_REQUEST (R107). An acq or acqs request arrives at the object's home and queues or is granted. -/
  | objectRequest (q : ObjectReq)
  /-- OBJECT_RELEASE (R239). A rel is performed at the home, lowering HOLD. -/
  | objectRelease (q : ObjectRel)
  /-- RECALL_ROLLBACK (R123). After draining, the undo log is replayed, sets returned and the task restarted. -/
  | recallRollback (t : TaskKey)
  /-- DISPATCH (R152). The desk hands eligible tasks to free cores. -/
  | dispatch (wing : BitVec 3)
  /-- QUANTUM_PREEMPT (R152). A task that has run its quantum is pre-empted for a higher task. -/
  | quantumPreempt (core : Nat)
  /-- PARTITION_SWAP_DONE (R328). Saved states reach shadow storage and PARTCUR takes the new value. -/
  | partitionSwapDone (p : BitVec 4)
  /-- TOKEN_HOP (R157). A token advances one hop into a free place. -/
  | tokenHop (row col : Nat) (dir : Dir) (trk : BitVec 2)
  /-- MAP_FIRE (R182). A MAP operator fires on one element. -/
  | mapFire (row col : Nat)
  /-- SFN_FIRE (R184). An SFN operator computes a correctly rounded function. -/
  | sfnFire (row col : Nat)
  /-- RED_FIRE (R185). A RED operator folds tokens into its partial. -/
  | redFire (row col : Nat)
  /-- STEER_FIRE (R186). A STEER sends a token to one of two outputs. -/
  | steerFire (row col : Nat)
  /-- MERGE_FIRE (R187). A MERGE takes one token from one input. -/
  | mergeFire (row col : Nat)
  /-- CARRY_FIRE (R188). A CARRY moves a loop group into the body or out. -/
  | carryFire (row col : Nat)
  /-- GEN_EMIT (R189). A GEN emits the next token of its sweep. -/
  | genEmit (row col : Nat)
  /-- MEM_FIRE (R191). A MEM operator sends a memory request or writes an exit entry. -/
  | memFire (row col : Nat)
  /-- MEM_RESPONSE (R110). A MEM or lane response returns in request order to its consumer. -/
  | memResponse (k : Nat)
  /-- SEG_FIRE (R193). A SEG codes a buffered K-block into segment words. -/
  | segFire (row col : Nat)
  /-- SHUF_FIRE (R194). A SHUF operator fires on its window, permutation or transpose. -/
  | shufFire (row col : Nat)
  /-- CONV_FIRE (R195). A CONV operator converts, expands or compresses. -/
  | convFire (row col : Nat)
  /-- FORK_FIRE (R196). A FORK copies or aligns tokens to its outputs. -/
  | forkFire (row col : Nat)
  /-- END_TOKEN_ALIGN (R159). End tokens at every rated input are consumed and one is emitted. -/
  | endTokenAlign (row col : Nat)
  /-- ERROR_END_PASS (R159). An error end passes at once and other inputs are discarded. -/
  | errorEndPass (row col : Nat)
  /-- BARRIER_ALIGN (R160). A barrier present on every barrier input is forwarded. -/
  | barrierAlign (row col : Nat)
  /-- FE_CONFIG_APPLY (R166). A quiet FE applies its waiting configuration words. -/
  | feConfigApply (row col : Nat)
  /-- FE_GO_LIVE (R167). An FE goes live when its ramp delay elapses. -/
  | feGoLive (row col : Nat)
  /-- FOLIO_CHANGE (R137). A drained folio is replaced by the scheduler's choice. -/
  | folioChange 
  /-- LANE_EMIT_TOKEN (R256). An emit lane sends one token east when every run has room. -/
  | laneEmitToken (p : BitVec 4)
  /-- LANE_ABSORB_TOKEN (R256). An absorb lane takes one token from its runs. -/
  | laneAbsorbToken (p : BitVec 4)
  /-- LANE_COMMAND_COMPLETE (R256). A lane's command completes and the lane takes its next command. -/
  | laneCommandComplete (p : BitVec 4) (absorb : Bool)
  /-- HANDLE_CLAIM (R261). A waiting claim finds the handle FULL and moves it to DRAINING. -/
  | handleClaim (p : BitVec 4)
  /-- ME_A_TOKEN (R283). An A channel takes a token of a product row. -/
  | meAToken (e : BitVec 1) (ch : BitVec 3)
  /-- ME_PLANE_TOKEN (R276). The plane port takes a tile burst token, end or barrier. -/
  | mePlaneToken (e : BitVec 1)
  /-- ME_PRODUCT_COMMIT (R283). A block's computation ends and every cell is committed at once. -/
  | meProductCommit (e : BitVec 1)
  /-- ME_COMMAND_COMPLETE (R274). An engine command completes and the next may begin. -/
  | meCommandComplete (e : BitVec 1)
  /-- TMU_IN_TOKEN (R298). tmu.in takes a row token, end or barrier. -/
  | tmuInToken 
  /-- TMU_COMMAND_COMPLETE (R299). A TMU command completes and commits its result. -/
  | tmuCommandComplete 
  /-- COPY_RECORD_READ (R83). A channel reads and checks its next record. -/
  | copyRecordRead (e : BitVec 1)
  /-- COPY_HANDLE_READY (R83). A record waiting in STATE 3 finds its handle FILLING and starts. -/
  | copyHandleReady (e : BitVec 1)
  /-- COPY_RECORD_COMPLETE (R83). Payload done; completion word, handle update and word-0 write-back follow. -/
  | copyRecordComplete (e : BitVec 1)
  /-- COPY_RECORD_STOP (R86). A record ends with a nonzero status and the channel stops. -/
  | copyRecordStop (e : BitVec 1)
  /-- COPY_BOUNDARY_STOP (R87). A channel stops at a 128-byte boundary for pre-emption, kill or recall; it first makes up
  to `n` accesses towards that boundary. -/
  | copyBoundaryStop (e : BitVec 1) (n : Nat)
  /-- CLOCK_CHANGE_EFFECT (R343). The new wing clock takes effect. -/
  | clockChangeEffect (wing : BitVec 3)
  -- steps that events outside the core ask for, and those that name no agent
  /-- MEMORY_TIMEOUT (R330). A request reaches 2^MTO cycles and is abandoned. -/
  | memoryTimeout (r : ReqRef)
  /-- HOST_REQUEST (R103). A host-die request over UCIe is taken. -/
  | hostRequest (q : HostReq)
  /-- LAUNCH (R148). A LAUNCH write checks a TCB and arms or enqueues it. -/
  | launch (wing : BitVec 3) (v : Dword)
  /-- LAUNCHST_READ (R147). A read of LAUNCHST returns the last refusal and clears it. -/
  | launchstRead (wing : BitVec 3)
  /-- DESKCTL_WRITE (R151). Sets the aging period and quantum, ignoring invalid writes. -/
  | deskctlWrite (wing : BitVec 3) (v : Dword)
  /-- FAULTEND (R362). A FAULTEND write ends a running or pre-empted task as FAULTED. -/
  | faultend (wing : BitVec 3) (v : Dword) (part : Option (BitVec 4))
  /-- PARTITION_SWAP (R328). A PARTCUR write starts pre-empting every core of the partition. -/
  | partitionSwap (p : BitVec 4) (v : Dword)
  /-- PARTCUR_CLEAR_ERROR (R328). Writing 1 to PARTCUR ERR clears it. -/
  | partcurClearError (p : BitVec 4)
  /-- SPCTL_UNSEAL (R270). Writing UNSEAL ends a port's seal. -/
  | spctlUnseal (p : BitVec 4)
  /-- MESEAL_END (R296). Writing 1 to MESEAL ends the engine's seal. -/
  | mesealEnd (e : BitVec 1)
  /-- CE_CHAIN_START (R81). A CEHEAD write starts a copy chain. -/
  | ceChainStart (e : BitVec 1) (head : Dword)
  /-- CE_CLEAR_ERROR (R80). CECTL CLR clears the channel's ERR. -/
  | ceClearError (e : BitVec 1)
  /-- CE_ABORT (R81). CECTL ABORT ends the current record with status 0x0A. -/
  | ceAbort (e : BitVec 1)
  /-- CE_RESUME (R81). CECTL RESUME continues a resumably stopped record. -/
  | ceResume (e : BitVec 1)
  /-- CE_KICK (R81). CECTL KICK makes an idle channel look for work. -/
  | ceKick (e : BitVec 1)
  /-- NVME_WRITE_COMPLETE (R341). The controller reports an NVMe write complete. -/
  | nvmeWriteComplete (e : BitVec 1) (good : Bool)
  /-- XINV_WRITE (R33). A write to XINV clears matching TLB entries everywhere. -/
  | xinvWrite (v : Dword)
  /-- CTXKILL_GO (R90). A GO write starts killing a context's copy work. -/
  | ctxkillGo (ctx : BitVec 12)
  /-- TAGCFG_WRITE (R38). A TAGCFG write sets the geometry and clears every tag. -/
  | tagcfgWrite (v : Dword)
  /-- CPDESC_WRITE (R44). A CPDESC write creates, resizes or invalidates a compressed page. -/
  | cpdescWrite (t : BitVec 6) (v : Dword)
  /-- OWNREQ_REQUEST (R335). A master enters or withdraws its ownership request. -/
  | ownreqRequest (m : BitVec 2) (enter : Bool)
  /-- OWNREQ_CLRERR (R335). CLRERR clears OWNSTAT.ERR. -/
  | ownreqClrerr (m : BitVec 2)
  /-- OWNPASS (R336). The owner passes or gives up ownership. -/
  | ownpass (m : BitVec 2) (v : BitVec 4)
  /-- MASTER_LINK_DOWN (R336). A master's link goes down and it loses ownership. -/
  | masterLinkDown (m : BitVec 2)
  /-- WPWR_WRITE (R343). A WPWR write requests a new wing clock. -/
  | wpwrWrite (wing : BitVec 3) (code : BitVec 2)
  /-- POWER_LIMIT_STEP_DOWN (R343). While draw exceeds PWRLIM, every wing steps down one clock code. -/
  | powerLimitStepDown (draw : Nat)
  /-- BOOT_FIRMWARE_CHECK (R342). The boot ROM checks the firmware signature at reset. -/
  | bootFirmwareCheck (good : Bool)
  /-- ECCSTAT_READ (R333). A read of ECCSTAT returns the counts and clears them. -/
  | eccstatRead (wing : BitVec 3)
  /-- SPAN_FLIT_RECEIVE (R337). A Span flit is received and checked, replayed on CRC failure. -/
  | spanFlitReceive (port : BitVec 5) (good : Bool)
  /-- SPAN_PORT_TRAIN (R337). A Span port trains at 8 or 4 lanes. -/
  | spanPortTrain (port : BitVec 5) (lanes8 : Bool)
  /-- CONTROL_REGISTER_WRITE (R22). A write to a control register with no behaviour of its own. -/
  | controlRegisterWrite (off : Nat) (wide : Bool) (v : Dword)
  /-- ASYNC_TRAP (R318). A pending asynchronous cause is taken before the next issue. -/
  | asyncTrap 
  /-- WFE_WAKE (R255). An event ends a pending wfe. -/
  | wfeWake 
  /-- WATCHDOG_EXPIRY (R330). The watchdog count reaches 2^WDG and the clerk takes 0x15. -/
  | watchdogExpiry 
  /-- PREEMPT_SAVE (R326). Once the tree reports empty, the task's state is saved to shadow storage. -/
  | preemptSave 
  /-- PREEMPTION_TIMEOUT (R325). PTIMEOUT expires, the pre-emption is abandoned and 0x15 taken. -/
  | preemptionTimeout 
  /-- CORERST_DHALT (R321). Writing DHALT clears a halted core and frees it. -/
  | corerstDhalt 
  /-- TMSEAL_END (R312). Writing 1 to TMSEAL ends the TMU seal. -/
  | tmsealEnd 
  /-- XINV_COMPLETE (R33). BUSY returns to 0 once accesses of cleared entries are performed. -/
  | xinvComplete 
  /-- XINVSTAT_CLEAR_ERROR (R33). Writing 1 to XINVSTAT ERR clears it. -/
  | xinvstatClearError 
  /-- CTXKILL_DONE (R90). DONE rises once every engine write for the context is performed. -/
  | ctxkillDone 
  /-- CTXKILL_CLEAR_ERROR (R90). Writing 1 to CTXKILL ERR clears it. -/
  | ctxkillClearError 
  /-- OWNERSHIP_GRANT (R336). With no owner, the lowest pending master becomes owner. -/
  | ownershipGrant 
  /-- ATTESTATION_REQUEST (R342). A write to 0x1040 starts an attestation report. -/
  | attestationRequest 
  /-- ATTESTATION_REPORT_DONE (R342). The report and signature are written and 0x1048 set. -/
  | attestationReportDone 
  /-- NI_MESSAGE_SEND (R331). The network interface admits a whole message's head flit. -/
  | niMessageSend 
  /-- NI_MESSAGE_DELIVER (R331). A receiver delivers a wholly received message. -/
  | niMessageDeliver 
  /-- DEBUG_INTERFACE_RESUME (R255). The debug interface brings a clerk out of the halt that halt entered. -/
  | debugInterfaceResume 
  deriving DecidableEq, Repr

/-- The constructors of the table's third part: steps that other agents take. -/
def Instr.isStep : Instr → Bool
  | .asyncResultWrite _ => true
  | .asyncTrap => true
  | .wfeWake => true
  | .accessPerform _ => true
  | .bankAccess _ => true
  | .atomicPerform _ => true
  | .bankTransform _ => true
  | .compressedTileAccess _ => true
  | .pageLayoutDone _ => true
  | .pageWalkEnd _ => true
  | .tdelPerform _ => true
  | .memoryTimeout _ => true
  | .watchdogExpiry => true
  | .hostRequest _ => true
  | .objectRequest _ => true
  | .objectRelease _ => true
  | .recallRollback _ => true
  | .launch _ _ => true
  | .launchstRead _ => true
  | .deskctlWrite _ _ => true
  | .dispatch _ => true
  | .quantumPreempt _ => true
  | .preemptSave => true
  | .preemptionTimeout => true
  | .faultend _ _ _ => true
  | .partitionSwap _ _ => true
  | .partitionSwapDone _ => true
  | .partcurClearError _ => true
  | .corerstDhalt => true
  | .tokenHop _ _ _ _ => true
  | .mapFire _ _ => true
  | .sfnFire _ _ => true
  | .redFire _ _ => true
  | .steerFire _ _ => true
  | .mergeFire _ _ => true
  | .carryFire _ _ => true
  | .genEmit _ _ => true
  | .memFire _ _ => true
  | .memResponse _ => true
  | .segFire _ _ => true
  | .shufFire _ _ => true
  | .convFire _ _ => true
  | .forkFire _ _ => true
  | .endTokenAlign _ _ => true
  | .errorEndPass _ _ => true
  | .barrierAlign _ _ => true
  | .feConfigApply _ _ => true
  | .feGoLive _ _ => true
  | .folioChange => true
  | .laneEmitToken _ => true
  | .laneAbsorbToken _ => true
  | .laneCommandComplete _ _ => true
  | .handleClaim _ => true
  | .spctlUnseal _ => true
  | .meAToken _ _ => true
  | .mePlaneToken _ => true
  | .meProductCommit _ => true
  | .meCommandComplete _ => true
  | .mesealEnd _ => true
  | .tmuInToken => true
  | .tmuCommandComplete => true
  | .tmsealEnd => true
  | .ceChainStart _ _ => true
  | .ceClearError _ => true
  | .ceAbort _ => true
  | .ceResume _ => true
  | .ceKick _ => true
  | .copyRecordRead _ => true
  | .copyHandleReady _ => true
  | .copyRecordComplete _ => true
  | .copyRecordStop _ => true
  | .copyBoundaryStop _ _ => true
  | .xinvWrite _ => true
  | .xinvComplete => true
  | .xinvstatClearError => true
  | .ctxkillGo _ => true
  | .ctxkillDone => true
  | .ctxkillClearError => true
  | .tagcfgWrite _ => true
  | .cpdescWrite _ _ => true
  | .ownreqRequest _ _ => true
  | .ownreqClrerr _ => true
  | .ownpass _ _ => true
  | .ownershipGrant => true
  | .masterLinkDown _ => true
  | .wpwrWrite _ _ => true
  | .clockChangeEffect _ => true
  | .powerLimitStepDown _ => true
  | .attestationRequest => true
  | .attestationReportDone => true
  | .bootFirmwareCheck _ => true
  | .eccstatRead _ => true
  | .spanFlitReceive _ _ => true
  | .spanPortTrain _ _ => true
  | .nvmeWriteComplete _ _ => true
  | .niMessageSend => true
  | .niMessageDeliver => true
  | .controlRegisterWrite _ _ _ => true
  | .debugInterfaceResume => true
  | .add _ _ _ => false
  | .sub _ _ _ => false
  | .mul _ _ _ => false
  | .mulh _ _ _ => false
  | .mulhu _ _ _ => false
  | .div _ _ _ => false
  | .divu _ _ _ => false
  | .rem _ _ _ => false
  | .remu _ _ _ => false
  | .and _ _ _ => false
  | .or _ _ _ => false
  | .xor _ _ _ => false
  | .andn _ _ _ => false
  | .orn _ _ _ => false
  | .sll _ _ _ => false
  | .srl _ _ _ => false
  | .sra _ _ _ => false
  | .rol _ _ _ => false
  | .ror _ _ _ => false
  | .min _ _ _ => false
  | .max _ _ _ => false
  | .minu _ _ _ => false
  | .maxu _ _ _ => false
  | .seq _ _ _ => false
  | .sne _ _ _ => false
  | .slt _ _ _ => false
  | .sltu _ _ _ => false
  | .sle _ _ _ => false
  | .sleu _ _ _ => false
  | .clz _ _ => false
  | .ctz _ _ => false
  | .popc _ _ => false
  | .sext8 _ _ => false
  | .sext16 _ _ => false
  | .sext32 _ _ => false
  | .zext32 _ _ => false
  | .bswap _ _ => false
  | .fadd _ _ _ => false
  | .fsub _ _ _ => false
  | .fmul _ _ _ => false
  | .fdiv _ _ _ => false
  | .fsqrt _ _ => false
  | .fmin _ _ _ => false
  | .fmax _ _ _ => false
  | .feq _ _ _ => false
  | .flt _ _ _ => false
  | .fle _ _ _ => false
  | .fma _ _ _ => false
  | .fcvtF32I64 _ _ => false
  | .fcvtI64F32 _ _ => false
  | .fcvtBf16F32 _ _ => false
  | .fcvtF32Bf16 _ _ => false
  | .fclass _ _ => false
  | .fabs _ _ => false
  | .fneg _ _ => false
  | .acq _ _ => false
  | .acqs _ _ => false
  | .rel _ => false
  | .bind _ _ _ => false
  | .unbind _ _ => false
  | .waitw _ _ _ => false
  | .join _ _ _ => false
  | .leave => false
  | .cbar => false
  | .loan _ _ _ => false
  | .lstat _ _ => false
  | .spawn _ _ => false
  | .arm _ _ _ => false
  | .rls _ _ => false
  | .tend => false
  | .tyield => false
  | .tself _ => false
  | .tage _ => false
  | .tlook _ _ => false
  | .tins _ _ => false
  | .tdel _ _ => false
  | .xbank _ _ => false
  | .issue _ => false
  | .issuex _ => false
  | .kmov _ _ _ => false
  | .kld _ _ => false
  | .kst _ _ => false
  | .cfgld _ _ => false
  | .cfgwait => false
  | .wbar _ => false
  | .hwait _ _ => false
  | .halloc _ => false
  | .hfree _ => false
  | .mfs _ _ => false
  | .mts _ _ => false
  | .trap _ => false
  | .trapret => false
  | .tack => false
  | .halt => false
  | .wfe => false
  | .nop => false
  | .brk => false
  | .ifence => false
  | .fence _ => false
  | .addi _ _ _ => false
  | .andi _ _ _ => false
  | .ori _ _ _ => false
  | .xori _ _ _ => false
  | .slli _ _ _ => false
  | .srli _ _ _ => false
  | .srai _ _ _ => false
  | .slti _ _ _ => false
  | .sltui _ _ _ => false
  | .lui _ _ => false
  | .ld8 _ _ _ => false
  | .ld16 _ _ _ => false
  | .ld32 _ _ _ => false
  | .ld64 _ _ _ => false
  | .lds8 _ _ _ => false
  | .lds16 _ _ _ => false
  | .lds32 _ _ _ => false
  | .st8 _ _ _ => false
  | .st16 _ _ _ => false
  | .st32 _ _ _ => false
  | .st64 _ _ _ => false
  | .beq _ _ _ => false
  | .bne _ _ _ => false
  | .blt _ _ _ => false
  | .bge _ _ _ => false
  | .bltu _ _ _ => false
  | .bgeu _ _ _ => false
  | .jal _ _ => false
  | .jalr _ _ _ => false
  | .amoadd _ _ _ _ _ => false
  | .amoand _ _ _ _ _ => false
  | .amoor _ _ _ _ _ => false
  | .amoxor _ _ _ _ _ => false
  | .amomin _ _ _ _ _ => false
  | .amomax _ _ _ _ _ => false
  | .amominu _ _ _ _ _ => false
  | .amomaxu _ _ _ _ _ => false
  | .amoswap _ _ _ _ _ => false
  | .amocas _ _ _ _ _ _ => false
  | .amofadd _ _ _ _ _ => false
  | .li _ _ => false
  | .lih _ _ => false
  | .addli _ _ _ => false
  | .ldl _ _ _ _ => false
  | .stl _ _ _ _ => false
  | .sread _ _ => false
  | .swrite _ _ => false
  | .sgather _ _ => false
  | .sscatter _ _ => false
  | .stile _ _ => false
  | .ssegt _ _ => false
  | .scfg _ _ _ => false
  | .sbar _ _ _ _ => false
  | .send _ _ _ _ _ => false
  | .sclose _ _ _ => false
  | .sgateSetPlvl _ _ _ => false
  | .sgateGate _ _ _ => false
  | .sgateUngate _ _ _ => false
  | .sreq _ _ _ _ => false
  | .cchain _ _ _ => false
  | .cabort _ => false
  | .mload _ _ => false
  | .mswap _ => false
  | .mdense _ _ => false
  | .mseg _ _ _ _ _ => false
  | .mbatch _ _ => false
  | .mgather _ _ _ => false
  | .mdrain _ _ => false
  | .mzero _ _ _ _ => false
  | .mbankClaim _ => false
  | .mbankRelease _ => false
  | .mspill _ _ _ => false
  | .mfill _ _ _ => false
  | .mstat _ _ _ _ _ => false
  | .tmatch _ _ _ _ => false
  | .tmerge _ _ _ _ => false
  | .tlogsz _ _ => false
  | .tunmerge _ _ _ _ => false
  | .tcompose _ _ _ => false
  | .tsave _ _ => false
  | .tload _ _ => false
  | .tfree _ => false
  | .tstat _ _ _ => false

end Sys2Proof
end

