-- ==== Sys2Proof/WellFormed.lean ====
section
/-! DEFINITION. Well-formed instructions: those that an encoding of R197 to R211 can name, and steps whose
coordinates and sizes exist. -/

namespace Sys2Proof

/-- The system register numbers that this generation implements (R207). -/
def sysRegs : List Nat := [0x000, 0x001, 0x010, 0x011, 0x020, 0x100, 0x101, 0x102, 0x103, 0x104, 0x105]

/-- A coordinate of the physical grid: rows 1 to 16, columns 1 to 17 (R4, R170). -/
def gridCoord (row col : Nat) : Bool := 1 ≤ row && row ≤ 16 && 1 ≤ col && col ≤ 17

/-- A coordinate of the physical frame: rows 0 to 17, columns 0 to 18, corners excluded (R4, R172). -/
def frameCoord (row col : Nat) : Bool :=
  row ≤ 17 && col ≤ 18 && !((row == 0 || row == 17) && (col == 0 || col == 18))

def HostReq.wf : HostReq → Bool
  | .readMem _ _ n => n == 1 || n == 2 || n == 4 || n == 8
  | .writeMem _ _ n _ => n == 1 || n == 2 || n == 4 || n == 8
  | _ => true

def Instr.wf : Instr → Bool
  | .add _ _ _ => true
  | .sub _ _ _ => true
  | .mul _ _ _ => true
  | .mulh _ _ _ => true
  | .mulhu _ _ _ => true
  | .div _ _ _ => true
  | .divu _ _ _ => true
  | .rem _ _ _ => true
  | .remu _ _ _ => true
  | .and _ _ _ => true
  | .or _ _ _ => true
  | .xor _ _ _ => true
  | .andn _ _ _ => true
  | .orn _ _ _ => true
  | .sll _ _ _ => true
  | .srl _ _ _ => true
  | .sra _ _ _ => true
  | .rol _ _ _ => true
  | .ror _ _ _ => true
  | .min _ _ _ => true
  | .max _ _ _ => true
  | .minu _ _ _ => true
  | .maxu _ _ _ => true
  | .seq _ _ _ => true
  | .sne _ _ _ => true
  | .slt _ _ _ => true
  | .sltu _ _ _ => true
  | .sle _ _ _ => true
  | .sleu _ _ _ => true
  | .clz _ _ => true
  | .ctz _ _ => true
  | .popc _ _ => true
  | .sext8 _ _ => true
  | .sext16 _ _ => true
  | .sext32 _ _ => true
  | .zext32 _ _ => true
  | .bswap _ _ => true
  | .fadd _ _ _ => true
  | .fsub _ _ _ => true
  | .fmul _ _ _ => true
  | .fdiv _ _ _ => true
  | .fsqrt _ _ => true
  | .fmin _ _ _ => true
  | .fmax _ _ _ => true
  | .feq _ _ _ => true
  | .flt _ _ _ => true
  | .fle _ _ _ => true
  | .fma _ _ _ => true
  | .fcvtF32I64 _ _ => true
  | .fcvtI64F32 _ _ => true
  | .fcvtBf16F32 _ _ => true
  | .fcvtF32Bf16 _ _ => true
  | .fclass _ _ => true
  | .fabs _ _ => true
  | .fneg _ _ => true
  | .acq _ _ => true
  | .acqs _ _ => true
  | .rel _ => true
  | .bind _ _ _ => true
  | .unbind _ _ => true
  | .waitw _ _ _ => true
  | .join _ _ _ => true
  | .leave => true
  | .cbar => true
  | .loan _ _ _ => true
  | .lstat _ _ => true
  | .spawn _ _ => true
  | .arm _ _ _ => true
  | .rls _ _ => true
  | .tend => true
  | .tyield => true
  | .tself _ => true
  | .tage _ => true
  | .tlook _ _ => true
  | .tins _ _ => true
  | .tdel _ _ => true
  | .xbank _ _ => true
  | .issue _ => true
  | .issuex _ => true
  | .kmov _ _ _ => true
  | .kld _ _ => true
  | .kst _ _ => true
  | .cfgld _ _ => true
  | .cfgwait => true
  | .wbar _ => true
  | .hwait _ _ => true
  | .halloc _ => true
  | .hfree _ => true
  | .mfs _ n => sysRegs.contains n.toNat
  | .mts n _ => sysRegs.contains n.toNat
  | .trap _ => true
  | .trapret => true
  | .tack => true
  | .halt => true
  | .wfe => true
  | .nop => true
  | .brk => true
  | .ifence => true
  | .fence _ => true
  | .addi _ _ _ => true
  | .andi _ _ _ => true
  | .ori _ _ _ => true
  | .xori _ _ _ => true
  | .slli _ _ _ => true
  | .srli _ _ _ => true
  | .srai _ _ _ => true
  | .slti _ _ _ => true
  | .sltui _ _ _ => true
  | .lui _ _ => true
  | .ld8 _ _ _ => true
  | .ld16 _ _ _ => true
  | .ld32 _ _ _ => true
  | .ld64 _ _ _ => true
  | .lds8 _ _ _ => true
  | .lds16 _ _ _ => true
  | .lds32 _ _ _ => true
  | .st8 _ _ _ => true
  | .st16 _ _ _ => true
  | .st32 _ _ _ => true
  | .st64 _ _ _ => true
  | .beq _ _ _ => true
  | .bne _ _ _ => true
  | .blt _ _ _ => true
  | .bge _ _ _ => true
  | .bltu _ _ _ => true
  | .bgeu _ _ _ => true
  | .jal _ _ => true
  | .jalr _ _ _ => true
  | .amoadd _ _ _ _ _ => true
  | .amoand _ _ _ _ _ => true
  | .amoor _ _ _ _ _ => true
  | .amoxor _ _ _ _ _ => true
  | .amomin _ _ _ _ _ => true
  | .amomax _ _ _ _ _ => true
  | .amominu _ _ _ _ _ => true
  | .amomaxu _ _ _ _ _ => true
  | .amoswap _ _ _ _ _ => true
  | .amocas _ _ _ _ _ _ => true
  | .amofadd _ _ _ _ o => !o.wide
  | .li _ _ => true
  | .lih _ _ => true
  | .addli _ _ _ => true
  | .ldl _ _ _ _ => true
  | .stl _ _ _ _ => true
  | .sread _ _ => true
  | .swrite _ _ => true
  | .sgather _ _ => true
  | .sscatter _ _ => true
  | .stile _ _ => true
  | .ssegt _ _ => true
  | .scfg _ _ _ => true
  | .sbar _ _ _ _ => true
  | .send _ _ _ _ _ => true
  | .sclose _ _ _ => true
  | .sgateSetPlvl _ _ _ => true
  | .sgateGate _ _ _ => true
  | .sgateUngate _ _ _ => true
  | .sreq _ _ _ _ => true
  | .cchain _ _ _ => true
  | .cabort _ => true
  | .mload _ _ => true
  | .mswap _ => true
  | .mdense _ _ => true
  | .mseg _ _ _ trec f => f.src || trec == 0
  | .mbatch _ _ => true
  | .mgather _ _ _ => true
  | .mdrain _ _ => true
  | .mzero _ _ _ _ => true
  | .mbankClaim _ => true
  | .mbankRelease _ => true
  | .mspill _ _ _ => true
  | .mfill _ _ _ => true
  | .mstat _ _ _ _ _ => true
  | .tmatch _ _ _ _ => true
  | .tmerge _ _ _ _ => true
  | .tlogsz _ _ => true
  | .tunmerge _ _ _ _ => true
  | .tcompose _ _ _ => true
  | .tsave _ _ => true
  | .tload _ _ => true
  | .tfree _ => true
  | .tstat _ _ _ => true
  | .asyncResultWrite _ => true
  | .asyncTrap => true
  | .wfeWake => true
  | .accessPerform _ => true
  | .bankAccess _ => true
  | .atomicPerform _ => true
  | .bankTransform _ => true
  | .compressedTileAccess _ => true
  | .pageLayoutDone _ => true
  | .pageWalkEnd _ => true
  | .tdelPerform _ => true
  | .memoryTimeout _ => true
  | .watchdogExpiry => true
  | .hostRequest q => q.wf
  | .objectRequest _ => true
  | .objectRelease _ => true
  | .recallRollback _ => true
  | .launch _ _ => true
  | .launchstRead _ => true
  | .deskctlWrite _ _ => true
  | .dispatch _ => true
  | .quantumPreempt _ => true
  | .preemptSave => true
  | .preemptionTimeout => true
  | .faultend _ _ _ => true
  | .partitionSwap _ _ => true
  | .partitionSwapDone _ => true
  | .partcurClearError _ => true
  | .corerstDhalt => true
  | .tokenHop r c _ _ => frameCoord r c
  | .mapFire r c => gridCoord r c
  | .sfnFire r c => gridCoord r c
  | .redFire r c => gridCoord r c
  | .steerFire r c => gridCoord r c
  | .mergeFire r c => gridCoord r c
  | .carryFire r c => gridCoord r c
  | .genEmit r c => gridCoord r c
  | .memFire r c => gridCoord r c
  | .memResponse _ => true
  | .segFire r c => gridCoord r c
  | .shufFire r c => gridCoord r c
  | .convFire r c => gridCoord r c
  | .forkFire r c => gridCoord r c
  | .endTokenAlign r c => gridCoord r c
  | .errorEndPass r c => gridCoord r c
  | .barrierAlign r c => gridCoord r c
  | .feConfigApply r c => gridCoord r c
  | .feGoLive r c => gridCoord r c
  | .folioChange => true
  | .laneEmitToken _ => true
  | .laneAbsorbToken _ => true
  | .laneCommandComplete _ _ => true
  | .handleClaim _ => true
  | .spctlUnseal _ => true
  | .meAToken _ _ => true
  | .mePlaneToken _ => true
  | .meProductCommit _ => true
  | .meCommandComplete _ => true
  | .mesealEnd _ => true
  | .tmuInToken => true
  | .tmuCommandComplete => true
  | .tmsealEnd => true
  | .ceChainStart _ _ => true
  | .ceClearError _ => true
  | .ceAbort _ => true
  | .ceResume _ => true
  | .ceKick _ => true
  | .copyRecordRead _ => true
  | .copyHandleReady _ => true
  | .copyRecordComplete _ => true
  | .copyRecordStop _ => true
  | .copyBoundaryStop _ _ => true
  | .xinvWrite _ => true
  | .xinvComplete => true
  | .xinvstatClearError => true
  | .ctxkillGo _ => true
  | .ctxkillDone => true
  | .ctxkillClearError => true
  | .tagcfgWrite _ => true
  | .cpdescWrite _ _ => true
  | .ownreqRequest _ _ => true
  | .ownreqClrerr _ => true
  | .ownpass _ _ => true
  | .ownershipGrant => true
  | .masterLinkDown _ => true
  | .wpwrWrite _ _ => true
  | .clockChangeEffect _ => true
  | .powerLimitStepDown _ => true
  | .attestationRequest => true
  | .attestationReportDone => true
  | .bootFirmwareCheck _ => true
  | .eccstatRead _ => true
  | .spanFlitReceive _ _ => true
  | .spanPortTrain _ _ => true
  | .nvmeWriteComplete _ _ => true
  | .niMessageSend => true
  | .niMessageDeliver => true
  | .controlRegisterWrite off wide _ => off < 0x1_0000_0000 && off % (if wide then 8 else 4) == 0
  | .debugInterfaceResume => true

end Sys2Proof
end

