-- ==== Sys2Proof/Decode.lean ====
section
/-! DEFINITION. The decoder: total on any words, each encoding that is no instruction rejected by name
(R205, R213); and after it the encoder, written from the same tables (R197 to R211). -/

namespace Sys2Proof

/-- Why a clerk encoding is no instruction (R205, checks 1 and 2). -/
inductive Reject where
  | illegal
  | reserved
  deriving DecidableEq, Repr

/-- Rejects with `reserved` unless the condition holds. -/
def unlessReserved (ok : Bool) (i : Instr) : Except Reject Instr :=
  if ok then .ok i else .error .reserved

/-- Class A, major 0x00 (R216, R218). -/
def decodeInt (func : Nat) (d a b : Reg) : Except Reject Instr :=
  match func with
  | 0 => .ok (.add d a b)
  | 1 => .ok (.sub d a b)
  | 2 => .ok (.mul d a b)
  | 3 => .ok (.mulh d a b)
  | 4 => .ok (.mulhu d a b)
  | 5 => .ok (.div d a b)
  | 6 => .ok (.divu d a b)
  | 7 => .ok (.rem d a b)
  | 8 => .ok (.remu d a b)
  | 9 => .ok (.and d a b)
  | 10 => .ok (.or d a b)
  | 11 => .ok (.xor d a b)
  | 12 => .ok (.andn d a b)
  | 13 => .ok (.orn d a b)
  | 14 => .ok (.sll d a b)
  | 15 => .ok (.srl d a b)
  | 16 => .ok (.sra d a b)
  | 17 => .ok (.rol d a b)
  | 18 => .ok (.ror d a b)
  | 19 => .ok (.min d a b)
  | 20 => .ok (.max d a b)
  | 21 => .ok (.minu d a b)
  | 22 => .ok (.maxu d a b)
  | 23 => .ok (.seq d a b)
  | 24 => .ok (.sne d a b)
  | 25 => .ok (.slt d a b)
  | 26 => .ok (.sltu d a b)
  | 27 => .ok (.sle d a b)
  | 28 => .ok (.sleu d a b)
  | 29 => unlessReserved (b == 0) (.clz d a)
  | 30 => unlessReserved (b == 0) (.ctz d a)
  | 31 => unlessReserved (b == 0) (.popc d a)
  | 32 => unlessReserved (b == 0) (.sext8 d a)
  | 33 => unlessReserved (b == 0) (.sext16 d a)
  | 34 => unlessReserved (b == 0) (.sext32 d a)
  | 35 => unlessReserved (b == 0) (.zext32 d a)
  | 36 => unlessReserved (b == 0) (.bswap d a)
  | _ => .error .illegal

/-- Class A, major 0x01 (R222 to R225). -/
def decodeFloat (func : Nat) (d a b : Reg) : Except Reject Instr :=
  match func with
  | 0 => .ok (.fadd d a b)
  | 1 => .ok (.fsub d a b)
  | 2 => .ok (.fmul d a b)
  | 3 => .ok (.fdiv d a b)
  | 4 => unlessReserved (b == 0) (.fsqrt d a)
  | 5 => .ok (.fmin d a b)
  | 6 => .ok (.fmax d a b)
  | 7 => .ok (.feq d a b)
  | 8 => .ok (.flt d a b)
  | 9 => .ok (.fle d a b)
  | 10 => .ok (.fma d a b)
  | 11 => unlessReserved (b == 0) (.fcvtF32I64 d a)
  | 12 => unlessReserved (b == 0) (.fcvtI64F32 d a)
  | 13 => unlessReserved (b == 0) (.fcvtBf16F32 d a)
  | 14 => unlessReserved (b == 0) (.fcvtF32Bf16 d a)
  | 15 => unlessReserved (b == 0) (.fclass d a)
  | 16 => unlessReserved (b == 0) (.fabs d a)
  | 17 => unlessReserved (b == 0) (.fneg d a)
  | _ => .error .illegal

/-- Class A, majors 0x02 (R238 to R243), 0x03 (R244 to R247) and 0x04 (R248, R249). -/
def decodeSync (func : Nat) (d a b : Reg) : Except Reject Instr :=
  match func with
  | 0 => unlessReserved (b == 0) (.acq d a)
  | 1 => unlessReserved (b == 0) (.acqs d a)
  | 2 => unlessReserved (d == 0 && b == 0) (.rel a)
  | 3 => .ok (.bind d a b)
  | 4 => unlessReserved (b == 0) (.unbind d a)
  | 5 => .ok (.waitw d a b)
  | 6 => .ok (.join d a b)
  | 7 => unlessReserved (d == 0 && a == 0 && b == 0) (.leave)
  | 8 => unlessReserved (d == 0 && a == 0 && b == 0) (.cbar)
  | 9 => .ok (.loan d a b)
  | 10 => unlessReserved (b == 0) (.lstat d a)
  | _ => .error .illegal

def decodeTask (func : Nat) (d a b : Reg) : Except Reject Instr :=
  match func with
  | 0 => unlessReserved (b == 0) (.spawn d a)
  | 1 => .ok (.arm d a b)
  | 2 => unlessReserved (b == 0) (.rls d a)
  | 3 => unlessReserved (d == 0 && a == 0 && b == 0) (.tend)
  | 4 => unlessReserved (d == 0 && a == 0 && b == 0) (.tyield)
  | 5 => unlessReserved (a == 0 && b == 0) (.tself d)
  | 6 => unlessReserved (a == 0 && b == 0) (.tage d)
  | _ => .error .illegal

def decodeTag (func : Nat) (d a b : Reg) : Except Reject Instr :=
  match func with
  | 0 => unlessReserved (b == 0) (.tlook d a)
  | 1 => unlessReserved (b == 0) (.tins d a)
  | 2 => unlessReserved (b == 0) (.tdel d a)
  | 3 => unlessReserved (d == 0) (.xbank a b)
  | _ => .error .illegal

/-- Class A, major 0x05 (R250 to R253); `idx` is bits 22:8. -/
def decodeStream (func : Nat) (d a b : Reg) (idx : BitVec 15) : Except Reject Instr :=
  match func with
  | 0 => unlessReserved (a.toNat < 8 && d == 0 && b == 0) (.issue (a.setWidth 3))
  | 1 => .ok (.issuex idx)
  | 2 => unlessReserved (d.toNat < 8) (.kmov (d.setWidth 3) a b)
  | 3 => unlessReserved (d.toNat < 8 && b == 0) (.kld (d.setWidth 3) a)
  | 4 => unlessReserved (d.toNat < 8 && b == 0) (.kst (d.setWidth 3) a)
  | 5 => unlessReserved (d == 0) (.cfgld a b)
  | 6 => unlessReserved (d == 0 && a == 0 && b == 0) (.cfgwait)
  | 7 => unlessReserved (d == 0 && b == 0) (.wbar a)
  | 8 => unlessReserved (b == 0) (.hwait d a)
  | 9 => unlessReserved (d == 0 && b == 0) (.halloc a)
  | 10 => unlessReserved (d == 0 && b == 0) (.hfree a)
  | _ => .error .illegal

/-- Class A, major 0x06 (R254, R255); `n` is bits 22:13. -/
def decodeSystem (func : Nat) (d a b : Reg) (n : BitVec 10) : Except Reject Instr :=
  match func with
  | 0 => unlessReserved (sysRegs.contains n.toNat) (.mfs d n)
  | 1 => unlessReserved (sysRegs.contains n.toNat) (.mts n d)
  | 2 => unlessReserved (d == 0) (.trap n)
  | 3 => unlessReserved (d == 0 && a == 0 && b == 0) (.trapret)
  | 4 => unlessReserved (d == 0 && a == 0 && b == 0) (.tack)
  | 5 => unlessReserved (d == 0 && a == 0 && b == 0) (.halt)
  | 6 => unlessReserved (d == 0 && a == 0 && b == 0) (.wfe)
  | 7 => unlessReserved (d == 0 && a == 0 && b == 0) (.nop)
  | 8 => unlessReserved (d == 0 && a == 0 && b == 0) (.brk)
  | 9 => unlessReserved (d == 0 && a == 0 && b == 0) (.ifence)
  | _ => .error .illegal

/-- Class A, major 0x07: FUNC is the scope (R237). -/
def decodeFence (func : Nat) (d a b : Reg) : Except Reject Instr :=
  match func with
  | 0 => unlessReserved (d == 0 && a == 0 && b == 0) (.fence .e)
  | 1 => unlessReserved (d == 0 && a == 0 && b == 0) (.fence .c)
  | 2 => unlessReserved (d == 0 && a == 0 && b == 0) (.fence .w)
  | 3 => unlessReserved (d == 0 && a == 0 && b == 0) (.fence .m)
  | 4 => unlessReserved (d == 0 && a == 0 && b == 0) (.fence .s)
  | _ => .error .illegal

/-- Class A (R198, R201). -/
def decodeA (w : Word) : Except Reject Instr :=
  let func := (w.extractLsb' 23 9).toNat
  let b : Reg := w.extractLsb' 18 5
  let a : Reg := w.extractLsb' 13 5
  let d : Reg := w.extractLsb' 8 5
  match (w.extractLsb' 2 6).toNat with
  | 0 => decodeInt func d a b
  | 1 => decodeFloat func d a b
  | 2 => decodeSync func d a b
  | 3 => decodeTask func d a b
  | 4 => decodeTag func d a b
  | 5 => decodeStream func d a b (w.extractLsb' 8 15)
  | 6 => decodeSystem func d a b (w.extractLsb' 13 10)
  | 7 => decodeFence func d a b
  | _ => .error .illegal

/-- Class B and its J variant (R198, R202). -/
def decodeB (w : Word) : Except Reject Instr :=
  let imm : BitVec 14 := w.extractLsb' 18 14
  let imm19 : BitVec 19 := w.extractLsb' 13 19
  let a : Reg := w.extractLsb' 13 5
  let d : Reg := w.extractLsb' 8 5
  let n : BitVec 6 := w.extractLsb' 18 6
  let short := imm.toNat < 64
  match (w.extractLsb' 2 6).toNat with
  | 0 => .ok (.addi d a imm)
  | 1 => .ok (.andi d a imm)
  | 2 => .ok (.ori d a imm)
  | 3 => .ok (.xori d a imm)
  | 4 => unlessReserved (short) (.slli d a n)
  | 5 => unlessReserved (short) (.srli d a n)
  | 6 => unlessReserved (short) (.srai d a n)
  | 7 => .ok (.slti d a imm)
  | 8 => .ok (.sltui d a imm)
  | 9 => .ok (.lui d imm19)
  | 10 => .ok (.ld8 d a imm)
  | 11 => .ok (.ld16 d a imm)
  | 12 => .ok (.ld32 d a imm)
  | 13 => .ok (.ld64 d a imm)
  | 14 => .ok (.lds8 d a imm)
  | 15 => .ok (.lds16 d a imm)
  | 16 => .ok (.lds32 d a imm)
  | 17 => .ok (.st8 a d imm)
  | 18 => .ok (.st16 a d imm)
  | 19 => .ok (.st32 a d imm)
  | 20 => .ok (.st64 a d imm)
  | 21 => .ok (.beq a d imm)
  | 22 => .ok (.bne a d imm)
  | 23 => .ok (.blt a d imm)
  | 24 => .ok (.bge a d imm)
  | 25 => .ok (.bltu a d imm)
  | 26 => .ok (.bgeu a d imm)
  | 27 => .ok (.jal d imm19)
  | 28 => .ok (.jalr d a imm)
  | _ => .error .illegal

/-- SCOPE 0 to 4; 5 to 7 are reserved (R198). -/
def decodeScope (n : Nat) : Option Scope :=
  match n with
  | 0 => some .e
  | 1 => some .c
  | 2 => some .w
  | 3 => some .m
  | 4 => some .s
  | _ => none

def decodeOrd (n : Nat) : Ord :=
  match n with
  | 0 => .rlx
  | 1 => .acq
  | 2 => .rel
  | _ => .ar

/-- The atomic whose FUNC is `func`, if it is assigned (R203). -/
def atomicOf (func : Nat) (d a b c : Reg) (imm : BitVec 16) (o : AmoOrder) : Option Instr :=
  match func with
  | 0 => some (.amoadd d a b imm o)
  | 1 => some (.amoand d a b imm o)
  | 2 => some (.amoor d a b imm o)
  | 3 => some (.amoxor d a b imm o)
  | 4 => some (.amomin d a b imm o)
  | 5 => some (.amomax d a b imm o)
  | 6 => some (.amominu d a b imm o)
  | 7 => some (.amomaxu d a b imm o)
  | 8 => some (.amoswap d a b imm o)
  | 9 => some (.amocas d a b c imm o)
  | 10 => if o.wide then none else some (.amofadd d a b imm o)
  | _ => none

/-- The 64-bit class (R198, R203). -/
def decode64 (w v : Word) : Except Reject Instr :=
  let func := (w.extractLsb' 23 9).toNat
  let b : Reg := w.extractLsb' 18 5
  let a : Reg := w.extractLsb' 13 5
  let d : Reg := w.extractLsb' 8 5
  let c : Reg := v.extractLsb' 8 5
  let ord := decodeOrd (v.extractLsb' 4 2).toNat
  let wide := v.getLsbD 0
  if (w.extractLsb' 2 6).toNat != 0 then .error .illegal
  else match atomicOf func d a b c (v.extractLsb' 16 16) ⟨ord, .e, wide⟩ with
    | none => .error .illegal
    | some _ =>
      match decodeScope (v.extractLsb' 1 3).toNat with
      | none => .error .reserved
      | some sc =>
        match atomicOf func d a b c (v.extractLsb' 16 16) ⟨ord, sc, wide⟩ with
        | none => .error .illegal
        | some i =>
          unlessReserved ((v.extractLsb' 13 3).toNat == 0 && (v.extractLsb' 6 2).toNat == 0 &&
            (func == 9 || c == 0)) i

def loadWidthOf (n : Nat) : Option LoadWidth :=
  match n with
  | 0 => some .u8
  | 1 => some .u16
  | 2 => some .u32
  | 3 => some .u64
  | 4 => some .s8
  | 5 => some .s16
  | 6 => some .s32
  | _ => none

def storeWidthOf (n : Nat) : Option StoreWidth :=
  match n with
  | 0 => some .b8
  | 1 => some .b16
  | 2 => some .b32
  | 3 => some .b64
  | _ => none

/-- The 96-bit class (R198, R204, R221, R234). An unassigned WID is illegal (R205, R221). -/
def decode96 (w v l : Word) : Except Reject Instr :=
  let a : Reg := w.extractLsb' 13 5
  let d : Reg := w.extractLsb' 8 5
  let wid := (v.extractLsb' 0 3).toNat
  let zero := (w.extractLsb' 18 14).toNat == 0 && (v.extractLsb' 3 29).toNat == 0
  match (w.extractLsb' 2 6).toNat with
  | 0 => if wid != 0 then .error .illegal else unlessReserved (zero && a == 0) (.li d l)
  | 1 => if wid != 0 then .error .illegal else unlessReserved (zero && a == 0) (.lih d l)
  | 2 => if wid != 0 then .error .illegal else unlessReserved zero (.addli d a l)
  | 3 =>
    match loadWidthOf wid with
    | none => .error .illegal
    | some lw => unlessReserved zero (.ldl lw d a l)
  | 4 =>
    match storeWidthOf wid with
    | none => .error .illegal
    | some sw => unlessReserved zero (.stl sw a d l)
  | _ => .error .illegal

/-- Length in bytes of the instruction whose first word is `w` (R197). -/
def lengthOf (w : Word) : Nat :=
  match (w.extractLsb' 0 2).toNat with
  | 0 => 4
  | 1 => 4
  | 2 => 8
  | _ => 12

/-- A clerk instruction from its words; words past its length are not looked at (R197, R205). -/
def decode (w v l : Word) : Except Reject Instr :=
  match (w.extractLsb' 0 2).toNat with
  | 0 => decodeA w
  | 1 => decodeB w
  | 2 => decode64 w v
  | _ => decode96 w v l

/-- A little-endian word at byte `k` of a list; bytes past its end read as zero (R7). -/
def wordAt (bs : List Byte) (k : Nat) : Word :=
  ((bs.getD (k + 3) 0 ++ bs.getD (k + 2) 0) ++ (bs.getD (k + 1) 0 ++ bs.getD k 0))

/-- The decoder on bytes in memory order. -/
def decodeBytes (bs : List Byte) : Except Reject Instr :=
  decode (wordAt bs 0) (wordAt bs 4) (wordAt bs 8)

/-! ### Stream commands (R209 to R211) -/

/-- Whether no bit of `x` outside the given (high, low) fields is 1. -/
def onlyFields (x : Nat) (fs : List (Nat × Nat)) : Bool :=
  (fs.foldl (fun y f => setBits y f.1 f.2 0) x) == 0

/-- A command with code `code` for a stream port, its fields checked (R213, reasons 0x33 and 0x35). The
error is the reason. `sgate` with MODE 3 is refused with 0x35. -/
def decodePortCmd (code x : Nat) : Except Nat Instr :=
  let p : BitVec 4 := BitVec.ofNat 4 (bitsOf x 27 24)
  let r1 : Reg := BitVec.ofNat 5 (bitsOf x 12 8)
  let r2 : Reg := BitVec.ofNat 5 (bitsOf x 17 13)
  let only (fs : List (Nat × Nat)) (i : Instr) : Except Nat Instr :=
    if onlyFields x ((7, 0) :: (31, 24) :: (12, 8) :: fs) then .ok i else .error 0x33
  match code with
  | 0x10 => only [(17, 13), (127, 32), (22, 18)] (.sread p { r1, r2, handle := BitVec.ofNat 6 (bitsOf x 127 122), stride := BitVec.ofNat 10 (bitsOf x 121 112), rows := BitVec.ofNat 12 (bitsOf x 111 100), len := BitVec.ofNat 20 (bitsOf x 99 80), addr := BitVec.ofNat 48 (bitsOf x 79 32), hv := bitOf x 22, rlvl := BitVec.ofNat 3 (bitsOf x 21 19), opn := bitOf x 18 })
  | 0x11 => only [(17, 13), (121, 32)] (.swrite p { r1, r2, stride := BitVec.ofNat 10 (bitsOf x 121 112), rows := BitVec.ofNat 12 (bitsOf x 111 100), len := BitVec.ofNat 20 (bitsOf x 99 80), addr := BitVec.ofNat 48 (bitsOf x 79 32) })
  | 0x12 => only [(17, 13), (127, 32), (22, 18)] (.sgather p { r1, r2, handle := BitVec.ofNat 6 (bitsOf x 127 122), esz := BitVec.ofNat 3 (bitsOf x 121 119), count := BitVec.ofNat 16 (bitsOf x 118 103), idx := BitVec.ofNat 23 (bitsOf x 102 80), base := BitVec.ofNat 48 (bitsOf x 79 32), hv := bitOf x 22, rlvl := BitVec.ofNat 3 (bitsOf x 21 19), opn := bitOf x 18 })
  | 0x13 => only [(17, 13), (121, 32)] (.sscatter p { r1, r2, esz := BitVec.ofNat 3 (bitsOf x 121 119), count := BitVec.ofNat 16 (bitsOf x 118 103), idx := BitVec.ofNat 23 (bitsOf x 102 80), base := BitVec.ofNat 48 (bitsOf x 79 32) })
  | 0x14 => only [(17, 13), (127, 32), (18, 18)] (.stile p { r1, r2, exp := BitVec.ofNat 42 (bitsOf x 127 86), trec := BitVec.ofNat 44 (bitsOf x 85 42), n := BitVec.ofNat 10 (bitsOf x 41 32), close := bitOf x 18 })
  | 0x15 => only [(17, 13), (120, 32)] (.ssegt p { r1, r2, nkb := BitVec.ofNat 16 (bitsOf x 120 105), kb0 := BitVec.ofNat 16 (bitsOf x 104 89), nrows := BitVec.ofNat 7 (bitsOf x 88 82), frow := BitVec.ofNat 6 (bitsOf x 81 76), trec := BitVec.ofNat 44 (bitsOf x 75 32) })
  | 0x16 => only [(95, 32)] (.scfg p r1 (BitVec.ofNat 64 (bitsOf x 95 32)))
  | 0x17 => only [(39, 32), (18, 18)] (.sbar p r1 (BitVec.ofNat 8 (bitsOf x 39 32)) (bitOf x 18))
  | 0x18 => only [(66, 32), (18, 18)] (.send p r1 (BitVec.ofNat 3 (bitsOf x 66 64)) (BitVec.ofNat 32 (bitsOf x 63 32)) (bitOf x 18))
  | 0x19 => only [(34, 32)] (.sclose p r1 (BitVec.ofNat 3 (bitsOf x 34 32)))
  | 0x1A =>
    let l : BitVec 3 := BitVec.ofNat 3 (bitsOf x 34 32)
    match bitsOf x 19 18 with
    | 0 => only [(34, 32), (19, 18)] (.sgateSetPlvl p r1 l)
    | 1 => only [(34, 32), (19, 18)] (.sgateGate p r1 l)
    | 2 => only [(34, 32), (19, 18)] (.sgateUngate p r1 l)
    | _ => if onlyFields x [(12, 0), (31, 24), (34, 32), (19, 18)] then .error 0x35 else .error 0x33
  | _ => only [(82, 32)] (.sreq p r1 (BitVec.ofNat 48 (bitsOf x 79 32)) (BitVec.ofNat 3 (bitsOf x 82 80)))

/-- A copy-engine command (R268). -/
def decodeCeCmd (code x : Nat) : Except Nat Instr :=
  let e : BitVec 1 := BitVec.ofNat 1 (bitsOf x 24 24)
  let r1 : Reg := BitVec.ofNat 5 (bitsOf x 12 8)
  if code == 0x1C then
    if onlyFields x [(12, 0), (31, 24), (79, 32)] then .ok (.cchain e r1 (BitVec.ofNat 48 (bitsOf x 79 32)))
    else .error 0x33
  else if onlyFields x [(7, 0), (31, 24)] then .ok (.cabort e) else .error 0x33

/-- The product fields of R282. -/
def productOf (x : Nat) : ProductFields :=
  { r1 := BitVec.ofNat 5 (bitsOf x 12 8), src := bitOf x 84, afmt := bitOf x 83, bank := bitOf x 82
    acc := BitVec.ofNat 2 (bitsOf x 81 80), gamma := BitVec.ofNat 16 (bitsOf x 79 64)
    n := BitVec.ofNat 16 (bitsOf x 47 32), ach := BitVec.ofNat 3 (bitsOf x 20 18) }

/-- A matrix-engine command (chapter 16). TREC of `mseg` is a field with SRC = 1 only (R282). -/
def decodeMeCmd (code x : Nat) : Except Nat Instr :=
  let e : BitVec 1 := BitVec.ofNat 1 (bitsOf x 24 24)
  let r1 : Reg := BitVec.ofNat 5 (bitsOf x 12 8)
  let r2 : Reg := BitVec.ofNat 5 (bitsOf x 17 13)
  let n : Half := BitVec.ofNat 16 (bitsOf x 47 32)
  let bank := bitOf x 82
  let addr : BitVec 42 := BitVec.ofNat 42 (bitsOf x 127 86)
  let only (fs : List (Nat × Nat)) (i : Instr) : Except Nat Instr :=
    if onlyFields x ((7, 0) :: (31, 24) :: fs) then .ok i else .error 0x33
  match code with
  | 0x20 => only [(17, 8), (127, 84), (81, 80), (63, 32)] (.mload e { r1, r2, trec := BitVec.ofNat 43 (bitsOf x 127 85), src := bitOf x 84, pfmt := BitVec.ofNat 2 (bitsOf x 81 80), kb := BitVec.ofNat 16 (bitsOf x 63 48), n })
  | 0x21 => only [] (.mswap e)
  | 0x22 => only [(12, 8), (20, 18), (84, 64), (47, 32)] (.mdense e (productOf x))
  | 0x23 => only ([(17, 8), (20, 18), (84, 32)] ++ if bitOf x 84 then [(127, 85)] else []) (.mseg e r2 (BitVec.ofNat 16 (bitsOf x 63 48)) (BitVec.ofNat 43 (bitsOf x 127 85)) (productOf x))
  | 0x24 => only [(12, 8), (20, 18), (84, 64), (47, 32)] (.mbatch e (productOf x))
  | 0x25 => only [(12, 8), (20, 18), (103, 64), (47, 32)] (.mgather e (BitVec.ofNat 19 (bitsOf x 103 85)) (productOf x))
  | 0x26 => only [(12, 8), (127, 86), (82, 82), (59, 32)] (.mdrain e { r1, scale := addr, bank, bar := BitVec.ofNat 8 (bitsOf x 59 52), bv := bitOf x 51, za := bitOf x 50, sv := bitOf x 49, ofmt := bitOf x 48, n })
  | 0x27 => only [(12, 8), (82, 82), (47, 32)] (.mzero e r1 n bank)
  | 0x28 => only [(32, 32)] (if bitOf x 32 then .mbankRelease e else .mbankClaim e)
  | 0x29 => only [(127, 86), (82, 82)] (.mspill e addr bank)
  | 0x2A => only [(127, 86), (82, 82)] (.mfill e addr bank)
  | _ => only [(12, 8), (127, 86), (81, 81), (79, 48)] (.mstat e r1 addr (bitOf x 81) (BitVec.ofNat 32 (bitsOf x 79 48)))

/-- A TMU command (R300). -/
def decodeTmuCmd (code x : Nat) : Except Nat Instr :=
  let r1 : Reg := BitVec.ofNat 5 (bitsOf x 12 8)
  let slot : BitVec 4 := BitVec.ofNat 4 (bitsOf x 51 48)
  let num : BitVec 10 := BitVec.ofNat 10 (bitsOf x 41 32)
  let addr : BitVec 42 := BitVec.ofNat 42 (bitsOf x 127 86)
  let f := bitOf x 18
  let only (fs : List (Nat × Nat)) (i : Instr) : Except Nat Instr :=
    if onlyFields x ((7, 0) :: (31, 24) :: fs) then .ok i else .error 0x33
  match code with
  | 0x30 => only [(12, 8), (85, 67), (51, 48), (41, 32)] (.tmatch r1 slot (BitVec.ofNat 19 (bitsOf x 85 67)) num)
  | 0x31 => only [(12, 8), (18, 18), (51, 48), (41, 32)] (.tmerge r1 slot num f)
  | 0x32 => only [(18, 18), (51, 48)] (.tlogsz slot f)
  | 0x33 => only [(12, 8), (18, 18), (51, 48), (41, 32)] (.tunmerge r1 slot num f)
  | 0x34 => only [(55, 44)] (.tcompose slot (BitVec.ofNat 4 (bitsOf x 47 44)) (BitVec.ofNat 4 (bitsOf x 55 52)))
  | 0x35 => only [(127, 86), (51, 48)] (.tsave slot addr)
  | 0x36 => only [(127, 86), (51, 48)] (.tload slot addr)
  | 0x37 => only [(51, 48)] (.tfree slot)
  | _ => only [(12, 8), (127, 86), (85, 54)] (.tstat r1 addr (BitVec.ofNat 32 (bitsOf x 85 54)))

/-- A stream command from its 128 bits; the error is the reason of R213 (0x31, 0x32, 0x33; 0x35 for
`sgate` MODE 3). -/
def decodeCommand (q : Qword) : Except Nat Instr :=
  let x := q.toNat
  let code := bitsOf x 7 0
  let target := bitsOf x 31 24
  if 0x10 ≤ code && code ≤ 0x1B then
    if target < 16 then decodePortCmd code x else .error 0x32
  else if code == 0x1C || code == 0x1D then
    if target == 0x40 || target == 0x41 then decodeCeCmd code x else .error 0x32
  else if 0x20 ≤ code && code ≤ 0x2B then
    if target == 0x20 || target == 0x21 then decodeMeCmd code x else .error 0x32
  else if 0x30 ≤ code && code ≤ 0x38 then
    if target == 0x30 then decodeTmuCmd code x else .error 0x32
  else .error 0x31

/-- The instruction the decoder reads from an instruction whose bits are `w`, bit 0 the least significant
bit of its first word; a stream command where the table's row has 128 bits. -/
def decodeTableWord (nbits w : Nat) : Option Instr :=
  if nbits == 128 then (decodeCommand (BitVec.ofNat 128 w)).toOption
  else
    let x := w % 2 ^ nbits
    (decodeBytes ((List.range 12).map fun k => BitVec.ofNat 8 (x >>> (8 * k)))).toOption

/-! ### The encoder -/

/-- A class A word (R198). -/
def encA (major func : Nat) (b a d : Reg) : Word :=
  BitVec.ofNat 32 (func * 2 ^ 23 + b.toNat * 2 ^ 18 + a.toNat * 2 ^ 13 + d.toNat * 2 ^ 8 + major * 4)

/-- A class B word (R198). -/
def encB (major : Nat) (imm : BitVec 14) (a d : Reg) : Word :=
  BitVec.ofNat 32 (imm.toNat * 2 ^ 18 + a.toNat * 2 ^ 13 + d.toNat * 2 ^ 8 + major * 4 + 1)

/-- The J variant (R198). -/
def encJ (major : Nat) (imm : BitVec 19) (d : Reg) : Word :=
  BitVec.ofNat 32 (imm.toNat * 2 ^ 13 + d.toNat * 2 ^ 8 + major * 4 + 1)

def Scope.code : Scope → Nat
  | .e => 0
  | .c => 1
  | .w => 2
  | .m => 3
  | .s => 4

def Ord.code : Ord → Nat
  | .rlx => 0
  | .acq => 1
  | .rel => 2
  | .ar => 3

/-- The two words of an atomic (R198). -/
def enc64 (func : Nat) (d a b c : Reg) (imm : BitVec 16) (o : AmoOrder) : List Word :=
  [BitVec.ofNat 32 (func * 2 ^ 23 + b.toNat * 2 ^ 18 + a.toNat * 2 ^ 13 + d.toNat * 2 ^ 8 + 2),
   BitVec.ofNat 32 (imm.toNat * 2 ^ 16 + c.toNat * 2 ^ 8 + o.ord.code * 2 ^ 4 + o.scope.code * 2 + b2n o.wide)]

/-- The three words of a literal form (R198). -/
def enc96 (major wid : Nat) (d a : Reg) (l : Word) : List Word :=
  [BitVec.ofNat 32 (a.toNat * 2 ^ 13 + d.toNat * 2 ^ 8 + major * 4 + 3), BitVec.ofNat 32 wid, l]

def LoadWidth.code : LoadWidth → Nat
  | .u8 => 0
  | .u16 => 1
  | .u32 => 2
  | .u64 => 3
  | .s8 => 4
  | .s16 => 5
  | .s32 => 6

def StoreWidth.code : StoreWidth → Nat
  | .b8 => 0
  | .b16 => 1
  | .b32 => 2
  | .b64 => 3

/-- The four words of a command from its 128 bits, word 0 first (R209). -/
def commandWords (x : Nat) : List Word :=
  [BitVec.ofNat 32 x, BitVec.ofNat 32 (x >>> 32), BitVec.ofNat 32 (x >>> 64), BitVec.ofNat 32 (x >>> 96)]

/-- The common fields of a command (R209). -/
def encHead (code target flags : Nat) (r2 r1 : Reg) : Nat :=
  target * 2 ^ 24 + flags * 2 ^ 18 + r2.toNat * 2 ^ 13 + r1.toNat * 2 ^ 8 + code

/-- The shared SPEC fields of a product command (R282). -/
def encProduct (f : ProductFields) : Nat :=
  b2n f.src * 2 ^ 84 + b2n f.afmt * 2 ^ 83 + b2n f.bank * 2 ^ 82 + f.acc.toNat * 2 ^ 80 +
    f.gamma.toNat * 2 ^ 64 + f.n.toNat * 2 ^ 32

/-- The 128 bits of a stream command; 0 for any other instruction (R209 to R211). -/
def encodeCommand : Instr → Nat
  | .sread p f => encHead 0x10 p.toNat (b2n f.hv * 16 + f.rlvl.toNat * 2 + b2n f.opn) f.r2 f.r1 + f.handle.toNat * 2 ^ 122 + f.stride.toNat * 2 ^ 112 + f.rows.toNat * 2 ^ 100 + f.len.toNat * 2 ^ 80 + f.addr.toNat * 2 ^ 32
  | .swrite p f => encHead 0x11 p.toNat 0 f.r2 f.r1 + f.stride.toNat * 2 ^ 112 + f.rows.toNat * 2 ^ 100 + f.len.toNat * 2 ^ 80 + f.addr.toNat * 2 ^ 32
  | .sgather p f => encHead 0x12 p.toNat (b2n f.hv * 16 + f.rlvl.toNat * 2 + b2n f.opn) f.r2 f.r1 + f.handle.toNat * 2 ^ 122 + f.esz.toNat * 2 ^ 119 + f.count.toNat * 2 ^ 103 + f.idx.toNat * 2 ^ 80 + f.base.toNat * 2 ^ 32
  | .sscatter p f => encHead 0x13 p.toNat 0 f.r2 f.r1 + f.esz.toNat * 2 ^ 119 + f.count.toNat * 2 ^ 103 + f.idx.toNat * 2 ^ 80 + f.base.toNat * 2 ^ 32
  | .stile p f => encHead 0x14 p.toNat (b2n f.close) f.r2 f.r1 + f.exp.toNat * 2 ^ 86 + f.trec.toNat * 2 ^ 42 + f.n.toNat * 2 ^ 32
  | .ssegt p f => encHead 0x15 p.toNat 0 f.r2 f.r1 + f.nkb.toNat * 2 ^ 105 + f.kb0.toNat * 2 ^ 89 + f.nrows.toNat * 2 ^ 82 + f.frow.toNat * 2 ^ 76 + f.trec.toNat * 2 ^ 32
  | .scfg p r1 word => encHead 0x16 p.toNat 0 0 r1 + word.toNat * 2 ^ 32
  | .sbar p r1 id snap => encHead 0x17 p.toNat (b2n snap) 0 r1 + id.toNat * 2 ^ 32
  | .send p r1 lvl pay err => encHead 0x18 p.toNat (b2n err) 0 r1 + lvl.toNat * 2 ^ 64 + pay.toNat * 2 ^ 32
  | .sclose p r1 lvl => encHead 0x19 p.toNat 0 0 r1 + lvl.toNat * 2 ^ 32
  | .sgateSetPlvl p r1 lvl => encHead 0x1A p.toNat 0 0 r1 + lvl.toNat * 2 ^ 32
  | .sgateGate p r1 lvl => encHead 0x1A p.toNat 1 0 r1 + lvl.toNat * 2 ^ 32
  | .sgateUngate p r1 lvl => encHead 0x1A p.toNat 2 0 r1 + lvl.toNat * 2 ^ 32
  | .sreq p r1 base sz => encHead 0x1B p.toNat 0 0 r1 + sz.toNat * 2 ^ 80 + base.toNat * 2 ^ 32
  | .cchain e r1 head => encHead 0x1C (0x40 + e.toNat) 0 0 r1 + head.toNat * 2 ^ 32
  | .cabort e => encHead 0x1D (0x40 + e.toNat) 0 0 0
  | .mload e f => encHead 0x20 (0x20 + e.toNat) 0 f.r2 f.r1 + f.trec.toNat * 2 ^ 85 + b2n f.src * 2 ^ 84 + f.pfmt.toNat * 2 ^ 80 + f.kb.toNat * 2 ^ 48 + f.n.toNat * 2 ^ 32
  | .mswap e => encHead 0x21 (0x20 + e.toNat) 0 0 0
  | .mdense e f => encHead 0x22 (0x20 + e.toNat) f.ach.toNat 0 f.r1 + encProduct f
  | .mseg e r2 kb trec f => encHead 0x23 (0x20 + e.toNat) f.ach.toNat r2 f.r1 + trec.toNat * 2 ^ 85 + kb.toNat * 2 ^ 48 + encProduct f
  | .mbatch e f => encHead 0x24 (0x20 + e.toNat) f.ach.toNat 0 f.r1 + encProduct f
  | .mgather e desc f => encHead 0x25 (0x20 + e.toNat) f.ach.toNat 0 f.r1 + desc.toNat * 2 ^ 85 + encProduct f
  | .mdrain e f => encHead 0x26 (0x20 + e.toNat) 0 0 f.r1 + f.scale.toNat * 2 ^ 86 + b2n f.bank * 2 ^ 82 + f.bar.toNat * 2 ^ 52 + b2n f.bv * 2 ^ 51 + b2n f.za * 2 ^ 50 + b2n f.sv * 2 ^ 49 + b2n f.ofmt * 2 ^ 48 + f.n.toNat * 2 ^ 32
  | .mzero e r1 n bank => encHead 0x27 (0x20 + e.toNat) 0 0 r1 + b2n bank * 2 ^ 82 + n.toNat * 2 ^ 32
  | .mbankClaim e => encHead 0x28 (0x20 + e.toNat) 0 0 0
  | .mbankRelease e => encHead 0x28 (0x20 + e.toNat) 0 0 0 + 2 ^ 32
  | .mspill e addr bank => encHead 0x29 (0x20 + e.toNat) 0 0 0 + addr.toNat * 2 ^ 86 + b2n bank * 2 ^ 82
  | .mfill e addr bank => encHead 0x2A (0x20 + e.toNat) 0 0 0 + addr.toNat * 2 ^ 86 + b2n bank * 2 ^ 82
  | .mstat e r1 addr clr seq => encHead 0x2B (0x20 + e.toNat) 0 0 r1 + addr.toNat * 2 ^ 86 + b2n clr * 2 ^ 81 + seq.toNat * 2 ^ 48
  | .tmatch r1 slot desc num => encHead 0x30 0x30 0 0 r1 + desc.toNat * 2 ^ 67 + slot.toNat * 2 ^ 48 + num.toNat * 2 ^ 32
  | .tmerge r1 slot num vf => encHead 0x31 0x30 (b2n vf) 0 r1 + slot.toNat * 2 ^ 48 + num.toNat * 2 ^ 32
  | .tlogsz slot b2 => encHead 0x32 0x30 (b2n b2) 0 0 + slot.toNat * 2 ^ 48
  | .tunmerge r1 slot num vf => encHead 0x33 0x30 (b2n vf) 0 r1 + slot.toNat * 2 ^ 48 + num.toNat * 2 ^ 32
  | .tcompose slot sla slb => encHead 0x34 0x30 0 0 0 + slb.toNat * 2 ^ 52 + slot.toNat * 2 ^ 48 + sla.toNat * 2 ^ 44
  | .tsave slot addr => encHead 0x35 0x30 0 0 0 + addr.toNat * 2 ^ 86 + slot.toNat * 2 ^ 48
  | .tload slot addr => encHead 0x36 0x30 0 0 0 + addr.toNat * 2 ^ 86 + slot.toNat * 2 ^ 48
  | .tfree slot => encHead 0x37 0x30 0 0 0 + slot.toNat * 2 ^ 48
  | .tstat r1 addr seq => encHead 0x38 0x30 0 0 r1 + addr.toNat * 2 ^ 86 + seq.toNat * 2 ^ 54
  | .add _ _ _ => 0
  | .sub _ _ _ => 0
  | .mul _ _ _ => 0
  | .mulh _ _ _ => 0
  | .mulhu _ _ _ => 0
  | .div _ _ _ => 0
  | .divu _ _ _ => 0
  | .rem _ _ _ => 0
  | .remu _ _ _ => 0
  | .and _ _ _ => 0
  | .or _ _ _ => 0
  | .xor _ _ _ => 0
  | .andn _ _ _ => 0
  | .orn _ _ _ => 0
  | .sll _ _ _ => 0
  | .srl _ _ _ => 0
  | .sra _ _ _ => 0
  | .rol _ _ _ => 0
  | .ror _ _ _ => 0
  | .min _ _ _ => 0
  | .max _ _ _ => 0
  | .minu _ _ _ => 0
  | .maxu _ _ _ => 0
  | .seq _ _ _ => 0
  | .sne _ _ _ => 0
  | .slt _ _ _ => 0
  | .sltu _ _ _ => 0
  | .sle _ _ _ => 0
  | .sleu _ _ _ => 0
  | .clz _ _ => 0
  | .ctz _ _ => 0
  | .popc _ _ => 0
  | .sext8 _ _ => 0
  | .sext16 _ _ => 0
  | .sext32 _ _ => 0
  | .zext32 _ _ => 0
  | .bswap _ _ => 0
  | .fadd _ _ _ => 0
  | .fsub _ _ _ => 0
  | .fmul _ _ _ => 0
  | .fdiv _ _ _ => 0
  | .fsqrt _ _ => 0
  | .fmin _ _ _ => 0
  | .fmax _ _ _ => 0
  | .feq _ _ _ => 0
  | .flt _ _ _ => 0
  | .fle _ _ _ => 0
  | .fma _ _ _ => 0
  | .fcvtF32I64 _ _ => 0
  | .fcvtI64F32 _ _ => 0
  | .fcvtBf16F32 _ _ => 0
  | .fcvtF32Bf16 _ _ => 0
  | .fclass _ _ => 0
  | .fabs _ _ => 0
  | .fneg _ _ => 0
  | .acq _ _ => 0
  | .acqs _ _ => 0
  | .rel _ => 0
  | .bind _ _ _ => 0
  | .unbind _ _ => 0
  | .waitw _ _ _ => 0
  | .join _ _ _ => 0
  | .leave => 0
  | .cbar => 0
  | .loan _ _ _ => 0
  | .lstat _ _ => 0
  | .spawn _ _ => 0
  | .arm _ _ _ => 0
  | .rls _ _ => 0
  | .tend => 0
  | .tyield => 0
  | .tself _ => 0
  | .tage _ => 0
  | .tlook _ _ => 0
  | .tins _ _ => 0
  | .tdel _ _ => 0
  | .xbank _ _ => 0
  | .issue _ => 0
  | .issuex _ => 0
  | .kmov _ _ _ => 0
  | .kld _ _ => 0
  | .kst _ _ => 0
  | .cfgld _ _ => 0
  | .cfgwait => 0
  | .wbar _ => 0
  | .hwait _ _ => 0
  | .halloc _ => 0
  | .hfree _ => 0
  | .mfs _ _ => 0
  | .mts _ _ => 0
  | .trap _ => 0
  | .trapret => 0
  | .tack => 0
  | .halt => 0
  | .wfe => 0
  | .nop => 0
  | .brk => 0
  | .ifence => 0
  | .fence _ => 0
  | .addi _ _ _ => 0
  | .andi _ _ _ => 0
  | .ori _ _ _ => 0
  | .xori _ _ _ => 0
  | .slli _ _ _ => 0
  | .srli _ _ _ => 0
  | .srai _ _ _ => 0
  | .slti _ _ _ => 0
  | .sltui _ _ _ => 0
  | .lui _ _ => 0
  | .ld8 _ _ _ => 0
  | .ld16 _ _ _ => 0
  | .ld32 _ _ _ => 0
  | .ld64 _ _ _ => 0
  | .lds8 _ _ _ => 0
  | .lds16 _ _ _ => 0
  | .lds32 _ _ _ => 0
  | .st8 _ _ _ => 0
  | .st16 _ _ _ => 0
  | .st32 _ _ _ => 0
  | .st64 _ _ _ => 0
  | .beq _ _ _ => 0
  | .bne _ _ _ => 0
  | .blt _ _ _ => 0
  | .bge _ _ _ => 0
  | .bltu _ _ _ => 0
  | .bgeu _ _ _ => 0
  | .jal _ _ => 0
  | .jalr _ _ _ => 0
  | .amoadd _ _ _ _ _ => 0
  | .amoand _ _ _ _ _ => 0
  | .amoor _ _ _ _ _ => 0
  | .amoxor _ _ _ _ _ => 0
  | .amomin _ _ _ _ _ => 0
  | .amomax _ _ _ _ _ => 0
  | .amominu _ _ _ _ _ => 0
  | .amomaxu _ _ _ _ _ => 0
  | .amoswap _ _ _ _ _ => 0
  | .amocas _ _ _ _ _ _ => 0
  | .amofadd _ _ _ _ _ => 0
  | .li _ _ => 0
  | .lih _ _ => 0
  | .addli _ _ _ => 0
  | .ldl _ _ _ _ => 0
  | .stl _ _ _ _ => 0
  | .asyncResultWrite _ => 0
  | .asyncTrap => 0
  | .wfeWake => 0
  | .accessPerform _ => 0
  | .bankAccess _ => 0
  | .atomicPerform _ => 0
  | .bankTransform _ => 0
  | .compressedTileAccess _ => 0
  | .pageLayoutDone _ => 0
  | .pageWalkEnd _ => 0
  | .tdelPerform _ => 0
  | .memoryTimeout _ => 0
  | .watchdogExpiry => 0
  | .hostRequest _ => 0
  | .objectRequest _ => 0
  | .objectRelease _ => 0
  | .recallRollback _ => 0
  | .launch _ _ => 0
  | .launchstRead _ => 0
  | .deskctlWrite _ _ => 0
  | .dispatch _ => 0
  | .quantumPreempt _ => 0
  | .preemptSave => 0
  | .preemptionTimeout => 0
  | .faultend _ _ _ => 0
  | .partitionSwap _ _ => 0
  | .partitionSwapDone _ => 0
  | .partcurClearError _ => 0
  | .corerstDhalt => 0
  | .tokenHop _ _ _ _ => 0
  | .mapFire _ _ => 0
  | .sfnFire _ _ => 0
  | .redFire _ _ => 0
  | .steerFire _ _ => 0
  | .mergeFire _ _ => 0
  | .carryFire _ _ => 0
  | .genEmit _ _ => 0
  | .memFire _ _ => 0
  | .memResponse _ => 0
  | .segFire _ _ => 0
  | .shufFire _ _ => 0
  | .convFire _ _ => 0
  | .forkFire _ _ => 0
  | .endTokenAlign _ _ => 0
  | .errorEndPass _ _ => 0
  | .barrierAlign _ _ => 0
  | .feConfigApply _ _ => 0
  | .feGoLive _ _ => 0
  | .folioChange => 0
  | .laneEmitToken _ => 0
  | .laneAbsorbToken _ => 0
  | .laneCommandComplete _ _ => 0
  | .handleClaim _ => 0
  | .spctlUnseal _ => 0
  | .meAToken _ _ => 0
  | .mePlaneToken _ => 0
  | .meProductCommit _ => 0
  | .meCommandComplete _ => 0
  | .mesealEnd _ => 0
  | .tmuInToken => 0
  | .tmuCommandComplete => 0
  | .tmsealEnd => 0
  | .ceChainStart _ _ => 0
  | .ceClearError _ => 0
  | .ceAbort _ => 0
  | .ceResume _ => 0
  | .ceKick _ => 0
  | .copyRecordRead _ => 0
  | .copyHandleReady _ => 0
  | .copyRecordComplete _ => 0
  | .copyRecordStop _ => 0
  | .copyBoundaryStop _ _ => 0
  | .xinvWrite _ => 0
  | .xinvComplete => 0
  | .xinvstatClearError => 0
  | .ctxkillGo _ => 0
  | .ctxkillDone => 0
  | .ctxkillClearError => 0
  | .tagcfgWrite _ => 0
  | .cpdescWrite _ _ => 0
  | .ownreqRequest _ _ => 0
  | .ownreqClrerr _ => 0
  | .ownpass _ _ => 0
  | .ownershipGrant => 0
  | .masterLinkDown _ => 0
  | .wpwrWrite _ _ => 0
  | .clockChangeEffect _ => 0
  | .powerLimitStepDown _ => 0
  | .attestationRequest => 0
  | .attestationReportDone => 0
  | .bootFirmwareCheck _ => 0
  | .eccstatRead _ => 0
  | .spanFlitReceive _ _ => 0
  | .spanPortTrain _ _ => 0
  | .nvmeWriteComplete _ _ => 0
  | .niMessageSend => 0
  | .niMessageDeliver => 0
  | .controlRegisterWrite _ _ _ => 0
  | .debugInterfaceResume => 0

/-- The words of an instruction: one to three for a clerk instruction, four for a command, none for a step
of another agent (R197, R209). -/
def encode : Instr → List Word
  | .add d a b => [encA 0 0 b a d]
  | .sub d a b => [encA 0 1 b a d]
  | .mul d a b => [encA 0 2 b a d]
  | .mulh d a b => [encA 0 3 b a d]
  | .mulhu d a b => [encA 0 4 b a d]
  | .div d a b => [encA 0 5 b a d]
  | .divu d a b => [encA 0 6 b a d]
  | .rem d a b => [encA 0 7 b a d]
  | .remu d a b => [encA 0 8 b a d]
  | .and d a b => [encA 0 9 b a d]
  | .or d a b => [encA 0 10 b a d]
  | .xor d a b => [encA 0 11 b a d]
  | .andn d a b => [encA 0 12 b a d]
  | .orn d a b => [encA 0 13 b a d]
  | .sll d a b => [encA 0 14 b a d]
  | .srl d a b => [encA 0 15 b a d]
  | .sra d a b => [encA 0 16 b a d]
  | .rol d a b => [encA 0 17 b a d]
  | .ror d a b => [encA 0 18 b a d]
  | .min d a b => [encA 0 19 b a d]
  | .max d a b => [encA 0 20 b a d]
  | .minu d a b => [encA 0 21 b a d]
  | .maxu d a b => [encA 0 22 b a d]
  | .seq d a b => [encA 0 23 b a d]
  | .sne d a b => [encA 0 24 b a d]
  | .slt d a b => [encA 0 25 b a d]
  | .sltu d a b => [encA 0 26 b a d]
  | .sle d a b => [encA 0 27 b a d]
  | .sleu d a b => [encA 0 28 b a d]
  | .clz d a => [encA 0 29 0 a d]
  | .ctz d a => [encA 0 30 0 a d]
  | .popc d a => [encA 0 31 0 a d]
  | .sext8 d a => [encA 0 32 0 a d]
  | .sext16 d a => [encA 0 33 0 a d]
  | .sext32 d a => [encA 0 34 0 a d]
  | .zext32 d a => [encA 0 35 0 a d]
  | .bswap d a => [encA 0 36 0 a d]
  | .fadd d a b => [encA 1 0 b a d]
  | .fsub d a b => [encA 1 1 b a d]
  | .fmul d a b => [encA 1 2 b a d]
  | .fdiv d a b => [encA 1 3 b a d]
  | .fsqrt d a => [encA 1 4 0 a d]
  | .fmin d a b => [encA 1 5 b a d]
  | .fmax d a b => [encA 1 6 b a d]
  | .feq d a b => [encA 1 7 b a d]
  | .flt d a b => [encA 1 8 b a d]
  | .fle d a b => [encA 1 9 b a d]
  | .fma d a b => [encA 1 10 b a d]
  | .fcvtF32I64 d a => [encA 1 11 0 a d]
  | .fcvtI64F32 d a => [encA 1 12 0 a d]
  | .fcvtBf16F32 d a => [encA 1 13 0 a d]
  | .fcvtF32Bf16 d a => [encA 1 14 0 a d]
  | .fclass d a => [encA 1 15 0 a d]
  | .fabs d a => [encA 1 16 0 a d]
  | .fneg d a => [encA 1 17 0 a d]
  | .acq d a => [encA 2 0 0 a d]
  | .acqs d a => [encA 2 1 0 a d]
  | .rel a => [encA 2 2 0 a 0]
  | .bind d a b => [encA 2 3 b a d]
  | .unbind d a => [encA 2 4 0 a d]
  | .waitw d a b => [encA 2 5 b a d]
  | .join d a b => [encA 2 6 b a d]
  | .leave  => [encA 2 7 0 0 0]
  | .cbar  => [encA 2 8 0 0 0]
  | .loan d a b => [encA 2 9 b a d]
  | .lstat d a => [encA 2 10 0 a d]
  | .spawn d a => [encA 3 0 0 a d]
  | .arm d a b => [encA 3 1 b a d]
  | .rls d a => [encA 3 2 0 a d]
  | .tend  => [encA 3 3 0 0 0]
  | .tyield  => [encA 3 4 0 0 0]
  | .tself d => [encA 3 5 0 0 d]
  | .tage d => [encA 3 6 0 0 d]
  | .tlook d a => [encA 4 0 0 a d]
  | .tins d a => [encA 4 1 0 a d]
  | .tdel d a => [encA 4 2 0 a d]
  | .xbank a b => [encA 4 3 b a 0]
  | .issue k => [encA 5 0 0 (k.setWidth 5) 0]
  | .issuex idx => [BitVec.ofNat 32 (1 * 2 ^ 23 + idx.toNat * 2 ^ 8 + 5 * 4)]
  | .kmov k a b => [encA 5 2 b a (k.setWidth 5)]
  | .kld k a => [encA 5 3 0 a (k.setWidth 5)]
  | .kst k a => [encA 5 4 0 a (k.setWidth 5)]
  | .cfgld a b => [encA 5 5 b a 0]
  | .cfgwait  => [encA 5 6 0 0 0]
  | .wbar a => [encA 5 7 0 a 0]
  | .hwait d a => [encA 5 8 0 a d]
  | .halloc a => [encA 5 9 0 a 0]
  | .hfree a => [encA 5 10 0 a 0]
  | .mfs d n => [BitVec.ofNat 32 (n.toNat * 2 ^ 13 + d.toNat * 2 ^ 8 + 6 * 4)]
  | .mts n d => [BitVec.ofNat 32 (1 * 2 ^ 23 + n.toNat * 2 ^ 13 + d.toNat * 2 ^ 8 + 6 * 4)]
  | .trap n => [BitVec.ofNat 32 (2 * 2 ^ 23 + n.toNat * 2 ^ 13 + 6 * 4)]
  | .trapret  => [encA 6 3 0 0 0]
  | .tack  => [encA 6 4 0 0 0]
  | .halt  => [encA 6 5 0 0 0]
  | .wfe  => [encA 6 6 0 0 0]
  | .nop  => [encA 6 7 0 0 0]
  | .brk  => [encA 6 8 0 0 0]
  | .ifence  => [encA 6 9 0 0 0]
  | .fence sc => [encA 7 sc.code 0 0 0]
  | .addi d a imm => [encB 0 imm a d]
  | .andi d a imm => [encB 1 imm a d]
  | .ori d a imm => [encB 2 imm a d]
  | .xori d a imm => [encB 3 imm a d]
  | .slli d a n => [encB 4 (n.setWidth 14) a d]
  | .srli d a n => [encB 5 (n.setWidth 14) a d]
  | .srai d a n => [encB 6 (n.setWidth 14) a d]
  | .slti d a imm => [encB 7 imm a d]
  | .sltui d a imm => [encB 8 imm a d]
  | .lui d imm => [encJ 9 imm d]
  | .ld8 d a imm => [encB 10 imm a d]
  | .ld16 d a imm => [encB 11 imm a d]
  | .ld32 d a imm => [encB 12 imm a d]
  | .ld64 d a imm => [encB 13 imm a d]
  | .lds8 d a imm => [encB 14 imm a d]
  | .lds16 d a imm => [encB 15 imm a d]
  | .lds32 d a imm => [encB 16 imm a d]
  | .st8 a d imm => [encB 17 imm a d]
  | .st16 a d imm => [encB 18 imm a d]
  | .st32 a d imm => [encB 19 imm a d]
  | .st64 a d imm => [encB 20 imm a d]
  | .beq a b off => [encB 21 off a b]
  | .bne a b off => [encB 22 off a b]
  | .blt a b off => [encB 23 off a b]
  | .bge a b off => [encB 24 off a b]
  | .bltu a b off => [encB 25 off a b]
  | .bgeu a b off => [encB 26 off a b]
  | .jal d imm => [encJ 27 imm d]
  | .jalr d a imm => [encB 28 imm a d]
  | .amoadd d a b imm o => enc64 0 d a b 0 imm o
  | .amoand d a b imm o => enc64 1 d a b 0 imm o
  | .amoor d a b imm o => enc64 2 d a b 0 imm o
  | .amoxor d a b imm o => enc64 3 d a b 0 imm o
  | .amomin d a b imm o => enc64 4 d a b 0 imm o
  | .amomax d a b imm o => enc64 5 d a b 0 imm o
  | .amominu d a b imm o => enc64 6 d a b 0 imm o
  | .amomaxu d a b imm o => enc64 7 d a b 0 imm o
  | .amoswap d a b imm o => enc64 8 d a b 0 imm o
  | .amocas d a b c imm o => enc64 9 d a b c imm o
  | .amofadd d a b imm o => enc64 10 d a b 0 imm o
  | .li d l => enc96 0 0 d 0 l
  | .lih d l => enc96 1 0 d 0 l
  | .addli d a l => enc96 2 0 d a l
  | .ldl w d a l => enc96 3 w.code d a l
  | .stl w a d l => enc96 4 w.code d a l
  | .sread p f => commandWords (encodeCommand (.sread p f))
  | .swrite p f => commandWords (encodeCommand (.swrite p f))
  | .sgather p f => commandWords (encodeCommand (.sgather p f))
  | .sscatter p f => commandWords (encodeCommand (.sscatter p f))
  | .stile p f => commandWords (encodeCommand (.stile p f))
  | .ssegt p f => commandWords (encodeCommand (.ssegt p f))
  | .scfg p r1 word => commandWords (encodeCommand (.scfg p r1 word))
  | .sbar p r1 id snap => commandWords (encodeCommand (.sbar p r1 id snap))
  | .send p r1 lvl pay err => commandWords (encodeCommand (.send p r1 lvl pay err))
  | .sclose p r1 lvl => commandWords (encodeCommand (.sclose p r1 lvl))
  | .sgateSetPlvl p r1 lvl => commandWords (encodeCommand (.sgateSetPlvl p r1 lvl))
  | .sgateGate p r1 lvl => commandWords (encodeCommand (.sgateGate p r1 lvl))
  | .sgateUngate p r1 lvl => commandWords (encodeCommand (.sgateUngate p r1 lvl))
  | .sreq p r1 base sz => commandWords (encodeCommand (.sreq p r1 base sz))
  | .cchain e r1 head => commandWords (encodeCommand (.cchain e r1 head))
  | .cabort e => commandWords (encodeCommand (.cabort e))
  | .mload e f => commandWords (encodeCommand (.mload e f))
  | .mswap e => commandWords (encodeCommand (.mswap e))
  | .mdense e f => commandWords (encodeCommand (.mdense e f))
  | .mseg e r2 kb trec f => commandWords (encodeCommand (.mseg e r2 kb trec f))
  | .mbatch e f => commandWords (encodeCommand (.mbatch e f))
  | .mgather e desc f => commandWords (encodeCommand (.mgather e desc f))
  | .mdrain e f => commandWords (encodeCommand (.mdrain e f))
  | .mzero e r1 n bank => commandWords (encodeCommand (.mzero e r1 n bank))
  | .mbankClaim e => commandWords (encodeCommand (.mbankClaim e))
  | .mbankRelease e => commandWords (encodeCommand (.mbankRelease e))
  | .mspill e addr bank => commandWords (encodeCommand (.mspill e addr bank))
  | .mfill e addr bank => commandWords (encodeCommand (.mfill e addr bank))
  | .mstat e r1 addr clr seq => commandWords (encodeCommand (.mstat e r1 addr clr seq))
  | .tmatch r1 slot desc num => commandWords (encodeCommand (.tmatch r1 slot desc num))
  | .tmerge r1 slot num vf => commandWords (encodeCommand (.tmerge r1 slot num vf))
  | .tlogsz slot b2 => commandWords (encodeCommand (.tlogsz slot b2))
  | .tunmerge r1 slot num vf => commandWords (encodeCommand (.tunmerge r1 slot num vf))
  | .tcompose slot sla slb => commandWords (encodeCommand (.tcompose slot sla slb))
  | .tsave slot addr => commandWords (encodeCommand (.tsave slot addr))
  | .tload slot addr => commandWords (encodeCommand (.tload slot addr))
  | .tfree slot => commandWords (encodeCommand (.tfree slot))
  | .tstat r1 addr seq => commandWords (encodeCommand (.tstat r1 addr seq))
  | .asyncResultWrite _ => []
  | .asyncTrap => []
  | .wfeWake => []
  | .accessPerform _ => []
  | .bankAccess _ => []
  | .atomicPerform _ => []
  | .bankTransform _ => []
  | .compressedTileAccess _ => []
  | .pageLayoutDone _ => []
  | .pageWalkEnd _ => []
  | .tdelPerform _ => []
  | .memoryTimeout _ => []
  | .watchdogExpiry => []
  | .hostRequest _ => []
  | .objectRequest _ => []
  | .objectRelease _ => []
  | .recallRollback _ => []
  | .launch _ _ => []
  | .launchstRead _ => []
  | .deskctlWrite _ _ => []
  | .dispatch _ => []
  | .quantumPreempt _ => []
  | .preemptSave => []
  | .preemptionTimeout => []
  | .faultend _ _ _ => []
  | .partitionSwap _ _ => []
  | .partitionSwapDone _ => []
  | .partcurClearError _ => []
  | .corerstDhalt => []
  | .tokenHop _ _ _ _ => []
  | .mapFire _ _ => []
  | .sfnFire _ _ => []
  | .redFire _ _ => []
  | .steerFire _ _ => []
  | .mergeFire _ _ => []
  | .carryFire _ _ => []
  | .genEmit _ _ => []
  | .memFire _ _ => []
  | .memResponse _ => []
  | .segFire _ _ => []
  | .shufFire _ _ => []
  | .convFire _ _ => []
  | .forkFire _ _ => []
  | .endTokenAlign _ _ => []
  | .errorEndPass _ _ => []
  | .barrierAlign _ _ => []
  | .feConfigApply _ _ => []
  | .feGoLive _ _ => []
  | .folioChange => []
  | .laneEmitToken _ => []
  | .laneAbsorbToken _ => []
  | .laneCommandComplete _ _ => []
  | .handleClaim _ => []
  | .spctlUnseal _ => []
  | .meAToken _ _ => []
  | .mePlaneToken _ => []
  | .meProductCommit _ => []
  | .meCommandComplete _ => []
  | .mesealEnd _ => []
  | .tmuInToken => []
  | .tmuCommandComplete => []
  | .tmsealEnd => []
  | .ceChainStart _ _ => []
  | .ceClearError _ => []
  | .ceAbort _ => []
  | .ceResume _ => []
  | .ceKick _ => []
  | .copyRecordRead _ => []
  | .copyHandleReady _ => []
  | .copyRecordComplete _ => []
  | .copyRecordStop _ => []
  | .copyBoundaryStop _ _ => []
  | .xinvWrite _ => []
  | .xinvComplete => []
  | .xinvstatClearError => []
  | .ctxkillGo _ => []
  | .ctxkillDone => []
  | .ctxkillClearError => []
  | .tagcfgWrite _ => []
  | .cpdescWrite _ _ => []
  | .ownreqRequest _ _ => []
  | .ownreqClrerr _ => []
  | .ownpass _ _ => []
  | .ownershipGrant => []
  | .masterLinkDown _ => []
  | .wpwrWrite _ _ => []
  | .clockChangeEffect _ => []
  | .powerLimitStepDown _ => []
  | .attestationRequest => []
  | .attestationReportDone => []
  | .bootFirmwareCheck _ => []
  | .eccstatRead _ => []
  | .spanFlitReceive _ _ => []
  | .spanPortTrain _ _ => []
  | .nvmeWriteComplete _ _ => []
  | .niMessageSend => []
  | .niMessageDeliver => []
  | .controlRegisterWrite _ _ _ => []
  | .debugInterfaceResume => []

end Sys2Proof
end

