-- ==== Sys2Proof/Machine/Flags.lean ====
section
/-! DEFINITION. Number formats, exact values, rounding and the flags it raises (chapter 4: R57 to R79), the
scalar floating-point operations (R222 to R225) and the functions of SFN (R184). -/

namespace Sys2Proof.Machine

/-! ### Flags: NV 4, DZ 3, OF 2, UF 1, NX 0, as in FPSTAT (R64) -/

abbrev FFlags := BitVec 5

def fNV : FFlags := 16
def fDZ : FFlags := 8
def fOF : FFlags := 4
def fUF : FFlags := 2
def fNX : FFlags := 1

/-- A flag set or none. -/
def fWhen (b : Bool) (f : FFlags) : FFlags := if b then f else 0

/-- Rounding modes (R60). -/
inductive Rnd where
  | rne | rtz | rup | rdn
  deriving DecidableEq, Repr

def Rnd.ofCode (n : Nat) : Rnd :=
  match n with
  | 0 => .rne
  | 1 => .rtz
  | 2 => .rup
  | _ => .rdn

/-- A binary format: exponent width, fraction width, bias (R58). -/
structure Fmt where
  eb : Nat
  fb : Nat
  bias : Nat
  deriving DecidableEq, Repr

def fp32 : Fmt := ⟨8, 23, 127⟩
def bf16 : Fmt := ⟨8, 7, 127⟩
def fp16 : Fmt := ⟨5, 10, 15⟩
def e4m3 : Fmt := ⟨4, 3, 7⟩
def e5m2 : Fmt := ⟨5, 2, 15⟩

/-- An exact value: `fin s m e` is (-1)^s * m * 2^e. -/
inductive Val where
  | nan
  | inf (s : Bool)
  | fin (s : Bool) (m : Nat) (e : Int)
  deriving DecidableEq, Repr

/-- Sign, exponent field and fraction of a pattern. -/
def Fmt.sign (f : Fmt) (x : Nat) : Bool := x.testBit (f.eb + f.fb)
def Fmt.efield (f : Fmt) (x : Nat) : Nat := (x >>> f.fb) % 2 ^ f.eb
def Fmt.frac (f : Fmt) (x : Nat) : Nat := x % 2 ^ f.fb
/-- The pattern of +∞ in a format with infinities. -/
def Fmt.infBits (f : Fmt) : Nat := (2 ^ f.eb - 1) * 2 ^ f.fb
def Fmt.signBit (f : Fmt) (s : Bool) : Nat := b2n s * 2 ^ (f.eb + f.fb)
/-- The largest finite magnitude. -/
def Fmt.maxBits (f : Fmt) : Nat := f.infBits - 1
/-- The default NaN (R59). -/
def Fmt.defaultNan (f : Fmt) : Nat := f.infBits + 2 ^ (f.fb - 1)

def Fmt.isNan (f : Fmt) (x : Nat) : Bool := f.efield x == 2 ^ f.eb - 1 && f.frac x != 0
def Fmt.isSnan (f : Fmt) (x : Nat) : Bool := f.isNan x && !x.testBit (f.fb - 1)
/-- To quiet a NaN is to set its quiet bit (R62). -/
def Fmt.quiet (f : Fmt) (x : Nat) : Nat := if x.testBit (f.fb - 1) then x else x + 2 ^ (f.fb - 1)

/-- The value of a finite pattern, implicit bit and subnormals included (R58). -/
def Fmt.finite (f : Fmt) (x : Nat) : Val :=
  let e := f.efield x
  if e == 0 then .fin (f.sign x) (f.frac x) (1 - f.bias - f.fb)
  else .fin (f.sign x) (f.frac x + 2 ^ f.fb) ((e : Int) - f.bias - f.fb)

/-- The value of a pattern of FP32, BF16 or FP16 (R58, R59). -/
def Fmt.val (f : Fmt) (x : Nat) : Val :=
  if f.efield x == 2 ^ f.eb - 1 then (if f.frac x == 0 then .inf (f.sign x) else .nan)
  else f.finite x

/-- The value of an OFP8 pattern: E4M3 has no infinity and one NaN a sign, E5M2 follows IEEE (R59). -/
def ofp8Val (e4 : Bool) (x : Nat) : Val :=
  if e4 then (if x % 128 == 127 then .nan else e4m3.finite x) else e5m2.val x

/-- `n / d` rounded to an integer: whether to step up from the floor (R60). -/
def roundUp (r : Rnd) (s : Bool) (fl rem d : Nat) : Bool :=
  match r with
  | .rne => 2 * rem > d || (2 * rem == d && fl % 2 == 1)
  | .rtz => false
  | .rup => !s && rem != 0
  | .rdn => s && rem != 0

/-- (numerator, denominator) times 2^k. -/
def scale2 (n d : Nat) (k : Int) : Nat × Nat :=
  if 0 ≤ k then (n * 2 ^ k.toNat, d) else (n, d * 2 ^ (-k).toNat)

/-- floor(log2(n / d * 2^e)) for positive n and d. -/
def floorLog2 (n d : Nat) (e : Int) : Int :=
  let k : Int := (Nat.log2 n : Int) - (Nat.log2 d : Int)
  let p := scale2 n d (-k)
  if p.1 < p.2 then k - 1 + e else k + e

/-- `n / d * 2^e` rounded to a multiple of 2^q: the multiple, and whether it is inexact. -/
def roundAt (r : Rnd) (s : Bool) (n d : Nat) (e q : Int) : Nat × Bool :=
  let p := scale2 n d (e - q)
  let fl := p.1 / p.2
  let rem := p.1 % p.2
  (if roundUp r s fl rem p.2 then fl + 1 else fl, rem != 0)

/-- What overflow gives (R60). -/
def overflowBits (f : Fmt) (r : Rnd) (s : Bool) : Nat :=
  match r, s with
  | .rne, _ => f.infBits
  | .rtz, _ => f.maxBits
  | .rup, false => f.infBits
  | .rup, true => f.maxBits
  | .rdn, false => f.maxBits
  | .rdn, true => f.infBits

/-- (-1)^s * n / d * 2^e rounded to a format, with its flags; tininess is found after rounding (R61). -/
def roundTo (f : Fmt) (r : Rnd) (s : Bool) (n d : Nat) (e : Int) : Nat × FFlags :=
  if n == 0 then (f.signBit s, 0)
  else
    let x := floorLog2 n d e
    let emin : Int := 1 - f.bias
    let q := max (x - f.fb) (emin - f.fb)
    let m := roundAt r s n d e q
    let bits := (q + f.fb + f.bias - 1).toNat * 2 ^ f.fb + m.1
    if f.infBits ≤ bits then (f.signBit s + overflowBits f r s, fOF ||| fNX)
    else
      let u := roundAt r s n d e (x - f.fb)
      let tiny := x < emin && !(x + 1 == emin && u.1 == 2 ^ (f.fb + 1))
      (f.signBit s + bits, fWhen (tiny && m.2) fUF ||| fWhen m.2 fNX)

/-- A value rounded to a format; a NaN becomes the default NaN. -/
def Val.round (v : Val) (f : Fmt) (r : Rnd) : Nat × FFlags :=
  match v with
  | .nan => (f.defaultNan, 0)
  | .inf s => (f.signBit s + f.infBits, 0)
  | .fin s m e => roundTo f r s m 1 e

/-- A finite value as a signed multiple of 2^q, for q no greater than its exponent. -/
def signedAt (s : Bool) (m : Nat) (e q : Int) : Int :=
  let v : Int := (m * 2 ^ (e - q).toNat : Nat)
  if s then -v else v

/-- The exact sum of two finite values. The sign of an exact zero follows R223: both signs kept when they
agree, else + but for mode 3. -/
def addFin (r : Rnd) (s1 : Bool) (m1 : Nat) (e1 : Int) (s2 : Bool) (m2 : Nat) (e2 : Int) : Val :=
  let q := min e1 e2
  let t := signedAt s1 m1 e1 q + signedAt s2 m2 e2 q
  if t == 0 then .fin (if s1 == s2 then s1 else r == .rdn) 0 0
  else .fin (t < 0) t.natAbs q

/-- The exact sum of two values; `none` for ∞ - ∞. -/
def Val.add (r : Rnd) : Val → Val → Option Val
  | .inf s, .inf t => if s == t then some (.inf s) else none
  | .inf s, _ => some (.inf s)
  | _, .inf t => some (.inf t)
  | .fin s1 m1 e1, .fin s2 m2 e2 => some (addFin r s1 m1 e1 s2 m2 e2)
  | _, _ => some .nan

/-- The exact product; `none` for 0 × ∞. -/
def Val.mul : Val → Val → Option Val
  | .inf s, .inf t => some (.inf (s != t))
  | .inf s, .fin t m _ => if m == 0 then none else some (.inf (s != t))
  | .fin t m _, .inf s => if m == 0 then none else some (.inf (s != t))
  | .fin s1 m1 e1, .fin s2 m2 e2 => some (.fin (s1 != s2) (m1 * m2) (e1 + e2))
  | _, _ => some .nan

/-- First NaN operand in the order a, b, quieted, with NV on any signalling operand (R63). -/
def nan2 (f : Fmt) (a b : Nat) : Option (Nat × FFlags) :=
  let nv := fWhen (f.isSnan a || f.isSnan b) fNV
  if f.isNan a then some (f.quiet a, nv)
  else if f.isNan b then some (f.quiet b, nv)
  else none

/-- An invalid operation: the default NaN and NV (R63). -/
def invalid (f : Fmt) : Nat × FFlags := (f.defaultNan, fNV)

def fAdd (f : Fmt) (r : Rnd) (a b : Nat) : Nat × FFlags :=
  match nan2 f a b with
  | some x => x
  | none =>
    match (f.val a).add r (f.val b) with
    | some v => v.round f r
    | none => invalid f

/-- A pattern with its sign bit flipped. -/
def Fmt.neg (f : Fmt) (x : Nat) : Nat :=
  if f.sign x then x - f.signBit true else x + f.signBit true

def fSub (f : Fmt) (r : Rnd) (a b : Nat) : Nat × FFlags :=
  match nan2 f a b with
  | some x => x
  | none =>
    match (f.val a).add r (f.val (f.neg b)) with
    | some v => v.round f r
    | none => invalid f

def fMul (f : Fmt) (r : Rnd) (a b : Nat) : Nat × FFlags :=
  match nan2 f a b with
  | some x => x
  | none =>
    match (f.val a).mul (f.val b) with
    | some v => v.round f r
    | none => invalid f

/-- Division (R63, R223): 0/0 and ∞/∞ are invalid, a finite nonzero number by zero raises DZ. -/
def fDiv (f : Fmt) (r : Rnd) (a b : Nat) : Nat × FFlags :=
  match nan2 f a b with
  | some x => x
  | none =>
    match f.val a, f.val b with
    | .inf _, .inf _ => invalid f
    | .inf s, .fin t _ _ => (f.signBit (s != t) + f.infBits, 0)
    | .fin s _ _, .inf t => (f.signBit (s != t), 0)
    | .fin s m e, .fin t m' e' =>
      if m' == 0 then (if m == 0 then invalid f else (f.signBit (s != t) + f.infBits, fDZ))
      else roundTo f r (s != t) m m' (e - e')
    | _, _ => invalid f

/-- Integer square root, one bit at a time from bit `k` down. -/
def isqrtFrom (n : Nat) : Nat → Nat → Nat
  | 0, r => if (r + 1) * (r + 1) ≤ n then r + 1 else r
  | k + 1, r => isqrtFrom n k (if (r + 2 ^ (k + 1)) * (r + 2 ^ (k + 1)) ≤ n then r + 2 ^ (k + 1) else r)

def isqrt (n : Nat) : Nat := isqrtFrom n (Nat.log2 n / 2 + 1) 0

/-- √(m * 2^e) as a numerator and an exponent, with a sticky bit below 60 result bits. -/
def sqrtParts (m : Nat) (e : Int) : Nat × Int :=
  let odd := e % 2 != 0
  let m1 := (if odd then 2 * m else m) * 2 ^ 120
  let e1 := (if odd then e - 1 else e) - 120
  let r := isqrt m1
  (2 * r + (if r * r == m1 then 0 else 1), e1 / 2 - 1)

/-- Square root (R63, R223): √-0 = -0, negative operands are invalid. -/
def fSqrt (f : Fmt) (r : Rnd) (a : Nat) : Nat × FFlags :=
  if f.isNan a then (f.quiet a, fWhen (f.isSnan a) fNV)
  else match f.val a with
    | .inf s => if s then invalid f else (a, 0)
    | .fin s m e =>
      if m == 0 then (a, 0)
      else if s then invalid f
      else
        let p := sqrtParts m e
        roundTo f r false p.1 1 p.2
    | .nan => invalid f

/-- Fused multiply-add with the NaN choice of R62: c, then a, then b. -/
def fFma (f : Fmt) (r : Rnd) (a b c : Nat) : Nat × FFlags :=
  let prod := (f.val a).mul (f.val b)
  let nanAB := f.isNan a || f.isNan b
  let zi := !nanAB && prod == none
  let nv := fWhen (zi || f.isSnan a || f.isSnan b || f.isSnan c) fNV
  if f.isNan c then (f.quiet c, nv)
  else if f.isNan a then (f.quiet a, nv)
  else if f.isNan b then (f.quiet b, nv)
  else match prod with
    | none => invalid f
    | some p =>
      match p.add r (f.val c) with
      | some v => v.round f r
      | none => invalid f

/-- Order of two patterns that are no NaN, as signed magnitudes; -0 and +0 compare equal. -/
def Fmt.key (f : Fmt) (x : Nat) : Int :=
  let m : Int := ((x % 2 ^ (f.eb + f.fb) : Nat) : Int)
  if f.sign x then -m else m

/-- Minimum or maximum (R63): one NaN operand gives the other, -0 orders below +0. -/
def fMinMax (f : Fmt) (isMax : Bool) (a b : Nat) : Nat × FFlags :=
  let nv := fWhen (f.isSnan a || f.isSnan b) fNV
  if f.isNan a && f.isNan b then (f.quiet a, nv)
  else if f.isNan a then (b, nv)
  else if f.isNan b then (a, nv)
  else
    let less := f.key a < f.key b || (f.key a == f.key b && f.sign a && !f.sign b)
    (if less == isMax then b else a, 0)

/-- Equal, less-than, less-or-equal (R63). -/
def fEq (f : Fmt) (a b : Nat) : Bool × FFlags :=
  (!(f.isNan a || f.isNan b) && f.key a == f.key b, fWhen (f.isSnan a || f.isSnan b) fNV)

def fLt (f : Fmt) (a b : Nat) : Bool × FFlags :=
  (!(f.isNan a || f.isNan b) && f.key a < f.key b, fWhen (f.isNan a || f.isNan b) fNV)

def fLe (f : Fmt) (a b : Nat) : Bool × FFlags :=
  (!(f.isNan a || f.isNan b) && f.key a ≤ f.key b, fWhen (f.isNan a || f.isNan b) fNV)

/-! ### Conversions (R69) -/

/-- A NaN taken from one format to another: sign and top payload bits kept, quieted. -/
def nanTo (f g : Fmt) (x : Nat) : Nat :=
  let p := f.frac (f.quiet x)
  g.signBit (f.sign x) + g.infBits +
    (if f.fb ≤ g.fb then p * 2 ^ (g.fb - f.fb) else p >>> (f.fb - g.fb))

/-- Float to float between FP32, BF16 and FP16. -/
def fConv (f g : Fmt) (r : Rnd) (x : Nat) : Nat × FFlags :=
  if f.isNan x then (nanTo f g x, fWhen (f.isSnan x) fNV) else (f.val x).round g r

/-- OFP8 to BF16 or FP32: exact; a NaN gives the default NaN (R69). -/
def fromOfp8 (e4 : Bool) (g : Fmt) (x : Nat) : Nat × FFlags :=
  match ofp8Val e4 x with
  | .nan => (g.defaultNan, 0)
  | v => v.round g .rne

/-- A value rounded to an integer; the flag says inexact. -/
def toInteger (r : Rnd) (s : Bool) (m : Nat) (e : Int) : Int × Bool :=
  let p := roundAt r s m 1 e 0
  ((if s then -(p.1 : Int) else (p.1 : Int)), p.2)

/-- Bits of an integer in two's complement of width `w`. -/
def intBits (w : Nat) (x : Int) : Nat := (x % (2 ^ w : Nat)).toNat

/-- FP32 to a signed integer of width `w` (R69). -/
def fToInt (w : Nat) (r : Rnd) (sat : Bool) (x : Nat) : Nat × FFlags :=
  let hi : Int := (2 ^ (w - 1) : Nat) - 1
  let lo : Int := -((2 ^ (w - 1) : Nat) : Int)
  match fp32.val x with
  | .nan => (0, fNV)
  | .inf s => (intBits w (if s then lo else hi), fNV)
  | .fin s m e =>
    let t := toInteger r s m e
    if t.1 < lo then (intBits w (if sat then lo else t.1), fNV)
    else if hi < t.1 then (intBits w (if sat then hi else t.1), fNV)
    else (intBits w t.1, fWhen t.2 fNX)

/-- A signed integer to FP32 or BF16 (R69). -/
def intToF (g : Fmt) (r : Rnd) (x : Int) : Nat × FFlags :=
  if x == 0 then (0, 0) else roundTo g r (x < 0) x.natAbs 1 0

/-- A signed value of width `w` read from its bits. -/
def signedOf (w x : Nat) : Int :=
  let y := x % 2 ^ w
  if y < 2 ^ (w - 1) then (y : Int) else (y : Int) - ((2 ^ w : Nat) : Int)

/-- An integer saturated to, or cut to, width `w`: its bits (R57, R69). -/
def narrow (w : Nat) (sat : Bool) (x : Int) : Nat :=
  let hi : Int := (2 ^ (w - 1) : Nat) - 1
  let lo : Int := -((2 ^ (w - 1) : Nat) : Int)
  intBits w (if sat then (if x < lo then lo else if hi < x then hi else x) else x)

/-- `fclass` (R225). -/
def fClass (x : Nat) : Nat :=
  let e := fp32.efield x
  let fr := fp32.frac x
  let cls := if e == 0 then (if fr == 0 then 0 else 1)
    else if e == 255 then (if fr == 0 then 3 else if x.testBit 22 then 4 else 5)
    else 2
  let integral := match fp32.val x with
    | .fin s m ex => !(toInteger .rtz s m ex).2
    | _ => false
  e * 256 + b2n integral * 16 + b2n (fp32.sign x) * 8 + cls

/-! ### DEB blocks (R71 to R73) -/

/-- A DEB element expanded into a format: `four` says DEB4, `adj` is A. -/
def debExpand (four : Bool) (g : Fmt) (e0 e1 : Nat) (adj : Int) (x : Nat) : Nat × FFlags :=
  let sel := x.testBit (if four then 3 else 7)
  let s := x.testBit (if four then 2 else 6)
  let m := x % (if four then 4 else 64)
  let e := if sel then e1 else e0
  if e == 255 then (g.defaultNan, 0)
  else if m == 0 then (g.signBit s, 0)
  else
    let k : Int := (e : Int) - (if four then 128 else 132) + adj
    let t := roundTo g .rtz s m 1 k
    if t.2 &&& fOF != 0 then (g.signBit s + g.maxBits, fOF ||| fNX)
    else if t.2 &&& fNX != 0 then (g.signBit s, fUF ||| fNX)
    else t

/-- The exact value of a DEB element (R72). -/
def debVal (four : Bool) (e0 e1 : Nat) (adj : Int) (x : Nat) : Val :=
  let sel := x.testBit (if four then 3 else 7)
  let s := x.testBit (if four then 2 else 6)
  let m := x % (if four then 4 else 64)
  let e := if sel then e1 else e0
  if e == 255 then .nan else .fin s m ((e : Int) - (if four then 128 else 132) + adj)

/-! ### Correctly rounded functions (R184, R308)

Each function is enclosed in an interval of fixed-point numbers; the precision is raised until both ends
round alike. -/

/-- ln 2 times 2^p, from below, by the series of 1 / (k 2^k). -/
def ln2Fix (p : Nat) : Nat :=
  ((List.range (p + 8)).foldl (fun s k => s + 2 ^ (p + 8) / ((k + 1) * 2 ^ (k + 1))) 0) / 2 ^ 8

/-- e^t times 2^p for t = x / 2^p in [0, 1). -/
def expFix (p x : Nat) : Nat :=
  ((List.range p).foldl
    (fun (s : Nat × Nat) k => let t := s.1 * x / ((k + 1) * 2 ^ p); (t, s.2 + t)) (2 ^ p, 2 ^ p)).2

/-- ln y times 2^p for y = a / b in [1, 2], by 2 atanh((y - 1) / (y + 1)). -/
def lnFix (p a b : Nat) : Nat :=
  let z := (a - b) * 2 ^ p / (a + b)
  let z2 := z * z / 2 ^ p
  2 * ((List.range p).foldl
    (fun (s : Nat × Nat) k => (s.1 * z2 / 2 ^ p, s.2 + s.1 / (2 * k + 1))) (z, 0)).2

/-- The result when both ends of an interval (lo, hi) / d * 2^e round alike. -/
def agree (s : Bool) (lo hi d : Nat) (e : Int) : Option (Nat × FFlags) :=
  let a := roundTo fp32 .rne s lo d e
  let b := roundTo fp32 .rne s hi d e
  if a == b then some a else none

/-- Tries growing precisions; the last one's lower end is the fallback. -/
def refine (f : Nat → Option (Nat × FFlags)) (ps : List Nat) (dflt : Nat × FFlags) : Nat × FFlags :=
  match ps with
  | [] => dflt
  | p :: rest =>
    match f p with
    | some r => r
    | none => refine f rest dflt

def precisions : List Nat := [96, 192, 384]

/-- Slack of the fixed-point sums, in units of 2^-p. -/
def fixErr : Nat := 2 ^ 12

/-- 2^x for a rational x = n / 2^k with n positive: integer part, and e^(frac ln 2) at precision p. -/
def exp2Parts (p n k : Nat) : Nat × Nat :=
  let i := n >>> k
  let fr := n % 2 ^ k
  (i, expFix p (fr * ln2Fix p / 2 ^ k))

/-- n * 2^e with a nonpositive exponent, as a numerator over 2^k. -/
def overPow (m : Nat) (e : Int) : Nat × Nat :=
  if 0 ≤ e then (m * 2 ^ e.toNat, 0) else (m, (-e).toNat)

/-- Just above or just below 2^k, for results whose distance from it no rounding sees. -/
def nearPow (k : Int) (above : Bool) : Nat × FFlags :=
  roundTo fp32 .rne false (if above then 2 ^ 60 + 1 else 2 ^ 60 - 1) 1 (k - 60)

def sfnExp2 (s : Bool) (m : Nat) (e : Int) : Nat × FFlags :=
  if m == 0 then (0x3F800000, 0)
  else
    let l := floorLog2 m 1 e
    if l < -27 then nearPow 0 (!s)
    else if 8 ≤ l then (if s then roundTo fp32 .rne false 1 1 (-300) else roundTo fp32 .rne false 1 1 300)
    else
      let q := overPow m e
      if q.1 % 2 ^ q.2 == 0 then
        let i : Int := (q.1 >>> q.2 : Nat)
        roundTo fp32 .rne false 1 1 (if s then -i else i)
      else
        -- 2^-x = 2^(-i-1) * 2^(1-f)
        let n := if s then ((q.1 >>> q.2) + 1) * 2 ^ q.2 - q.1 else q.1
        let base : Int := if s then -(((q.1 >>> q.2) + 1 : Nat) : Int) else 0
        refine (fun p =>
          let t := exp2Parts p n q.2
          agree false (t.2 - fixErr) (t.2 + fixErr) 1 (base + t.1 - p)) precisions (0, fNX)

/-- log2 (or ln) of m * 2^e > 0 that is not an exact power of two (for log2) and not 1 (for ln). -/
def logParts (two : Bool) (m : Nat) (e : Int) (p : Nat) : Int :=
  let k := Nat.log2 m
  let x : Int := (k : Int) + e
  let l : Int := (lnFix p m (2 ^ k) : Nat)
  let l2 : Int := (ln2Fix p : Nat)
  if two then x * (2 ^ p : Nat) + (l * (2 ^ p : Nat)) / l2 else x * l2 + l

def sfnLog (two : Bool) (m : Nat) (e : Int) : Nat × FFlags :=
  let k := Nat.log2 m
  if m == 2 ^ k && (two || (k : Int) + e == 0) then
    let x : Int := (k : Int) + e
    if x == 0 then (0, 0) else roundTo fp32 .rne (x < 0) x.natAbs 1 0
  else
    refine (fun p =>
      let t := logParts two m e p
      let err : Int := (2 ^ 24 : Nat)
      if t - err ≤ 0 && 0 ≤ t + err then none
      else agree (t < 0) (t.natAbs - 2 ^ 24) (t.natAbs + 2 ^ 24) 1 (-(p : Int))) precisions (0, fNX)

/-- e^-a for a = m * 2^e > 0: (k, v) with e^-a = v / 2^p * 2^-k. -/
def expNeg (m : Nat) (e : Int) (p : Nat) : Nat × Nat :=
  let q := overPow m e
  let a := q.1 * 2 ^ p / 2 ^ q.2
  let l2 := ln2Fix p
  let k := a / l2 + 1
  (k, expFix p (k * l2 - a))

def sfnTanh (s : Bool) (m : Nat) (e : Int) : Nat × FFlags :=
  if m == 0 then (fp32.signBit s, 0)
  else
    let l := floorLog2 m 1 e
    if l < -13 then roundTo fp32 .rne s (m * 2 ^ 40 - 1) 1 (e - 40)
    else if 4 < l then
      let r := nearPow 0 false
      (fp32.signBit s + r.1, r.2)
    else
      refine (fun p =>
        let t := expNeg (2 * m) e p
        let u := t.2 >>> t.1
        -- (1 - u) / (1 + u)
        let num := 2 ^ p - u
        let den := 2 ^ p + u
        let q := num * 2 ^ p / den
        agree s (q - 2 ^ 14) (q + 2 ^ 14) 1 (-(p : Int))) precisions (0, fNX)

def sfnSigm (s : Bool) (m : Nat) (e : Int) : Nat × FFlags :=
  if m == 0 then (0x3F000000, 0)
  else
    let l := floorLog2 m 1 e
    if l < -27 then nearPow (-1) (!s)
    else if 7 < l then (if s then roundTo fp32 .rne false 1 1 (-300) else nearPow 0 false)
    else
      refine (fun p =>
        let t := expNeg m e p
        -- u = t.2 / 2^(p + t.1); sigm(-a) = u / (1 + u), sigm(a) = 1 / (1 + u)
        let one := 2 ^ (p + t.1)
        let num := if s then t.2 else one
        let den := one + t.2
        let q := num * 2 ^ (p + (if s then t.1 else 0)) / den
        agree false (q - 2 ^ 14) (q + 2 ^ 14) 1 (-((p + (if s then t.1 else 0) : Nat) : Int))) precisions (0, fNX)

/-- 1 / √(m * 2^e), with a sticky bit. -/
def rsqrtRound (m : Nat) (e : Int) : Nat × FFlags :=
  let odd := e % 2 != 0
  let m1 := if odd then 2 * m else m
  let e1 := if odd then e - 1 else e
  let r := isqrt (2 ^ 200 / m1)
  let exact := r * r * m1 == 2 ^ 200
  roundTo fp32 .rne false (2 * r + (if exact then 0 else 1)) 1 (-100 - e1 / 2 - 1)

/-- SFN by its SUB (R184): an FP32 pattern and the flags. -/
def sfn (sub x : Nat) : Nat × FFlags :=
  if fp32.isNan x then (fp32.quiet x, fWhen (fp32.isSnan x) fNV)
  else match sub, fp32.val x with
    | 0, .inf s => (if s then 0 else 0x7F800000, 0)
    | 0, .fin s m e => sfnExp2 s m e
    | 1, .inf s => if s then invalid fp32 else (x, 0)
    | 1, .fin s m e => if m == 0 then (0xFF800000, fDZ) else if s then invalid fp32 else sfnLog true m e
    | 2, .inf s => (fp32.signBit s, 0)
    | 2, .fin s m e =>
      if m == 0 then (fp32.signBit s + fp32.infBits, fDZ) else roundTo fp32 .rne s 1 m (-e)
    | 3, .inf s => if s then invalid fp32 else (0, 0)
    | 3, .fin s m e =>
      if m == 0 then (fp32.signBit s + fp32.infBits, fDZ)
      else if s then invalid fp32 else rsqrtRound m e
    | 4, _ => fSqrt fp32 .rne x
    | 5, .inf s => (fp32.signBit s + 0x3F800000, 0)
    | 5, .fin s m e => sfnTanh s m e
    | 6, .inf s => (if s then 0 else 0x3F800000, 0)
    | 6, .fin s m e => sfnSigm s m e
    | _, _ => (x, 0)

end Sys2Proof.Machine
end

