-- ==== Sys2Proof/Machine/State.lean ====
section
/-! DEFINITION. The state of a VB-41 module as seen from one modelled core, as plain data. The list of
all of it, with its rule and reset value, is under "State" in INVENTORY.md. -/

namespace Sys2Proof.Machine

/-- Reasons for which the model stops. -/
inductive Fault where
  /-- Raised by `step` alone, when the agenda names a row that is no step of another agent (an
  instruction of the clerk or a command): the spec gives no such event. Safe: the model stops. -/
  | agendaHoldsInstruction
  deriving DecidableEq, Repr

/-- Reasons for which the model refuses an instruction. -/
inductive Refusal where
  /-- Raised by `exec` for an instruction with no meaning yet, by its mnemonic. Safe. -/
  | notModelled (mnemonic : String)
  deriving DecidableEq, Repr

/-- STATUS.MODE (R206, R319). -/
inductive Mode where
  | task | supervisor
  deriving DecidableEq, Repr

/-- What the clerk is doing: no task on the core; issuing; waiting in `wfe` (R255); stopped by `halt`
(R255); gated for a pre-emption (R325) or by a FAULTEND of its own task (R347); in DOUBLE-HALT (R321). -/
inductive Run where
  | idle | running | wfe | halted | gated | doubleHalt
  deriving DecidableEq, Repr

/-- A pending asynchronous cause with what its first occurrence left (R318). -/
structure Pend where
  code : Byte
  faddr : Nat
  detail : Dword
  deriving DecidableEq, Repr

/-- Where an access is performed: its home and the place there (R17, R18, R23, R29). `page` is tile
byte `off` of compressed page `t` of a core. -/
inductive Place where
  | mem (pa : Nat)
  | peer (modl pa : Nat)
  | bank (core off : Nat)
  | own (off : Nat)
  | ctrl (off : Nat)
  | page (core t off : Nat)
  deriving DecidableEq, Repr

/-- The atomics of R235. -/
inductive AtomicOp where
  | add | and | or | xor | min | max | minu | maxu | swap | cas | fadd
  deriving DecidableEq, Repr

/-- Where a `join` stands: it has issued and not reached the desk; it waits as a member, or for a formed cohort to
dissolve; or the id it waited for turns out to form with another count (R140). -/
inductive JoinStage where
  | issued | waits | refused
  deriving DecidableEq, Repr

/-- An operation on the tag table (R41). -/
inductive TagOp where
  | look | ins | del
  deriving DecidableEq, Repr

/-- What an issued and unfinished instruction still does (R200, R230). `arm` and `rls` hold the place of their TCB. -/
inductive Work where
  | load (w : LoadWidth) (pl : Place)
  | loadK (pl : Place)
  | store (n : Nat) (pl : Place) (v : Nat)
  | atomic (op : AtomicOp) (pl : Place) (b c : Dword) (o : AmoOrder)
  | result (v : Dword)
  | waitw (pl : Place) (v : Word)
  | acquire (obj : Place) (excl : Bool) (queued : Bool)
  | release (obj : Place)
  | join (id : Nat) (st : JoinStage)
  | tag (op : TagOp) (addr : Nat)
  | bind (obj base len : Nat)
  | unbind (base : Nat)
  | xbank (w : Qword)
  | hwait (h : Nat)
  | spawn (tcb : Nat)
  | arm (pl : Place) (tcb cnt : Nat)
  | rls (pl : Place) (tcb : Nat)
  deriving DecidableEq, Repr

/-- An unfinished instruction, with the fields of its replay entry (R317), the address it touches in the
form the loan directory and the bindings use (R350), the value that its performance returned, the Span port of the module
by which its request went out and whether that has gone down since (R339), whether it issued while a first touch of its
task waited (R126), and whether its checks (R232) have still to be made, since the walk that they need was in flight at its
issue, or an earlier instruction had still to be checked (R32, R200). -/
structure Unfin where
  op : Byte
  func : BitVec 9
  w1 : BitVec 6
  pc : BitVec 48
  kd : Bool
  dest : Reg
  ea : Nat
  b : Dword
  c : Dword
  canon : Nat
  work : Work
  done : Option Qword
  port : Option Nat
  lost : Bool
  behind : Bool
  unchecked : Bool
  deriving DecidableEq, Repr

/-- An entry of the hold list (R238): object address, its home, mode, and whether it is held or only
requested. -/
structure Hold where
  obj : Nat
  home : Place
  excl : Bool
  held : Bool
  deriving DecidableEq, Repr

/-- What a latch holds: an instruction, or an encoding that R205 rejects (1: reserved, 0: illegal). -/
inductive Latched where
  | instr (i : Instr)
  | reject (reserved : Bool)
  deriving DecidableEq, Repr

/-- The operands of an instruction that trapped at issue, for which its replay entry has no field: the values of its
registers then (R317). Log 20 (DESIGN CHOICE). -/
structure Latch where
  pc : BitVec 48
  what : Latched
  regs : List (Reg × Dword)
  kregs : List (KReg × Qword)
  deriving DecidableEq, Repr

/-- A replay entry that `trapret` performs again at its PC (R231, R317, R320): the entry, the resume PC of the frame,
its latch, and the entries that follow it. -/
structure Redo where
  u : Unfin
  rpc : BitVec 48
  latch : Option Latch
  rest : List (List Nat)
  deriving DecidableEq, Repr

/-- The clerk (R199, R207, R238, R319). `kept` are the instructions that a trap found issued and unfinished, whose requests
are under way and which a replay entry with their PC and EA goes on with (R230, R320). -/
structure Clerk where
  regs : Vector Dword 32
  pres : BitVec 32
  kregs : Vector Qword 8
  kpres : BitVec 8
  pc : BitVec 48
  mode : Mode
  sstep : Bool
  frozen : Bool
  stepping : Bool
  stepped : Option (BitVec 48)
  pend : List Pend
  tvec : Dword
  cause : Dword
  faddress : Dword
  causeb : Dword
  addrb : Dword
  fpstat : Dword
  fpctl : Dword
  cmdbase : Dword
  holds : List Hold
  unfin : List Unfin
  run : Run
  wfeEvent : Bool
  redo : Option Redo
  latches : List Latch
  kept : List Unfin
  joinQueued : Bool
  deriving DecidableEq, Repr

/-- A token (R155). -/
structure Token where
  kind : BitVec 4
  payload : Word
  deriving DecidableEq, Repr

/-- The internal state of an operator (R327): RED's partials by copy; the number of elements dealt to copies;
CARRY's state, iteration, count and last barrier; GEN's position by dimension, its count and whether its sweep has
ended; by copy, what SEG, CONV, SHUF `xpose` or MEM `exit` has gathered, and SEG's blocks; SHUF's window; tokens
formed and not yet in OUT0's emit queue; MERGE's last-taken input; MEM's element index. -/
structure OpState where
  partials : List (Option Word)
  elem : Nat
  busy : Bool
  iter : Nat
  limit : Nat
  lastBar : Option Byte
  idx : List Nat
  count : Nat
  fin : Bool
  bufs : List (List Token)
  blks : List Nat
  reg : List Token
  outq : List Token
  last : Bool
  k : Nat
  deriving DecidableEq, Repr

/-- A fabric element: its configuration registers, its place in the load of a folio, its FIFOs, windows,
emit queues and track registers, and its operator's state (R157, R163, R166, R173 to R176). The crossing
for direction `d` and track `t` is nibble `4 * d + t` of `xing`. A waiting word has the number of the folio load
it belongs to, none for one of `scfg`. -/
structure Fe where
  kind : Word
  route : Word
  xing : Dword
  rate : Word
  repl : Word
  start : Word
  p : Vector Word 8
  configured : Bool
  live : Bool
  startPending : Bool
  sealed : Bool
  waiting : List (Dword × Option Nat)
  fifo : List (List Token)
  window : List (List Token)
  emit : List (List Token)
  track : List (Option Token)
  op : OpState
  pos : Nat
  discard : List Bool
  deriving DecidableEq, Repr

/-- Who made an outstanding request of the fabric, or is a source or a sink of a barrier: an FE, a port (its emit lane
where lanes are told apart), a port's absorb lane, an engine, its plane port, the TMU, a copy engine. -/
inductive UnitRef where
  | fe (row col : Nat)
  | lane (p : Nat)
  | absorb (p : Nat)
  | me (e : Nat)
  | plane (e : Nat)
  | tmu
  | ce (e : Nat)
  deriving DecidableEq, Repr

/-- What a MEM request does at its home (R191). -/
inductive ReqKind where
  | load (n : Nat) (signed : Bool)
  | store (n : Nat)
  | atomic (op : AtomicOp)
  | tagLoad
  | xf
  | const
  | none
  deriving DecidableEq, Repr

/-- The stage of a request: waiting for a page walk (R32), stalled on a translation fault (R34), waiting to be
performed (for a loan, too: R120), performed with a value, or lost with the Span port by which it went out (R339). -/
inductive Stage where
  | walking | stalled (reason level : Nat) | waiting | performed (v : Word) | lost
  deriving DecidableEq, Repr

/-- An outstanding request of the fabric (R110), with the Span port of the module by which it went out. Each copy of a
replicated MEM is a party of its own (R92). -/
structure Req where
  who : UnitRef
  copy : Nat
  kind : ReqKind
  va : Nat
  data : Qword
  stage : Stage
  record : Bool
  port : Option Nat
  deriving DecidableEq, Repr

/-- An item of a stream port's queue: a command with its sampled fields, or the configuration words of folio
load `id` for the port's row (R166, R256). -/
inductive PortItem where
  | cmd (i : Instr)
  | cfg (id : Nat) (ws : List Dword)
  deriving DecidableEq, Repr

/-- A command that a lane has taken, with its progress (R256): data tokens formed or taken, the row, element or
tile and the place in it, whether its claim is made, the words of memory that it goes by, the tokens formed and not
yet emitted, or taken and not yet acted on, and whether it forms or takes no more. -/
structure LaneCmd where
  cmd : Instr
  n : Nat
  i : Nat
  j : Nat
  claimed : Bool
  hdr : List Word
  out : List Token
  closing : Bool
  deriving DecidableEq, Repr

/-- A stream port (R256 to R272). `inq` are the tokens that wait at the absorb lane, in arrival order with their
tracks. `bnd` is the level of the boundary at which the emit lane stands, 8 where it is one of every level. -/
structure Port where
  queue : List PortItem
  emitCmd : Option LaneCmd
  absCmd : Option LaneCmd
  inq : List (Nat × Token)
  reqq : List Token
  plvl : BitVec 3
  gated : Bool
  gate : Option (BitVec 3)
  cut : Option (BitVec 3)
  sealed : Bool
  sealToks : List Word
  snap : Dword
  snapv : Bool
  serialE : Half
  serialA : Half
  posE : Word
  posA : Word
  bnd : Nat
  deriving DecidableEq, Repr

/-- A plane of a matrix engine (R275). -/
inductive PlaneFmt where
  | none | bf16 | int8 | st24
  deriving DecidableEq, Repr

structure Plane where
  pf : PlaneFmt
  pn : Nat
  exps : List Byte
  cols : List (List (BitVec 24))
  deriving DecidableEq, Repr

/-- Kind of a column of an accumulator bank (R278). An EMPTY one keeps its exponent and no cells. -/
inductive ColKind where
  | empty | int | fp
  deriving DecidableEq, Repr

/-- A column of an accumulator bank, with its exponent and 64 cells (R278). -/
structure Col where
  n : Nat
  kind : ColKind
  exp : Byte
  cells : List Dword
  deriving DecidableEq, Repr

/-- An accumulator bank (R278), with the columns that are not EMPTY or whose exponent is not 0; `second` says that it is its
owner's second bank. -/
structure Bank where
  owner : Option (BitVec 12)
  second : Bool
  cols : List Col
  deriving DecidableEq, Repr

/-- A command in an engine's queue, with whether it has begun and how far it is. -/
structure EngCmd where
  cmd : Instr
  begun : Bool
  pos : Nat
  fin : Bool
  deriving DecidableEq, Repr

/-- A matrix engine (R273 to R297). By A channel: the tokens that wait, those of a row in part, the whole rows
taken, and whether the channel discards. `tile` is a burst in part, head first; `drain` are the tokens that a command has yet
to emit, and `emitq` is the emit queue of the drain port. -/
structure Me where
  queue : List EngCmd
  afifo : List (List Token)
  apart : List (List Token)
  arows : List (List (List Token))
  adiscard : List Bool
  pfifo : List Token
  tile : List Token
  drain : List Token
  emitq : List Token
  active : Plane
  shadow : Plane
  bank0 : Bank
  bank1 : Bank
  prim : Bool
  second : Bool
  flags : BitVec 6
  done : Word
  pcyc : Dword
  sealed : Bool
  apos : Nat
  deriving DecidableEq, Repr

/-- A concordance (R301). -/
structure Conc where
  n : Nat
  m : Nat
  dst : List Nat
  insize : List Nat
  outsize : List Nat
  deriving DecidableEq, Repr

/-- Issued state of a concordance slot (R305). -/
inductive SlotState where
  | free | ready | lost
  deriving DecidableEq, Repr

structure Slot where
  st : SlotState
  old : SlotState
  c : Option Conc
  deriving DecidableEq, Repr

/-- The token-merge unit (R298 to R313). `rows` and `part` are the input of the command in progress, `inEnd` says that
its end has been taken; `emitting` are the tokens it still emits, `emitted` those that have gone to `out`, and `begun`
says that it has begun to emit. `bars` are barriers taken, each with the number of accepted commands that it follows
(R354); `accepted` and `ended` count commands. `skip` are the ends still to be discarded after a resumption, `drained`
those that the drain of a pre-emption discarded (R313). `inpos` counts tokens taken. -/
structure Tmu where
  queue : List EngCmd
  infifo : List Token
  rows : List (List Word)
  part : List Word
  inEnd : Bool
  emitting : List Token
  emitted : Nat
  begun : Bool
  out : List Token
  slots : List Slot
  bars : List (Nat × Token)
  accepted : Nat
  ended : Nat
  done : Word
  disc : Byte
  sealed : Bool
  skip : Nat
  drained : Nat
  inpos : Nat
  deriving DecidableEq, Repr

/-- STATE of a copy channel (R80). -/
inductive CeState where
  | idleOwn | idleEnd | run | wait | stopped
  deriving DecidableEq, Repr

/-- Bytes that a unit has read at [va, va + len), or why they cannot be read: a status with the address it names. -/
structure Piece where
  va : Nat
  len : Nat
  bytes : List Byte
  fail : Option (Nat × Nat)
  deriving DecidableEq, Repr

/-- Bytes that a copy engine has still to write from `va` on, of a write of the addresses `cover`; one step writes those
of a 64-byte block or, where `entries`, the ST24 entries that lie in one. -/
structure WriteRun where
  va : Nat
  entries : Bool
  bytes : List Byte
  cover : Nat × Nat
  deriving DecidableEq, Repr

/-- What a channel does next for a record that it has read (R83). -/
inductive CeStage where
  | payload | completion | handle | word0 | next
  deriving DecidableEq, Repr

/-- A copy engine's channel (R80 to R87). `held`: source bytes read and still needed. `scan`: how many source bytes of a
record that reads its whole source first have been read (R85, R341). `out` and `formed`: what is still to be written of a
row of BUILD, COMPRESS or DECOMPRESS, with the bytes of the stream that the row takes and its flags. `stop`: the status and
address with which the record stops once word 0 has been written (R86). `chain`: CEHEAD names a record of a chain that has
run. `owner`: the task that started the chain, none for one that a task deferred to its end (R123, R127, R246). `watched`: a
watchpoint that one of its records matched may be pending (R332). -/
structure Ce where
  head : Nat
  ctx : BitVec 12
  status : Byte
  err : Bool
  state : CeState
  progRows : Word
  progElems : Word
  erra : Nat
  kick : Bool
  rcd : List Dword
  counted : Bool
  bytes : Nat
  outPos : Nat
  held : List Piece
  scan : Option Nat
  out : List WriteRun
  formed : Option (Nat × BitVec 5)
  stage : CeStage
  stop : Option (Nat × Nat)
  nvme : Bool
  chain : Bool
  owner : Option TaskKey
  watched : Bool
  deriving DecidableEq, Repr

/-- STATE of a buffer handle (R88). -/
inductive HState where
  | free | filling | full | draining
  deriving DecidableEq, Repr

structure Handle where
  bytes : Word
  err : Byte
  pend : Byte
  fseen : Bool
  st : HState
  deriving DecidableEq, Repr

/-- An entry-queue descriptor of the resident image (R164) with the queue's positions (R135). -/
structure EntryQ where
  folio : BitVec 3
  port : BitVec 4
  cap : Half
  esize : Half
  base : Nat
  rd : Nat
  cnt : Nat
  pos : Nat
  deriving DecidableEq, Repr

/-- A barrier (R161, R252): its id, the units that have injected it, the sinks that routing led from them to, the sinks it has
reached, the units that have accepted a command for it and are yet to inject it, and the units that have injected it and
whose runs pass an element with configuration words still to be applied, so that their sinks are not settled. The last two
lists hold beside each unit the number of the most recent folio load at the time of its command. -/
structure Barrier where
  id : Byte
  sources : List UnitRef
  sinks : List UnitRef
  reached : List UnitRef
  due : List (UnitRef × Nat)
  untraced : List (UnitRef × Nat)
  deriving DecidableEq, Repr

/-- A folio being applied (R166, R167): the elements it names, the places of its words not yet applied, and the
elements that its START words make live, in list order. -/
structure FolioLoad where
  id : Nat
  named : List (Nat × Nat)
  left : List (Nat × Nat)
  starts : List (Nat × Nat)
  deriving DecidableEq, Repr

/-- The grid and the folio scheduler of a core (R135 to R138, R162 to R169). The map is by physical row and
column; an element that is not listed is as at reset. `entryPending` is the number of folio ENTRY while no other folio
has been sent since the task entered (R168); `held` are the bytes that lanes and engines have read for what they do next
(R36). -/
structure Fabric where
  fes : List ((Nat × Nat) × Fe)
  image : Option Nat
  folio : Option Nat
  entryPending : Option Nat
  qs : List EntryQ
  skips : List Nat
  loads : List FolioLoad
  loadId : Nat
  bars : List Barrier
  reqs : List Req
  held : List (UnitRef × Piece)
  deriving DecidableEq, Repr

/-- A watchpoint (R332). -/
structure Watch where
  base : Dword
  ctl : Dword
  deriving DecidableEq, Repr

/-- What a core saves for a pre-empted task (R326, R327), and what a task entry resets. -/
structure Core where
  clerk : Clerk
  fab : Fabric
  ports : List Port
  mes : List Me
  tmu : Tmu
  ces : List Ce
  handles : List Handle
  watches : List Watch
  mto : Nat
  wdg : Nat
  deriving DecidableEq, Repr

/-- State of a declared loan set (R128). -/
inductive LoanState where
  | declared | borrowed | waiting
  deriving DecidableEq, Repr

structure Decl where
  base : Nat
  len : Nat
  st : LoanState
  deriving DecidableEq, Repr

/-- An operation deferred to task end (R127). -/
inductive Deferred where
  | spawn (tcb : Nat)
  | chain (e : BitVec 1) (head : Nat)
  deriving DecidableEq, Repr

/-- A task's records that live outside its saved state (R121, R122, R127, R148, R326). `ctx` is the context in which it
runs, CTX of its TCB (R31). -/
structure TaskRec where
  key : TaskKey
  ctx : BitVec 12
  part : BitVec 4
  core : Nat
  age : Nat
  prio : Nat
  decls : List Decl
  undo : Nat
  undoCap : Nat
  undoUsed : Nat
  logged : List Nat
  deferred : List Deferred
  map : Byte
  deriving DecidableEq, Repr

/-- An entry of a desk's order (R150, R152). `left` is the core to which a pre-empted task returns. -/
structure Ready where
  key : TaskKey
  prio : Nat
  enqt : Nat
  wings : Byte
  aff : BitVec 20
  part : BitVec 4
  map : Byte
  left : Option Nat
  deriving DecidableEq, Repr

/-- A core that runs a task (R150, R152). -/
structure Occ where
  core : Nat
  key : TaskKey
  prio : Nat
  since : Nat
  deriving DecidableEq, Repr

/-- A member of a cohort (R140 to R142). -/
structure Member where
  key : TaskKey
  core : Nat
  running : Bool
  cbars : Nat
  passed : Nat
  rank : Option Nat
  deriving DecidableEq, Repr

structure Cohort where
  ctx : BitVec 12
  id : Nat
  count : Nat
  formed : Bool
  members : List Member
  deriving DecidableEq, Repr

/-- A request queued at an object's home (R107). -/
structure ObjWait where
  key : TaskKey
  excl : Bool
  deriving DecidableEq, Repr

structure ObjQueue where
  home : Place
  queue : List ObjWait
  deriving DecidableEq, Repr

/-- An entry of a context's binding table (R106). `obj` and `base` are canonical addresses. -/
structure Binding where
  ctx : BitVec 12
  idx : Nat
  obj : Nat
  home : Place
  base : Nat
  len : Nat
  deriving DecidableEq, Repr

/-- An entry of a wing's loan directory (R119). -/
structure DirEntry where
  wing : Nat
  ctx : BitVec 12
  base : Nat
  len : Nat
  holder : TaskKey
  age : Nat
  queue : List (TaskKey × Nat)
  deriving DecidableEq, Repr

/-- A TLB entry: one page of any size (R32). -/
structure Tlb where
  ctx : BitVec 12
  base : Nat
  size : Nat
  leaf : Dword
  deriving DecidableEq, Repr

/-- A page walk in flight (R32). -/
structure Walk where
  ctx : BitVec 12
  page : Nat
  joined : Nat
  deriving DecidableEq, Repr

/-- The registers and queue of a wing's desk, and the wing's other registers (R147, R151, R325, R333,
R337, R339, R343). -/
structure Wing where
  launchst : Dword
  quantum : Half
  period : BitVec 14
  partmap0 : Dword
  partmap1 : Dword
  faultlog : Dword
  fheadCount : Word
  fheadDrop : Word
  faulttail : Word
  ptimeout : Half
  ready : List Ready
  eccCorr : Word
  eccUnc : Word
  eccaddr : Dword
  wpwr : BitVec 2
  wpwrReq : Option (BitVec 2)
  spanReplay : List Word
  spanLanes : List (BitVec 4)
  spanUp : List Bool
  spanFails : List Nat
  cxlBytes : Nat
  deriving DecidableEq, Repr

/-- PARTCUR of a partition (R147, R328). -/
structure PartCur where
  v : Bool
  ctx : BitVec 12
  swap : Option (BitVec 12)
  err : Bool
  deriving DecidableEq, Repr

/-- A tag-table entry (R40). -/
structure TagEntry where
  user : Dword
  tag : BitVec 36
  pin : Nat
  v : Bool
  deriving DecidableEq, Repr

/-- A tile's entry in the offset table of a compressed page (R46). -/
structure TileEnt where
  fmt : BitVec 2
  slot : Nat
  len : Nat
  off : Nat
  deriving DecidableEq, Repr

/-- A compressed page of the core (R43). `grow` holds the layout in progress: the tile written and its
1,024 bytes (R50). -/
structure CPage where
  v : Bool
  lock : Bool
  resv : Nat
  base : Nat
  used : Nat
  ents : List TileEnt
  grow : Option (Nat × List Byte)
  deriving DecidableEq, Repr

/-- A network message: its length and the bytes of it that are present (R331). -/
structure NiMsg where
  len : Nat
  have_ : Nat
  deriving DecidableEq, Repr

/-- Why a pre-emption of the core runs (R325): QUANTUM, a partition swap, or `tyield`. -/
inductive PreemptWhy where
  | quantum | swap | yield
  deriving DecidableEq, Repr

/-- Registers of the module block not held elsewhere (R31, R33, R90, R329, R335, R342, R343, R344). -/
structure Module where
  ctxtab : Dword
  xinvBusy : Bool
  xinvErr : Bool
  killCtx : BitVec 12
  killErr : Bool
  killDone : Bool
  savetab : Dword
  partcur : List PartCur
  ptvec : List Dword
  owner : Option (BitVec 2)
  ownPend : BitVec 4
  ownErr : Bool
  pwrlim : Half
  modcfg : List Dword
  bootstat : Bool
  nonce : List Byte
  attDest : Nat
  attBusy : Bool
  attDone : Dword
  age : Nat
  deriving DecidableEq, Repr

/-- What happens outside the core and is no row of the opcode table: a task of another core joins or leaves a cohort, arrives
at its `cbar` (R140 to R142), declares a loan set or touches declaration `i` (R118, R120), spawns a task (R148) or ends
(R246); it stores, or performs an atomic that leaves the value `v`, at its address `va` (R20, R93, R143, R332); a party that
is no task of a core stores at a home (R95); the storage controller reports an error of the NVMe read of channel `e`'s record
(R341); the network interface is given a message, or bytes of the last one (R331); an error is corrected at a wing, or found
uncorrectable in the protected unit of a key, or in the store of a unit of the core: a plane, an accumulator, a queue (R333).
-/
inductive Outside where
  | join (t : TaskKey) (id count : Nat)
  | leave (t : TaskKey)
  | cbar (t : TaskKey)
  | loan (t : TaskKey) (base len : Nat)
  | touch (t : TaskKey) (i : Nat) (write : Bool)
  | spawn (t : TaskKey) (tcb : Nat)
  | tend (t : TaskKey)
  | taskStore (t : TaskKey) (va n v : Nat)
  | taskAtomic (t : TaskKey) (va n v : Nat)
  | store (key n v : Nat)
  | nvmeReadError (e : Nat)
  | niPut (len : Nat)
  | niBytes (n : Nat)
  | corrected (wing : Nat)
  | poison (key : Nat)
  | unitError (u : UnitRef)
  deriving DecidableEq, Repr

/-- The registers of another core that keep what software stores in them: TAGCFG, the watchpoints and WDCFG (R22, R38,
R330, R332). -/
structure FarCore where
  tagcfg : Dword
  watches : List Watch
  mto : Nat
  wdg : Nat
  deriving DecidableEq, Repr

def FarCore.reset : FarCore := { tagcfg := 0, watches := List.replicate 4 ⟨0, 0⟩, mto := 26, wdg := 24 }

/-- The machine. `farCores` and `farSaved` are the stored registers of other cores and those that tasks pre-empted there take
with them (R326). `skid` are the banks at which a remote atomic has matched while 0x11 pends, each with whether one more has
been performed there since (R332); `nextTask` are the tasks for which a core is kept: one that a QUANTUM pre-emption frees, or
on which their start waits (R152). -/
structure State where
  coreId : Nat
  gridmap : BitVec 5
  cycle : Dword
  timer : Nat
  stepNo : Nat
  mem : List Host.Cell
  poison : List Nat
  core : Core
  task : Option TaskKey
  shadow : List (TaskKey × Core)
  recs : List TaskRec
  cohorts : List Cohort
  objs : List ObjQueue
  binds : List Binding
  dir : List DirEntry
  occ : List Occ
  recent : List (BitVec 12)
  preempting : Option PreemptWhy
  recalling : List TaskKey
  tagcfg : Dword
  tagVictim : List Nat
  tags : List (Nat × TagEntry)
  pages : List CPage
  farPages : List ((Nat × Nat) × CPage)
  farCores : List (Nat × FarCore)
  farSaved : List (TaskKey × FarCore)
  icache : List (Nat × Word)
  tlb : List Tlb
  l2tlb : List Tlb
  walks : List Walk
  wings : List Wing
  modl : Module
  hostMem : List (Nat × Nat)
  hostRead : Option Dword
  niOut : List NiMsg
  niFlight : List NiMsg
  niIn : List NiMsg
  niGot : Nat
  skid : List (Nat × Bool)
  nextTask : List (Nat × TaskKey)
  nvmeWin : List (Nat × Nat × Nat)
  outside : List Outside
  agenda : List (Option Instr)
  deriving DecidableEq, Repr

/-! ### Reset -/

/-- An operator as a task entry leaves it. -/
def OpState.reset : OpState :=
  { partials := [], elem := 0, busy := false, iter := 0, limit := 0, lastBar := none, idx := [], count := 0
    fin := false, bufs := [], blks := [], reg := [], outq := [], last := true, k := 0 }

/-- Every configuration register of an FE reads 0 at reset (chapter 11). -/
def Fe.reset : Fe :=
  { kind := 0, route := 0, xing := 0, rate := 0, repl := 0, start := 0, p := Vector.replicate 8 0
    configured := false, live := false, startPending := false, sealed := false, waiting := []
    fifo := [[], [], [], []], window := [[], [], [], []], emit := [[], [], [], []]
    track := List.replicate 16 none, op := OpState.reset, pos := 0, discard := [false, false, false] }

/-- A stream port at task entry (R266, R270). -/
def Port.reset : Port :=
  { queue := [], emitCmd := none, absCmd := none, inq := [], reqq := [], plvl := 7, gated := false, gate := none, cut := none
    sealed := false, sealToks := [], snap := 0, snapv := false, serialE := 0, serialA := 0
    posE := 0, posA := 0, bnd := 8 }

def Plane.reset : Plane := ⟨.none, 0, [], []⟩

def Bank.reset : Bank := ⟨none, false, []⟩

/-- A matrix engine at reset (R275, R278, R295). -/
def Me.reset : Me :=
  { queue := [], afifo := List.replicate 8 [], apart := List.replicate 8 [], arows := List.replicate 8 []
    adiscard := List.replicate 8 false, pfifo := [], tile := [], drain := [], emitq := [], active := Plane.reset, shadow := Plane.reset
    bank0 := Bank.reset, bank1 := Bank.reset, prim := false, second := false, flags := 0, done := 0
    pcyc := 0, sealed := false, apos := 0 }

/-- The TMU at task entry (R305, R311). -/
def Tmu.reset : Tmu :=
  { queue := [], infifo := [], rows := [], part := [], inEnd := false, emitting := [], emitted := 0, begun := false
    out := [], slots := List.replicate 16 ⟨.free, .free, none⟩, bars := [], accepted := 0, ended := 0, done := 0
    disc := 0, sealed := false, skip := 0, drained := 0, inpos := 0 }

/-- A channel at reset: STATE 1 (R80). -/
def Ce.reset : Ce :=
  { head := 0, ctx := 0, status := 0, err := false, state := .idleEnd, progRows := 0, progElems := 0
    erra := 0, kick := false, rcd := [], counted := false, bytes := 0, outPos := 0, held := []
    scan := none, out := [], formed := none, stage := .payload, stop := none, nvme := false, chain := false
    owner := none, watched := false }

def Handle.reset : Handle := ⟨0, 0, 0, false, .free⟩

def Fabric.reset : Fabric :=
  { fes := [], image := none, folio := none, entryPending := none, qs := []
    skips := List.replicate 8 0, loads := [], loadId := 0, bars := [], reqs := [], held := [] }

/-- The clerk before any task has entered: the spec gives the values at task entry (R11, R319); before
it no instruction is fetched. Log 3 (DESIGN CHOICE). -/
def Clerk.reset : Clerk :=
  { regs := Vector.replicate 32 0, pres := BitVec.allOnes 32, kregs := Vector.replicate 8 0
    kpres := BitVec.allOnes 8, pc := 0, mode := .task, sstep := false, frozen := false
    stepping := false, stepped := none, pend := [], tvec := 0, cause := 0, faddress := 0, causeb := 0, addrb := 0
    fpstat := 0, fpctl := 0, cmdbase := 0, holds := [], unfin := [], run := .idle, wfeEvent := false
    redo := none, latches := [], kept := [], joinQueued := false }

def Core.reset : Core :=
  { clerk := Clerk.reset, fab := Fabric.reset, ports := List.replicate 16 Port.reset
    mes := [Me.reset, Me.reset], tmu := Tmu.reset, ces := [Ce.reset, Ce.reset]
    handles := List.replicate 64 Handle.reset, watches := List.replicate 4 ⟨0, 0⟩, mto := 26, wdg := 24 }

/-- A wing's registers at reset (R147, R151, R325). `cxlBytes`: log 5 (DESIGN CHOICE). -/
def Wing.reset : Wing :=
  { launchst := 0, quantum := 0, period := 1000, partmap0 := 0, partmap1 := 0, faultlog := 0
    fheadCount := 0, fheadDrop := 0, faulttail := 0, ptimeout := 50, ready := [], eccCorr := 0, eccUnc := 0
    eccaddr := 0, wpwr := 0, wpwrReq := none, spanReplay := [0, 0, 0, 0], spanLanes := [0, 0, 0, 0]
    spanUp := [false, false, false, false], spanFails := [0, 0, 0, 0], cxlBytes := 0x80_0000_0000 }

/-- The module registers at reset. MODCFG: log 7 (DESIGN CHOICE). `age`: log 4 (DESIGN CHOICE). -/
def Module.reset : Module :=
  { ctxtab := 0, xinvBusy := false, xinvErr := false, killCtx := 0, killErr := false, killDone := true
    savetab := 0, partcur := List.replicate 16 ⟨false, 0, none, false⟩, ptvec := List.replicate 16 0
    owner := none, ownPend := 0, ownErr := false, pwrlim := 3000
    modcfg := List.replicate 8 0xF_FFFF ++ [0xFFFF_FFFF], bootstat := false
    nonce := List.replicate 32 0, attDest := 0, attBusy := false, attDone := 0, age := 0 }

def CPage.reset : CPage := ⟨false, false, 0, 0, 0, List.replicate 64 ⟨0, 0, 0, 0⟩, none⟩

/-- The machine right after reset: no task runs, memory lists nothing, and every register has the value
the spec states for reset, or the one its log entry names. -/
def State.reset : State :=
  { coreId := 0, gridmap := 17, cycle := 0, timer := 0, stepNo := 0, mem := [], poison := []
    core := Core.reset, task := none, shadow := [], recs := [], cohorts := [], objs := [], binds := []
    dir := [], occ := [], recent := [], preempting := none, recalling := [], tagcfg := 0
    tagVictim := [], tags := [], pages := List.replicate 64 CPage.reset, farPages := [], farCores := [], farSaved := [], icache := [], tlb := [], l2tlb := []
    walks := [], wings := List.replicate 8 Wing.reset, modl := Module.reset
    hostMem := [(0x2_0000_0000_0000, 0x1_0000_0000_0000)], hostRead := none, niOut := []
    niFlight := [], niIn := [], niGot := 0, skid := [], nextTask := [], nvmeWin := [], outside := [], agenda := [] }

end Sys2Proof.Machine
end

