-- ==== Sys2Proof/Machine/Operands.lean ====
section
/-! DEFINITION. The clerk's registers with their presence bits, and every operand form of its
instructions (R197 to R200, R214, R232). -/

namespace Sys2Proof

def LoadWidth.bytes : LoadWidth → Nat
  | .u8 => 1
  | .u16 => 2
  | .u32 => 4
  | .u64 => 8
  | .s8 => 1
  | .s16 => 2
  | .s32 => 4

/-- Loaded data extended to 64 bits (R233). -/
def LoadWidth.extend (w : LoadWidth) (v : Nat) : Dword :=
  match w with
  | .u8 => BitVec.ofNat 64 (v % 2 ^ 8)
  | .u16 => BitVec.ofNat 64 (v % 2 ^ 16)
  | .u32 => BitVec.ofNat 64 (v % 2 ^ 32)
  | .u64 => BitVec.ofNat 64 v
  | .s8 => (BitVec.ofNat 8 v).signExtend 64
  | .s16 => (BitVec.ofNat 16 v).signExtend 64
  | .s32 => (BitVec.ofNat 32 v).signExtend 64

def StoreWidth.bytes : StoreWidth → Nat
  | .b8 => 1
  | .b16 => 2
  | .b32 => 4
  | .b64 => 8

end Sys2Proof

namespace Sys2Proof.Machine

/-! ### Updates of nested state -/

def State.updCore (s : State) (f : Core → Core) : State := { s with core := f s.core }

def State.updClerk (s : State) (f : Clerk → Clerk) : State :=
  { s with core := { s.core with clerk := f s.core.clerk } }

def State.updFab (s : State) (f : Fabric → Fabric) : State :=
  { s with core := { s.core with fab := f s.core.fab } }

/-- The `k`-th element of a list replaced by its image. -/
def updAt {α : Type} (l : List α) (k : Nat) (f : α → α) : List α :=
  match l, k with
  | [], _ => []
  | x :: t, 0 => f x :: t
  | x :: t, k + 1 => x :: updAt t k f

def State.wing (s : State) (w : Nat) : Wing := s.wings.getD w Wing.reset

def State.updWing (s : State) (w : Nat) (f : Wing → Wing) : State :=
  { s with wings := updAt s.wings w f }

def State.updMod (s : State) (f : Module → Module) : State := { s with modl := f s.modl }

/-! ### Registers -/

/-- A scalar register; `s0` reads zero (R199). -/
def Clerk.reg (c : Clerk) (r : Reg) : Dword := if r = 0 then 0 else c.regs.get r.toFin

/-- A write to a scalar register; one to `s0` is discarded (R199). -/
def Clerk.setReg (c : Clerk) (r : Reg) (v : Dword) : Clerk :=
  if r = 0 then c else { c with regs := c.regs.set r.toNat v r.isLt }

def Clerk.kreg (c : Clerk) (k : KReg) : Qword := c.kregs.get k.toFin

def Clerk.setKreg (c : Clerk) (k : KReg) (v : Qword) : Clerk :=
  { c with kregs := c.kregs.set k.toNat v k.isLt }

/-- The presence bit of a scalar register; `s0` is always present (R199). -/
def Clerk.present (c : Clerk) (r : Reg) : Bool := r = 0 || c.pres.getLsbD r.toNat

def Clerk.kpresent (c : Clerk) (k : KReg) : Bool := c.kpres.getLsbD k.toNat

/-- A bit vector with bit `k` set to `b`. -/
def putBit {w : Nat} (x : BitVec w) (k : Nat) (b : Bool) : BitVec w :=
  if b then x ||| BitVec.twoPow w k else x &&& ~~~ BitVec.twoPow w k

def Clerk.setPresent (c : Clerk) (r : Reg) (b : Bool) : Clerk :=
  if r = 0 then c else { c with pres := putBit c.pres r.toNat b }

def Clerk.setKpresent (c : Clerk) (k : KReg) (b : Bool) : Clerk :=
  { c with kpres := putBit c.kpres k.toNat b }

def State.clerk (s : State) : Clerk := s.core.clerk
def State.reg (s : State) (r : Reg) : Dword := s.core.clerk.reg r
def State.setReg (s : State) (r : Reg) (v : Dword) : State := s.updClerk (·.setReg r v)
def State.kreg (s : State) (k : KReg) : Qword := s.core.clerk.kreg k
def State.setKreg (s : State) (k : KReg) (v : Qword) : State := s.updClerk (·.setKreg k v)

/-- The PC advanced by an instruction's length (R197). -/
def State.advance (s : State) (n : Nat) : State :=
  s.updClerk fun c => { c with pc := c.pc + BitVec.ofNat 48 n }

/-- The common end of an instruction that writes one register and goes on (R214). -/
def State.finish (s : State) (d : Reg) (v : Dword) (n : Nat) : State := (s.setReg d v).advance n

/-! ### Operand forms -/

/-- A sign-extended immediate (R219, R232). -/
def sx {w : Nat} (x : BitVec w) : Dword := x.signExtend 64

/-- The effective address of a base register and a signed offset, modulo 2^64 (R232, R235). -/
def State.ea {w : Nat} (s : State) (a : Reg) (imm : BitVec w) : Nat := (s.reg a + sx imm).toNat

/-- The shift amount of a register shift: bits 5:0 (R216). -/
def shamt (b : Dword) : Nat := b.toNat % 64

/-- A branch target: the PC plus a signed offset in words (R226, R227). -/
def State.target {w : Nat} (s : State) (off : BitVec w) : BitVec 48 :=
  s.core.clerk.pc + (off.signExtend 46 ++ (0 : BitVec 2))

/-- The rounding mode of FPCTL.RM, bits 1:0 (R65). -/
def State.rm (s : State) : Rnd := Rnd.ofCode (bitsOf s.core.clerk.fpctl.toNat 1 0)

end Sys2Proof.Machine
end

