-- ==== Sys2Proof/Machine/Memory.lean ====
section
/-! DEFINITION. Memory: one list of bytes in canonical form, the places that addresses name (R17, R18,
R23), translation (R24 to R32) and the checks of an access up to its memory type (R20, R22, R30, R35). -/

namespace Sys2Proof.Machine

/-! ### Bytes -/

abbrev Mem := List Host.Cell

/-- The byte at an address; an unlisted address reads 0. Log 1 (DESIGN CHOICE, unsafe). -/
def memGet : Mem → Nat → Byte
  | [], _ => 0
  | (k, b) :: t, a => if a < k then 0 else if a = k then b else memGet t a

/-- A byte written. The list stays sorted and lists no byte that reads as an unlisted one does. -/
def memPut : Mem → Nat → Byte → Mem
  | [], a, b => if b = 0 then [] else [(a, b)]
  | (k, v) :: t, a, b =>
    if a < k then (if b = 0 then (k, v) :: t else (a, b) :: (k, v) :: t)
    else if a = k then (if b = 0 then t else (a, b) :: t)
    else (k, v) :: memPut t a b

/-- `n` bytes at `a`, little-endian (R7). -/
def memRead (m : Mem) (a : Nat) : Nat → Nat
  | 0 => 0
  | n + 1 => (memGet m a).toNat + 256 * memRead m (a + 1) n

/-- `n` bytes at `a` written from `v`, little-endian (R7). -/
def memWrite (m : Mem) (a : Nat) : Nat → Nat → Mem
  | 0, _ => m
  | n + 1, v => memWrite (memPut m a (BitVec.ofNat 8 v)) (a + 1) n (v / 256)

/-- Bytes written in order from `a`. -/
def memWriteBytes (m : Mem) (a : Nat) : List Byte → Mem
  | [] => m
  | b :: t => memWriteBytes (memPut m a b) (a + 1) t

/-- `n` bytes from `a`, in address order. -/
def memBytes (m : Mem) (a : Nat) : Nat → List Byte
  | 0 => []
  | n + 1 => memGet m a :: memBytes m (a + 1) n

/-- The canonical form: addresses strictly rising, no byte equal to what an unlisted address reads as. -/
def Memory.wf : Mem → Bool
  | [] => true
  | [c] => c.2 != 0
  | c :: d :: t => c.2 != 0 && c.1 < d.1 && Memory.wf (d :: t)

/-- A little-endian number from bytes. -/
def ofBytes : List Byte → Nat
  | [] => 0
  | b :: t => b.toNat + 256 * ofBytes t

/-- The `n` low bytes of a number, little-endian. -/
def toBytes (v : Nat) : Nat → List Byte
  | 0 => []
  | n + 1 => BitVec.ofNat 8 v :: toBytes (v / 256) n

/-! ### Where bytes are kept

A key is a physical address of R23, where core c's whole window stands at its bank range, or an address of
peer module m offset by (m + 1) * 2^52. -/

def scratchBase : Nat := 0x3_0000_0000_0000
def windowSize : Nat := 0x200_0000
def bankBytes : Nat := 0x180_0000
def globalView : Nat := 0xFF00_0000_0000
def selfAlias : Nat := 0xFFFF_FE00_0000
def trapArea : Nat := 0x1F0_0000

def scratchKey (core off : Nat) : Nat := scratchBase + core * windowSize + off
def peerKey (modl pa : Nat) : Nat := (modl + 1) * 2 ^ 52 + pa

/-- The key of a place that is plain bytes. -/
def Place.key (s : State) : Place → Nat
  | .mem pa => pa
  | .peer m pa => peerKey m pa
  | .bank c off => scratchKey c off
  | .own off => scratchKey s.coreId off
  | .ctrl off => off
  | .page c t off => scratchKey c (0x184_0000 + t * 0x1_0000 + off)

/-- The bank of a scratchpad offset (R5, R36): 96 KiB each. -/
def bankOf (off : Nat) : Nat := off / 0x1_8000

def State.rd (s : State) (key n : Nat) : Nat := memRead s.mem key n

/-- The bank that the FE at logical (row, col) owns (R5). An access of the FE to it is one to a bank like any other: the
order of R100 note 1 is the one in which every party's accesses to a bank arrive. -/
def feBank (row col : Nat) : Nat := 16 * (row - 1) + (col - 1)

/-- The protected unit of an address: 8 bytes of SRAM, a 64-byte line elsewhere (R333). -/
def eccUnit (key : Nat) : Nat :=
  if scratchBase ≤ key && key < 2 ^ 52 then key / 8 * 8 else key / 64 * 64

def eccSize (key : Nat) : Nat := if scratchBase ≤ key && key < 2 ^ 52 then 8 else 64

/-- Whether a byte of [key, key + n) lies in a poisoned unit (R333). -/
def State.poisoned (s : State) (key n : Nat) : Bool :=
  s.poison.any fun u => u < key + n && key < u + eccSize u

/-- A store that covers a whole unit clears its poison (R333). -/
def unpoison (p : List Nat) (key n : Nat) : List Nat :=
  p.filter fun u => !(key ≤ u && u + eccSize u ≤ key + n)

/-- A write that leaves some poisoned unit partly uncovered is not performed (R333). -/
def State.partPoisoned (s : State) (key n : Nat) : Bool :=
  s.poison.any fun u => u < key + n && key < u + eccSize u && !(key ≤ u && u + eccSize u ≤ key + n)

/-! ### The map of the module -/

/-- Whether core `c` is present (R6, R344). -/
def State.hasCore (s : State) (c : Nat) : Bool :=
  c < 160 && (s.modl.modcfg.getD (c / 20) 0).getLsbD (c % 20)

/-- Wing `w` is exposed when it has a core (R150, R344). One with no core counts as absent with its registers, whatever Span
ports MODCFG gives it; the spec leaves that open. Log 120 (DESIGN CHOICE). -/
def State.hasWing (s : State) (w : Nat) : Bool := w < 8 && (s.modl.modcfg.getD w 0) != 0

/-- The partition of core `c` (R147). -/
def State.corePart (s : State) (c : Nat) : Nat :=
  let w := s.wing (c / 20)
  let k := c % 20
  if k < 16 then bitsOf w.partmap0.toNat (4 * k + 3) (4 * k)
  else bitsOf w.partmap1.toNat (4 * (k - 16) + 3) (4 * (k - 16))

/-- Populated bonded DRAM (R23). -/
def inDram (pa : Nat) : Bool := pa < 0x80_0000_0000 && pa % 0x10_0000_0000 < 0xC_0000_0000

/-- What the attached CXL devices expose (R23, R340). -/
def State.inCxl (s : State) (pa : Nat) : Bool :=
  0x1_0000_0000_0000 ≤ pa && pa < 0x1_0400_0000_0000 &&
    pa % 0x80_0000_0000 < (s.wing ((pa - 0x1_0000_0000_0000) / 0x80_0000_0000)).cxlBytes

/-- Host-die memory as the host die declares it (R23). -/
def State.inHost (s : State) (pa : Nat) : Bool :=
  0x2_0000_0000_0000 ≤ pa && pa < 0x3_0000_0000_0000 &&
    s.hostMem.any fun r => r.1 ≤ pa && pa < r.1 + r.2

def State.findRec (s : State) (k : TaskKey) : Option TaskRec := s.recs.find? (·.key = k)

/-- The context a task runs in: CTX of its TCB, which the desk keeps (R31). -/
def State.taskCtx (s : State) (k : TaskKey) : BitVec 12 :=
  match s.findRec k with
  | some r => r.ctx
  | none => k.ctx

/-- The context the core runs in: that of its task; 0 when none runs, when nothing is accessed. -/
def State.ctx (s : State) : BitVec 12 :=
  match s.task with
  | some t => s.taskCtx t
  | none => 0

/-- The physical address of a context's entry in the context table (R31). -/
def State.ctxEntry (s : State) (ctx : BitVec 12) : Nat :=
  bitsOf s.modl.ctxtab.toNat 51 16 * 2 ^ 16 + 16 * ctx.toNat

/-- V of a context's entry (R31), and its partition. -/
def State.ctxValid (s : State) (ctx : BitVec 12) : Bool :=
  inDram (s.ctxEntry ctx) && s.rd (s.ctxEntry ctx) 8 % 2 == 1

def State.ctxPart (s : State) (ctx : BitVec 12) : Nat := s.rd (s.ctxEntry ctx + 8) 8 % 16

/-! ### Page tables (R24 to R28) -/

def leafPa (e : Nat) : Nat := bitsOf e 51 16 * 2 ^ 16
def leafType (e : Nat) : Nat := bitsOf e 7 5
def leafSize (e : Nat) : Nat := bitsOf e 12 11

/-- A leaf at level `lvl`: the reason for which it faults, in the order of R35, item 5. Only the leaf's own PA is
judged (R27); a large page that runs past the populated part is performed as it lies. Log 85 (DESIGN CHOICE). -/
def State.leafFault (s : State) (ctx : BitVec 12) (e lvl : Nat) : Option Nat :=
  let size := leafSize e
  let ty := leafType e
  let pa := leafPa e
  let core := (pa - scratchBase) / windowSize
  if bitsOf e 15 14 != 0 || size == 3 || 5 ≤ ty then some 2
  else if lvl < 2 || (lvl == 2 && size != 2) || (lvl == 3 && size == 2) ||
      (size == 1 && pa % 2 ^ 21 != 0) || (size == 2 && pa % 2 ^ 30 != 0) ||
      (ty == 4 && size != 0) ||
      (ty == 4 && !(scratchBase ≤ pa && core < 160 && (pa - scratchBase) % windowSize < bankBytes &&
        s.hasCore core && s.corePart core == s.ctxPart ctx)) ||
      (bitsOf e 63 52 != 0 && ty != 3) then some 1
  else if (ty == 0 && !inDram pa) || (ty == 1 && !s.inCxl pa) || (ty == 2 && !s.inHost pa) then some 3
  else none

/-- The page a leaf maps: its size in bytes. -/
def pageBytes (size : Nat) : Nat :=
  match size with
  | 0 => 2 ^ 16
  | 1 => 2 ^ 21
  | _ => 2 ^ 30

/-- The walk from a table at level `4 - fuel` (R24 to R27): a TLB entry, or a reason with its level. -/
def walkFrom (s : State) (ctx : BitVec 12) (va tbl : Nat) : Nat → Except (Nat × Nat) Tlb
  | 0 => .error (1, 3)
  | fuel + 1 =>
    let lvl := 3 - fuel
    let e := s.rd (tbl + 8 * (va / 2 ^ (40 - 8 * lvl) % 256)) 8
    if e % 2 == 0 then .error (0, lvl)
    else if bitOf e 1 then
      match s.leafFault ctx e lvl with
      | some r => .error (r, lvl)
      | none =>
        let size := pageBytes (leafSize e)
        .ok { ctx, base := va / size * size, size, leaf := BitVec.ofNat 64 e }
    else if bitsOf e 63 52 != 0 || bitsOf e 10 2 != 0 then .error (2, lvl)
    else if lvl == 3 then .error (1, lvl)
    else if !inDram (bitsOf e 51 11 * 2 ^ 11) then .error (3, lvl)
    else walkFrom s ctx va (bitsOf e 51 11 * 2 ^ 11) fuel

/-- A walk in a context (R31, R35): the context-table entry, then the tables. Faults of the entry are
reported at level 0. -/
def State.walk (s : State) (ctx : BitVec 12) (va : Nat) : Except (Nat × Nat) Tlb :=
  let a := s.ctxEntry ctx
  if !inDram a then .error (3, 0)
  else
    let lo := s.rd a 8
    let hi := s.rd (a + 8) 8
    if lo % 2 == 0 then .error (8, 0)
    else if bitsOf lo 63 52 != 0 || bitsOf lo 10 1 != 0 || bitsOf hi 63 4 != 0 then .error (2, 0)
    else if !inDram (bitsOf lo 51 11 * 2 ^ 11) then .error (3, 0)
    else walkFrom s ctx va (bitsOf lo 51 11 * 2 ^ 11) 4

def Tlb.hits (e : Tlb) (ctx : BitVec 12) (va : Nat) : Bool :=
  e.ctx = ctx && e.base ≤ va && va < e.base + e.size

/-- The translation of an address: the core's TLB, the wing's second level, then a walk (R32), whoever asks: R32 names the
clerk, MEM operators and copy engines as users of the core's TLB and says nothing of ports, engines, the TMU, the desks and
the host. Log 121 (DESIGN CHOICE). -/
def State.lookup (s : State) (ctx : BitVec 12) (va : Nat) : Except (Nat × Nat) Tlb :=
  match s.tlb.find? (·.hits ctx va) with
  | some e => .ok e
  | none =>
    match s.l2tlb.find? (·.hits ctx va) with
    | some e => .ok e
    | none => s.walk ctx va

/-- A TLB of at most `cap` entries with one more in front; the oldest is dropped. Log 9. -/
def tlbPut (l : List Tlb) (e : Tlb) (cap : Nat) : List Tlb := if e ∈ l then l else (e :: l).take cap

/-- Entries brought by reading ahead, in places of a TLB that are free. -/
def tlbSpare (l es : List Tlb) (cap : Nat) : List Tlb := (l ++ es.filter fun e => !(e ∈ l)).take cap

/-- A walk fills the second level and the core's TLB. R32 names no other fill: that a hit in the wing's TLB fills the core's, and
that one in the core's puts the entry back into the wing's, is the model's choice. Log 131 (DESIGN CHOICE). -/
def State.fill (s : State) (e : Tlb) : State :=
  { s with tlb := tlbPut s.tlb e 256, l2tlb := tlbPut s.l2tlb e 32768 }

/-- The physical address of an address in a page (R28). -/
def Tlb.pa (e : Tlb) (va : Nat) : Nat := leafPa e.leaf.toNat / e.size * e.size + va % e.size

/-! ### The address regions (R17, R20, R21) -/

inductive Region where
  | translated
  | ctrl (off : Nat)
  | window (core off : Nat)
  | hole
  deriving DecidableEq, Repr

def State.region (s : State) (va : Nat) : Region :=
  if va < 0xF000_0000_0000 then .translated
  else if va < 0xF001_0000_0000 then .ctrl (va - 0xF000_0000_0000)
  else if va < globalView then .hole
  else if va < 0xFF01_4000_0000 then
    let c := (va - globalView) / windowSize
    if s.hasCore c then .window c ((va - globalView) % windowSize) else .hole
  else if va < selfAlias then .hole
  else if va < 2 ^ 48 then .window s.coreId (va - selfAlias)
  else .hole

/-- The address misses in the core's TLB and in the wing's. -/
def State.tlbMiss (s : State) (ctx : BitVec 12) (va : Nat) : Bool :=
  s.region va = .translated && !(s.tlb.any (·.hits ctx va)) && !(s.l2tlb.any (·.hits ctx va))

/-- A walk in flight is of the page, of whatever size, in which an address lies (R32). -/
def State.inWalk (s : State) (w : Walk) (ctx : BitVec 12) (va : Nat) : Bool :=
  w.ctx = ctx && (w.page == va / 2 ^ 16 || match s.walk w.ctx (w.page * 2 ^ 16) with
    | .ok e => e.hits ctx va
    | .error _ => false)

/-- A miss that cannot start a walk now: one of its page is in flight, which it joins, or 128 walks are (R32). -/
def State.walkHeld (s : State) (ctx : BitVec 12) (va : Nat) : Bool :=
  (128 ≤ s.walks.length || s.walks.any fun w => s.inWalk w ctx va) && s.tlbMiss ctx va

/-- A control block of core `c` begins here, as an offset in the control region (R21). -/
def coreBlock (c : Nat) : Nat := (c / 20 + 1) * 0x1000_0000 + (c % 20 + 1) * 0x80_0000
def wingBlock (w : Nat) : Nat := (w + 1) * 0x1000_0000

/-- Whether a control offset lies in a core's task page: the first 64 KiB of its block (R21). -/
def inTaskPage (c off : Nat) : Bool := coreBlock c ≤ off && off < coreBlock c + 0x1_0000

/-- The form in which loans and bindings name an address (R350): a window's bytes by the global view. -/
def State.canon (s : State) (va : Nat) : Nat :=
  match s.region va with
  | .window c off => globalView + c * windowSize + off
  | _ => va

/-- What an access does. -/
inductive AccKind where
  | load | store | atomic | fetch
  deriving DecidableEq, Repr

/-- A write, as the loan discipline counts them (R126). -/
def AccKind.writes : AccKind → Bool
  | .store => true
  | .atomic => true
  | _ => false

/-- A read, as a page's R bit governs it (R35). -/
def AccKind.reads : AccKind → Bool
  | .load => true
  | .atomic => true
  | _ => false

/-- Who makes an access: the clerk or a host request, which alone reach control registers; the MEM
operators, lanes, engines and TMU; the copy engines (R22, R30). -/
inductive AccUnit where
  | clerk | fabric | copy
  deriving DecidableEq, Repr

structure Acc where
  unit : AccUnit
  kind : AccKind
  n : Nat
  task : Bool
  deriving DecidableEq, Repr

/-- A fault found on an access: cause code, address and detail word (R322), and the reason with its level
where the cause is one of translation or permission (R34, R35). -/
structure Flt where
  cause : Nat
  addr : Nat
  detail : Nat
  deriving DecidableEq, Repr

/-- A translation or permission fault of reason `r` at level `lvl` (R34). -/
def reasonFlt (va r lvl : Nat) : Flt :=
  { cause := if r == 7 then 0x1C else if r ≤ 3 || r == 8 || r == 9 then 4 else 5
    addr := va % 2 ^ 48, detail := r + lvl * 256 }

/-- The reason held by the detail word of such a fault. -/
def Flt.reason (f : Flt) : Nat := f.detail % 256

/-- A resolved access: its place, and the TLB entry that it used. -/
structure Res where
  pl : Place
  tlb : Option Tlb
  deriving DecidableEq, Repr

/-- The OP and FUNC of a `join` (R242). -/
def isJoinHead (op func : Nat) : Bool := op == 8 && func == 6

/-- A `join` among replay entries (R317). -/
def joinIn (es : List (List Nat)) : Bool :=
  es.any fun e => isJoinHead (bitsOf (e.getD 0 0) 63 56) (bitsOf (e.getD 1 0) 56 48)

/-- A `join` of the clerk has not returned: it has not written its destination (R242). It is unfinished, stands in the
replay queue while a handler runs, or behind an entry that is performed again at its PC (R317). -/
def Clerk.joining (c : Clerk) : Bool :=
  c.joinQueued || (c.unfin.any fun u => isJoinHead u.op.toNat u.func.toNat) || match c.redo with
    | some r => joinIn r.rest
    | none => false

/-- Whether a task that has its rank and a task that runs on core `c` are members of one formed cohort. -/
def State.cohortReach (s : State) (t : TaskKey) (c : Nat) : Bool :=
  s.cohorts.any fun h => h.formed && (h.members.any fun m => m.key = t && m.rank.isSome) &&
    h.members.any fun m => m.core == c && m.running

/-- Whether the core's task, whose `join` has returned, and a task that runs on core `c` are members of one formed
cohort (R20, R143). -/
def State.cohortOpen (s : State) (c : Nat) : Bool :=
  match s.task with
  | none => false
  | some t => !s.core.clerk.joining && s.cohortReach t c

/-- The checks of R20 for a scratchpad window, with those of the core resource area (R40, R46, R88, R315). The detail word
of a fault found without a walk has level 0: log 115 (DESIGN CHOICE). -/
def State.windowRes (s : State) (a : Acc) (va c off : Nat) : Except Flt Res :=
  if s.corePart c != s.corePart s.coreId then .error (reasonFlt va 11 0)
  else if c != s.coreId && bankBytes ≤ off then .error (reasonFlt va 11 0)
  else if a.kind = .fetch then .error (reasonFlt va 6 0)
  else if c != s.coreId then
    if a.task && !s.cohortOpen c then .error ⟨0x18, va, 0⟩
    else .ok ⟨.bank c off, none⟩
  else if off < bankBytes then .ok ⟨.bank c off, none⟩
  else if a.task && trapArea ≤ off && off < trapArea + 0x400 then .error (reasonFlt va 10 0)
  else .ok ⟨.own off, none⟩

/-- The checks of R22 for the control region: natural alignment is checked before. An access of task mode that breaks
both rules meets reason 10 first. Log 86 (DESIGN CHOICE). The detail word has level 0, as no walk is made: log 115 (DESIGN
CHOICE). -/
def State.ctrlRes (s : State) (a : Acc) (va off : Nat) : Except Flt Res :=
  if a.kind = .fetch then .error (reasonFlt va 6 0)
  else if a.unit ≠ .clerk || a.kind = .atomic || !(a.n == 4 || a.n == 8) then .error (reasonFlt va 10 0)
  else if a.task && !inTaskPage s.coreId off then .error ⟨0x1C, va, 0⟩
  else .ok ⟨.ctrl off, none⟩

/-- Compressed page `t` of core `c` (R43, R45). -/
def State.pageAt (s : State) (c t : Nat) : CPage :=
  if c == s.coreId then s.pages.getD t CPage.reset
  else match s.farPages.find? (·.1 = (c, t)) with
    | some e => e.2
    | none => CPage.reset

/-- The compressed page that an access was let into at its issue has V = 0 (R45). -/
def State.pageShut (s : State) (pl : Place) : Bool :=
  match pl with
  | .page c t _ => !(s.pageAt c t).v
  | _ => false

/-- The level of the walk at which the leaf stands (R33). -/
def Tlb.level (e : Tlb) : Nat := if e.size == 2 ^ 30 then 2 else 3

/-- A resolved access that its instruction refuses by the memory type: reason 10, at the level of the leaf, or 0 where no walk
was made (R34). -/
def Res.refused (r : Res) (va : Nat) : Flt :=
  reasonFlt va 10 (match r.tlb with
    | some e => e.level
    | none => 0)

/-- The leaf checks of R35 after the walk: 7, 6, 4, 5, and then what the type permits (R30). -/
def State.leafRes (s : State) (a : Acc) (va : Nat) (e : Tlb) : Except Flt Res :=
  let l := e.leaf.toNat
  let ty := leafType l
  let lvl := e.level
  let err (r : Nat) : Except Flt Res := .error (reasonFlt va r lvl)
  if bitOf l 13 && a.task then err 7
  else if a.kind = .fetch then
    if !bitOf l 4 || ty != 0 then err 6 else .ok ⟨.mem (e.pa va), some e⟩
  else if (a.kind = .load || a.kind = .atomic) && !bitOf l 2 then err 4
  else if (a.kind = .store || a.kind = .atomic) && !bitOf l 3 then err 5
  else if ty == 3 then .ok ⟨.peer (bitsOf l 63 52) (e.pa va), some e⟩
  else if ty == 4 then
    let off := leafPa l - scratchBase
    let c := off / windowSize
    let t := bitsOf off 21 16
    if a.kind = .atomic || a.unit = .copy || bitsOf off 24 22 != 0 || !(s.pageAt c t).v then err 10
    else .ok ⟨.page c t (va % 2 ^ 16), some e⟩
  else .ok ⟨.mem (e.pa va), some e⟩

/-- An access resolved to its place by checks 3 to 5 of R232, in the order of R35. A hole is reported with level 0: log 115
(DESIGN CHOICE). -/
def State.resolve (s : State) (ctx : BitVec 12) (a : Acc) (va : Nat) : Except Flt Res :=
  match s.region va with
  | .hole => .error (reasonFlt va 9 0)
  | .window c off => s.windowRes a va c off
  | .ctrl off => s.ctrlRes a va off
  | .translated =>
    match s.lookup ctx va with
    | .error (r, lvl) => .error (reasonFlt va r lvl)
    | .ok e => s.leafRes a va e

/-- The state after a resolved access has filled the TLBs. -/
def State.fillRes (s : State) (r : Res) : State :=
  match r.tlb with
  | some e => s.fill e
  | none => s

/-- The state after the walk for an access that a check past its leaf refuses: it has filled the TLBs all the same
(R32). -/
def State.filled (s : State) (ctx : BitVec 12) (va : Nat) : State :=
  match s.region va with
  | .translated => match s.lookup ctx va with
    | .ok e => s.fill e
    | .error _ => s
  | _ => s

/-- The wing at which an access to a place is performed (R29); windows by their core. -/
def Place.wing (s : State) (leaf : Option Tlb) : Place → Nat
  | .mem pa =>
    if pa < 0x1_0000_0000_0000 then pa / 0x10_0000_0000
    else if pa < 0x2_0000_0000_0000 then (pa - 0x1_0000_0000_0000) / 0x80_0000_0000
    else match leaf with
      | some e => bitsOf e.leaf.toNat 10 8
      | none => 0
  | .peer _ _ => match leaf with
    | some e => bitsOf e.leaf.toNat 10 8
    | none => 0
  | .bank c _ => c / 20
  | .own _ => s.coreId / 20
  | .ctrl _ => s.coreId / 20
  | .page c _ _ => c / 20

/-- A peer access has an up Span port of its leaf's HOME wing to go out by; one that has none ends by the memory timeout
(R338, R339). -/
def State.reaches (s : State) (ctx : BitVec 12) (pl : Place) (va : Nat) : Bool :=
  match pl with
  | .peer _ _ => match s.lookup ctx va with
    | .ok e => (s.wing (bitsOf e.leaf.toNat 10 8)).spanUp.any id
    | .error _ => false
  | _ => true

/-- The up port of a wing by which a request for an address goes out; which of them is a free value (log 100). -/
def Wing.portFor (g : Wing) (a : Nat) : Option Nat :=
  let up := (List.range 4).filter fun i => g.spanUp.getD i false
  up[Config.spanPort a % up.length]?

/-- The port of the module by which an access to a peer goes out (R337, R338). -/
def State.portOf (s : State) (ctx : BitVec 12) (pl : Place) (va : Nat) : Option Nat :=
  match pl with
  | .peer _ _ => match s.lookup ctx va with
    | .ok e =>
      let w := bitsOf e.leaf.toNat 10 8
      ((s.wing w).portFor va).map (4 * w + ·)
    | .error _ => none
  | _ => none

/-- An access of a fabric unit in task mode. -/
def fabAcc (k : AccKind) (n : Nat) : Acc := ⟨.fabric, k, n, true⟩

/-- The access a request of the fabric makes. -/
def Req.acc (q : Req) : Acc :=
  match q.kind with
  | .load n _ => fabAcc .load n
  | .store n => fabAcc .store n
  | .atomic _ => fabAcc .atomic 4
  | _ => fabAcc .load 4

/-- The request's place, where its address translates. -/
def State.reqPlace (s : State) (q : Req) : Option Place :=
  match s.resolve s.ctx q.acc q.va with
  | .ok r => some r.pl
  | .error _ => none

/-- A request whose page needs no walk goes out by a Span port where it goes to a peer and one is up (R338). -/
def State.sentReq (s : State) (q : Req) : Req :=
  if q.stage = .waiting && q.port.isNone && !s.tlbMiss s.ctx q.va then
    match s.reqPlace q with
    | some pl => { q with port := s.portOf s.ctx pl q.va }
    | none => q
  else q

def State.sendReqs (s : State) : State :=
  { s with core := { s.core with fab := { s.core.fab with reqs := s.core.fab.reqs.map s.sentReq } } }

/-! ### The core's resource area as bytes (R18, R40, R46, R88) -/

def State.tagSets (s : State) : Nat := 2 ^ bitsOf s.tagcfg.toNat 3 0

def TagEntry.reset : TagEntry := ⟨0, 0, 0, false⟩

def State.tag (s : State) (slot : Nat) : TagEntry :=
  match s.tags.find? (·.1 == slot) with
  | some e => e.2
  | none => TagEntry.reset

/-- An association list with one key set. -/
def assocPut {α β : Type} [DecidableEq α] (l : List (α × β)) (k : α) (v : β) : List (α × β) :=
  match l with
  | [] => [(k, v)]
  | e :: t => if e.1 = k then (k, v) :: t else e :: assocPut t k v

def State.setTag (s : State) (slot : Nat) (e : TagEntry) : State :=
  { s with tags := assocPut s.tags slot e }

/-- A tag-table entry as 16 bytes (R40). -/
def TagEntry.word (e : TagEntry) : Nat :=
  e.user.toNat * 2 ^ 64 + e.tag.toNat * 2 ^ 12 + (if e.pin == 0 then 0 else 2) + b2n e.v

def HState.code : HState → Nat
  | .free => 0
  | .filling => 1
  | .full => 2
  | .draining => 3

/-- A buffer-table entry's first 8 bytes (R88). -/
def Handle.word (h : Handle) : Nat :=
  h.bytes.toNat * 2 ^ 32 + h.err.toNat * 2 ^ 16 + h.pend.toNat * 2 ^ 8 + b2n h.fseen * 4 + h.st.code

/-- A compressed-page offset-table entry (R46). -/
def TileEnt.word (e : TileEnt) : Nat :=
  e.fmt.toNat * 2 ^ 30 + e.slot % 64 * 2 ^ 24 + e.len % 2048 * 2 ^ 13 + e.off % 2048 * 4

def TileEnt.reset : TileEnt := ⟨0, 0, 0, 0⟩

/-- A byte of the own core's resource area; reserved offsets read zero (R18). -/
def State.ownByte (s : State) (off : Nat) : Byte :=
  if off < 0x180_0000 then memGet s.mem (scratchKey s.coreId off)
  else if off < 0x181_0000 then
    let slot := (off - 0x180_0000) / 16
    if slot < 8 * s.tagSets then BitVec.ofNat 8 ((s.tag slot).word >>> (8 * (off % 16))) else 0
  else if off < 0x181_0800 then
    BitVec.ofNat 8 ((s.core.handles.getD ((off - 0x181_0000) / 32) Handle.reset).word >>> (8 * (off % 32)))
  else if 0x182_0000 ≤ off && off < 0x182_4000 then
    let t := (off - 0x182_0000) / 256
    let e := (s.pages.getD t CPage.reset).ents.getD (off % 256 / 4) TileEnt.reset
    BitVec.ofNat 8 (e.word >>> (8 * (off % 4)))
  else if trapArea ≤ off && off < trapArea + 0x3C8 then memGet s.mem (scratchKey s.coreId off)
  else 0

def State.ownRead (s : State) (off : Nat) : Nat → Nat
  | 0 => 0
  | n + 1 => (s.ownByte off).toNat + 256 * s.ownRead (off + 1) n

/-- Whether a store to the own resource area is refused with reason 10 (R40, R46, R88). -/
def State.ownStoreRefused (s : State) (off : Nat) : Bool :=
  if 0x180_0000 ≤ off && off < 0x181_0000 then
    (off - 0x180_0000) / 16 < 8 * s.tagSets && off % 16 < 8
  else (0x181_0000 ≤ off && off < 0x181_0800) || (0x182_0000 ≤ off && off < 0x182_4000)

end Sys2Proof.Machine
end

