-- ==== Sys2Proof/Machine/TransformWord.lean ====
section
/-! DEFINITION. The words of in-bank transforms: their fields, checks and the bytes they name (R52 to R54). -/

namespace Sys2Proof.Machine

/-- A transform word's fields (R52). -/
def xfVal (w : Nat) : Nat := bitsOf w 127 96
def xfCnt2 (w : Nat) : Nat := bitsOf w 95 80
def xfCnt (w : Nat) : Nat := bitsOf w 79 64
def xfOff (w : Nat) : Nat := bitsOf w 56 32
def xfSat (w : Nat) : Bool := bitOf w 26
def xfRnd (w : Nat) : Rnd := Rnd.ofCode (bitsOf w 25 24)
def xfFmt2 (w : Nat) : Nat := bitsOf w 23 16
def xfFmt (w : Nat) : Nat := bitsOf w 15 8
def xfCode (w : Nat) : Nat := w % 8

/-- Element width of a format code in bytes; 0 where it is none of R52. -/
def fmtWidth (f : Nat) : Nat :=
  match f with
  | 0x01 => 2
  | 0x02 => 4
  | 0x03 => 1
  | 0x06 => 192
  | 0x09 => 4
  | _ => 0

/-- The `cvt` pairs of R53. -/
def cvtPair (f g : Nat) : Bool :=
  [(2, 1), (1, 2), (2, 9), (9, 2), (9, 3), (3, 9)].contains (f, g)

/-- Bytes of the operand and destination regions; a code without a destination has none. -/
def xfSrcLen (w : Nat) : Nat :=
  match xfCode w with
  | 0 => xfCnt w * (if xfFmt w == 3 then 64 else 256)
  | 1 => xfCnt w * 192
  | 2 => xfCnt w * xfCnt2 w * fmtWidth (xfFmt w)
  | 4 => xfCnt w * 4
  | _ => xfCnt w * fmtWidth (xfFmt w)

def xfDstLen (w : Nat) : Nat :=
  match xfCode w with
  | 0 => xfCnt w * 192
  | 2 => xfSrcLen w
  | 3 => xfCnt w * fmtWidth (xfFmt2 w)
  | _ => 0

/-- Checks 1 to 6 of R54: the error code, or 0. Of several that fail the lowest code is reported. Log 89 (DESIGN
CHOICE). -/
def xfCheck (w : Nat) : Nat :=
  let code := xfCode w
  let hasDst := code == 0 || code == 2 || code == 3
  let unused := bitsOf w 63 57 != 0 || bitsOf w 31 27 != 0 || bitsOf w 7 3 != 0 || code == 7 ||
    (hasDst && bitsOf w 127 121 != 0) || (code != 1 && code != 2 && xfCnt2 w != 0) ||
    (code != 3 && (xfSat w || xfFmt2 w != 0)) || (code != 3 && code != 5 && bitsOf w 25 24 != 0) ||
    (code == 4 && (xfFmt w != 0 || xfVal w != 0))
  let fmtOk := match code with
    | 0 => xfFmt w == 3 || xfFmt w == 9
    | 1 => xfFmt w == 6
    | 2 => [1, 2, 3, 9].contains (xfFmt w)
    | 3 => cvtPair (xfFmt w) (xfFmt2 w)
    | 4 => true
    | 5 => xfFmt w == 1 || xfFmt w == 2
    | _ => [1, 2, 3, 9].contains (xfFmt w)
  let cntOk := xfCnt w != 0 && (match code with
    | 0 => xfCnt w ≤ 512
    | 1 => xfCnt2 w ≤ 63
    | 2 => xfCnt w ≤ 256 && 1 ≤ xfCnt2 w && xfCnt2 w ≤ 256
    | _ => true)
  let bank := bankOf (xfOff w)
  let inBank (o n : Nat) : Bool := o < bankBytes && bankOf o == bank && o + n ≤ (bank + 1) * 0x1_8000
  let aligned := match code with
    | 0 => xfOff w % fmtWidth (xfFmt w) == 0 && xfVal w % 64 == 0
    | 1 => xfOff w % 64 == 0
    | 3 => xfOff w % fmtWidth (xfFmt w) == 0 && xfVal w % fmtWidth (xfFmt2 w) == 0
    | 4 => xfOff w % 4 == 0
    | 2 => xfOff w % fmtWidth (xfFmt w) == 0 && xfVal w % fmtWidth (xfFmt w) == 0
    | _ => xfOff w % fmtWidth (xfFmt w) == 0
  let meets := xfVal w < xfOff w + xfSrcLen w && xfOff w < xfVal w + xfDstLen w
  let exempt := code == 3 && xfVal w == xfOff w && fmtWidth (xfFmt2 w) ≤ fmtWidth (xfFmt w)
  if unused then 1
  else if !fmtOk then 2
  else if !cntOk then 3
  else if !inBank (xfOff w) (xfSrcLen w) || (hasDst && !inBank (xfVal w) (xfDstLen w)) then 4
  else if !aligned then 5
  else if hasDst && meets && !exempt then 6
  else 0

/-- The clerk's trap for an error code (R54). -/
def xfTrap (code : Nat) : Nat :=
  match code with
  | 5 => 0x03
  | 6 => 0x1A
  | _ => 0x08

/-- The windows offsets a transform writes, as ranges (R53, R350). -/
def xfWrites (w : Nat) : List (Nat × Nat) :=
  match xfCode w with
  | 1 => (List.range (xfCnt w)).map fun c => (xfOff w + 192 * c + 3 * xfCnt2 w, 192 - 3 * xfCnt2 w)
  | 4 => [(xfOff w, xfSrcLen w)]
  | 5 => [(xfOff w, xfSrcLen w)]
  | 6 => [(xfOff w, xfSrcLen w)]
  | _ => [(xfVal w, xfDstLen w)]

/-- The offsets it reads. -/
def xfReads (w : Nat) : List (Nat × Nat) :=
  match xfCode w with
  | 4 => []
  | 6 => []
  | 1 => (List.range (xfCnt w)).map fun c => (xfOff w + 192 * c + 3 * (xfCnt2 w - 1), 192 - 3 * (xfCnt2 w - 1))
  | _ => [(xfOff w, xfSrcLen w)]

end Sys2Proof.Machine
end

