-- ==== Sys2Proof/Machine/Order.lean ====
section
/-! DEFINITION. The order in which a clerk's unfinished instructions are performed (R99 to R104, R233 to R245), and the
one store that every party's writes end in, at which waiting words are compared (R93, R241). -/

namespace Sys2Proof.Machine

/-! ### What an unfinished instruction touches -/

/-- The bytes an unfinished instruction's work touches, as a key range; `none` for work at no address. -/
def Work.range (s : State) : Work → Option (Nat × Nat)
  | .load w pl => some (pl.key s, w.bytes)
  | .loadK pl => some (pl.key s, 16)
  | .store n pl _ => some (pl.key s, n)
  | .atomic _ pl _ _ o => some (pl.key s, if o.wide then 8 else 4)
  | .waitw pl _ => some (pl.key s, 4)
  | .acquire pl _ _ => some (pl.key s, 8)
  | .release pl => some (pl.key s, 8)
  | .arm pl _ _ => some (pl.key s + 24, 8)
  | .rls pl _ => some (pl.key s + 24, 8)
  | _ => none

/-- Places whose bytes the list of memory holds; the rest of the own resource area is not among them. -/
def Place.plain : Place → Bool
  | .own off => trapArea ≤ off && off < trapArea + 0x3C8
  | .ctrl _ => false
  | .page _ _ _ => false
  | _ => true

/-- Places whose bytes the clerk's own loads see as soon as a store of the clerk has issued (R233). -/
def Place.forwards (pl : Place) : Bool :=
  pl.plain || match pl with
    | .page _ _ _ => true
    | _ => false

/-- The place of an access. -/
def Work.place : Work → Option Place
  | .load _ pl => some pl
  | .loadK pl => some pl
  | .store _ pl _ => some pl
  | .atomic _ pl _ _ _ => some pl
  | .waitw pl _ => some pl
  | .acquire pl _ _ => some pl
  | .release pl => some pl
  | .arm pl _ _ => some pl
  | .rls pl _ => some pl
  | _ => none

def rangesMeet (a b : Option (Nat × Nat)) : Bool :=
  match a, b with
  | some (x, n), some (y, m) => x < y + m && y < x + n
  | _, _ => false

/-- The tag table, whose operations and entries the clerk reaches in program order (R42, R100), under a number past the
banks. -/
def tagTable (s : State) : Nat × Nat := (s.coreId, 512)

/-- The banks that work is performed at, as core and number (R37, R101 note 1), and the compressed page, whose accesses
are performed in their order of arrival (R49), and the tag table, under numbers past the banks. -/
def Work.banks (s : State) (w : Work) : List (Nat × Nat) :=
  let of (pl : Place) : List (Nat × Nat) := match pl with
    | .bank c off => [(c, bankOf off)]
    | .page c t off =>
      let p := s.pageAt c t
      let e := p.ents.getD (off / 1024) TileEnt.reset
      [(c, 256 + t), (c, bankOf (32 * (p.base + e.off))), (c, bankOf (32 * (p.base + e.off + e.slot)))]
    | .own off => if 0x180_0000 ≤ off && off < 0x181_0000 then [tagTable s] else []
    | _ => []
  match w with
  | .tag _ _ => [tagTable s]
  | .load _ pl => of pl
  | .loadK pl => of pl
  | .store _ pl _ => of pl
  | .atomic _ pl _ _ _ => of pl
  | .waitw pl _ => of pl
  | .acquire pl _ _ => of pl
  | .release pl => of pl
  | .xbank w => [(s.coreId, bankOf (bitsOf w.toNat 56 32))]
  | _ => []

/-- The canonical ranges that an unfinished instruction touches (R350); those of a transform by its word. -/
def Unfin.ranges (s : State) (u : Unfin) : List (Nat × Nat) :=
  match u.work with
  | .xbank w => (xfReads w.toNat ++ xfWrites w.toNat).map fun p => (globalView + s.coreId * windowSize + p.1, p.2)
  | _ => match u.work.range s with
    | some r => [(u.canon, r.2)]
    | none => []

/-! ### Kinds of work -/

/-- Whether a `fence`, an issue or a release waits for the work: the accesses of R109, and `join` and `hwait`, acquires
that R101 keeps before a release. -/
def Work.isAccess : Work → Bool
  | .spawn _ => false
  | .result _ => false
  | _ => true

/-- The same of an instruction, whose checks may have still to be made. -/
def Unfin.isAccess (u : Unfin) : Bool := u.unchecked || u.work.isAccess

/-- Work that orders every later access: an atomic with acquire, `waitw`, `join`, `hwait`, and a store to the
own task page (R99, R101, R236, R241). -/
def Work.orders (s : State) : Work → Bool
  | .atomic _ _ _ _ o => o.ord = .acq || o.ord = .ar
  | .waitw _ _ => true
  | .join _ _ => true
  | .hwait _ => true
  | .store _ (.ctrl off) _ => inTaskPage s.coreId off
  | _ => false

/-- Work performed only after every earlier access of the clerk: releases, stores to control registers among
them (R99, R148, R236, R245), and a `join` that has not reached the desk. -/
def Work.ordered : Work → Bool
  | .atomic _ _ _ _ o => o.ord = .rel || o.ord = .ar
  | .store _ (.ctrl _) _ => true
  | .spawn _ => true
  | .rls _ _ => true
  | .join _ _ => true
  | _ => false

/-- An acquire or release point: two of them are performed in program order, object operations and the deferred
operations of R127 among them (R101); and a change of the bindings, which an earlier `rel` or `acq` precedes (R100, R106). -/
def Work.isPoint : Work → Bool
  | .atomic _ _ _ _ o => o.ord ≠ .rlx
  | .waitw _ _ => true
  | .join _ _ => true
  | .hwait _ => true
  | .acquire _ _ _ => true
  | .release _ => true
  | .store _ (.ctrl _) _ => true
  | .spawn _ => true
  | .rls _ _ => true
  | .bind _ _ _ => true
  | .unbind _ => true
  | _ => false

/-- The declarations that [canon, canon + n) meets, with their numbers. -/
def declsMet (ds : List Decl) (canon n : Nat) : List (Nat × Decl) :=
  (ds.zipIdx.map fun p => (p.2, p.1)).filter fun p => p.2.base < canon + n && canon < p.2.base + p.2.len

/-- A touch of these bytes waits for a loan (R120). -/
def State.loanWaits (s : State) (canon n : Nat) : Bool :=
  match s.task with
  | none => false
  | some k => match s.findRec k with
    | none => false
    | some r => (declsMet r.decls canon n).any fun p => p.2.st = .waiting

/-- A set that the core's task waits for: its request counts as outstanding and runs no timeout (R120). -/
def State.anyLoanWaits (s : State) : Bool :=
  match s.task with
  | none => false
  | some k => match s.findRec k with
    | none => false
    | some r => r.decls.any fun d => d.st = .waiting

def Unfin.waits (s : State) (u : Unfin) : Bool := (u.ranges s).any fun p => s.loanWaits p.1 p.2

/-- Whether [canon, canon + n) lies in a region bound to an object (R106, R108). -/
def State.boundTo (s : State) (obj canon n : Nat) : Bool :=
  s.binds.any fun b => b.ctx = s.ctx && b.obj == obj && b.base < canon + n && canon < b.base + b.len

def Unfin.boundTo (s : State) (u : Unfin) (obj : Nat) : Bool := (u.ranges s).any fun p => s.boundTo obj p.1 p.2

/-! ### Order -/

/-- A load from memory, which sees the clerk's own stores before they are performed (R233). -/
def Work.seesStores : Work → Bool
  | .load _ pl => pl.forwards
  | .loadK pl => pl.forwards
  | _ => false

/-- A store to memory that the clerk's own loads may see before it is performed. -/
def Work.seen : Work → Bool
  | .store _ pl _ => pl.forwards
  | _ => false

/-- One key range within another. -/
def rangeIn (a b : Option (Nat × Nat)) : Bool :=
  match a, b with
  | some (x, n), some (y, m) => y ≤ x && x + n ≤ y + m
  | _, _ => false

/-- An access to a control register: those of the clerk are performed in program order (R100, note 2). -/
def Work.control (w : Work) : Bool :=
  match w.place with
  | some (.ctrl _) => true
  | _ => false

/-- An `hwait`, whose claim changes the entry of its handle, which is a control register, too (R88). -/
def Work.claims : Work → Bool
  | .hwait _ => true
  | _ => false

/-- Whether work at common bytes, at one bank or at control registers keeps its order (R37, R100, R101). A load is not held by
a store of the clerk whose bytes it returns; one that takes only a part of them from it is performed after it at a bank. -/
def Work.sameHome (s : State) (e u : Work) : Bool :=
  let bank := (e.banks s).any fun b => b ∈ u.banks s
  if e.seen && u.seesStores && rangesMeet (e.range s) (u.range s) then bank && !rangeIn (u.range s) (e.range s)
  else bank || (e.control && (u.control || u.claims)) || rangesMeet (e.range s) (u.range s)

/-- Whether the earlier unfinished `e`, not yet performed, holds back `u` (R99, R101, R236, R238, R239): `e` has still to be
checked; same address or bank; `e` orders what follows it, or waits for a loan, whose borrow is an acquire; `u` is a release;
both are points; or one is an object operation and the other touches a region bound to its object, or one that `e` is to bind
(R108). -/
def State.holdsBack (s : State) (e u : Unfin) : Bool :=
  e.unchecked || e.work.sameHome s u.work || e.work.orders s || e.waits s || (u.work.ordered && e.work.isAccess) ||
    (e.work.isPoint && u.work.isPoint) ||
    (match e.work with
     | .acquire _ _ _ => u.boundTo s e.canon
     | .bind _ base len => (u.ranges s).any fun p => rangesMeet (some p) (some (base, len))
     | _ => false) ||
    (match u.work with
     | .release _ => e.boundTo s u.canon
     | _ => false)

/-- Whether an earlier unfinished instruction holds back `u`. -/
def State.heldBy (s : State) (before : List Unfin) (u : Unfin) : Bool :=
  before.any fun e => e.done.isNone && s.holdsBack e u

/-- Whether the clerk's `k`-th unfinished instruction may be performed now. -/
def State.mayPerform (s : State) (k : Nat) : Bool :=
  match s.core.clerk.unfin.drop k with
  | [] => false
  | u :: _ => u.done.isNone && !u.lost && !s.heldBy (s.core.clerk.unfin.take k) u

/-- No acquire or release point of the clerk is unperformed (R101). -/
def State.pointsDone (s : State) : Bool :=
  s.core.clerk.unfin.all fun u => u.done.isSome || !(u.unchecked || u.work.isPoint)

/-- No access that a fence or a release waits for is unperformed (R101, R109). -/
def State.allPerformed (s : State) : Bool :=
  s.core.clerk.unfin.all fun u => u.done.isSome || !u.isAccess

/-- The bytes [key, key + n) as a load of the clerk finds them: `v` from memory, under the bytes of the clerk's earlier
unperformed stores (R233). -/
def overlay (s : State) (before : List Unfin) (key n v : Nat) : Nat :=
  ofBytes (before.foldl (fun (bs : List Byte) (e : Unfin) =>
    match e.done, e.work with
    | none, .store m pl x =>
      if pl.forwards then bs.zipIdx.map fun b =>
        if pl.key s ≤ key + b.2 && key + b.2 < pl.key s + m then BitVec.ofNat 8 (x >>> (8 * (key + b.2 - pl.key s))) else b.1
      else bs
    | _, _ => bs) (toBytes v n))

/-! ### The store that every write ends in (R93, R241) -/

/-- After a store, the home compares each `waitw` whose word it may have changed (R241). A `waitw` that an earlier
instruction of the clerk holds back has not arrived at its home. `read` is a word as it stands after the store. -/
def notifyFrom (s : State) (read : Place → Nat) (at_ : Place → Bool) (before : List Unfin) : List Unfin → List Unfin
  | [] => []
  | u :: t =>
    let u' := match u.work, u.done with
      | .waitw pl v, none =>
        if at_ pl && read pl = v.toNat && !u.lost && !s.heldBy before u then { u with done := some (v.setWidth 128) } else u
      | _, _ => u
    u' :: notifyFrom s read at_ (before ++ [u]) t

/-- New contents of memory after a store performed at [key, key + n): waiting words are compared and
poison that the store covers is cleared. Every store of every party ends here. -/
def State.stored (s : State) (m : Mem) (key n : Nat) : State :=
  { s with
    mem := m
    poison := unpoison s.poison key n
    core := { s.core with clerk := { s.core.clerk with
      unfin := notifyFrom s (fun pl => memRead m (pl.key s) 4) Place.plain [] s.core.clerk.unfin } } }

def State.wr (s : State) (key n v : Nat) : State := s.stored (memWrite s.mem key n v) key n

def State.wrBytes (s : State) (key : Nat) (bs : List Byte) : State :=
  s.stored (memWriteBytes s.mem key bs) key bs.length

/-- A word of the tag table's entries that a store has changed is compared, too. -/
def State.notifyOwn (s : State) : State :=
  s.updClerk fun c => { c with
    unfin := notifyFrom s (fun pl => match pl with
        | .own off => s.ownRead off 4
        | _ => 0) (fun pl => !pl.plain && match pl with
        | .own _ => true
        | _ => false) [] c.unfin }

/-- A store of `n` bytes to the own resource area: USER of a tag entry, the trap area; to reserved
offsets and to entries beyond the sets, nothing (R18, R40). -/
def State.ownWrite (s : State) (off n v : Nat) : State :=
  if 0x180_0000 ≤ off && off < 0x181_0000 then
    let slot := (off - 0x180_0000) / 16
    if slot < 8 * s.tagSets then
      let e := s.tag slot
      let lo := 8 * (off % 16 - 8)
      (s.setTag slot { e with user := BitVec.ofNat 64 (setBits e.user.toNat (lo + 8 * n - 1) lo v) }).notifyOwn
    else s
  else if trapArea ≤ off && off < trapArea + 0x3C8 then
    s.wr (scratchKey s.coreId off) (min n (trapArea + 0x3C8 - off)) v
  else s

/-- A trap-area word read and written by the hardware (R315). -/
def State.trapRd (s : State) (off n : Nat) : Nat := s.rd (scratchKey s.coreId (trapArea + off)) n
def State.trapWr (s : State) (off n v : Nat) : State :=
  s.wr (scratchKey s.coreId (trapArea + off)) n v

end Sys2Proof.Machine
end

