-- ==== Sys2Proof/Machine/Pages.lean ====
section
/-! DEFINITION. Compressed pages (R43 to R51), those of this core and those of other cores. -/

namespace Sys2Proof.Machine

/-- The 16-bit and 32-bit little-endian elements of a tile. -/
def halves : List Byte → List Nat
  | a :: b :: t => (a.toNat + 256 * b.toNat) :: halves t
  | _ => []

def words32 : List Byte → List Nat
  | a :: b :: c :: d :: t => (a.toNat + 256 * (b.toNat + 256 * (c.toNat + 256 * d.toNat))) :: words32 t
  | _ => []

/-- Bits, least significant first, as bytes. -/
def packBits : List Bool → Nat
  | [] => 0
  | b :: t => b2n b + 2 * packBits t

/-- BMV (R47): a mask of the nonzero 16-bit elements, then those elements. -/
def bmvEncode (bs : List Byte) : List Byte :=
  let hs := halves bs
  toBytes (packBits (hs.map (· != 0))) 64 ++ (hs.filter (· != 0)).flatMap (toBytes · 2)

/-- DEXP (R47): the least exponent, the width of the differences, sign and fraction of each element, and the
differences as one bit string. -/
def dexpEncode (bs : List Byte) : List Byte :=
  let ws := words32 bs
  let es := ws.map fun x => bitsOf x 30 23
  let emin := es.foldl min 255
  let dmax := es.foldl (fun m e => max m (e - emin)) 0
  let w := if dmax == 0 then 0 else Nat.log2 dmax + 1
  let diffs := es.zipIdx.foldl (fun acc p => acc + (p.1 - emin) * 2 ^ (w * p.2)) 0
  BitVec.ofNat 8 emin :: BitVec.ofNat 8 w ::
    (ws.flatMap fun x => toBytes (bitsOf x 31 31 * 2 ^ 23 + x % 2 ^ 23) 3) ++ toBytes diffs (32 * w)

/-- The form stored: the shortest of BMV, DEXP and RAW, in that order on equal length (R48). -/
def tileForm (bs : List Byte) : BitVec 2 × List Byte :=
  let b := bmvEncode bs
  let d := dexpEncode bs
  if b.length ≤ d.length && b.length ≤ 1024 then (1, b)
  else if d.length ≤ 1024 then (2, d)
  else (0, bs)

/-- The elements of a BMV tile from its mask and values. -/
def bmvFill (mask : Nat) : Nat → Nat → List Byte → List Byte
  | 0, _, _ => []
  | n + 1, i, vs =>
    if bitOf mask i then
      match vs with
      | a :: b :: t => a :: b :: bmvFill mask n (i + 1) t
      | _ => 0 :: 0 :: bmvFill mask n (i + 1) []
    else 0 :: 0 :: bmvFill mask n (i + 1) vs

/-- A stored tile expanded, or `none` where it is inconsistent (R51). -/
def tileExpand (e : TileEnt) (bs : List Byte) : Option (List Byte) :=
  if e.slot * 32 < e.len then none
  else match e.fmt.toNat with
    | 0 => if e.len == 1024 then some bs else none
    | 1 =>
      let mask := ofBytes (bs.take 64)
      if e.len == 64 + 2 * ((List.range 512).filter (bitOf mask ·)).length then
        some (bmvFill mask 512 0 (bs.drop 64)) else none
    | 2 =>
      let w := (bs.getD 1 0).toNat
      if w ≤ 8 && e.len == 770 + 32 * w then
        let emin := (bs.getD 0 0).toNat
        let diffs := ofBytes (bs.drop 770)
        some ((List.range 256).flatMap fun i =>
          let x := ofBytes ((bs.drop (2 + 3 * i)).take 3)
          let d := diffs / 2 ^ (w * i) % 2 ^ w
          toBytes (bitsOf x 23 23 * 2 ^ 31 + (emin + d) % 256 * 2 ^ 23 + x % 2 ^ 23) 4)
      else none
    | _ => none

def State.page (s : State) (t : Nat) : CPage := s.pageAt s.coreId t

def State.updPage (s : State) (c t : Nat) (f : CPage → CPage) : State :=
  if c == s.coreId then { s with pages := updAt s.pages t f }
  else { s with farPages := assocPut s.farPages (c, t) (f (s.pageAt c t)) }

def CPage.ent (p : CPage) (i : Nat) : TileEnt := p.ents.getD i TileEnt.reset

/-- Where tile `i`'s stored bytes lie (R46). -/
def tileKey (c : Nat) (p : CPage) (i : Nat) : Nat := scratchKey c (32 * p.base + 32 * (p.ent i).off)

def State.tileStored (s : State) (c : Nat) (p : CPage) (i : Nat) : List Byte :=
  memBytes s.mem (tileKey c p i) (p.ent i).len

/-- A tile's 1,024 bytes, or `none` where it is inconsistent. -/
def State.tileRead (s : State) (c t i : Nat) : Option (List Byte) :=
  let p := s.pageAt c t
  tileExpand (p.ent i) (s.tileStored c p i)

/-- Where a tile's stored bytes lie, as a key and a length. -/
def State.tileRange (s : State) (c t i : Nat) : Nat × Nat := (tileKey c (s.pageAt c t) i, ((s.pageAt c t).ent i).len)

/-- Granules of a stored length (R50). -/
def granules (len : Nat) : Nat := (len + 31) / 32

/-- The packed layout with tile `i` taking the stored form `f` (R50, steps 2 and 3). -/
def CPage.packed (p : CPage) (i : Nat) (f : BitVec 2 × List Byte) : List TileEnt :=
  ((List.range 64).foldl (fun (acc : List TileEnt × Nat) u =>
    let e := p.ent u
    let len := if u == i then f.2.length else e.len
    let fmt := if u == i then f.1 else e.fmt
    let slot := granules len
    (acc.1 ++ [⟨fmt, slot, len, acc.2⟩], acc.2 + slot)) ([], 0)).1

def usedOf (es : List TileEnt) : Nat := (es.map (·.slot)).sum

/-- The uncorrectable units of a tile's stored bytes, where a move from key `a` to key `b` takes them (R333). -/
def State.poisonMoved (s : State) (a b len : Nat) : List Nat :=
  (s.poison.filter fun u => a ≤ u && u < a + len).map fun u => b + (u - a)

/-- The page of core `c` laid out again with tile `i` taking the bytes `bs`: data moved, the tile stored, the table
rewritten, LOCK cleared (R50, steps 2 to 5). An uncorrectable unit of a tile that moves stays one (R333). -/
def State.layOut (s : State) (c t i : Nat) (bs : List Byte) : State :=
  let p := s.pageAt c t
  let f := tileForm bs
  let es := p.packed i f
  let data := (List.range 64).map fun u => if u == i then f.2 else s.tileStored c p u
  let p' := { p with ents := es }
  let base := scratchKey c (32 * p.base)
  let bad := ((List.range 64).filter (· != i)).flatMap fun u => s.poisonMoved (tileKey c p u) (tileKey c p' u) (p.ent u).len
  let s := s.updPage c t fun p => { p with ents := es, used := usedOf es, lock := false, grow := none }
  let s := data.zipIdx.foldl (fun s d => s.wrBytes (tileKey c p' d.2) d.1) s
  { s with poison := bad ++ s.poison.filter fun u => !(base ≤ u && u < base + 32 * usedOf es) }

/-- A whole tile written (R50): in its slot when it fits, else the start of a new layout; `none` on
compressed page overflow. The write counts as performed when LOCK is set, from when on no access to the page passes
(log 87, DESIGN CHOICE); a page of another core is laid out at once. -/
def State.tileWrite (s : State) (c t i : Nat) (bs : List Byte) : Option State :=
  let p := s.pageAt c t
  let f := tileForm bs
  let e := p.ent i
  if f.2.length ≤ 32 * e.slot then
    let s := s.updPage c t fun p => { p with ents := updAt p.ents i fun e => { e with fmt := f.1, len := f.2.length } }
    some (s.wrBytes (tileKey c p i) f.2)
  else if p.resv < usedOf (p.packed i f) then none
  else if c != s.coreId then some (s.layOut c t i bs)
  else some (s.updPage c t fun p => { p with lock := true, grow := some (i, bs) })

/-- The layout of a page of this core completes. -/
def State.layoutDone (s : State) (t : Nat) : State :=
  match (s.page t).grow with
  | none => s
  | some (i, bs) => s.layOut s.coreId t i bs

/-- `n` bytes of a page from offset `off`, which lie in one tile. -/
def State.pageRead (s : State) (c t off n : Nat) : Option Nat :=
  match s.tileRead c t (off / 1024) with
  | some bs => some (ofBytes ((bs.drop (off % 1024)).take n))
  | none => none

/-- The tile with `n` bytes of it replaced (R49). -/
def patch (bs : List Byte) (off n v : Nat) : List Byte :=
  bs.take off ++ toBytes v n ++ bs.drop (off + n)

/-- The key of an uncorrectable unit that a read of `n` bytes at a place meets (R333). -/
def State.placePoison (s : State) (pl : Place) (n : Nat) : Option Nat :=
  let r := match pl with
    | .page c t off => s.tileRange c t (off / 1024)
    | pl => (pl.key s, if pl.plain then n else 0)
  if s.poisoned r.1 r.2 then some r.1 else none

/-- CPDESC as read (R43). -/
def CPage.word (p : CPage) : Nat :=
  b2n p.v * 2 ^ 63 + b2n p.lock * 2 ^ 62 + p.resv % 4096 * 2 ^ 44 + p.base % 2 ^ 20 * 2 ^ 20 + p.used % 4096

/-- A write to CPDESC of page `t` of core `c` (R44); `none` where it is refused. -/
def State.cpdescWrite (s : State) (c t v : Nat) : Option State :=
  let p := s.pageAt c t
  let resv := bitsOf v 55 44
  let base := bitsOf v 39 20
  let reserved := bitsOf v 61 56 != 0 || bitsOf v 43 40 != 0 || bitsOf v 19 12 != 0
  let fits := 128 ≤ resv && resv ≤ 2048 && 32 * (base + resv) ≤ bankBytes && !reserved &&
    (List.range 64).all fun u => u == t || !(s.pageAt c u).v ||
      base + resv ≤ (s.pageAt c u).base || (s.pageAt c u).base + (s.pageAt c u).resv ≤ base
  match p.v, bitOf v 63 with
  | false, false => some (s.updPage c t fun p => { p with resv, base })
  | false, true =>
    if fits then
      let es := (List.range 64).map fun i => (⟨1, 2, 64, 2 * i⟩ : TileEnt)
      let s := s.updPage c t fun _ => ⟨true, false, resv, base, 128, es, none⟩
      some (s.wrBytes (scratchKey c (32 * base)) (List.replicate 4096 0))
    else none
  | true, true =>
    if fits && base == p.base && p.used ≤ resv then some (s.updPage c t fun p => { p with resv }) else none
  | true, false => some (s.updPage c t fun p => { p with v := false })

end Sys2Proof.Machine
end

