-- ==== Sys2Proof/Machine/Desk.lean ====
section
/-! DEFINITION. Shared operations on tasks: the task control block and the desk (chapter 9), loans and the
undo log (chapter 7), cohorts (R139 to R142), synchronisation objects (R105, R107), rollback (R123 to R125)
and a task's end as FAULTED (R154). -/

namespace Sys2Proof.Machine

/-! ### Task control blocks (R146) -/

/-- The physical address of a TCB that is aligned, translates and is of type 0 (R148, code 1). -/
def State.tcbPa (s : State) (ctx : BitVec 12) (addr : Nat) : Option Nat :=
  if addr % 128 != 0 || s.region addr ≠ .translated then none
  else match s.lookup ctx addr with
    | .ok e => if leafType e.leaf.toNat == 0 then some (e.pa addr) else none
    | .error _ => none

def State.tcbRd (s : State) (pa k : Nat) : Nat := s.rd (pa + 8 * k) 8
def State.tcbWr (s : State) (pa k v : Nat) : State := s.wr (pa + 8 * k) 8 v

/-- Bits of a TCB word replaced. -/
def State.tcbSet (s : State) (pa k hi lo v : Nat) : State :=
  s.tcbWr pa k (setBits (s.tcbRd pa k) hi lo v)

/-- A 64-bit word at a virtual address as the desk reads it; none where it cannot be read: no translation, R = 0, an
invalid compressed page, an uncorrectable unit, or a peer page with no Span port up. -/
def State.rdVa (s : State) (ctx : BitVec 12) (va : Nat) : Option Nat :=
  match s.region va with
  | .translated =>
    match s.lookup ctx va with
    | .error _ => none
    | .ok e =>
      match s.leafRes ⟨.fabric, .load, 8, true⟩ va e with
      | .error _ => none
      | .ok r =>
        if !s.reaches ctx r.pl va then none
        else match r.pl with
        | .page c t off => s.pageRead c t off 8
        | pl => if s.poisoned (pl.key s) 8 then none else some (s.rd (pl.key s) 8)
  | _ => none

/-! ### Records of tasks -/

def State.updRec (s : State) (k : TaskKey) (f : TaskRec → TaskRec) : State :=
  { s with recs := s.recs.map fun r => if r.key = k then f r else r }

def State.dropRec (s : State) (k : TaskKey) : State :=
  { s with recs := s.recs.filter fun r => !(r.key = k) }

/-- The age stamp by which a task is compared (R121); an unknown task counts as youngest. -/
def State.ageOf (s : State) (k : TaskKey) : Nat :=
  match s.findRec k with
  | some r => r.age
  | none => 2 ^ 48

/-- The state of the core that holds a task's clerk: the core itself, or shadow storage (R326). -/
def State.taskCore (s : State) (k : TaskKey) : Option Core :=
  if s.task = some k then some s.core
  else match s.shadow.find? (·.1 = k) with
    | some e => some e.2
    | none => none

def State.updTaskCore (s : State) (k : TaskKey) (f : Core → Core) : State :=
  if s.task = some k then { s with core := f s.core }
  else { s with shadow := s.shadow.map fun e => if e.1 = k then (e.1, f e.2) else e }

/-- The tasks whose clerk this core holds. -/
def State.ownTasks (s : State) : List TaskKey :=
  (match s.task with
  | some k => [k]
  | none => []) ++ s.shadow.map (·.1)

/-- The first unfinished instruction that `p` selects, and has no value yet, is given the value `v`. -/
def giveFirst (p : Unfin → Bool) (v : Qword) : List Unfin → List Unfin
  | [] => []
  | u :: t => if u.done.isNone && p u then { u with done := some v } :: t else u :: giveFirst p v t

def Core.giveUnfin (c : Core) (p : Unfin → Bool) (v : Qword) : Core :=
  { c with clerk := { c.clerk with unfin := giveFirst p v c.clerk.unfin } }

/-! ### Fault records (R147, R154) -/

/-- A 32-byte record to the ring of wing `w`, dropped and counted when the ring is absent, full or not
populated (R147). Bytes that R154 gives no meaning are written as 0: log 139 (DESIGN CHOICE). A capacity code below 4 is no
ring, and one above 12 a ring of 2^n records: log 140 (DESIGN CHOICE). -/
def State.faultRecord (s : State) (w tcb core cause faddr : Nat) : State :=
  let wg := s.wing w
  let cap := 2 ^ bitsOf wg.faultlog.toNat 3 0
  let used := (wg.fheadCount.toNat + 2 ^ 32 - wg.faulttail.toNat) % 2 ^ 32
  let place := bitsOf wg.faultlog.toNat 51 6 * 64 + 32 * (wg.fheadCount.toNat % cap)
  if cap < 16 || cap ≤ used || !(inDram place || s.inCxl place || s.inHost place) then
    s.updWing w fun g =>
      { g with fheadDrop := if g.fheadDrop = BitVec.allOnes 32 then g.fheadDrop else g.fheadDrop + 1 }
  else
    let s := s.wr place 8 tcb
    let s := s.wr (place + 8) 8 (core % 256 + cause % 256 * 256)
    let s := s.wr (place + 16) 8 faddr
    let s := s.wr (place + 24) 8 0
    s.updWing w fun g => { g with fheadCount := g.fheadCount + 1 }

/-- The wing of a TCB's queue: the lowest exposed wing of WING (R150). -/
def State.queueWing (s : State) (mask : Nat) : Option Nat :=
  (List.range 8).find? fun w => bitOf mask w && s.hasWing w

def State.tcbQueueWing (s : State) (k : TaskKey) : Nat :=
  match s.tcbPa k.ctx k.tcb with
  | some pa => (s.queueWing (bitsOf (s.tcbRd pa 4) 39 32)).getD 0
  | none => 0

/-! ### Enqueue, launch and decrement (R148 to R150) -/

/-- A task linked into its queue wing with STATE `st`, ENQT and the link written (R150). Log 114 (DEDUCED). -/
def State.enqueue (s : State) (k : TaskKey) (st : Nat) (left : Option Nat) : State :=
  match s.tcbPa k.ctx k.tcb with
  | none => s
  | some pa =>
    let w4 := s.tcbRd pa 4
    let prio := s.tcbRd pa 3 % 8
    let w := (s.queueWing (bitsOf w4 39 32)).getD 0
    let map : Byte := match s.findRec k with
      | some r => r.map
      | none => 0
    let s := s.tcbSet pa 3 10 8 st
    let s := s.tcbWr pa 13 s.timer
    let s := s.tcbWr pa 14 (Config.deskLink s.stepNo).toNat
    s.updWing w fun g => { g with
      ready := g.ready ++ [{ key := k, prio, enqt := s.timer, wings := BitVec.ofNat 8 (bitsOf w4 39 32)
                             aff := BitVec.ofNat 20 w4, part := BitVec.ofNat 4 (bitsOf w4 51 48), map, left }] }

/-- Whether core mask AFF of wing mask WING holds a present core of a partition (R148, code 5). -/
def State.anyCore (s : State) (wings aff part : Nat) : Bool :=
  (List.range 160).any fun c => bitOf wings (c / 20) && bitOf aff (c % 20) && s.hasCore c && s.corePart c == part

/-- The checks of R148 in their order: the refusal code, or 0. CTX is that of the TCB. Log 19 (DEDUCED). -/
def State.launchCode (s : State) (k : TaskKey) : Nat :=
  match s.tcbPa k.ctx k.tcb with
  | none => 1
  | some pa =>
    let w (i : Nat) := s.tcbRd pa i
    let st := bitsOf (w 3) 10 8
    let part := bitsOf (w 4) 51 48
    let ctx : BitVec 12 := BitVec.ofNat 12 (bitsOf (w 4) 63 52)
    let addr (i : Nat) := w i % 2 ^ 48
    if 1 ≤ st && st ≤ 4 then 2
    else if ([0, 1, 2, 6, 7, 8, 9, 10].any fun i => w i / 2 ^ 48 != 0) || bitsOf (w 3) 15 11 != 0 ||
        bitsOf (w 3) 7 6 != 0 || bitOf (w 3) 3 || bitsOf (w 4) 47 40 != 0 || bitsOf (w 4) 31 20 != 0 ||
        bitsOf (w 12) 55 51 != 0 || w 15 != 0 || bitsOf (w 3) 5 4 == 3 ||
        (bitsOf (w 3) 47 32 != 0 && addr 10 == 0) || addr 0 % 4 != 0 || addr 2 % 64 != 0 ||
        ([6, 7, 8, 9].any fun i => addr i % 128 != 0) || addr 10 % 8 != 0 || addr 11 % 8 != 0 then 3
    else if !s.ctxValid ctx || s.ctxPart ctx != part then 4
    else if !s.anyCore (bitsOf (w 4) 39 32) (w 4 % 2 ^ 20) part then 5
    else 0

/-- The MAP byte of an image header as the desk keeps it; 0 where it cannot be read (R148, R162). -/
def State.imageMap (s : State) (ctx : BitVec 12) (image : Nat) : Byte :=
  if image == 0 then 0
  else match s.rdVa ctx (image + 8) with
    | some v => BitVec.ofNat 8 (bitsOf v 23 16)
    | none => 0

/-- A launch that has passed its checks (R148): stamped, recorded, and armed or enqueued. -/
def State.launchTask (s : State) (k : TaskKey) : State :=
  match s.tcbPa k.ctx k.tcb with
  | none => s
  | some pa =>
    let w3 := s.tcbRd pa 3
    let w4 := s.tcbRd pa 4
    let w11 := s.tcbRd pa 11
    let age := s.modl.age
    let r : TaskRec :=
      { key := k, ctx := BitVec.ofNat 12 (bitsOf w4 63 52), part := BitVec.ofNat 4 (bitsOf w4 51 48), core := 0, age, prio := w3 % 8, decls := []
        undo := w11 % 2 ^ 48, undoCap := bitsOf w11 63 48, undoUsed := 0, logged := [], deferred := []
        map := s.imageMap (BitVec.ofNat 12 (bitsOf w4 63 52)) (s.tcbRd pa 2 % 2 ^ 48) }
    let s := (s.dropRec k).updMod fun m => { m with age := (m.age + 1) % 2 ^ 48 }
    let s := { s with recs := s.recs ++ [r] }
    let s := s.tcbWr pa 5 age
    let s := s.tcbWr pa 12 0
    if bitsOf w3 63 48 != 0 then s.tcbSet pa 3 10 8 1 else s.enqueue k 2 none

/-- The successor addresses of a TCB in the order of R149, with 0 for none. An overflow word that cannot be
read counts as one that names no TCB. -/
def State.successors (s : State) (k : TaskKey) (pa : Nat) : List Nat :=
  ([6, 7, 8, 9].map fun i => s.tcbRd pa i % 2 ^ 48) ++
    (List.range (bitsOf (s.tcbRd pa 3) 47 32)).map fun i =>
      match s.rdVa (s.taskCtx k) (s.tcbRd pa 10 % 2 ^ 48 + 8 * i) with
      | some v => v % 2 ^ 48
      | none => 0

/-- One decrement of R149 at a TCB, with its enqueue. -/
def State.decrementAt (s : State) (k : TaskKey) (pa : Nat) : State :=
  let w3 := s.tcbRd pa 3
  let cnt := bitsOf w3 63 48
  if cnt == 0 then s.tcbSet pa 12 49 49 1
  else
    let s := s.tcbSet pa 3 63 48 (cnt - 1)
    if cnt == 1 && bitsOf w3 10 8 == 1 then s.enqueue k 2 none else s

/-- The name under which the desk knows the TCB at physical address `pa`, which a task of context `ctx` names by `a`. -/
def State.keyAt (s : State) (ctx : BitVec 12) (a pa : Nat) : TaskKey :=
  match s.recs.find? fun r => s.tcbPa r.key.ctx r.key.tcb = some pa with
  | some r => r.key
  | none => ⟨ctx, a⟩

/-- One decrement for an ending task's successor `a`; an address that names no TCB writes a record (R149).
`pf` marks the successor as released by a faulted predecessor (R154). -/
def State.decrement (s : State) (k : TaskKey) (core : Nat) (pf : Bool) (a : Nat) : State :=
  if a == 0 then s
  else match s.tcbPa (s.taskCtx k) a with
    | none => s.faultRecord (s.tcbQueueWing k) k.tcb core 0x04 a
    | some pa =>
      let s := s.decrementAt (s.keyAt (s.taskCtx k) a pa) pa
      if pf then s.tcbSet pa 12 48 48 1 else s

def State.decrementAll (s : State) (k : TaskKey) (core : Nat) (pf : Bool) : State :=
  match s.tcbPa k.ctx k.tcb with
  | none => s
  | some pa => (s.successors k pa).foldl (fun s a => s.decrement k core pf a) s

/-- The successors of a TCB, each with the context that its address is translated in: the TCB's own CTX (R149). -/
def State.succIn (s : State) (k : TaskKey) (pa : Nat) : List (BitVec 12 × Nat) :=
  (s.successors k pa).map fun a => (s.taskCtx k, a)

/-- CANCEL applied to a worklist of successors (R154, step 4): each ARMED one becomes CANCELLED and its own
successors follow. A successor that does not translate or is no memory of type 0 is passed over with no record: log 142 (DESIGN
CHOICE). -/
def cancelFrom : Nat → List (BitVec 12 × Nat) → State → State
  | 0, _, s => s
  | _, [], s => s
  | fuel + 1, (ctx, a) :: rest, s =>
    if a == 0 then cancelFrom fuel rest s
    else match s.tcbPa ctx a with
      | none => cancelFrom fuel rest s
      | some pa =>
        if bitsOf (s.tcbRd pa 3) 10 8 == 1 then
          let k := s.keyAt ctx a pa
          let s := (s.tcbSet pa 3 10 8 7).tcbSet pa 12 50 50 1
          cancelFrom fuel (rest ++ s.succIn k pa) (s.dropRec k)
        else cancelFrom fuel rest s

/-! ### Synchronisation objects (R105, R107) -/

/-- The fields of an object word (R105). -/
def objMode (w : Nat) : Nat := bitsOf w 63 62
def objHold (w : Nat) : Nat := bitsOf w 61 48
def objGen (w : Nat) : Nat := w % 2 ^ 32

def objWord (mode hold wait gen : Nat) : Nat :=
  mode * 2 ^ 62 + hold % 2 ^ 14 * 2 ^ 48 + min wait 65535 * 2 ^ 32 + gen % 2 ^ 32

def State.objQueue (s : State) (home : Place) : List ObjWait :=
  match s.objs.find? (·.home = home) with
  | some q => q.queue
  | none => []

/-- The queue of an object set, and its word written to agree; a free object with no queue is not listed. -/
def State.setObj (s : State) (home : Place) (q : List ObjWait) (mode hold gen : Nat) : State :=
  let rest := s.objs.filter fun o => !(o.home = home)
  let s := { s with objs := if mode == 0 && q.isEmpty then rest else rest ++ [ObjQueue.mk home q] }
  s.wr (home.key s) 8 (objWord mode hold q.length gen)

/-- A grant reaches the requester: its `acq` gets GEN and its hold list shows the object as held (R238). One whose request
went out by a Span port that has gone down since gets nothing: it ends by the memory timeout (R339), and performed again
it finds the object held. -/
def State.granted (s : State) (home : Place) (k : TaskKey) (gen : Nat) : State :=
  let asks (u : Unfin) : Bool := match u.work with
    | .acquire h _ _ => h = home && !u.lost
    | _ => false
  s.updTaskCore k fun c =>
    let c := c.giveUnfin asks (BitVec.ofNat 128 gen)
    { c with clerk := { c.clerk with
      kept := giveFirst asks (BitVec.ofNat 128 gen) c.clerk.kept
      holds := c.clerk.holds.map fun h => if h.home = home then { h with held := true } else h } }

/-- Grants at the head of an object's queue (R107): one exclusive request when free, or the shared
requests at the head while the object is free or shared. -/
def grantFrom (home : Place) : List ObjWait → Nat → Nat → Nat → State → State
  | [], mode, hold, gen, s => s.setObj home [] mode hold gen
  | r :: t, mode, hold, gen, s =>
    if r.excl then
      if mode == 0 then
        let gen := (gen + 1) % 2 ^ 32
        (s.setObj home t 2 1 gen).granted home r.key gen
      else s.setObj home (r :: t) mode hold gen
    else if mode < 2 && hold < 16383 then grantFrom home t 1 (hold + 1) gen (s.granted home r.key gen)
    else s.setObj home (r :: t) mode hold gen

def State.serve (s : State) (home : Place) (q : List ObjWait) (mode hold gen : Nat) : State :=
  grantFrom home q mode hold gen s

/-- A request arrives at an object's home (R107). -/
def State.objRequest (s : State) (home : Place) (k : TaskKey) (excl : Bool) : State :=
  let w := s.rd (home.key s) 8
  s.serve home (s.objQueue home ++ [ObjWait.mk k excl]) (objMode w) (objHold w) (objGen w)

/-- `rel` at the home: HOLD falls by one, and at zero the object is free and its queue served (R107, R239). -/
def State.objRelease (s : State) (home : Place) : State :=
  let w := s.rd (home.key s) 8
  let hold := objHold w - 1
  let q := s.objQueue home
  if hold == 0 then s.serve home q 0 0 (objGen w)
  else s.setObj home q (objMode w) hold (objGen w)

/-- A queued request withdrawn (R239); the head that remains is served. -/
def State.objWithdraw (s : State) (home : Place) (k : TaskKey) : State :=
  let w := s.rd (home.key s) 8
  s.serve home ((s.objQueue home).filter fun r => !(r.key = k)) (objMode w) (objHold w) (objGen w)

/-- An uncorrectable error met at a key: counted at its wing with its address (R333). -/
def State.eccHit (s : State) (key : Nat) : State :=
  let w := if scratchBase ≤ key then (key - scratchBase) / windowSize / 20
    else Place.wing s none (.mem key)
  s.updWing w fun g => { g with
    eccUnc := if g.eccUnc = BitVec.allOnes 32 then g.eccUnc else g.eccUnc + 1
    eccaddr := BitVec.ofNat 64 key }

/-- Every object of a task released in hold-list order, its queued requests withdrawn (R108, R239). What is to go to a peer
for which no Span port is up is lost, and an uncorrectable object word is left as it is (R333). Log 112 (DESIGN CHOICE). -/
def State.releaseObjects (s : State) (k : TaskKey) : State :=
  let holds := match s.taskCore k with
    | some c => c.clerk.holds
    | none => []
  let bad := (holds.filter fun h => s.poisoned (h.home.key s) 8).map (·.home)
  let cut := bad ++ (holds.filter fun h => !s.reaches (s.taskCtx k) h.home h.obj).map (·.home)
  let s := bad.foldl (fun s h => s.eccHit (h.key s)) s
  let s := (holds.filter fun h => !(h.home ∈ cut)).foldl
    (fun s h => if h.held then s.objRelease h.home else s.objWithdraw h.home k) s
  let s := (s.objs.filter fun o => !(o.home ∈ cut) && o.queue.any fun r => r.key = k).foldl
    (fun s o => s.objWithdraw o.home k) s
  s.updTaskCore k fun c => { c with clerk := { c.clerk with holds := [] } }

/-- Whether a store or an atomic at [key, key + n) meets an object word that is not free (R105): one that a task holds or has
requested. A word whose MODE a plain store has set is no object for that. Log 135 (DESIGN CHOICE). -/
def State.objProtected (s : State) (key n : Nat) : Bool :=
  s.objs.any fun o => o.home.key s < key + n && key < o.home.key s + 8

/-! ### Cohorts (R139 to R142) -/

def State.cohortOf (s : State) (k : TaskKey) : Option Cohort :=
  s.cohorts.find? fun h => h.members.any fun m => m.key = k

def State.updCohort (s : State) (ctx : BitVec 12) (id : Nat) (f : Cohort → Cohort) : State :=
  { s with cohorts := s.cohorts.map fun h => if h.ctx = ctx && h.id == id then f h else h }

/-- The TCB's COHORT field (R139). -/
def State.setCohortField (s : State) (k : TaskKey) (id : Nat) : State :=
  match s.tcbPa k.ctx k.tcb with
  | some pa => s.tcbSet pa 3 31 16 id
  | none => s

/-- A `join` waits at the desk for a cohort id. -/
def Unfin.waitsIn (id : Nat) (u : Unfin) : Bool := u.done.isNone && u.work = .join id .waits

/-- A member's rank: its position among the members in ascending core ID (R140). Two members of one core ID, of which one was
pre-empted while it waited, have the same rank; the spec does not rank them. Log 130 (DESIGN CHOICE). -/
def rankIn (ms : List Member) (m : Member) : Nat := (ms.filter fun x => x.core < m.core).length

/-- When the count is reached the cohort is formed, and every waiting `join` returns its rank (R140). -/
def State.formCohort (s : State) (ctx : BitVec 12) (id : Nat) : State :=
  match s.cohorts.find? fun h => h.ctx = ctx && h.id == id with
  | none => s
  | some h =>
    if h.formed || h.members.length < h.count then s
    else
      let ms := h.members.map fun m => { m with rank := some (rankIn h.members m) }
      let s := s.updCohort ctx id fun h => { h with formed := true, members := ms }
      ms.foldl (fun s m => s.updTaskCore m.key fun c =>
        c.giveUnfin (Unfin.waitsIn id) (BitVec.ofNat 128 (rankIn h.members m))) s

/-- A task becomes a member of a forming or unused cohort id (R140). -/
def State.joinCohort (s : State) (k : TaskKey) (core id count : Nat) (running : Bool) : State :=
  let m : Member := { key := k, core, running, cbars := 0, passed := 0, rank := none }
  let s := s.setCohortField k id
  let ctx := s.taskCtx k
  let s := if s.cohorts.any fun h => h.ctx = ctx && h.id == id then
      s.updCohort ctx id fun h => { h with members := h.members ++ [m] }
    else { s with cohorts := s.cohorts ++ [{ ctx, id, count, formed := false, members := [m] }] }
  s.formCohort ctx id

/-- The waiting `join` of id `id` of a task that is no member, with its count (R140). -/
def joinWaiting (c : Core) (id : Nat) : Option Nat :=
  match c.clerk.unfin.find? fun u => u.waitsIn id with
  | some u => some u.b.toNat
  | none => none

/-- The waiting `join` of id `id` refused: it traps with `format` when it is looked at next (R140). -/
def refuseJoin (id : Nat) : List Unfin → List Unfin
  | [] => []
  | u :: t =>
    if u.waitsIn id then { u with work := .join id .refused } :: t else u :: refuseJoin id t

/-- A `join` that waited for a formed cohort to dissolve proceeds as for an unused id, those of the core's tasks in turn:
one with another count than the cohort that now forms is refused, and one that finds it formed again waits on (R140).
The task that has left does not come back by a `join` of its own. -/
def State.rejoin (s : State) (ctx : BitVec 12) (id : Nat) (gone : TaskKey) : State :=
  s.ownTasks.foldl (fun s k =>
    match s.taskCore k with
    | some c =>
      match joinWaiting c id with
      | some n =>
        if k = gone || !(s.taskCtx k = ctx) || (s.cohortOf k).isSome then s
        else match s.cohorts.find? fun h => h.ctx = ctx && h.id == id with
          | none => s.joinCohort k s.coreId id n (s.task = some k)
          | some h =>
            if h.formed then s
            else if h.count != n then
              s.updTaskCore k fun c => { c with clerk := { c.clerk with unfin := refuseJoin id c.clerk.unfin } }
            else s.joinCohort k s.coreId id n (s.task = some k)
      | none => s
    | none => s) s

/-- A member leaves (R141); the last one dissolves the cohort. -/
def State.leaveCohort (s : State) (k : TaskKey) : State :=
  match s.cohortOf k with
  | none => s
  | some h =>
    let ms := h.members.filter fun m => !(m.key = k)
    let s := s.setCohortField k 0
    if ms.isEmpty then
      State.rejoin { s with cohorts := s.cohorts.filter fun x => !(x.ctx = h.ctx && x.id == h.id) } h.ctx h.id k
    else s.updCohort h.ctx h.id fun x => { x with members := ms }

/-- Whether a member's task runs, as R20 and R143 look at it. -/
def State.memberRuns (s : State) (k : TaskKey) (b : Bool) : State :=
  { s with cohorts := s.cohorts.map fun h =>
      { h with members := h.members.map fun m => if m.key = k then { m with running := b } else m } }

/-! ### Loans (R118 to R128) -/

def State.borrows (s : State) (k : TaskKey) : Bool :=
  match s.findRec k with
  | some r => r.decls.any fun d => d.st = .borrowed
  | none => false

def State.setDecl (s : State) (k : TaskKey) (i : Nat) (st : LoanState) : State :=
  s.updRec k fun r => { r with decls := updAt r.decls i fun d => { d with st } }

/-- Insertion into a queue ordered by age (R119). -/
def insertByAge (k : TaskKey) (age : Nat) : List (TaskKey × Nat) → List (TaskKey × Nat)
  | [] => [(k, age)]
  | x :: t => if age < x.2 then (k, age) :: x :: t else x :: insertByAge k age t

/-- Where a canonical line is kept. -/
def State.lineKey (s : State) (ctx : BitVec 12) (canon : Nat) : Option Nat :=
  match s.region canon with
  | .window c off => some (scratchKey c off)
  | .translated =>
    match s.lookup ctx canon with
    | .ok e => some (e.pa canon)
    | .error _ => none
  | _ => none

/-- Word `i` of a line kept at `key`, and its write; a line of the core's own resource area is read and written as its
bytes are (R18). -/
def State.lineRd (s : State) (line key i : Nat) : Nat :=
  match s.region line with
  | .window c off => if c == s.coreId && bankBytes ≤ off then s.ownRead (off + 8 * i) 8 else s.rd (key + 8 * i) 8
  | _ => s.rd (key + 8 * i) 8

def State.lineWr (s : State) (line key i v : Nat) : State :=
  match s.region line with
  | .window c off =>
    if c == s.coreId && bankBytes ≤ off then
      if s.ownStoreRefused (off + 8 * i) then s else s.ownWrite (off + 8 * i) 8 v
    else s.wr (key + 8 * i) 8 v
  | _ => s.wr (key + 8 * i) 8 v

/-- One entry of the undo log: header and old line (R122). `none` where its place does not translate. It is written to a
page with W = 0, or of another type than R122 allows, all the same; the spec does not say what becomes of it. Log 128
(DESIGN CHOICE). -/
def State.logEntry (s : State) (r : TaskRec) (n line dno : Nat) : Option State :=
  match s.lineKey r.ctx line with
  | none => none
  | some key =>
    let hdr := 2 ^ 63 + line % 2 ^ 48 / 64 * 64 + dno
    let words := hdr :: (List.range 8).map fun i => s.lineRd line key i
    words.zipIdx.foldl (fun (acc : Option State) p =>
      match acc with
      | none => none
      | some s =>
        match s.lineKey r.ctx (r.undo + 72 * n + 8 * p.2) with
        | none => none
        | some a => some (s.wr a 8 p.1)) (some s)

/-- The lines of [canon, canon + n) that lie in a borrowed set and are not yet logged, with their
declarations, ascending (R122, R350). -/
def newLines (r : TaskRec) (canon n : Nat) : List (Nat × Nat) :=
  (List.range ((canon % 64 + n + 63) / 64)).filterMap fun i =>
    let line := (canon / 64 + i) * 64
    if line ∈ r.logged then none
    else match (declsMet r.decls line 64).find? fun p => p.2.st = .borrowed with
      | some p => some (line, p.1)
      | none => none

/-- The lines of several ranges, each once, ascending. -/
def mergeLines (a b : List (Nat × Nat)) : List (Nat × Nat) :=
  b.foldl (fun acc x => if acc.any fun y => y.1 == x.1 then acc
    else (acc.filter fun y => y.1 < x.1) ++ x :: acc.filter fun y => x.1 < y.1) a

/-- A task's undo log before a write to several ranges (R122); overflow is 0x0D and logs nothing. -/
def State.undoLogOf (s : State) (k : TaskKey) (rs : List (Nat × Nat)) (va : Nat) : Except Flt State :=
  match s.findRec k with
  | none => .ok s
  | some r =>
    let ls := rs.foldl (fun acc p => mergeLines acc (newLines r p.1 p.2)) []
    if ls.isEmpty then .ok s
    else if r.undoCap < r.undoUsed + ls.length then .error ⟨0x0D, va % 2 ^ 48, 0⟩
    else
      match ls.zipIdx.foldl (fun (acc : Option State) p =>
        match acc with
        | none => none
        | some s => s.logEntry r (r.undoUsed + p.2) p.1.1 p.1.2) (some s) with
      | none => .error ⟨0x0D, va % 2 ^ 48, 0⟩
      | some s =>
        .ok (s.updRec k fun r => { r with
          undoUsed := r.undoUsed + ls.length, logged := r.logged ++ ls.map (·.1) })

/-- The undo log of the core's task. -/
def State.undoLog (s : State) (rs : List (Nat × Nat)) (va : Nat) : Except Flt State :=
  match s.task with
  | none => .ok s
  | some k => s.undoLogOf k rs va

/-- A set passed to its oldest waiter: the waiter's declaration is BORROWED (R120, R128). -/
def State.grantSet (s : State) (k : TaskKey) (base len : Nat) : State :=
  s.updRec k fun r => { r with decls := r.decls.map fun d =>
    if d.base == base && d.len == len then { d with st := .borrowed } else d }

/-- A task's sets returned, its waits withdrawn, each set granted to its oldest waiter (R120, R123, R125). -/
def State.returnSets (s : State) (k : TaskKey) : State :=
  let dir := s.dir.map fun e => { e with queue := e.queue.filter fun q => !(q.1 = k) }
  let passed := dir.filterMap fun e =>
    if e.holder = k then
      match e.queue with
      | [] => none
      | q :: t => some { e with holder := q.1, age := q.2, queue := t }
    else some e
  let s := (dir.filter fun e => e.holder = k).foldl (fun s e =>
    match e.queue with
    | [] => s
    | q :: _ => s.grantSet q.1 e.base e.len) { s with dir := passed }
  s.updRec k fun r => { r with decls := [] }

/-- The undo log written back, newest entry first, V cleared in each (R123, R351). A restored line is written whole, with an
object's word in it that is held: log 136 (DESIGN CHOICE). -/
def undoBack (r : TaskRec) : Nat → State → State
  | 0, s => s
  | n + 1, s =>
    let s := match s.lineKey r.ctx (r.undo + 72 * n) with
      | none => s
      | some a =>
        let hdr := s.rd a 8
        if bitOf hdr 63 then
          let line := bitsOf hdr 47 6 * 64
          let s := (List.range 8).foldl (fun s i =>
            match s.lineKey r.ctx (r.undo + 72 * n + 8 + 8 * i), s.lineKey r.ctx line with
            | some b, some key => s.lineWr line key i (s.rd b 8)
            | _, _ => s) s
          s.wr a 8 (setBits hdr 63 63 0)
        else s
    undoBack r n s

/-! ### A core with no task (R321, R347) -/

/-- The queues and state of a matrix engine cleared; its planes and banks are no queue. -/
def Me.cleared (m : Me) : Me :=
  { Me.reset with active := m.active, shadow := m.shadow, bank0 := m.bank0, bank1 := m.bank1, prim := m.prim
                  second := m.second }

/-- A copy channel with nothing to do. -/
def Ce.cleared (c : Ce) : Ce := { Ce.reset with status := c.status, err := c.err }

/-- The clerk state, the grid and the queues of every unit cleared, as a write of 1 to DHALT does (R321). -/
def Core.cleared (c : Core) : Core :=
  { clerk := Clerk.reset, fab := Fabric.reset, ports := List.replicate 16 Port.reset
    mes := c.mes.map Me.cleared, tmu := Tmu.reset, ces := c.ces.map Ce.cleared, handles := c.handles
    watches := c.watches, mto := c.mto, wdg := c.wdg }

/-- The stored registers of another core. -/
def State.farCore (s : State) (c : Nat) : FarCore :=
  match s.farCores.find? (·.1 = c) with
  | some e => e.2
  | none => FarCore.reset

def State.updFar (s : State) (c : Nat) (f : FarCore → FarCore) : State :=
  { s with farCores := assocPut s.farCores c (f (s.farCore c)) }

/-- A task pre-empted on another core takes its watchpoints and WDCFG with it, and both are at their reset values
(R325, R326). -/
def State.farSave (s : State) (k : TaskKey) (c : Nat) : State :=
  if c == s.coreId then s
  else State.updFar { s with farSaved := assocPut s.farSaved k (s.farCore c) } c fun f => { FarCore.reset with tagcfg := f.tagcfg }

/-- It goes on there with what it took. -/
def State.farRestore (s : State) (k : TaskKey) (c : Nat) : State :=
  match s.farSaved.find? (·.1 = k) with
  | some e => State.updFar { s with farSaved := s.farSaved.filter fun e => !(e.1 = k) } c fun f => { e.2 with tagcfg := f.tagcfg }
  | none => s

/-- A core made free: no task runs on it. -/
def State.freeCore (s : State) (c : Nat) : State :=
  let s := { s with occ := s.occ.filter fun o => o.core != c }
  if c == s.coreId then { s with task := none } else s

/-- A task's place in the desks' orders and in shadow storage given up. -/
def State.unqueue (s : State) (k : TaskKey) : State :=
  { s with wings := s.wings.map fun g => { g with ready := g.ready.filter fun r => !(r.key = k) }
           shadow := s.shadow.filter fun e => !(e.1 = k), farSaved := s.farSaved.filter fun e => !(e.1 = k), nextTask := s.nextTask.filter fun x => !(x.2 = k) }

/-- A column made EMPTY, which reads as zero and keeps its exponent; nothing where that is 0. Log 99 (DESIGN CHOICE). -/
def Col.emptied (c : Col) : List Col := if c.exp = 0 then [] else [{ c with kind := .empty, cells := [] }]

/-- Accumulator banks of a context made EMPTY. -/
def Core.dropBanks (c : Core) (ctx : BitVec 12) : Core :=
  let drop (b : Bank) : Bank := if b.owner = some ctx then { b with cols := b.cols.flatMap Col.emptied } else b
  { c with mes := c.mes.map fun m => { m with bank0 := drop m.bank0, bank1 := drop m.bank1 } }

/-- A core's accumulator banks of a context cleared, and its TMU slots freed (R123, step 3). -/
def Core.dropUnits (c : Core) (ctx : BitVec 12) : Core :=
  { c.dropBanks ctx with tmu := { c.tmu with slots := List.replicate 16 ⟨.free, .free, none⟩ } }

/-- The units of the core on which a task runs, or from which it was pre-empted: its slots there are in its saved state. -/
def State.dropUnits (s : State) (k : TaskKey) : State :=
  if s.task = some k then s.updCore (·.dropUnits (s.taskCtx k))
  else if s.shadow.any fun e => e.1 = k then s.updCore (·.dropBanks (s.taskCtx k))
  else s

/-- Steps 2 to 4 of R123: the log is written back, objects released, the cohort left, queued borrows and
deferred operations discarded, TMU slots freed and accumulator banks cleared, and every set returned. -/
def State.rollBack (s : State) (k : TaskKey) : State :=
  let s := match s.findRec k with
    | some r => undoBack r r.undoUsed s
    | none => s
  let s := ((s.releaseObjects k).leaveCohort k).dropUnits k
  let s := s.updRec k fun r => { r with deferred := [], undoUsed := 0, logged := [] }
  s.returnSets k

/-- RESTART of a TCB increased by one, saturating (R123, step 5). -/
def State.countRestart (s : State) (k : TaskKey) : State :=
  match s.tcbPa k.ctx k.tcb with
  | some pa => s.tcbSet pa 5 63 48 (min 65535 (bitsOf (s.tcbRd pa 5) 63 48 + 1))
  | none => s

/-- A holder restarts: requeued as a newly released task, with its age. -/
def State.restart (s : State) (k : TaskKey) : State :=
  let s := { s with recalling := s.recalling.filter fun x => !(x = k) }
  (s.countRestart k).enqueue k 2 none

/-- Steps 2 to 5 of R123 for a task that does not run on this core: its saved state is discarded (R124). -/
def State.rollRestart (s : State) (k : TaskKey) : State :=
  let s := (s.rollBack k).unqueue k
  ({ s with occ := s.occ.filter fun o => !(o.key = k) }.memberRuns k false).restart k

/-- A task's requests leave the queues of the directories (R124). -/
def State.withdraw (s : State) (k : TaskKey) : State :=
  { s with dir := s.dir.map fun e => { e with queue := e.queue.filter fun q => !(q.1 = k) } }

/-- A recall of a holder begins (R123, R124): of one that is pre-empted, at once; of one that runs, its core drains first, and
the sets that it waits for are asked for no more. A second recall joins the first. While it lasts the clerk issues nothing and
the emit lanes stop at their boundaries (`State.clerkGated`, `State.lanesHeld`). -/
def State.startRecall (s : State) (k : TaskKey) : State :=
  if k ∈ s.recalling then s
  else if s.task = some k || s.occ.any fun o => o.key = k then State.withdraw { s with recalling := s.recalling ++ [k] } k
  else s.rollRestart k

/-! ### Touches of loan sets (R119, R120, R126) -/

/-- The partition of the core on which a task runs. -/
def State.taskPart (s : State) (k : TaskKey) : Nat :=
  s.corePart (match if s.task = some k then none else s.occ.find? fun o => o.key = k with
    | some o => o.core
    | none => s.coreId)

/-- A page of a set: its wing, or the fault of R120 that a touch of kind `kind` takes from it; `task` for a touch in task
mode (R35). Positions are canonical addresses. A page whose type R118 does not allow is reported at its own address. Log 113
(DESIGN CHOICE). -/
def State.setPage (s : State) (k : TaskKey) (task : Bool) (kind : AccKind) (a : Nat) : Except Flt Nat :=
  match s.region a with
  | .hole => .error (reasonFlt a 9 0)
  | .ctrl _ => .error (reasonFlt a 10 0)
  | .window c _ => if s.corePart c != s.taskPart k then .error (reasonFlt a 11 0) else .ok (8 + c)
  | .translated =>
    match s.lookup (s.taskCtx k) a with
    | .error (r, lvl) => .error (reasonFlt a r lvl)
    | .ok e =>
      let l := e.leaf.toNat
      let lvl := e.level
      if bitOf l 13 && task then .error (reasonFlt a 7 lvl)
      else if kind.reads && !bitOf l 2 then .error (reasonFlt a 4 lvl)
      else if kind.writes && !bitOf l 3 then .error (reasonFlt a 5 lvl)
      else if 2 < leafType l then .error (reasonFlt a 10 lvl)
      else .ok (Place.wing s (some e) (.mem (e.pa a)))

/-- An address in each page of a set, in ascending order. -/
def setPages (base len : Nat) : List Nat :=
  (List.range ((base % 0x1_0000 + len + 0xFFFF) / 0x1_0000)).map fun i =>
    if i == 0 then base else (base / 0x1_0000 + i) * 0x1_0000

/-- The one home of a set, found by translating each of its pages (R118, R120): a wing, or 8 + c for the
window of core c. Pages are taken in ascending order, and the first that fails or lies at another home decides; a set
that spans homes is reported at its base. Log 113 (DESIGN CHOICE). -/
def State.setHome (s : State) (k : TaskKey) (task : Bool) (kind : AccKind) (base len : Nat) : Except Flt Nat :=
  let first := s.setPage k task kind base
  (setPages base len).foldl (fun acc p =>
    match acc, s.setPage k task kind p with
    | .error f, _ => .error f
    | _, .error f => .error f
    | .ok h, .ok h' => if h == h' then .ok h else .error (reasonFlt base 10 0)) first

/-- The wing whose directory holds a set (R119). -/
def homeWing (h : Nat) : Nat := if h < 8 then h else (h - 8) / 20

/-- What a touch meets, with the state after it, in which what it borrowed before a fault stays borrowed (R128): `stall` is a
fault of a page of the set, on which a party of the fabric stalls (R120). -/
inductive Touch where
  | ok (s : State)
  | wait (s : State)
  | stall (f : Flt) (s : State)
  | fault (f : Flt) (s : State)

/-- A set borrowed: a new entry of the directory at wing `w` (R120). -/
def State.newEntry (s : State) (k : TaskKey) (i : Nat) (d : Decl) (w : Nat) (ctx : BitVec 12) : Touch :=
  let e : DirEntry := { wing := w, ctx, base := d.base, len := d.len, holder := k, age := s.ageOf k, queue := [] }
  .ok (State.setDecl { s with dir := s.dir ++ [e] } k i .borrowed)

/-- The walks of a set's pages have filled the TLBs, where the core's task makes the touch (R32). -/
def State.setFilled (s : State) (k : TaskKey) (base len : Nat) : State :=
  if s.task = some k then (setPages base len).foldl (fun s p => s.filled (s.taskCtx k) p) s else s

/-- The first touch of declaration `i` (R120). With a full directory the set waits with no place in a queue, and the
touch is made again. No party stalls on a hole, or on what no change of page tables could mend (R34). -/
def State.firstTouch (s : State) (k : TaskKey) (task : Bool) (kind : AccKind) (i : Nat) (d : Decl) (va : Nat) : Touch :=
  let h := s.setHome k task kind d.base d.len
  let s := s.setFilled k d.base d.len
  match h with
  | .error f => if 9 ≤ f.reason then .fault f s else .stall f s
  | .ok h =>
    let w := homeWing h
    let ctx := s.taskCtx k
    let meets := s.dir.filter fun e => e.wing == w && e.ctx = ctx && e.base < d.base + d.len && d.base < e.base + e.len
    if meets.any fun e => !(e.base == d.base && e.len == d.len) then .fault ⟨0x0C, va % 2 ^ 48, i⟩ s
    else match meets with
      | e :: _ =>
        let age := s.ageOf k
        let s := (s.setDecl k i .waiting)
        let s := { s with dir := s.dir.map fun x =>
          if x = e then { x with queue := insertByAge k age x.queue } else x }
        .wait (if age < e.age then s.startRecall e.holder else s)
      | [] =>
        match s.dir.filter fun e => e.wing == w with
        | e :: t =>
          if 4096 ≤ t.length + 1 then
            let y := t.foldl (fun y x => if y.age < x.age then x else y) e
            let s := s.setDecl k i .waiting
            .wait (if s.ageOf k < y.age then s.startRecall y.holder else s)
          else s.newEntry k i d w ctx
        | [] => s.newEntry k i d w ctx

/-- Check 6 of R232 for a touch of declaration `i` of a task (R120). A task that is recalled borrows no more (R124). -/
def State.touchDecl (s : State) (k : TaskKey) (task : Bool) (kind : AccKind) (i : Nat) (d : Decl) (va : Nat) : Touch :=
  match d.st with
  | .borrowed => .ok s
  | .waiting =>
    if k ∈ s.recalling || s.dir.any fun e => e.queue.any fun q => q.1 = k && e.base == d.base && e.len == d.len then .wait s
    else (s.setDecl k i .declared).firstTouch k task kind i d va
  | .declared => if k ∈ s.recalling then .wait s else s.firstTouch k task kind i d va

/-- Touches of several declarations in turn. -/
def touchAll (k : TaskKey) (task : Bool) (kind : AccKind) (va : Nat) : List (Nat × Decl) → State → Touch
  | [], s => .ok s
  | p :: t, s =>
    match s.touchDecl k task kind p.1 p.2 va with
    | .ok s => touchAll k task kind va t s
    | r => r

/-- Whether each byte of [canon, canon + n) lies in some declaration: sets are whole lines, so lines are
looked at. -/
def declsCover (ds : List Decl) (canon n : Nat) : Bool :=
  (List.range ((canon % 64 + n + 63) / 64)).all fun i =>
    ds.any fun d => d.base ≤ (canon / 64 + i) * 64 && (canon / 64 + i) * 64 < d.base + d.len

/-- The loan check of an access to [canon, canon + n) by a task (R120, R126). `free` says that the
bytes lie where the discipline lets a task write: its own window or task page; `task` that it is made in task mode. -/
def State.touchOf (s : State) (k : TaskKey) (task : Bool) (canon n va : Nat) (kind : AccKind) (free : Bool) : Touch :=
  match s.findRec k with
  | none => .ok s
  | some r =>
    if kind.writes && !free && s.borrows k && !declsCover r.decls canon n then .fault ⟨0x0B, va % 2 ^ 48, 0⟩ s
    else touchAll k task kind va (declsMet r.decls canon n) s

/-- The same for the core's task. -/
def State.touch (s : State) (task : Bool) (canon n va : Nat) (kind : AccKind) (free : Bool) : Touch :=
  match s.task with
  | none => .ok s
  | some k => s.touchOf k task canon n va kind free

/-- What a precise access makes of a touch: a page's fault is its own. -/
def Touch.precise : Touch → Touch
  | .stall f s => .fault f s
  | r => r

/-- A write's undo entries after its touch (R122). -/
def Touch.logged (t : Touch) (kind : AccKind) (rs : List (Nat × Nat)) (va : Nat) : Touch :=
  match t with
  | .ok s =>
    if kind.writes then
      match s.undoLog rs va with
      | .error f => .fault f s
      | .ok s => .ok s
    else .ok s
  | r => r

/-- A task ended as FAULTED (R154): CAUSE and FADDR, the rollback of R125, the record, and its policy. One whose TCB no longer
translates is rolled back, with no record and no policy: log 141 (DESIGN CHOICE). -/
def State.faultTask (s : State) (k : TaskKey) (core cause faddr : Nat) : State :=
  match s.tcbPa k.ctx k.tcb with
  | none => (s.rollBack k).unqueue k |>.dropRec k
  | some pa =>
    let s := s.tcbSet pa 12 63 56 cause
    let s := s.tcbSet pa 12 47 0 faddr
    let s := (s.rollBack k).unqueue k
    let s := s.tcbSet pa 3 10 8 6
    let s := s.faultRecord (s.tcbQueueWing k) k.tcb core cause faddr
    let s := { s with recalling := s.recalling.filter fun x => !(x = k) }
    let s := match bitsOf (s.tcbRd pa 3) 5 4 with
      | 1 => cancelFrom ((s.recs.length + 2) * 65540) (s.succIn k pa) s
      | 2 => s.decrementAll k core true
      | _ => s
    s.dropRec k

end Sys2Proof.Machine
end

