-- ==== Sys2Proof/Machine/Ops.lean ====
section
/-! DEFINITION. Shared operations of the clerk: unfinished instructions and their order (R200, R230, R236,
R101), taking an exception and the replay queue (R316 to R318, R321), the records of the fabric (R323), fetch
and issue (R197, R205, R200), time. -/

namespace Sys2Proof.Machine

/-! ### Time (R152, R207) -/

/-- Time passes with a step: free values (log 10). Crossing a multiple of 2^16 cycles ends a `wfe` (R255). -/
def State.tick (s : State) : State :=
  let c := s.cycle + BitVec.ofNat 64 (Config.cyclesOfStep s.stepNo)
  State.updClerk { s with
    cycle := c
    timer := (s.timer + Config.nsOfStep s.stepNo) % 2 ^ 64
    stepNo := s.stepNo + 1 } fun k => { k with wfeEvent := k.wfeEvent || c >>> 16 != s.cycle >>> 16 }

/-- An event that ends a `wfe` (R255). -/
def Clerk.wake (c : Clerk) : Clerk := { c with wfeEvent := true }
def State.wake (s : State) : State := s.updClerk Clerk.wake

/-- The PC, whose bits 1:0 are always 0 (R197). -/
def Clerk.setPc (c : Clerk) (v : BitVec 48) : Clerk := { c with pc := v &&& ~~~3 }
def State.setPc (s : State) (v : BitVec 48) : State := s.updClerk (·.setPc v)

/-! ### Asynchronous causes (R318) -/

def insertPend (p : Pend) : List Pend → List Pend
  | [] => [p]
  | q :: t => if p.code < q.code then p :: q :: t else if p.code = q.code then q :: t else q :: insertPend p t

/-- A cause made pending with what its first occurrence left; dropped in DOUBLE-HALT (R318, R321). It ends
a `wfe` when it can be taken (R255). -/
def Clerk.pendCause (c : Clerk) (code faddr detail : Nat) : Clerk :=
  if c.run = .doubleHalt then c
  else
    let c := { c with pend := insertPend ⟨BitVec.ofNat 8 code, faddr % 2 ^ 48, BitVec.ofNat 64 detail⟩ c.pend }
    if c.frozen then c else c.wake

def State.pendCause (s : State) (code faddr detail : Nat) : State :=
  s.updClerk (·.pendCause code faddr detail)

/-! ### Unfinished instructions (R200, R230) -/

/-- OP, FUNC and W1 of a replay entry, from the instruction's own words (R317). -/
def headOf (ws : List Word) : Byte × BitVec 9 × BitVec 6 :=
  let w := ws.getD 0 0
  let v := ws.getD 1 0
  (w.setWidth 8,
   match (w.extractLsb' 0 2).toNat with
   | 0 => w.extractLsb' 23 9
   | 1 => 0
   | 2 => w.extractLsb' 23 9
   | _ => (v.extractLsb' 0 3).setWidth 9,
   if (w.extractLsb' 0 2).toNat == 2 then v.extractLsb' 0 6 else 0)

/-- The bytes of an instruction (R197). -/
def Instr.bytes (i : Instr) : Nat := 4 * (encode i).length

/-- An unfinished instruction about to issue at the PC. -/
def State.unfinOf (s : State) (i : Instr) (kd : Bool) (dest : Reg) (ea : Nat) (b c : Dword) (canon : Nat)
    (work : Work) (done : Option Qword) : Unfin :=
  let h := headOf (encode i)
  { op := h.1, func := h.2.1, w1 := h.2.2, pc := s.core.clerk.pc, kd, dest, ea := ea % 2 ^ 48, b, c, canon
    work, done, port := none, lost := false, behind := false, unchecked := false }

/-- The presence bit of a destination set, which ends a `wfe`; `s0` has none (R200, R255). -/
def Clerk.nowPresent (c : Clerk) (d : Reg) : Clerk := if d = 0 then c else (c.setPresent d true).wake

/-- The value of a finished instruction is written and its presence bit set; the flags of an `amofadd`
travel in bits 68:64 and reach FPSTAT now (R67, R200, R235). -/
def Clerk.complete (c : Clerk) (u : Unfin) (v : Qword) : Clerk :=
  match u.work with
  | .store _ _ _ => c
  | .release _ => c
  | .xbank _ => c
  | .atomic _ _ _ _ _ =>
    ({ c with fpstat := c.fpstat ||| (v >>> 64).setWidth 64 }.setReg u.dest (v.setWidth 64)).nowPresent u.dest
  | _ =>
    if u.kd then ((c.setKreg (u.dest.setWidth 3) v).setKpresent (u.dest.setWidth 3) true).wake
    else (c.setReg u.dest (v.setWidth 64)).nowPresent u.dest

/-- The `k`-th unfinished instruction given its value, or left the list when it writes no register. -/
def State.finishUnfin (s : State) (k : Nat) (v : Qword) : State :=
  s.updClerk fun c => { c with unfin := updAt c.unfin k fun u => { u with done := some v } }

def State.dropUnfin (s : State) (k : Nat) : State :=
  s.updClerk fun c => { c with unfin := c.unfin.eraseIdx k }

/-! ### What an instruction names (R201 to R204) -/

/-- The scalar registers an instruction reads and writes (R201 to R204). -/
def Instr.regs : Instr → List Reg
  | .add d a b | .sub d a b | .mul d a b | .mulh d a b | .mulhu d a b | .div d a b | .divu d a b
  | .rem d a b | .remu d a b | .and d a b | .or d a b | .xor d a b | .andn d a b | .orn d a b
  | .sll d a b | .srl d a b | .sra d a b | .rol d a b | .ror d a b | .min d a b | .max d a b
  | .minu d a b | .maxu d a b | .seq d a b | .sne d a b | .slt d a b | .sltu d a b | .sle d a b
  | .sleu d a b | .fadd d a b | .fsub d a b | .fmul d a b | .fdiv d a b | .fmin d a b | .fmax d a b
  | .feq d a b | .flt d a b | .fle d a b | .fma d a b | .bind d a b | .waitw d a b | .join d a b
  | .loan d a b | .arm d a b => [d, a, b]
  | .clz d a | .ctz d a | .popc d a | .sext8 d a | .sext16 d a | .sext32 d a | .zext32 d a | .bswap d a
  | .fsqrt d a | .fcvtF32I64 d a | .fcvtI64F32 d a | .fcvtBf16F32 d a | .fcvtF32Bf16 d a | .fclass d a
  | .fabs d a | .fneg d a | .acq d a | .acqs d a | .unbind d a | .lstat d a | .spawn d a | .rls d a
  | .tlook d a | .tins d a | .tdel d a | .hwait d a => [d, a]
  | .rel a | .wbar a | .halloc a | .hfree a => [a]
  | .tself d | .tage d | .mfs d _ | .mts _ d => [d]
  | .xbank a b | .cfgld a b => [a, b]
  | .kmov _ a b => [a, b]
  | .kld _ a | .kst _ a => [a]
  | .addi d a _ | .andi d a _ | .ori d a _ | .xori d a _ | .slli d a _ | .srli d a _ | .srai d a _
  | .slti d a _ | .sltui d a _ | .ld8 d a _ | .ld16 d a _ | .ld32 d a _ | .ld64 d a _ | .lds8 d a _
  | .lds16 d a _ | .lds32 d a _ | .st8 a d _ | .st16 a d _ | .st32 a d _ | .st64 a d _ | .jalr d a _ => [d, a]
  | .lui d _ | .jal d _ | .li d _ | .lih d _ => [d]
  | .beq a b _ | .bne a b _ | .blt a b _ | .bge a b _ | .bltu a b _ | .bgeu a b _ => [a, b]
  | .amoadd d a b _ _ | .amoand d a b _ _ | .amoor d a b _ _ | .amoxor d a b _ _ | .amomin d a b _ _
  | .amomax d a b _ _ | .amominu d a b _ _ | .amomaxu d a b _ _ | .amoswap d a b _ _
  | .amofadd d a b _ _ => [d, a, b]
  | .amocas d a b c _ _ => [d, a, b, c]
  | .addli d a _ => [d, a]
  | .ldl _ d a _ | .stl _ a d _ => [d, a]
  | _ => []

/-- The command registers an instruction reads and writes. -/
def Instr.kregs : Instr → List KReg
  | .issue k | .kmov k _ _ | .kld k _ | .kst k _ => [k]
  | _ => []

/-! ### Taking an exception (R316 to R318, R321) -/

/-- The four words of a replay entry (R317). -/
def Unfin.entry (u : Unfin) (flt : Bool) : List Nat :=
  [u.op.toNat * 2 ^ 56 + b2n flt * 2 ^ 54 + b2n u.kd * 2 ^ 53 + u.dest.toNat * 2 ^ 48 + u.pc.toNat,
   u.w1.toNat * 2 ^ 57 + u.func.toNat * 2 ^ 48 + u.ea, u.b.toNat, u.c.toNat]

/-- A cause about to be taken. -/
structure Trap where
  cause : Nat
  addr : Nat
  detail : Nat
  async : Bool
  fpc : BitVec 48
  rpc : BitVec 48
  deriving DecidableEq, Repr

/-- Each finished instruction writes its destination (R318, step 2; R229). -/
def Clerk.drain (c : Clerk) : Clerk :=
  c.unfin.foldl (fun c u => match u.done with
    | some v => c.complete u v
    | none => c) c

/-- 64-bit words written one after another into the trap area. -/
def State.trapWords (s : State) (off : Nat) : List Nat → State
  | [] => s
  | v :: t => (s.trapWr off 8 v).trapWords (off + 8) t

/-- DOUBLE-HALT (R321): the second cause to CAUSEB and ADDRB, no frame; the clerk stops with what it had not finished,
the ports' emit lanes are held (`State.lanesHeld`) and the task is FAULTED. -/
def State.doubleHalt (s : State) (cause addr : Nat) : State :=
  let s := s.updClerk fun c => { c with
    causeb := BitVec.ofNat 64 (cause % 256), addrb := BitVec.ofNat 64 (addr % 2 ^ 48), run := .doubleHalt
    pend := [], unfin := [], redo := none, latches := [], kept := [] }
  match s.task with
  | none => s
  | some k =>
    let s := s.faultTask k s.coreId cause (addr % 2 ^ 48)
    { s with task := none, occ := s.occ.filter (fun o => o.core != s.coreId)
             nextTask := s.nextTask.filter fun x => x.1 != s.coreId }

/-- A replay entry that waits to be performed again at its PC, if there is one, with those that follow it: they keep
their operands (R317). -/
def Clerk.redoEntries (c : Clerk) : List (List Nat) :=
  match c.redo with
  | some r => r.u.entry false :: r.rest
  | none => []

def Clerk.redoRest (c : Clerk) : List (List Nat) :=
  match c.redo with
  | some r => r.rest
  | none => []

/-- The latches kept over a trap: those of entries that are not the trapping instruction's, with the one that waits. -/
def Clerk.keptLatches (c : Clerk) : List Latch :=
  match c.redo with
  | some ⟨_, _, some l, _⟩ => l :: c.latches
  | _ => c.latches

/-- The replay queue of a trap: what has not finished, the `flt`-th of it marked, then an entry that was to be performed
again at its PC, then those not yet re-injected; 16 at most (R317). -/
def State.replayQueue (s : State) (flt : Option Nat) (rest : List (List Nat)) : List (List Nat) :=
  let entries := (s.core.clerk.unfin.zipIdx.filter fun p => p.1.done.isNone).map fun p => p.1.entry (flt = some p.2)
  (entries ++ s.core.clerk.redoEntries ++ rest).take 16

/-- The instructions that a trap finds issued and whose requests are under way: what has not finished, the `flt`-th of them
with a new request to make, but for one whose cause was found at issue, and a `join` that is not yet a member (R230). -/
def Clerk.underWay (c : Clerk) (flt : Option Nat) : List Unfin :=
  c.unfin.zipIdx.filterMap fun p =>
    let goes : Bool := p.1.done.isNone && match p.1.work with
      | .result _ => false
      | .join _ st => st = .waits
      | _ => true
    if !goes then none
    else if flt = some p.2 then some { p.1 with port := none, lost := false }
    else some p.1

/-- Taking an exception: the ONE way in (R318). Finished instructions write their destinations, the others
stand in the replay queue, the `flt`-th of them marked; an entry that was to be performed again at its PC comes after
them, and `rest` are entries of a replay queue not yet re-injected: 16 at most, of four words each. The frame is
written, the cause registers freeze, the mode becomes supervisor and the PC TVEC. Requests under way stand in `kept`: they
come to what they come to when the queue is performed again. -/
def State.enterTrap (s : State) (t : Trap) (flt : Option Nat) (rest : List (List Nat)) : State :=
  if s.core.clerk.frozen then s.doubleHalt t.cause t.addr
  else
    let all := s.replayQueue flt rest
    let kept := s.core.clerk.underWay flt
    let pmode := b2n (s.core.clerk.mode = .supervisor)
    let s := s.updClerk Clerk.drain
    let s := s.trapWords 0 [all.length * 2 ^ 10 + pmode * 2 ^ 9 + b2n t.async * 2 ^ 8 + t.cause % 256,
      t.addr % 2 ^ 48, t.fpc.toNat, t.rpc.toNat, t.detail % 2 ^ 64, 0, 0, 0]
    let s := s.trapWords 0x40 (all.flatten.take 64)
    s.updClerk fun c => { c.setPc (c.tvec.setWidth 48) with
      cause := BitVec.ofNat 64 (b2n t.async * 2 ^ 8 + t.cause % 256)
      faddress := BitVec.ofNat 64 (t.addr % 2 ^ 48)
      frozen := true, mode := .supervisor, unfin := [], stepping := false, joinQueued := c.joinQueued || joinIn all
      stepped := if t.cause = 0x12 then none else c.stepped
      redo := none, latches := c.keptLatches, kept := c.kept ++ kept, run := .running }

/-- Where the instruction at the PC resumes: the next instruction, or the resume PC of the frame when it is
one that `trapret` performs again (R231). -/
def State.nextPc (s : State) (n : Nat) : BitVec 48 :=
  match s.core.clerk.redo with
  | some r => r.rpc
  | none => s.core.clerk.pc + BitVec.ofNat 48 n

/-- The next instruction that has not issued: the one at the PC, or what follows the entry that is performed again
there. -/
def State.resumePc (s : State) : BitVec 48 :=
  match s.core.clerk.redo with
  | some r => r.rpc
  | none => s.core.clerk.pc

/-- The registers whose values an instruction at the PC is performed again with. A command samples any that it names. -/
def Instr.operands : Instr → List Reg
  | .issue _ | .issuex _ => (List.range 32).map (BitVec.ofNat 5)
  | i => Instr.regs i

/-- The operands of an instruction that traps at issue (R317). -/
def State.latchOf (s : State) (i : Instr) : Latch :=
  { pc := s.core.clerk.pc, what := .instr i, regs := (Instr.operands i).map fun r => (r, s.reg r)
    kregs := (Instr.kregs i).map fun k => (k, s.kreg k) }

/-- A latch taken for the instruction at the PC, which leaves the replay that it may have stood in. -/
def Clerk.latched (c : Clerk) (l : Latch) : Clerk :=
  { c with redo := none, latches := l :: c.latches.filter fun x => !(x.pc = l.pc) }

/-- A precise cause found at issue: the instruction stands in the replay queue with FLT = 1 (R231), what its entry has
no place for in a latch. -/
def State.trapAt (s : State) (u : Unfin) (l : Latch) (n : Nat) (f : Flt) : State :=
  let rpc := s.nextPc n
  let k := s.core.clerk.unfin.length
  let rest := s.core.clerk.redoRest
  let s := s.updClerk fun c => { c.latched l with unfin := c.unfin ++ [u] }
  s.enterTrap ⟨f.cause, f.addr, f.detail, false, u.pc, rpc⟩ (some k) rest

/-- The same for an instruction that writes its destination before the next one issues, with operand `b` and,
where it has one, a handle or address `ea`: every register keeps its value (R214). -/
def State.trapInstr (s : State) (i : Instr) (d : Reg) (ea : Nat) (b : Dword) (f : Flt) : State :=
  s.trapAt (s.unfinOf i false d ea b 0 0 (.result 0) none) (s.latchOf i) (Instr.bytes i) f

/-- A precise cause found after issue, at the home of the clerk's `k`-th unfinished instruction (R231). -/
def State.trapUnfin (s : State) (k : Nat) (f : Flt) : State :=
  match s.core.clerk.unfin.drop k with
  | [] => s
  | u :: _ => s.enterTrap ⟨f.cause, f.addr, f.detail, false, u.pc, s.resumePc⟩ (some k) []

/-- A precise cause whose instruction stands in no replay entry (R231). -/
def State.trapPlain (s : State) (cause addr detail : Nat) (fpc rpc : BitVec 48) : State :=
  s.enterTrap ⟨cause, addr, detail, false, fpc, rpc⟩ none []

/-- The instruction whose breakpoint of SSTEP is due: it comes before the next instruction and before any asynchronous
cause, in task mode (R319). -/
def Clerk.steppedNow (c : Clerk) : Option (BitVec 48) := if c.mode = .task then c.stepped else none

/-- Whether an asynchronous cause may be taken now (R318). -/
def State.asyncReady (s : State) : Bool :=
  !s.core.clerk.frozen && !s.core.clerk.pend.isEmpty && s.core.clerk.run = .running && s.core.clerk.steppedNow.isNone

/-- The lowest pending cause is taken before the next instruction issues (R318). An entry that `trapret` has not yet
performed again stays an entry. -/
def State.takeAsync (s : State) : State :=
  match s.core.clerk.pend with
  | [] => s
  | p :: t =>
    let pc := s.resumePc
    (s.updClerk fun c => { c with pend := t }).enterTrap
      ⟨p.code.toNat, p.faddr, p.detail.toNat, true, pc, pc⟩ none []

/-- A supervisor instruction in task mode traps with 0x1C (R205, R206). -/
def State.privileged (s : State) (i : Instr) (f : State → State) : State :=
  if s.core.clerk.mode = .task then
    s.trapInstr i 0 0 0 ⟨0x1C, s.core.clerk.pc.toNat, 0⟩
  else f s

/-- Whether the clerk's accesses are made in task mode. -/
def State.taskMode (s : State) : Bool := s.core.clerk.mode = .task

/-! ### Floating-point flags of the clerk (R66, R67) -/

/-- The flags that FPCTL enables for a trap: NVE to NXE in bits 12:8. -/
def State.fpEnabled (s : State) : BitVec 5 := s.core.clerk.fpctl.extractLsb' 8 5

def State.orFlags (s : State) (f : FFlags) : State :=
  s.updClerk fun c => { c with fpstat := c.fpstat ||| f.setWidth 64 }

/-- The end of a floating-point instruction: flags are ORed in, and an enabled one traps with the destination
not written (R66). -/
def State.finishFp (s : State) (i : Instr) (d : Reg) (b : Dword) (v : Dword) (f : FFlags) : State :=
  let s' := s.orFlags f
  if f &&& s.fpEnabled != 0 then s'.trapInstr i d 0 b ⟨0x09, 0, f.toNat⟩
  else s'.finish d v 4

/-! ### Records of the fabric (R323) -/

/-- The unit codes of R323. -/
def unitFe : Nat := 0
def unitPort : Nat := 1
def unitMe : Nat := 2
def unitTmu : Nat := 3

/-- A stream-translation record, or one counted as dropped; 0x06 becomes pending (R34, R323). The result
says whether a record was written. -/
def State.transRecord (s : State) (va reason acc unit col row : Nat) : Bool × State :=
  let n := s.trapRd 0x3C0 8
  let ntrans := n % 32
  if ntrans < 16 then
    let s := s.trapWr (0x240 + 16 * ntrans) 8 (va % 2 ^ 48)
    let s := s.trapWr (0x248 + 16 * ntrans) 8
      (reason % 256 * 2 ^ 16 + acc % 4 * 2 ^ 12 + unit % 4 * 2 ^ 10 + col % 32 * 32 + row % 32)
    (true, (s.trapWr 0x3C0 8 (setBits n 4 0 (ntrans + 1))).pendCause 0x06 0 0)
  else
    let d := bitsOf n 31 16
    (false, (s.trapWr 0x3C0 8 (setBits n 31 16 (min 65535 (d + 1)))).pendCause 0x06 0 0)

/-- A fabric record (R323), or one counted as dropped; 0x07 becomes pending. -/
def State.fabRecord (s : State) (cmd reason cause kind unit col row pos addr det : Nat) : State :=
  let n := s.trapRd 0x3C0 8
  let nfab := bitsOf n 10 8
  if nfab < 4 then
    let o := 0x340 + 32 * nfab
    let s := s.trapWr o 8 (cmd % 256 * 2 ^ 32 + reason % 256 * 2 ^ 24 + cause % 256 * 2 ^ 16 + kind % 16 * 2 ^ 12 +
      unit % 4 * 2 ^ 10 + col % 32 * 32 + row % 32)
    let s := s.trapWr (o + 8) 8 pos
    let s := s.trapWr (o + 16) 8 (addr % 2 ^ 48)
    let s := s.trapWr (o + 24) 8 det
    (s.trapWr 0x3C0 8 (setBits n 10 8 (nfab + 1))).pendCause 0x07 0 0
  else
    let d := bitsOf n 47 32
    (s.trapWr 0x3C0 8 (setBits n 47 32 (min 65535 (d + 1)))).pendCause 0x07 0 0

/-! ### Watchpoints (R332) -/

/-- Whether a watchpoint matches bytes [canon, canon + n) of an access selected by bit `sel` of word 1. -/
def Watch.hits (s : State) (w : Watch) (sel canon n : Nat) : Bool :=
  let ctl := w.ctl.toNat
  let base := s.canon (bitsOf w.base.toNat 47 4 * 16)
  bitOf ctl 20 && bitOf ctl sel && (List.range 16).any fun i =>
    bitOf ctl i && canon ≤ base + i && base + i < canon + n

/-- The lowest watchpoint that matches. -/
def State.watchHit (s : State) (sel canon n : Nat) : Option Nat :=
  (List.range 4).find? fun i => (s.core.watches.getD i ⟨0, 0⟩).hits s sel canon n

/-- A watchpoint with ENG has matched: 0x11 becomes pending, and what was noted of an earlier one that has been taken is
forgotten (R332). -/
def State.pendWatch (s : State) (va detail : Nat) : State :=
  let s := if s.core.clerk.pend.any (·.code = 0x11) then s else { s with
    skid := [], core := { s.core with ces := s.core.ces.map fun c => { c with watched := false } } }
  s.pendCause 0x11 va detail

/-! ### Fetch (R30, R197) -/

def State.fetchAcc (s : State) : Acc := ⟨.clerk, .fetch, 4, s.taskMode⟩

/-- A fault of a fetch, with the state in which it is reported: the walks have filled the TLBs (R32), and an uncorrectable error
is counted (R333). -/
structure FetchFlt where
  flt : Flt
  st : State

/-- The word that the instruction cache holds for a key. -/
def State.cached (s : State) (key : Nat) : Option Word :=
  match s.icache.find? (·.1 == key) with
  | some e => if Config.fetchHits s.stepNo then some e.2 else none
  | none => none

/-- One fetched word with its key, or the fault at its address: from the instruction cache, or from memory as it stands.
Log 14. -/
def State.fetchWord (s : State) (va : Nat) : Except FetchFlt ((Nat × Word) × State) :=
  match s.resolve s.ctx s.fetchAcc va with
  | .error f => .error ⟨f, s.filled s.ctx va⟩
  | .ok r =>
    let key := r.pl.key s
    match s.cached key with
    | some w => .ok ((key, w), s.fillRes r)
    | none =>
      if s.poisoned key 4 then .error ⟨⟨0x17, va, 0⟩, (s.fillRes r).eccHit key⟩
      else .ok ((key, BitVec.ofNat 32 (s.rd key 4)), s.fillRes r)

/-- `n` further words from `va`. -/
def State.fetchMore (s : State) (va : Nat) : Nat → Except FetchFlt (List (Nat × Word) × State)
  | 0 => .ok ([], s)
  | n + 1 =>
    match s.fetchWord (va % 2 ^ 48) with
    | .error f => .error f
    | .ok (w, s) =>
      match s.fetchMore (va + 4) n with
      | .error f => .error f
      | .ok (ws, s) => .ok (w :: ws, s)

/-- Words read ahead, with their keys, and the translations that reading them brought. -/
abbrev Ahead := List (Nat × Word) × List Tlb

/-- A word that a fetch may read ahead at an address, with its key: none where the fetch would fault (R228), or would wait for a
page walk; and what the walk for it fills the TLBs with (R32). -/
def State.wordAt (s : State) (va : Nat) : Ahead :=
  if s.walkHeld s.ctx va then ([], [])
  else
    let e := match s.region va with
      | .translated => (s.lookup s.ctx va).toOption.toList
      | _ => []
    match s.resolve s.ctx s.fetchAcc va with
    | .error _ => ([], e)
    | .ok r => (if s.poisoned (r.pl.key s) 4 then [] else [(r.pl.key s, BitVec.ofNat 32 (s.rd (r.pl.key s) 4))], e)

/-- The target that a branch or `jal` at the PC names by its own words (R226, R227). -/
def State.targetOf (s : State) : Instr → Option Nat
  | .beq _ _ o | .bne _ _ o | .blt _ _ o | .bge _ _ o | .bltu _ _ o | .bgeu _ _ o => some (s.target o).toNat
  | .jal _ o => some (s.target o).toNat
  | _ => none

/-- The target of the branch or `jal` that words at an address are. -/
def State.targetAt (s : State) (va : Nat) (ws : List Word) : Option Nat :=
  match decode (ws.getD 0 0) (ws.getD 1 0) (ws.getD 2 0) with
  | .ok i => (s.setPc (BitVec.ofNat 48 va)).targetOf i
  | .error _ => none

/-- The words of `n` instructions from an address on, read ahead along a path that takes either way at each branch, as far as
they translate (R228). -/
def State.ahead (s : State) (k : Nat) : Nat → Nat → Ahead
  | 0, _ => ([], [])
  | n + 1, va =>
    match s.wordAt va with
    | ([], e) => ([], e)
    | (w :: _, e) =>
      let more := (List.range (lengthOf w.2 / 4 - 1)).map fun i => s.wordAt ((va + 4 * (i + 1)) % 2 ^ 48)
      let ws := w :: more.flatMap (·.1)
      let there := if Config.fetchPath k n then s.targetAt va (ws.map (·.2)) else none
      let on := s.ahead k n (there.getD ((va + lengthOf w.2) % 2 ^ 48))
      (ws ++ on.1, e ++ more.flatMap (·.2) ++ on.2)

/-- Words kept in the instruction cache, 64 KiB of them at most; a word that is fetched anew replaces the old one. -/
def icachePut (l ws : List (Nat × Word)) : List (Nat × Word) :=
  (ws ++ l.filter fun e => !(ws.any (·.1 == e.1))).take 16384

/-- The words of the instruction at the PC. What is read ahead fills entries of the TLBs that are free. Log 14. -/
def State.fetch (s : State) : Except FetchFlt (List Word × State) :=
  let pc := s.core.clerk.pc.toNat
  match s.fetchWord pc with
  | .error f => .error f
  | .ok (w, s) =>
    match s.fetchMore (pc + 4) (lengthOf w.2 / 4 - 1) with
    | .error f => .error f
    | .ok (ws, s) =>
      let k := 2 * s.stepNo
      let next := s.ahead k (Config.fetchAhead k) ((pc + lengthOf w.2) % 2 ^ 48)
      let there := match s.targetAt pc ((w :: ws).map (·.2)) with
        | some t => s.ahead (k + 1) (Config.fetchAhead (k + 1)) t
        | none => ([], [])
      .ok ((w :: ws).map (·.2), { s with
        icache := icachePut s.icache ((w :: ws) ++ next.1 ++ there.1)
        tlb := tlbSpare s.tlb (next.2 ++ there.2) 256, l2tlb := tlbSpare s.l2tlb (next.2 ++ there.2) 32768 })

/-- A fetch at the PC waits for a page walk (R32). An instruction has at most 12 bytes. -/
def State.fetchHeld (s : State) : Bool :=
  let pc := s.core.clerk.pc.toNat
  s.walkHeld s.ctx pc || s.walkHeld s.ctx ((pc + 8) % 2 ^ 48)

/-! ### Issue (R200, R205) -/

/-- Instructions that only the supervisor may run in every form (R206); `mfs` and `mts` check by register. -/
def Instr.supervisorOnly : Instr → Bool
  | .trapret | .tack | .halt => true
  | .mfs _ n | .mts n _ => 0x100 ≤ n.toNat
  | _ => false

/-- Instructions whose turn may end before they have issued or completed: the holding ones (R230). -/
def Instr.holds : Instr → Bool
  | .fence _ | .leave | .cbar | .tend | .tyield | .issue _ | .issuex _ | .cfgld _ _ | .cfgwait | .wbar _
  | .halloc _ | .hfree _ | .trapret | .halt | .wfe | .ifence => true
  | _ => false

def Instr.jumps : Instr → Bool
  | .beq _ _ _ | .bne _ _ _ | .blt _ _ _ | .bge _ _ _ | .bltu _ _ _ | .bgeu _ _ _ | .jal _ _
  | .jalr _ _ _ => true
  | _ => false

/-- The address from which `issuex` reads its command (R208): that of its entry where it is performed again (R317). -/
def State.poolEa (s : State) (n : BitVec 15) : Nat :=
  match s.core.clerk.redo with
  | some r => r.u.ea
  | none => s.core.clerk.cmdbase.toNat + 16 * n.toNat

/-- Whether an instruction may issue: fewer than 16 instructions are unfinished, and every register it names is present
(R200), but a privilege check that fails does not look at these (R205). -/
def State.mayIssue (s : State) (i : Instr) : Bool :=
  s.core.clerk.unfin.length < 16 &&
    ((Instr.supervisorOnly i && s.taskMode) ||
      ((Instr.regs i).all (fun r => s.core.clerk.present r) &&
        (Instr.kregs i).all (fun k => s.core.clerk.kpresent k)))

def Reject.reserved : Reject → Bool
  | .illegal => false
  | .reserved => true

/-- An encoding that is no instruction, at the PC, with its entry (R205). -/
def State.trapEncoding (s : State) (u : Unfin) (n : Nat) (reserved : Bool) : State :=
  s.trapAt u ⟨u.pc, .reject reserved, [], []⟩ n ⟨if reserved then 0x02 else 0x01, s.core.clerk.pc.toNat, 0⟩

/-- The words of an encoding that is no instruction trap. -/
def State.trapReject (s : State) (ws : List Word) (r : Reject) : State :=
  let h := headOf ws
  let u : Unfin := { op := h.1, func := h.2.1, w1 := h.2.2, pc := s.core.clerk.pc, kd := false, dest := 0
                     ea := 0, b := 0, c := 0, canon := 0, work := .result 0, done := none, port := none, lost := false
                     behind := false, unchecked := false }
  s.trapEncoding u (4 * ws.length) (Reject.reserved r)

/-- A pre-emption of the core runs: it waits while the clerk is in supervisor mode, also one that `tyield` asks for there,
but for a halted clerk (R255, R325). Log 117 (DEDUCED). -/
def State.preemptOn (s : State) : Bool :=
  s.preempting.isSome && (s.taskMode || s.core.clerk.run = .halted)

/-- A recall of the core's task runs (R123). -/
def State.recalled (s : State) : Bool :=
  match s.task with
  | some k => k ∈ s.recalling
  | none => false

/-- A pre-emption, a recall or a swap stops the clerk between instructions (R123, R325). -/
def State.clerkGated (s : State) : Bool := s.preemptOn || s.recalled

/-- The core's sources are gated: by a pre-emption, a recall or a DOUBLE-HALT (R123, R321, R325). -/
def State.lanesHeld (s : State) : Bool := s.clerkGated || s.core.clerk.run = .doubleHalt

/-- What a replay entry that is performed again at its PC is, where its latch says so. -/
def Clerk.redoLatch (c : Clerk) : Option Latched :=
  match c.redo with
  | some ⟨_, _, some l, _⟩ => some l.what
  | _ => none

/-- An encoding that R205 rejects, performed again from its entry: it traps again. -/
def State.redoReject (s : State) (reserved : Bool) : State :=
  match s.core.clerk.redo with
  | some r => s.trapEncoding r.u 4 reserved
  | none => s

/-- A `wfe` passed: it has completed as any instruction has, and one that SSTEP watches is marked (R255, R319). -/
def Clerk.woken (c : Clerk) : Clerk :=
  let step : Bool := c.stepping && c.mode = .task
  { c.setPc (c.pc + 4) with
    run := .running, wfeEvent := false, stepping := c.stepping && !step, stepped := if step then some c.pc else c.stepped }

/-- A store to FAULTEND that names the clerk's own task has issued: the clerk issues nothing after it (R347). -/
def State.endsItself (s : State) : Bool :=
  s.core.clerk.unfin.any fun u => u.done.isNone && match u.work, s.task with
    | .store _ (.ctrl off) v, some k =>
      off / 8 * 8 == wingBlock (s.coreId / 20) + 0x30 && v * 2 ^ (8 * (off % 8)) % 2 ^ 48 == k.tcb
    | _, _ => false

/-- A turn of the clerk up to the point where it issues: either the turn is over, or the instruction that
issues and the state it issues in. After a resumption a cause left pending is taken first, and nothing issues before the TMU
has discarded the ends that it owes (R313). Log 116 (DEDUCED). -/
def State.clerkTurn (s : State) : Except State (Instr × State) :=
  let c := s.core.clerk
  if s.task.isNone || s.clerkGated || s.modl.bootstat || s.endsItself then .error s
  else if c.run = .wfe && c.wfeEvent then .error (s.updClerk Clerk.woken)
  else if c.run ≠ .running then .error s
  else match c.steppedNow with
    | some p =>
      if c.unfin.any fun u => u.pc = p then .error s
      else .error (s.trapPlain 0x12 p.toNat 1 p c.pc)
    | none =>
      if s.asyncReady then .error s.takeAsync
      else if 0 < s.core.tmu.skip then .error s
      else match c.redoLatch with
      | some (.instr i) => if s.mayIssue i then .ok (i, s) else .error s
      | some (.reject r) => .error (s.redoReject r)
      | none =>
        if s.fetchHeld then .error s
        else match s.fetch with
        | .error f => .error (f.st.trapPlain f.flt.cause f.flt.addr f.flt.detail c.pc s.resumePc)
        | .ok (ws, s) =>
          match decode (ws.getD 0 0) (ws.getD 1 0) (ws.getD 2 0) with
          | .error r => .error (if c.unfin.length < 16 then s.trapReject ws r else s)
          | .ok i => if s.mayIssue i then .ok (i, s) else .error s

/-- Operands that a replay entry itself holds: its EA, B and C stand in for the registers that they came from (R317). -/
def Instr.entryRegs (u : Unfin) : Instr → List (Reg × Dword)
  | .halloc a | .hfree a => [(a, BitVec.ofNat 64 u.ea)]
  | .cfgld a b => [(a, BitVec.ofNat 64 u.ea), (b, u.b)]
  | .wbar a => [(a, u.b)]
  | .mts _ d => [(d, u.b)]
  | .div _ _ b | .divu _ _ b | .rem _ _ b | .remu _ _ b | .fadd _ _ b | .fsub _ _ b | .fmul _ _ b
  | .fdiv _ _ b | .fmin _ _ b | .fmax _ _ b | .feq _ _ b | .flt _ _ b | .fle _ _ b
  | .fma _ _ b => [(b, u.b)]
  | _ => []

/-- The registers lent to an instruction that is performed again at its PC, with their values: those of its latch,
under those of its entry (R317: registers are not read again). -/
def State.lent (s : State) (i : Instr) : List (Reg × Dword) :=
  match s.core.clerk.redo with
  | none => []
  | some r => (match r.latch with
    | some l => l.regs
    | none => []) ++ Instr.entryRegs r.u i

def State.lentK (s : State) : List (KReg × Qword) :=
  match s.core.clerk.redo with
  | some ⟨_, _, some l, _⟩ => l.kregs
  | _ => []

/-- The state in which the instruction is performed. -/
def State.prepare (s : State) (i : Instr) : State :=
  (s.lentK).foldl (fun s p => s.setKreg p.1 p.2) ((s.lent i).foldl (fun s p => s.setReg p.1 p.2) s)

/-- The destination of an instruction that writes it before the next one issues and may be performed again. -/
def Instr.dest : Instr → Reg
  | .div d _ _ | .divu d _ _ | .rem d _ _ | .remu d _ _ | .fadd d _ _ | .fsub d _ _ | .fmul d _ _
  | .fdiv d _ _ | .fmin d _ _ | .fmax d _ _ | .feq d _ _ | .flt d _ _ | .fle d _ _ | .fma d _ _
  | .fsqrt d _ | .fcvtF32I64 d _ | .fcvtI64F32 d _ | .fcvtBf16F32 d _ | .fcvtF32Bf16 d _ | .jalr d _ _
  | .mfs d _ => d
  | _ => 0

/-- Registers that were lent given back, but for the destination of an instruction that has completed. -/
def State.giveBack (s : State) (i : Instr) (completed : Bool) (t : State) : State :=
  (s.lentK).foldl (fun t p => t.setKreg p.1 (s.kreg p.1))
    ((s.lent i).foldl (fun t p => if completed && p.1 = Instr.dest i then t else t.setReg p.1 (s.reg p.1)) t)

end Sys2Proof.Machine
end

