-- ==== Sys2Proof/Machine/Transform.lean ====
section
/-! DEFINITION. In-bank transforms (R52 to R56). -/

namespace Sys2Proof.Machine

/-- A bank's bytes from a window offset as `n` elements of `wd` bytes. -/
def State.bankElems (s : State) (off wd n : Nat) : List Nat :=
  (List.range n).map fun i => s.rd (scratchKey s.coreId (off + wd * i)) wd

/-- Partial sums S[1] to S[64] (R74). -/
def partialSums (qs : List Int) : List Int :=
  (qs.foldl (fun (acc : List Int × Int) q => (acc.1 ++ [acc.2 + q], acc.2 + q)) ([], 0)).1

/-- The range of q in which every partial sum fits 24 bits (R53). -/
def qInRange (q : Int) : Bool := -131072 ≤ q && q ≤ 131071

/-- One element converted (R53, R69). -/
def convertElem (f g : Nat) (r : Rnd) (sat : Bool) (x : Nat) : Nat × FFlags :=
  match f, g with
  | 2, 1 => fConv fp32 bf16 r x
  | 1, 2 => fConv bf16 fp32 r x
  | 2, 9 => fToInt 32 r sat x
  | 9, 2 => intToF fp32 r (signedOf 32 x)
  | 9, 3 => (narrow 8 sat (signedOf 32 x), 0)
  | _, _ => (intBits 32 (signedOf 8 x), 0)

/-- One element scaled by an FP32 factor: exact product, one rounding to the element's format (R53). -/
def scaleElem (fmt : Nat) (r : Rnd) (x f : Nat) : Nat × FFlags :=
  let g := if fmt == 1 then bf16 else fp32
  let x32 := if fmt == 1 then x * 2 ^ 16 else x
  match nan2 fp32 x32 f with
  | some n => (nanTo fp32 g n.1, n.2)
  | none =>
    match (fp32.val x32).mul (fp32.val f) with
    | some v => v.round g r
    | none => invalid g

/-- The bytes a transform writes, with its flags, or the code 7 of a range check (R53, R54). -/
def State.xfResult (s : State) (w : Nat) : Except Nat (List (Nat × List Byte) × FFlags) :=
  let off := xfOff w
  let cnt := xfCnt w
  let val := xfVal w
  match xfCode w with
  | 0 =>
    let wd := fmtWidth (xfFmt w)
    let cols := (List.range cnt).map fun c =>
      (s.bankElems (off + 64 * wd * c) wd 64).map (signedOf (8 * wd) ·)
    if cols.any fun q => q.any fun x => !qInRange x then .error 7
    else .ok ([(val, cols.flatMap fun q => (partialSums q).flatMap fun x => toBytes (intBits 24 x) 3)], 0)
  | 1 =>
    let p := xfCnt2 w
    let d := signedOf 32 val
    let cols := (List.range cnt).map fun c => (s.bankElems (off + 192 * c) 3 64).map (signedOf 24 ·)
    if cols.any fun t =>
        !qInRange (t.getD p 0 - (if p == 0 then 0 else t.getD (p - 1) 0) + d) then .error 7
    else .ok (cols.zipIdx.map fun t =>
      (off + 192 * t.2 + 3 * p, (t.1.drop p).flatMap fun x => toBytes (intBits 24 (x + d)) 3), 0)
  | 2 =>
    let wd := fmtWidth (xfFmt w)
    let rows := cnt
    let cols := xfCnt2 w
    .ok ([(val, (List.range cols).flatMap fun c => (List.range rows).flatMap fun r =>
      toBytes (s.rd (scratchKey s.coreId (off + wd * (r * cols + c))) wd) wd)], 0)
  | 3 =>
    let rs := (s.bankElems off (fmtWidth (xfFmt w)) cnt).map
      fun x => convertElem (xfFmt w) (xfFmt2 w) (xfRnd w) (xfSat w) x
    .ok ([(val, rs.flatMap fun r => toBytes r.1 (fmtWidth (xfFmt2 w)))], rs.foldl (fun f r => f ||| r.2) 0)
  | 4 => .ok ([(off, List.replicate (4 * cnt) 0)], 0)
  | 5 =>
    let rs := (s.bankElems off (fmtWidth (xfFmt w)) cnt).map fun x => scaleElem (xfFmt w) (xfRnd w) x val
    .ok ([(off, rs.flatMap fun r => toBytes r.1 (fmtWidth (xfFmt w)))], rs.foldl (fun f r => f ||| r.2) 0)
  | _ => .ok ([(off, (List.replicate cnt (toBytes val (fmtWidth (xfFmt w)))).flatten)], 0)

/-- Whether a transform writes bytes of an object word that is not free: reason 10 (R105). -/
def State.xfProtected (s : State) (w : Nat) : Bool :=
  (xfWrites w).any fun p => s.objProtected (scratchKey s.coreId p.1) p.2

/-- The transform performed whole at its bank, its flags ORed into FPSTAT (R56, R67). -/
def State.xfPerform (s : State) (w : Nat) : Except Nat State :=
  match s.xfResult w with
  | .error c => .error c
  | .ok (ws, f) => .ok ((ws.foldl (fun s p => s.wrBytes (scratchKey s.coreId p.1) p.2) s).orFlags f)

/-- Global-view ranges that a transform reads and writes (R350). -/
def State.xfRanges (s : State) (l : List (Nat × Nat)) : List (Nat × Nat) :=
  l.map fun p => (globalView + s.coreId * windowSize + p.1, p.2)

/-- Whether a byte that a transform reads or partly overwrites is poisoned (R333). -/
def State.xfPoisoned (s : State) (w : Nat) : Bool :=
  ((xfReads w).any fun p => s.poisoned (scratchKey s.coreId p.1) p.2) ||
    (xfWrites w).any fun p => s.partPoisoned (scratchKey s.coreId p.1) p.2

end Sys2Proof.Machine
end

