-- ==== Sys2Proof/Machine/Issue.lean ====
section
/-! DEFINITION. Issue of the instructions with an asynchronous result or without a destination (R230): the
checks of each in their order, and what then stands unfinished. `trapret` issues a replay entry through the
same operations (R317, R320). -/

namespace Sys2Proof.Machine

/-- What identifies an instruction about to issue: its head and destination as a replay entry holds them, its
PC, the resume PC of a trap it takes, the replay entries that stand behind it, and, where it is performed again, what it
was while it was unfinished (`Clerk.kept`). -/
structure Src where
  op : Byte
  func : BitVec 9
  w1 : BitVec 6
  pc : BitVec 48
  kd : Bool
  dest : Reg
  rpc : BitVec 48
  rest : List (List Nat)
  kept : Option Unfin

/-- An instruction at the PC with a scalar destination, 0 for none. -/
def State.src (s : State) (i : Instr) (d : Reg) : Src :=
  let h := headOf (encode i)
  { op := h.1, func := h.2.1, w1 := h.2.2, pc := s.core.clerk.pc, kd := false, dest := d
    rpc := s.nextPc (Instr.bytes i), rest := s.core.clerk.redoRest, kept := none }

/-- The instruction as it stands unfinished. One that goes on with what it was keeps the Span port of its request. -/
def Src.unfin (x : Src) (ea : Nat) (b c : Dword) (canon : Nat) (work : Work) : Unfin :=
  { op := x.op, func := x.func, w1 := x.w1, pc := x.pc, kd := x.kd, dest := x.dest, ea := ea % 2 ^ 48, b, c
    canon, work, done := none, port := x.kept.bind (·.port), lost := x.kept.any (·.lost)
    behind := x.kept.any (·.behind), unchecked := false }

/-- The destination empty (R200). -/
def State.emptyDest (s : State) (x : Src) : State :=
  s.updClerk fun c => if x.kd then c.setKpresent (x.dest.setWidth 3) false else c.setPresent x.dest false

/-- A request that is to go to a peer goes out by a Span port, if one is up (R338). -/
def State.sent (s : State) (u : Unfin) : Unfin :=
  match u.port, u.work.place with
  | none, some pl => { u with port := s.portOf s.ctx pl u.ea }
  | _, _ => u

/-- The instruction issues and stays unfinished (R200). -/
def State.push (s : State) (x : Src) (u : Unfin) : State :=
  (s.emptyDest x).updClerk fun c => { c with unfin := c.unfin ++ [s.sent u] }

/-- The same with its value already there. -/
def State.pushDone (s : State) (x : Src) (ea : Nat) (b c v : Dword) : State :=
  s.push x { x.unfin ea b c 0 (.result v) with done := some (v.setWidth 128) }

/-- The instruction at the PC leaves the replay that it may have stood in. -/
def Clerk.notRedone (c : Clerk) (pc : BitVec 48) : Clerk :=
  match c.redo with
  | some r => if r.u.pc = pc then { c with redo := none } else c
  | none => c

/-- A precise cause found at issue: the instruction stands in the replay queue with FLT = 1 and its destination
is empty (R231). -/
def State.trapSrc (s : State) (x : Src) (ea : Nat) (b c : Dword) (f : Flt) : State :=
  let k := s.core.clerk.unfin.length
  ((s.push x (x.unfin ea b c 0 (.result 0))).updClerk (·.notRedone x.pc)).enterTrap
    ⟨f.cause, f.addr % 2 ^ 48, f.detail, false, x.pc, x.rpc⟩ (some k) x.rest

/-! ### The checks of R232 -/

/-- An unfinished instruction that later ones are checked behind: its own checks have still to be made, or it is a store to a
control register, which may change what they are checked against (R44, R100, note 2). -/
def Unfin.setsRules (u : Unfin) : Bool :=
  u.done.isNone && (u.unchecked || match u.work with
    | .store _ (.ctrl _) _ => true
    | _ => false)

/-- The checks of an instruction that issues have to wait, which its issue does not (R200): the walk of the page that it names is
in flight, or 128 walks are (R32), or an earlier instruction is one that it is checked behind. Log 123 (DEDUCED). -/
def State.checksWait (s : State) (x : Src) (page : Option Nat) : Bool :=
  x.kept.isNone && (page.any (s.walkHeld s.ctx) || s.core.clerk.unfin.any Unfin.setsRules)

/-- An instruction issues, and is checked now or later. -/
def State.checked (s : State) (x : Src) (page : Option Nat) (ea : Nat) (b c : Dword) (now : State) : State :=
  if s.checksWait x page then s.push x { x.unfin ea b c 0 (.result 0) with unchecked := true } else now

/-- Checks 1 to 5 for an access of `n` bytes. -/
def State.checkAccess (s : State) (kind : AccKind) (n ea : Nat) : Except Flt Res :=
  if 2 ^ 48 ≤ ea then .error (reasonFlt ea 9 0)
  else if ea % n != 0 then .error ⟨0x03, ea, 0⟩
  else
    match s.resolve s.ctx ⟨.clerk, kind, n, s.taskMode⟩ ea with
    | .error f => .error f
    | .ok r =>
      match r.pl with
      | .own off => if kind ≠ .load && s.ownStoreRefused off then .error (reasonFlt ea 10 0) else .ok r
      | _ => .ok r

/-- Places that a task may write after its first borrow whatever it has declared: its own core's window and its
task page (R126). -/
def State.freePlace (s : State) : Place → Bool
  | .own _ => true
  | .bank c _ => c == s.coreId
  | .ctrl off => inTaskPage s.coreId off
  | _ => false

/-- The bit of a watchpoint that selects an access (R332). -/
def AccKind.sel : AccKind → Nat
  | .store => 17
  | .atomic => 18
  | _ => 16

/-- Checks 6 to 8 of R232. The discipline of R126 binds the task in both modes, but for an access `issued` before. -/
def State.loanChecks (s : State) (issued : Bool) (kind : AccKind) (ea n : Nat) (pl : Place) : Touch :=
  let c := s.canon ea
  match (s.touch s.taskMode c n ea kind (issued || s.freePlace pl)).precise with
  | .ok s =>
    match s.watchHit kind.sel c n with
    | some w => .fault ⟨0x11, ea, w⟩ s
    | none => (Touch.ok s).logged kind [(c, n)] ea
  | r => r

/-- The TLBs after a fault found at issue: a walk that found a leaf has filled them (R32). -/
def State.walked (s : State) (ea : Nat) (f : Flt) : State :=
  if f.cause == 4 || f.cause == 5 || f.cause == 0x1C then s.filled s.ctx ea else s

/-- Whether an instruction issues, or issued, behind a first touch that waits (R126). -/
def State.behind (s : State) (x : Src) : Bool :=
  match x.kept with
  | some u => u.behind
  | none => s.anyLoanWaits

/-- A load, store or atomic issues. -/
def State.access (s : State) (x : Src) (kind : AccKind) (ea n : Nat) (b c : Dword) (work : Place → Work) : State :=
  s.checked x (some ea) ea b c <| match s.checkAccess kind n ea with
  | .error f => (s.walked ea f).trapSrc x ea b c f
  | .ok r =>
    let s := s.fillRes r
    let u := { x.unfin ea b c (s.canon ea) (work r.pl) with behind := s.behind x }
    match s.loanChecks x.kept.isSome kind ea n r.pl with
    | .fault f t => t.trapSrc x ea b c f
    | .stall f t => t.trapSrc x ea b c f
    | .wait t => t.push x u
    | .ok t => t.push x u

/-- A load of R233. -/
def State.issueLoad (s : State) (x : Src) (w : LoadWidth) (ea : Nat) : State :=
  s.access x .load ea w.bytes 0 0 (.load w)

/-- A store of R233: the low `n` bytes of the register. -/
def State.issueStore (s : State) (x : Src) (n ea : Nat) (v : Dword) : State :=
  s.access x .store ea n v 0 fun pl => .store n pl (v.toNat % 2 ^ (8 * n))

/-- An atomic of R235; a control register, and any of its places with no byte of memory, is refused. -/
def State.issueAtomic (s : State) (x : Src) (op : AtomicOp) (o : AmoOrder) (ea : Nat) (b c : Dword) : State :=
  s.access x .atomic ea (if o.wide then 8 else 4) b c fun pl => .atomic op pl b c o

/-- `kld` and `kst` (R250). -/
def State.issueKld (s : State) (x : Src) (ea : Nat) : State := s.access x .load ea 16 0 0 .loadK

def State.issueKst (s : State) (x : Src) (ea : Nat) (lo hi : Dword) : State :=
  s.access x .store ea 16 lo hi fun pl => .store 16 pl (hi ++ lo).toNat

/-! ### Objects (R105, R238, R239, R241) -/

/-- The place of a synchronisation object, or its fault. An object operation counts as an atomic (R108). -/
def State.objPlace (s : State) (ea : Nat) : Except Flt Res :=
  if 2 ^ 48 ≤ ea then .error (reasonFlt ea 9 0)
  else if ea % 8 != 0 then .error ⟨0x03, ea, 0⟩
  else if selfAlias ≤ ea then .error (reasonFlt ea 10 0)
  else
    match s.resolve s.ctx ⟨.clerk, .atomic, 8, s.taskMode⟩ ea with
    | .error f => .error f
    | .ok r =>
      match r.pl with
      | .own _ => .error (reasonFlt ea 10 0)
      | _ => .ok r

/-- Whether a `rel` of the object is issued and not yet performed. -/
def Clerk.releasing (c : Clerk) (home : Place) : Bool :=
  c.unfin.any fun u => match u.work with
    | .release h => h = home
    | _ => false

/-- The hold list as program order leaves it: without objects whose `rel` has issued. -/
def Clerk.holdsNow (c : Clerk) : List Hold := c.holds.filter fun h => !(h.held && c.releasing h.home)

/-- An `acq` or `acqs`. One performed again whose request is under way goes on with it (R107, R230, R320); one whose request
was lost with its Span port stays lost (R339). -/
def State.issueAcquire (s : State) (x : Src) (excl : Bool) (ea : Nat) : State :=
  s.checked x (some ea) ea 0 0 <| match s.objPlace ea with
  | .error f => (s.walked ea f).trapSrc x ea 0 0 f
  | .ok r =>
    let s := s.fillRes r
    let obj := s.canon ea
    let u := x.unfin ea 0 0 obj (.acquire r.pl excl false)
    match s.core.clerk.holdsNow.find? fun h => h.obj == obj with
    | some h =>
      if x.kept.isSome then
        if h.held && !u.lost then s.pushDone x ea 0 0 (BitVec.ofNat 64 (objGen (s.rd (r.pl.key s) 8)))
        else s.push x { u with work := .acquire r.pl excl (h.held || (s.objQueue r.pl).any fun q => some q.key = s.task) }
      else s.trapSrc x ea 0 0 ⟨0x08, ea, 0⟩
    | none =>
      if 16 ≤ s.core.clerk.holdsNow.length then s.trapSrc x ea 0 0 ⟨0x08, ea, 0⟩
      else
        (s.push x u).updClerk fun c =>
          { c with holds := c.holds ++ [Hold.mk obj r.pl excl false] }

/-- `rel` (R239). -/
def State.issueRelease (s : State) (x : Src) (ea : Nat) : State :=
  let obj := s.canon (ea % 2 ^ 48)
  s.checked x none ea 0 0 <| match s.core.clerk.holdsNow.find? fun h => h.obj == obj && h.held && ea < 2 ^ 48 with
  | none => s.trapSrc x ea 0 0 ⟨0x08, ea, 0⟩
  | some h => s.push x (x.unfin ea 0 0 obj (.release h.home))

/-- `waitw` (R241): a control register, of whatever block, is reason 10. -/
def State.issueWaitw (s : State) (x : Src) (ea : Nat) (b : Dword) : State :=
  s.checked x (some ea) ea b 0 <| match s.checkAccess .load 4 ea with
  | .error f => (s.walked ea f).trapSrc x ea b 0 (if f.cause == 0x1C && f.detail == 0 then reasonFlt ea 10 0 else f)
  | .ok r =>
    let s := s.fillRes r
    match r.pl with
    | .ctrl _ => s.trapSrc x ea b 0 (r.refused ea)
    | .page _ _ _ => s.trapSrc x ea b 0 (r.refused ea)
    | .peer _ _ => s.trapSrc x ea b 0 (r.refused ea)
    | pl => s.push x (x.unfin ea b 0 (s.canon ea) (.waitw pl (b.setWidth 32)))

/-! ### Cohorts and loans (R118, R140) -/

/-- A request to trap with `format` at the instruction's own PC. -/
def formatAt (x : Src) : Flt := ⟨0x08, x.pc.toNat, 0⟩

/-- `join` (R140): it issues and reaches the desk behind the accesses it releases (R99). One performed again that had reached
the desk goes on waiting (R230, R320), for the cohort that its task is a member of or for one to dissolve; where the task has
left in the handler it reaches the desk anew. Log 110 (DESIGN CHOICE). The replay entry holds the cohort id in EA. -/
def State.issueJoin (s : State) (x : Src) (id cnt : Nat) : State :=
  let b := BitVec.ofNat 64 cnt
  let wait (st : JoinStage) : State := s.push x (x.unfin id b 0 0 (.join id st))
  match s.task with
  | none => s
  | some k =>
    if id == 0 || 65535 < id || cnt == 0 || 160 < cnt then s.trapSrc x id b 0 (formatAt x)
    else match s.cohortOf k with
    | some h =>
      if x.kept.isSome && h.id == id then
        match h.members.find? fun m => m.key = k with
        | some m => match m.rank with
          | some r => s.pushDone x id b 0 (BitVec.ofNat 64 r)
          | none => wait .waits
        | none => s
      else wait .issued
    | none => wait .issued

/-- `loan` (R118, R243). -/
def State.issueLoan (s : State) (x : Src) (base len : Nat) : State :=
  let b := BitVec.ofNat 64 len
  let cb := s.canon base
  s.checked x none base b 0 <| match s.task with
  | none => s
  | some k =>
    let ds := match s.findRec k with
      | some r => r.decls
      | none => []
    let ret (s : State) (v : Dword) : State := s.pushDone x base b 0 v
    if base % 64 != 0 || len % 64 != 0 || len < 64 || 2 ^ 22 < len || 2 ^ 48 < base + len then
      s.trapSrc x base b 0 ⟨0x08, base, 0⟩
    else match (declsMet ds cb len).find? fun p => !(p.2.base == cb && p.2.len == len), declsMet ds cb len with
      | some p, _ => s.trapSrc x base b 0 ⟨0x0C, base, p.1⟩
      | none, p :: _ => ret s (BitVec.ofNat 64 p.1)
      | none, [] =>
        if 8 ≤ ds.length then ret s (-1)
        else ret (s.updRec k fun r => { r with decls := r.decls ++ [Decl.mk cb len .declared] })
          (BitVec.ofNat 64 ds.length)

def LoanState.code : LoanState → Nat
  | .declared => 1
  | .borrowed => 2
  | .waiting => 3

/-- The word of R128 for a declaration: BASE is by the global view where the set was declared through the self alias. Log 137
(DESIGN CHOICE). -/
def Decl.word (d : Decl) : Nat :=
  d.st.code * 2 ^ 62 + (d.len / 64 - 1) * 2 ^ 42 + bitsOf d.base 47 6

/-- The restart count and the age of a task's TCB (R128, R247). -/
def State.tcbWord5 (s : State) (k : TaskKey) : Nat :=
  match s.tcbPa k.ctx k.tcb with
  | some pa => s.tcbRd pa 5
  | none => 0

/-- `lstat` (R128, R243). -/
def State.issueLstat (s : State) (x : Src) (n : Nat) : State :=
  s.checked x none n 0 0 <| match s.task with
  | none => s
  | some k =>
    let r := s.findRec k
    if n < 8 then
      let v := match r with
        | some r => match r.decls[n]? with
          | some d => d.word
          | none => 0
        | none => 0
      s.pushDone x n 0 0 (BitVec.ofNat 64 v)
    else if n == 8 then
      let used := match r with
        | some r => r.undoUsed
        | none => 0
      s.pushDone x n 0 0 (BitVec.ofNat 64 (bitsOf (s.tcbWord5 k) 63 48 * 2 ^ 48 + used % 2 ^ 16))
    else s.trapSrc x n 0 0 ⟨0x02, x.pc.toNat, 0⟩

/-! ### Bindings (R106, R240) -/

/-- Whether a range lies wholly in translated memory or in one global window. -/
def State.bindRegion (s : State) (base len : Nat) : Bool :=
  2 ^ 48 > base &&
  match s.region base, s.region (base + len - 1) with
  | .translated, .translated => true
  | .window c _, .window d _ => c == d && base < selfAlias
  | _, _ => false

/-- `bind`: its result code and the state after it. The entry used is the lowest free one: log 144 (DESIGN CHOICE). -/
def State.bindOp (s : State) (obj base len : Nat) : Dword × State :=
  let mine := s.binds.filter fun b => b.ctx = s.ctx
  let op := s.objPlace obj
  let inside (o : Nat) : Bool := base < o + 8 && o < base + len
  if base % 64 != 0 || len % 64 != 0 || len < 64 || 2 ^ 32 < len then (-2, s)
  else if !s.bindRegion base len then (-3, s)
  else match op with
    | .error f => (-3, s.walked obj f)
    | .ok r =>
      let s := s.fillRes r
      if mine.any fun b => b.base < base + len && base < b.base + b.len then (-4, s)
      else if inside obj || (mine.any fun b => inside b.obj || (b.base < obj + 8 && obj < b.base + b.len)) then (-5, s)
      else match (List.range 1024).find? fun i => !(mine.any fun b => b.idx == i) with
        | none => (-1, s)
        | some i =>
          (BitVec.ofNat 64 i, { s with binds := s.binds ++ [Binding.mk s.ctx i obj r.pl base len] })

/-- `bind`: performed at the module in its order; an object address that no entry can hold is refused at issue. -/
def State.issueBind (s : State) (x : Src) (obj base len : Nat) : State :=
  let b := BitVec.ofNat 64 base
  let c := BitVec.ofNat 64 len
  if 2 ^ 48 ≤ obj then s.pushDone x obj b c (s.bindOp obj base len).1
  else s.push x (x.unfin obj b c 0 (.bind obj base len))

/-- `unbind`: its result code and the state after it. -/
def State.unbindOp (s : State) (base : Nat) : Dword × State :=
  match s.binds.find? fun b => b.ctx = s.ctx && b.base == base with
  | none => (-1, s)
  | some b =>
    let w := s.rd (b.home.key s) 8
    if objMode w != 0 || !(s.objQueue b.home).isEmpty then (-6, s)
    else (BitVec.ofNat 64 b.idx, { s with binds := s.binds.filter fun y => !(y = b) })

/-- `unbind`: performed at the module in its order; no binding has a base past the address space. -/
def State.issueUnbind (s : State) (x : Src) (base : Nat) : State :=
  if 2 ^ 48 ≤ base then s.pushDone x base 0 0 (-1) else s.push x (x.unfin base 0 0 0 (.unbind base))

/-! ### Tasks (R244, R245) -/

/-- The operations that a task has deferred (R127). -/
def State.deferredOf (s : State) (k : TaskKey) : List Deferred :=
  match s.findRec k with
  | some r => r.deferred
  | none => []

/-- The core's task holds a borrow. -/
def State.borrowing (s : State) : Bool :=
  match s.task with
  | some k => s.borrows k
  | none => false

/-- A `spawn` of a task that holds a borrow: its result code and the state with its launch deferred; a seventeenth deferred
operation is loan discipline (R127, R244). -/
def State.deferSpawn (s : State) (k : TaskKey) (tcb : Nat) : Except Flt (Nat × State) :=
  let code := s.launchCode ⟨s.taskCtx k, tcb⟩
  if code != 0 then .ok (code, s)
  else if 16 ≤ (s.deferredOf k).length then .error ⟨0x0B, tcb % 2 ^ 48, 0⟩
  else .ok (0, s.updRec k fun r => { r with deferred := r.deferred ++ [.spawn tcb] })

/-- Nothing that the clerk has issued is unperformed. -/
def State.inOrder (s : State) : Bool := s.core.clerk.unfin.all fun u => u.done.isSome || !(u.isAccess || u.work.isPoint)

/-- `spawn` (R244): after the first borrow its checks are made and its result is there at issue, and its launch is
deferred; behind accesses of the clerk that are not performed, once they are, which its checks see and which it follows in
program order (R127, R148). -/
def State.issueSpawn (s : State) (x : Src) (tcb : Nat) : State :=
  s.checked x none tcb 0 0 <| match s.task with
  | some k =>
    if s.borrows k && x.kept.isNone && s.inOrder then
      match s.deferSpawn k tcb with
      | .error f => s.trapSrc x tcb 0 0 f
      | .ok r => r.2.pushDone x tcb 0 0 (BitVec.ofNat 64 r.1)
    else s.push x { x.unfin tcb 0 0 0 (.spawn tcb) with behind := s.behind x || (s.borrows k && x.kept.isNone) }
  | none => s.push x (x.unfin tcb 0 0 0 (.spawn tcb))

/-- Checks of `arm` and `rls` on the TCB they name (R245): its place, or the fault. One that has `issued` before the first
borrow goes on. -/
def State.tcbCheck (s : State) (issued : Bool) (tcb : Nat) (arm : Option Nat) : Except Flt Place :=
  if !issued && s.borrowing then .error ⟨0x0B, tcb, 0⟩
  else if 2 ^ 48 ≤ tcb then .error (reasonFlt tcb 9 0)
  else if tcb % 128 != 0 then .error ⟨0x03, tcb, 0⟩
  else if 65535 < arm.getD 0 then .error ⟨0x08, tcb, 0⟩
  else match s.resolve s.ctx ⟨.clerk, .atomic, 8, s.taskMode⟩ tcb with
    | .error f => .error f
    | .ok ⟨.mem pa, some e⟩ => if leafType e.leaf.toNat == 0 then .ok (.mem pa) else .error (reasonFlt tcb 10 e.level)
    | .ok r => .error (r.refused tcb)

def State.issueArm (s : State) (x : Src) (tcb : Nat) (cnt : Dword) : State :=
  s.checked x (some tcb) tcb cnt 0 <| match s.tcbCheck x.kept.isSome tcb (some cnt.toNat) with
  | .error f => (s.walked tcb f).trapSrc x tcb cnt 0 f
  | .ok pl =>
    (s.filled s.ctx tcb).push x { x.unfin tcb cnt 0 (tcb + 24) (.arm pl tcb cnt.toNat) with behind := s.behind x }

def State.issueRls (s : State) (x : Src) (tcb : Nat) : State :=
  s.checked x (some tcb) tcb 0 0 <| match s.tcbCheck x.kept.isSome tcb none with
  | .error f => (s.walked tcb f).trapSrc x tcb 0 0 f
  | .ok pl => (s.filled s.ctx tcb).push x { x.unfin tcb 0 0 (tcb + 24) (.rls pl tcb) with behind := s.behind x }

/-! ### Tag table (R39 to R42) -/

/-- The set of a global address (R39). -/
def State.tagSet (s : State) (a : Nat) : Nat :=
  (bitsOf a 23 12 ^^^ bitsOf a 35 24 ^^^ bitsOf a 47 36) % s.tagSets

/-- The slot that holds a global address's tag. -/
def State.tagHit (s : State) (a : Nat) : Option Nat :=
  let set := s.tagSet a
  ((List.range 8).map fun w => 8 * set + w).find? fun i => (s.tag i).v && (s.tag i).tag.toNat == bitsOf a 47 12

/-- A result slot, or −1. -/
def slotWord : Option Nat → Dword
  | some n => BitVec.ofNat 64 n
  | none => -1

/-- `tins`: its result and the state after it. PIN of an invalid way stays as it is. -/
def State.tagInsert (s : State) (a : Nat) : Dword × State :=
  let set := s.tagSet a
  match s.tagHit a with
  | some i => (BitVec.ofNat 64 i, s)
  | none =>
    match ((List.range 8).map fun w => 8 * set + w).find? fun i => !(s.tag i).v with
    | some i =>
      (BitVec.ofNat 64 i, s.setTag i { s.tag i with user := 0, tag := BitVec.ofNat 36 (bitsOf a 47 12), v := true })
    | none =>
      let w := s.tagVictim.getD set 0
      let v := (s.tagVictim ++ List.replicate (set + 1 - s.tagVictim.length) 0)
      (-(BitVec.ofNat 64 (2 + w)), { s with tagVictim := updAt v set fun w => (w + 1) % 8 })

/-- `tlook`, `tins` and `tdel`: performed at the table in their order (R42). Only address bits 47:12 are compared and
hashed. -/
def State.issueTag (s : State) (x : Src) (op : TagOp) (a : Nat) : State := s.push x (x.unfin a 0 0 0 (.tag op (a % 2 ^ 48)))

/-- A `tdel` waits at the table: later operations on it stand behind (R42). -/
def State.tagBusy (s : State) : Bool :=
  (List.range s.core.clerk.unfin.length).any fun k => s.mayPerform k && (match s.core.clerk.unfin[k]? with
    | some u => (match u.work with
      | .tag .del _ => true
      | _ => false)
    | none => false)

/-! ### Transforms (R249, R350) -/

/-- Touches of several ranges in turn. -/
def touchRanges (task : Bool) (va : Nat) (kind : AccKind) : List (Nat × Nat) → State → Touch
  | [], s => .ok s
  | p :: t, s =>
    match s.touch task p.1 p.2 va kind true with
    | .ok s => touchRanges task va kind t s
    | r => r

/-- The loan checks of a transform, with its undo entries in ascending order (R122, R350). -/
def State.xfLoans (s : State) (task : Bool) (w va : Nat) : Touch :=
  match touchRanges task va .load (s.xfRanges (xfReads w)) s with
  | .ok s => (touchRanges task va .store (s.xfRanges (xfWrites w)) s).logged .store (s.xfRanges (xfWrites w)) va
  | r => r

/-- `xbank`. Its FADDR and EA are OFF in the self alias. -/
def State.issueXbank (s : State) (x : Src) (lo hi : Dword) : State :=
  let w := (hi ++ lo).toNat
  let ea := selfAlias + xfOff w
  if xfCheck w != 0 then s.trapSrc x ea lo hi ⟨xfTrap (xfCheck w), ea, xfCheck w⟩
  else
    let u := x.unfin ea lo hi 0 (.xbank (hi ++ lo))
    s.checked x none ea lo hi <| match s.xfLoans s.taskMode w ea with
    | .fault f t => t.trapSrc x ea lo hi f
    | .stall f t => t.trapSrc x ea lo hi f
    | .wait t => t.push x u
    | .ok t => t.push x u

end Sys2Proof.Machine
end

