-- ==== Sys2Proof/Machine/Atomics.lean ====
section
/-! DEFINITION. Atomics (R235, R236). -/

namespace Sys2Proof.Machine

/-- An atomic at the PC. -/
def State.atomicAt (s : State) (i : Instr) (op : AtomicOp) (d : Reg) (ea : Nat) (b c : Dword) (o : AmoOrder) :
    Host.Outcome State Fault Refusal :=
  .next ((s.advance 8).issueAtomic (s.src i d) op o ea b c)

/-- AMOADD (R235). -/
def execAmoadd (d a b : Reg) (imm : BitVec 16) (o : AmoOrder) (s : State) : Host.Outcome State Fault Refusal :=
  s.atomicAt (.amoadd d a b imm o) .add d (s.ea a imm) (s.reg b) 0 o

/-- AMOAND (R235). -/
def execAmoand (d a b : Reg) (imm : BitVec 16) (o : AmoOrder) (s : State) : Host.Outcome State Fault Refusal :=
  s.atomicAt (.amoand d a b imm o) .and d (s.ea a imm) (s.reg b) 0 o

/-- AMOOR (R235). -/
def execAmoor (d a b : Reg) (imm : BitVec 16) (o : AmoOrder) (s : State) : Host.Outcome State Fault Refusal :=
  s.atomicAt (.amoor d a b imm o) .or d (s.ea a imm) (s.reg b) 0 o

/-- AMOXOR (R235). -/
def execAmoxor (d a b : Reg) (imm : BitVec 16) (o : AmoOrder) (s : State) : Host.Outcome State Fault Refusal :=
  s.atomicAt (.amoxor d a b imm o) .xor d (s.ea a imm) (s.reg b) 0 o

/-- AMOMIN (R235). -/
def execAmomin (d a b : Reg) (imm : BitVec 16) (o : AmoOrder) (s : State) : Host.Outcome State Fault Refusal :=
  s.atomicAt (.amomin d a b imm o) .min d (s.ea a imm) (s.reg b) 0 o

/-- AMOMAX (R235). -/
def execAmomax (d a b : Reg) (imm : BitVec 16) (o : AmoOrder) (s : State) : Host.Outcome State Fault Refusal :=
  s.atomicAt (.amomax d a b imm o) .max d (s.ea a imm) (s.reg b) 0 o

/-- AMOMINU (R235). -/
def execAmominu (d a b : Reg) (imm : BitVec 16) (o : AmoOrder) (s : State) : Host.Outcome State Fault Refusal :=
  s.atomicAt (.amominu d a b imm o) .minu d (s.ea a imm) (s.reg b) 0 o

/-- AMOMAXU (R235). -/
def execAmomaxu (d a b : Reg) (imm : BitVec 16) (o : AmoOrder) (s : State) : Host.Outcome State Fault Refusal :=
  s.atomicAt (.amomaxu d a b imm o) .maxu d (s.ea a imm) (s.reg b) 0 o

/-- AMOSWAP (R235). -/
def execAmoswap (d a b : Reg) (imm : BitVec 16) (o : AmoOrder) (s : State) : Host.Outcome State Fault Refusal :=
  s.atomicAt (.amoswap d a b imm o) .swap d (s.ea a imm) (s.reg b) 0 o

/-- AMOFADD (R235). -/
def execAmofadd (d a b : Reg) (imm : BitVec 16) (o : AmoOrder) (s : State) : Host.Outcome State Fault Refusal :=
  s.atomicAt (.amofadd d a b imm o) .fadd d (s.ea a imm) (s.reg b) 0 o

/-- AMOCAS (R235): sc is the comparand. -/
def execAmocas (d a b c : Reg) (imm : BitVec 16) (o : AmoOrder) (s : State) : Host.Outcome State Fault Refusal :=
  s.atomicAt (.amocas d a b c imm o) .cas d (s.ea a imm) (s.reg b) (s.reg c) o

end Sys2Proof.Machine
end

