-- ==== Sys2Proof/Machine/Copy.lean ====
section
/-! DEFINITION. The copy engines: channel registers, transfer records, operations (chapter 5, R341). -/

namespace Sys2Proof.Machine

def State.ce (s : State) (e : Nat) : Ce := s.core.ces.getD e Ce.reset

def State.updCe (s : State) (e : Nat) (f : Ce → Ce) : State :=
  { s with core := { s.core with ces := updAt s.core.ces e f } }

/-! ### Buffer handles (R88, R89) -/

def State.handle (s : State) (h : Nat) : Handle := s.core.handles.getD h Handle.reset

/-- A handle changed; a change of its STATE ends a `wfe` (R255). -/
def State.updHandle (s : State) (h : Nat) (f : Handle → Handle) : State :=
  let s' := { s with core := { s.core with handles := updAt s.core.handles h f } }
  if (f (s.handle h)).st = (s.handle h).st then s' else s'.wake

/-- A record on the handle starts. -/
def Handle.start (h : Handle) : Handle := { h with pend := h.pend + 1 }

/-- A record on the handle ends with status 0x00 after `n` payload bytes. -/
def Handle.ended (h : Handle) (fin : Bool) (n : Nat) : Handle :=
  let h := { h with pend := h.pend - 1, bytes := h.bytes + BitVec.ofNat 32 n, fseen := h.fseen || fin }
  if h.fseen && h.pend = 0 then { h with st := .full } else h

/-- A record on the handle ends non-resumably. -/
def Handle.failed (h : Handle) (status : Byte) : Handle :=
  let h := { h with pend := h.pend - 1, err := if h.err = 0 then status else h.err, fseen := true }
  if h.pend = 0 then { h with st := .full } else h

/-! ### Records (R82) -/

def recW (r : List Dword) (k : Nat) : Nat := (r.getD k 0).toNat
def recSrc (r : List Dword) : Nat := recW r 1 % 2 ^ 48
def recDst (r : List Dword) : Nat := recW r 2 % 2 ^ 48
def recRows (r : List Dword) : Nat := bitsOf (recW r 3) 31 16
def recElems (r : List Dword) : Nat := recW r 3 % 2 ^ 16
def recSs (r : List Dword) : Int := signedOf 32 (recW r 4)
def recDs (r : List Dword) : Int := signedOf 32 (recW r 4 / 2 ^ 32)
def recAux (r : List Dword) : Nat := recW r 5
def recOp (r : List Dword) : Nat := bitsOf (recW r 0) 35 32
def recSf (r : List Dword) : Nat := bitsOf (recW r 0) 31 24
def recDf (r : List Dword) : Nat := bitsOf (recW r 0) 23 16
def recHandle (r : List Dword) : Nat := bitsOf (recW r 0) 47 42
def recHv (r : List Dword) : Bool := bitOf (recW r 0) 61
def recAdj (r : List Dword) : Int := signedOf 8 (recW r 0)
def recRnd (r : List Dword) : Rnd := Rnd.ofCode (bitsOf (recW r 0) 41 40)
def recSat (r : List Dword) : Bool := bitOf (recW r 0) 39

/-- Width in bytes of a record's element format (R84). -/
def recWidth (f : Nat) : Nat :=
  match f with
  | 0x80 => 2
  | 0x0A => 1
  | 0x0B => 1
  | _ => fmtWidth f

/-- An address moved by a signed distance. What it becomes past the ends of the address space the spec does not say: it
wraps, modulo 2^48. Log 101 (DESIGN CHOICE). -/
def addrPlus (a : Nat) (d : Int) : Nat := (((a : Int) + d) % (2 ^ 48 : Int)).toNat

def recSrcRow (r : List Dword) (row : Nat) : Nat := addrPlus (recSrc r) (row * recSs r)
def recDstRow (r : List Dword) (row : Nat) : Nat := addrPlus (recDst r) (row * recDs r)

def isDeb (f : Nat) : Bool := f == 4 || f == 5

/-- The limits of R82 and R84 whose breach is status 0x03. DEBX accepts planes that are not 32-byte aligned. Log 90
(DESIGN CHOICE). -/
def recOk (r : List Dword) : Bool :=
  let op := recOp r
  let sf := recSf r
  let df := recDf r
  let w0 := recW r 0
  let ss := recSs r
  let ds := recDs r
  let rows := recRows r
  let elems := recElems r
  let mult (x : Int) (n : Nat) : Bool := x % (n : Int) == 0
  let common := !bitOf w0 56 && bitsOf w0 38 36 == 0 && bitsOf w0 15 8 == 0 && bitsOf w0 59 57 ≤ 4 &&
    ([1, 2, 6, 7].all fun k => recW r k / 2 ^ 48 == 0) && rows != 0 && elems != 0 &&
    recW r 6 % 4 == 0 && recW r 7 % 64 == 0
  let opOk := match op with
    | 0 => sf == 0 && df == 0 && ss == 0 && ds == 0 && recAux r == 0
    | 1 => sf == 0 && df == 0 && recAux r == 0
    | 2 => (cvtPair sf df || ([0x80, 0x0A, 0x0B].contains sf && (df == 1 || df == 2))) && recAux r == 0 &&
        recSrc r % recWidth sf == 0 && mult ss (recWidth sf) && recDst r % recWidth df == 0 && mult ds (recWidth df)
    | 3 => isDeb sf && (df == 1 || df == 2) && elems % 32 == 0 && recDst r % fmtWidth df == 0 && mult ds (fmtWidth df)
    | 4 => ([1, 2, 3].contains sf || isDeb sf) && df == 6 && bitsOf w0 41 40 == 0 && elems % 64 == 0 && ds == 0 &&
        (if isDeb sf then recSrc r % 32 == 0
         else recSrc r % (if sf == 3 then 64 else fmtWidth sf) == 0 && mult ss (fmtWidth sf)) &&
        recDst r % 64 == 0 && recAux r % 4 == 0
    | 5 => sf == 0 && df == 0 && elems == 1024
    | 6 => sf == 0 && df == 0 && elems == 1024
    | 7 => sf == 0 && df == 0 && recSrc r == 0 && ss == 0
    | _ => false
  common && opOk

/-! ### Accesses of an engine (R34, R36, R86, R94): each to bytes of one aligned 64-byte block -/

/-- The status of a fault of an engine's access, with the address logged. A closed cohort window and reason 7, which R86
does not name, are 0x02. Log 102 (DESIGN CHOICE). -/
def ceStatus (f : Flt) : Nat × Nat :=
  (if f.cause == 4 && f.reason != 9 then 0x01 else if f.cause == 0x17 then 0x09 else 0x02, f.addr)

/-- An engine's accesses are made in task mode, whoever started the chain. Log 93 (DESIGN CHOICE). -/
def ceAcc (k : AccKind) (n : Nat) : Acc := ⟨.copy, k, n, true⟩

/-- Why an engine does not come further: its access waits, for a page walk (R32) or for a Span port (R338); it needs the
source bytes from `va` on, which it has not read, of a part that ends before `fin`; or the record stops, with a status
and the address logged. -/
inductive CeErr where
  | wait
  | miss (va fin : Nat)
  | stop (st addr : Nat)
  deriving DecidableEq, Repr

/-- The place of an engine's access, or why there is none, with the TLBs filled (R32). -/
def State.cePlace (s : State) (k : AccKind) (ctx : BitVec 12) (va n : Nat) : Except (CeErr × State) Res :=
  if s.walkHeld ctx va then .error (.wait, s)
  else match s.resolve ctx (ceAcc k n) va with
  | .error f => .error (.stop (ceStatus f).1 (ceStatus f).2, s.filled ctx va)
  | .ok r => if s.reaches ctx r.pl va then .ok r else .error (.wait, s.fillRes r)

/-- The least of the first `n` offsets at which something holds. -/
def firstOf (n : Nat) (p : Nat → Bool) : Option Nat := (List.range n).find? p

/-- One read: its bytes, and the state with the TLBs filled (R32). -/
def State.ceRead (s : State) (ctx : BitVec 12) (va n : Nat) : Except (CeErr × State) (List Byte × State) :=
  match s.cePlace .load ctx va n with
  | .error x => .error x
  | .ok r =>
    match firstOf n fun i => r.pl.plain && s.poisoned (r.pl.key s + i) 1 with
    | some i => .error (.stop 0x09 (va + i), s.fillRes r)
    | none => .ok (toBytes (match r.pl with
      | .own off => s.ownRead off n
      | pl => s.rd (pl.key s) n) n, s.fillRes r)

/-- The lowest byte of a write that lies in a set borrowed by a task of the context (R127, R350). -/
def State.inBorrowed (s : State) (ctx : BitVec 12) (va n : Nat) : Option Nat :=
  let a := s.canon va
  firstOf n fun i => s.dir.any fun d => d.ctx = ctx && d.base ≤ a + i && a + i < d.base + d.len

/-- A watchpoint with ENG that a copy write matches makes 0x11 pending, and the channel starts no record until it is taken
(R332). -/
def State.watchEngine (s : State) (e va n : Nat) : State :=
  match s.watchHit 19 (s.canon va) n with
  | some w => (s.pendWatch va (w + (e + 1) * 16)).updCe e fun c => { c with watched := true }
  | none => s

/-- The poisoned units that a write at `key` meets are cleared, where the engine's write of the addresses `cover`, of
which this is a part at `va`, covers them; the first byte in a unit that it covers in part makes the write one that is not
performed (R333). -/
def State.clearRun (s : State) (key n va : Nat) (cover : Nat × Nat) : Except Nat State :=
  let part (u : Nat) : Bool := !(cover.1 + key ≤ va + u && va + u + eccSize u ≤ cover.2 + key)
  match firstOf n fun i => s.poison.any fun u => u ≤ key + i && key + i < u + eccSize u && part u with
  | some i => .error (va + i)
  | none => .ok { s with poison := s.poison.filter fun u => n == 0 || !(u < key + n && key < u + eccSize u) }

/-- One write of bytes, a part of the engine's write of the addresses `cover`. One that covers a poisoned unit in part
is status 0x09. Log 103 (DESIGN CHOICE). -/
def State.ceWrite (s : State) (e : Nat) (ctx : BitVec 12) (va : Nat) (bs : List Byte) (cover : Nat × Nat) :
    Except (CeErr × State) State :=
  let n := bs.length
  match s.cePlace .store ctx va n with
  | .error x => .error x
  | .ok r =>
    let stop (st a : Nat) : Except (CeErr × State) State := .error (.stop st a, s.fillRes r)
    match s.inBorrowed ctx va n with
    | some i => stop 0x05 (va + i)
    | none =>
      match firstOf n fun i => match r.pl with
          | .own off => s.ownStoreRefused (off + i)
          | pl => s.objProtected (pl.key s + i) 1 with
      | some i => stop 0x02 (va + i)
      | none =>
        match (s.fillRes r).clearRun (r.pl.key s) (if r.pl.plain then n else 0) va cover with
        | .error a => stop 0x09 a
        | .ok s =>
          let s := s.watchEngine e va n
          .ok (match r.pl with
            | .own off => s.ownWrite off n (ofBytes bs)
            | pl => s.wrBytes (pl.key s) bs)

/-- The length of the access that starts at `va`, of a part that ends before `fin`. -/
def blockPart (va fin : Nat) : Nat := min (64 - va % 64) (fin - va)

/-! ### Bytes read and held -/

def Piece.covers (p : Piece) (va : Nat) : Bool := p.va ≤ va && va < p.va + p.len

/-- `n` bytes at `va`, which lie in one block, from what has been read; where they have not been, the part from `va` on that
ends before `fin` is needed. -/
def heldGet (held : List Piece) (va n fin : Nat) : Except CeErr (List Byte) :=
  match held.find? (·.covers va) with
  | none => .error (.miss va fin)
  | some p => match p.fail with
    | some f => .error (.stop f.1 f.2)
    | none => .ok ((p.bytes.drop (va - p.va)).take n)

/-- `n` bytes from `va` on, through as many blocks as they take. -/
def heldBytes (held : List Piece) (va fin : Nat) : Nat → Except CeErr (List Byte)
  | 0 => .ok []
  | n + 1 =>
    match heldGet held va 1 fin with
    | .error x => .error x
    | .ok b => (heldBytes held (addrPlus va 1) fin n).map (b ++ ·)

/-! ### Extents and overlap (R85) -/

/-- From the lowest to past the highest byte of `rows` rows of `len` bytes. -/
def rowsExtent (base : Nat) (stride : Int) (rows len : Nat) : Nat × Nat :=
  let last := addrPlus base (((rows : Int) - 1) * stride)
  (min base last, max base last + len)

def State.canonExtent (s : State) (x : Nat × Nat) : Nat × Nat :=
  let lo := s.canon x.1
  (lo, lo + (x.2 - x.1))

/-- The stored length of a source tile as COMPRESS writes it: header, form, and padding to a multiple of 4 bytes of the
stream, not of the address. Log 95 (DESIGN CHOICE). -/
def packedTile (bs : List Byte) : List Byte :=
  let f := tileForm bs
  let hdr := f.1.toNat * 2 ^ 30 + f.2.length * 2 ^ 13
  toBytes hdr 4 ++ f.2 ++ List.replicate ((4 - f.2.length % 4) % 4) 0

/-- `n` bytes from `va` on as the memory holds them now, where each can be read, with the TLBs filled by their walks. -/
def State.cePeek (s : State) (ctx : BitVec 12) (va : Nat) : Nat → Except (CeErr × State) (List Byte × State)
  | 0 => .ok ([], s)
  | n + 1 =>
    match s.ceRead ctx va 1 with
    | .error x => .error x
    | .ok b => match b.2.cePeek ctx (addrPlus va 1) n with
      | .error x => .error x
      | .ok t => .ok (b.1 ++ t.1, t.2)

/-- How many bytes a record's extent holds that its data decide, with the state after they have been looked at; or the state in
which that has to wait, for a page walk or for a Span port. -/
abbrev Span := Except State (Nat × State)

/-- Bytes that a packed stream of `n` tiles spans from `va`. How far it reaches where a tile fails the checks of R51, or a
header cannot be read, the spec does not say: it goes on past such a tile by the LEN of its header, and a header that cannot
be read ends it with the header's 4 bytes. Log 127 (DESIGN CHOICE). -/
def State.packedSpan (s : State) (ctx : BitVec 12) (va : Nat) : Nat → Span
  | 0 => .ok (0, s)
  | n + 1 =>
    match s.cePeek ctx va 4 with
    | .error (.wait, s) => .error s
    | .error (_, s) => .ok (4, s)
    | .ok h =>
      let len := (bitsOf (ofBytes h.1) 23 13 + 3) / 4 * 4 + 4
      match h.2.packedSpan ctx (addrPlus va len) n with
      | .error s => .error s
      | .ok t => .ok (len + t.1, t.2)

/-- The bytes COMPRESS writes for the first `n` tiles. How far its destination reaches where a source tile cannot be read the
spec does not say: such a tile counts no byte, and the later ones go on. Log 127 (DESIGN CHOICE). -/
def State.compressSpan (s : State) (ctx : BitVec 12) (r : List Dword) : Nat → Span
  | 0 => .ok (0, s)
  | n + 1 =>
    match s.compressSpan ctx r n with
    | .error s => .error s
    | .ok t => match t.2.cePeek ctx (recSrcRow r n) 1024 with
      | .error (.wait, s) => .error s
      | .error (_, s) => .ok (t.1, s)
      | .ok bs => .ok (t.1 + (packedTile bs.1).length, bs.2)

/-- The bytes of the destination of COMPRESS, up to its capacity, or of the source of DECOMPRESS. -/
def State.recSpan (s : State) (ctx : BitVec 12) (r : List Dword) : Span :=
  match recOp r with
  | 5 => (s.compressSpan ctx r (recRows r)).map fun t => (min t.1 (recAux r), t.2)
  | 6 => s.packedSpan ctx (recSrc r) (recRows r)
  | _ => .ok (0, s)

/-- The scale plane of a DEB record (R70): AUX names it by its bits 47:0; the table reserves no others, and they are not
looked at. Log 94 (DESIGN CHOICE). -/
def recScales (r : List Dword) (row : Nat) : Nat := addrPlus (recAux r % 2 ^ 48) (row * recElems r / 16)

/-- Bytes of a row of the element plane of a DEB record. -/
def debLen (r : List Dword) : Nat := if recSf r == 4 then recElems r else recElems r / 2

/-- Source extents of a record, whose packed stream spans `span` bytes, as canonical ranges. -/
def State.recSources (s : State) (r : List Dword) (span : Nat) : List (Nat × Nat) :=
  let rows := recRows r
  let elems := recElems r
  let sw := recWidth (recSf r)
  let scales := (recAux r % 2 ^ 48, recAux r % 2 ^ 48 + rows * elems / 16)
  (match recOp r with
    | 0 => [(recSrc r, recSrc r + rows * elems)]
    | 1 => [rowsExtent (recSrc r) (recSs r) rows elems]
    | 2 => [rowsExtent (recSrc r) (recSs r) rows (elems * sw)]
    | 3 => [rowsExtent (recSrc r) (recSs r) rows (debLen r), scales]
    | 4 => if isDeb (recSf r) then [rowsExtent (recSrc r) (recSs r) rows (debLen r), scales]
      else rowsExtent (recSrc r) (recSs r) rows (elems * sw) ::
        (if recAux r == 0 then [] else [(recAux r % 2 ^ 48, recAux r % 2 ^ 48 + 4 * rows)])
    | 5 => [rowsExtent (recSrc r) (recSs r) rows 1024]
    | 6 => [(recSrc r, recSrc r + span)]
    | _ => []).map s.canonExtent

/-- The destination extent of a record, whose packed stream spans `span` bytes, as a canonical range. -/
def State.recDest (s : State) (r : List Dword) (span : Nat) : Nat × Nat :=
  let rows := recRows r
  let elems := recElems r
  s.canonExtent (match recOp r with
    | 0 => (recDst r, recDst r + rows * elems)
    | 1 => rowsExtent (recDst r) (recDs r) rows elems
    | 2 => rowsExtent (recDst r) (recDs r) rows (elems * recWidth (recDf r))
    | 3 => rowsExtent (recDst r) (recDs r) rows (elems * recWidth (recDf r))
    | 4 => (recDst r, recDst r + 192 * rows * elems / 64 + rows)
    | 5 => (recDst r, recDst r + span)
    | 6 => rowsExtent (recDst r) (recDs r) rows 1024
    | _ => rowsExtent (recDst r) (recDs r) rows elems)

/-- The lowest byte that a source extent shares with the destination extent, named as the two are compared: a byte of a
window by the global view. Log 104 (DESIGN CHOICE). With the state after the look, or the one in which it has to wait. -/
def State.recOverlap (s : State) (ctx : BitVec 12) (r : List Dword) : Except State (Option Nat × State) :=
  (s.recSpan ctx r).map fun n =>
    let d := s.recDest r n.1
    (((s.recSources r n.1).filterMap fun x =>
      if x.1 < d.2 && d.1 < x.2 then some (max x.1 d.1) else none).foldl
      (fun acc x => some (match acc with
        | some y => min x y
        | none => x)) none, n.2)

/-! ### What an element, a column or a tile becomes (R84), from the source bytes held -/

/-- A weight of a BUILD column: its exact value, or `none` for a NaN or an infinity. -/
def finiteOf (v : Val) : Option (Bool × Nat × Int) :=
  match v with
  | .fin s m e => some (s, m, e)
  | _ => none

/-- An integer as an exact value. -/
def intVal (x : Int) : Val := .fin (x < 0) x.natAbs 0

/-- A DEB element and its block's exponents (R70). -/
def debElem (held : List Piece) (r : List Dword) (row k : Nat) : Except CeErr (Nat × Nat × Nat) :=
  let four := recSf r == 5
  let src := recSrcRow r row
  let sc := recScales r row
  match heldGet held (addrPlus src (if four then k / 2 else k)) 1 (src + debLen r),
      heldGet held (addrPlus sc (2 * (k / 32))) 1 (sc + recElems r / 16),
      heldGet held (addrPlus sc (2 * (k / 32) + 1)) 1 (sc + recElems r / 16) with
  | .ok b, .ok e0, .ok e1 =>
    let b := ofBytes b
    .ok (if four then (if k % 2 == 0 then b % 16 else b / 16) else b, ofBytes e0, ofBytes e1)
  | .error x, _, _ => .error x
  | _, .error x, _ => .error x
  | _, _, .error x => .error x

/-- Source element `k` of a row of a format of whole bytes. -/
def plainElem (held : List Piece) (r : List Dword) (row k : Nat) : Except CeErr Nat :=
  let w := recWidth (recSf r)
  let src := recSrcRow r row
  (heldGet held (addrPlus src (w * k)) w (src + w * recElems r)).map ofBytes

/-- Source element `k` of column `row` as an exact value (R84). -/
def buildElem (held : List Piece) (r : List Dword) (row k : Nat) : Except CeErr Val :=
  if isDeb (recSf r) then
    (debElem held r row k).map fun x => debVal (recSf r == 5) x.2.1 x.2.2 (recAdj r) x.1
  else (plainElem held r row k).map fun x => match recSf r with
    | 1 => bf16.val x
    | 2 => fp32.val x
    | _ => intVal (signedOf 8 x)

/-- The scale of a column: 1 where there is none. -/
def buildScale (held : List Piece) (r : List Dword) (row : Nat) : Except CeErr Val :=
  if isDeb (recSf r) || recAux r == 0 then .ok (.fin false 1 0)
  else
    let a := recAux r % 2 ^ 48
    (heldGet held (addrPlus a (4 * row)) 4 (a + 4 * recRows r)).map fun b => fp32.val (ofBytes b)

/-- A column's weights; status 0x06 with the element's address for a NaN or an infinity. -/
def buildColumn (held : List Piece) (r : List Dword) (row : Nat) : Except CeErr (List (Bool × Nat × Int)) :=
  match buildScale held r row with
  | .error x => .error x
  | .ok sc =>
    (List.range (recElems r)).foldl (fun acc k =>
      match acc with
      | .error x => .error x
      | .ok l =>
        match buildElem held r row k with
        | .error x => .error x
        | .ok v =>
          match (v.mul sc).bind finiteOf with
          | some f => .ok (l ++ [f])
          | none =>
            let d := if recSf r == 5 then k / 2 else if recSf r == 4 then k else recWidth (recSf r) * k
            .error (.stop 0x06 (addrPlus (recSrcRow r row) d))) (.ok [])

/-- A magnitude m * 2^e is greater. -/
def magLt (a b : Bool × Nat × Int) : Bool :=
  let q := min a.2.2 b.2.2
  a.2.1 * 2 ^ (a.2.2 - q).toNat < b.2.1 * 2 ^ (b.2.2 - q).toNat

/-- The grid of a column (R75): exponent byte, every q, and the flags. -/
def gridColumn (ws : List (Bool × Nat × Int)) : Nat × List Int × FFlags :=
  let m := ws.foldl (fun m w => if magLt m w then w else m) (false, 0, 0)
  let e0 : Int := if m.2.1 == 0 then 0 else
    let e := max 0 (floorLog2 m.2.1 1 m.2.2 + 128)
    if (roundAt .rne false m.2.1 1 (m.2.2 + 144 - e) 0).1 == 131072 then e + 1 else e
  let big := 255 < e0
  let e := if big then 255 else e0
  let qs := ws.map fun w =>
    let t := roundAt .rne w.1 w.2.1 1 (w.2.2 + 144 - e) 0
    ((if w.1 then -(t.1 : Int) else (t.1 : Int)), t.2)
  let clamp (x : Int) : Int := if x < -131072 then -131072 else if 131071 < x then 131071 else x
  let q2 := if big then qs.map fun q => clamp q.1 else qs.map (·.1)
  let moved := q2 != qs.map (·.1)
  (e.toNat, q2, fWhen (qs.any (·.2)) fNX ||| fWhen moved (fOF ||| fNX))

/-- The partial sums of a column by K-block, as ST24 entries (R74). -/
def columnBlocks (qs : List Int) : Nat → List (List Byte)
  | 0 => []
  | n + 1 => ((partialSums (qs.take 64)).flatMap fun x => toBytes (intBits 24 x) 3) :: columnBlocks (qs.drop 64) n

/-- A row of BUILD, COMPRESS or DECOMPRESS formed from its source: what is to be written, the bytes of the stream that it
takes, its flags. -/
structure RowForm where
  out : List WriteRun
  take : Nat
  flags : FFlags

/-- Bytes written one after the other. -/
def runOf (va : Nat) (bs : List Byte) : WriteRun := ⟨va, false, bs, (va, va + bs.length)⟩

/-- One column of BUILD: its K-blocks, then its exponent byte. -/
def buildRow (held : List Piece) (r : List Dword) (row : Nat) : Except CeErr RowForm :=
  match buildColumn held r row with
  | .error x => .error x
  | .ok ws =>
    let g := gridColumn ws
    let n := recElems r / 64
    let blocks := (columnBlocks g.2.1 n).zipIdx.map fun b =>
      let a := addrPlus (recDst r) (192 * (b.2 * recRows r + row))
      (⟨a, true, b.1, (a, a + 192)⟩ : WriteRun)
    .ok ⟨blocks ++ [runOf (addrPlus (recDst r) (192 * recRows r * n + row)) [BitVec.ofNat 8 g.1]], 0, g.2.2⟩

/-- One tile of COMPRESS at output position `pos`; what would pass the capacity is not written. -/
def compressRow (held : List Piece) (r : List Dword) (row pos : Nat) : Except CeErr RowForm :=
  let src := recSrcRow r row
  (heldBytes held src (src + 1024) 1024).map fun bs =>
    let out := packedTile bs
    ⟨[runOf (addrPlus (recDst r) pos) (out.take (recAux r - pos))], out.length, 0⟩

/-- One tile of DECOMPRESS at source position `pos`. -/
def decompressRow (held : List Piece) (r : List Dword) (row pos : Nat) : Except CeErr RowForm :=
  let a := addrPlus (recSrc r) pos
  match heldBytes held a (a + 4) 4 with
  | .error x => .error x
  | .ok hs =>
    let h := ofBytes hs
    let len := bitsOf h 23 13
    match heldBytes held (addrPlus a 4) (a + 4 + len) len with
    | .error x => .error x
    | .ok bs =>
      match tileExpand ⟨BitVec.ofNat 2 (bitsOf h 31 30), granules len, len, 0⟩ bs with
      | none => .error (.stop 0x08 a)
      | some t => .ok ⟨[runOf (recDstRow r row) t], 4 + (len + 3) / 4 * 4, 0⟩

/-- Whether an operation's unit of progress is a whole row. -/
def rowOp (r : List Dword) : Bool := recOp r == 4 || recOp r == 5 || recOp r == 6

def rowForm (held : List Piece) (r : List Dword) (row pos : Nat) : Except CeErr RowForm :=
  match recOp r with
  | 4 => buildRow held r row
  | 5 => compressRow held r row pos
  | _ => decompressRow held r row pos

/-- Where byte `k` of row `row` of a PLAIN or STRIDED source lies, and the end of its part. -/
def plainSrc (r : List Dword) (row k : Nat) : Nat × Nat :=
  if recOp r == 0 then (addrPlus (recSrc r) (row * recElems r + k), recSrc r + recRows r * recElems r)
  else (addrPlus (recSrcRow r row) k, recSrcRow r row + recElems r)

/-- Width of an element as it is written, of an operation whose progress counts elements. -/
def destWidth (r : List Dword) : Nat := if recOp r == 2 || recOp r == 3 then recWidth (recDf r) else 1

/-- One element of such an operation: the bytes that it writes, and its flags. -/
def elemValue (held : List Piece) (r : List Dword) (row k : Nat) : Except CeErr (List Byte × FFlags) :=
  let g := if recDf r == 1 then bf16 else fp32
  match recOp r with
  | 2 => (plainElem held r row k).map fun x =>
      let v := match recSf r with
        | 0x80 => fConv fp16 g (recRnd r) x
        | 0x0A => fromOfp8 true g x
        | 0x0B => fromOfp8 false g x
        | f => convertElem f (recDf r) (recRnd r) (recSat r) x
      (toBytes v.1 (destWidth r), v.2)
  | 3 => (debElem held r row k).map fun x =>
      let v := debExpand (recSf r == 5) g x.2.1 x.2.2 (recAdj r) x.1
      (toBytes v.1 (destWidth r), v.2)
  | 7 => .ok ([BitVec.ofNat 8 (bitsOf (recAux r) (8 * (k % 8) + 7) (8 * (k % 8)))], 0)
  | _ =>
    let a := plainSrc r row k
    (heldGet held a.1 1 a.2).map fun b => (b, 0)

/-- Where an element goes. -/
def elemDest (r : List Dword) (row k : Nat) : Nat :=
  if recOp r == 0 then addrPlus (recDst r) (row * recElems r + k) else addrPlus (recDstRow r row) (destWidth r * k)

/-- How many elements from element `k` of row `row` on one access writes: those of its row, or of a PLAIN record, that lie
in one 64-byte block; where `left` is some count of bytes, no more than those. -/
def elemCount (r : List Dword) (row k : Nat) (left : Option Nat) : Nat :=
  let w := destWidth r
  let room := (64 - elemDest r row k % 64) / w
  let rest := if recOp r == 0 then (recRows r - row) * recElems r - k else recElems r - k
  min (min room rest) (match left with
    | some n => n / w
    | none => room)

/-- Elements from index `i` on, up to `n` of them: their bytes and flags, how many there are, and why there are no
more. -/
def elemsFrom (held : List Piece) (r : List Dword) : Nat → Nat → List Byte × FFlags × Nat × Option CeErr
  | _, 0 => ([], 0, 0, none)
  | i, n + 1 =>
    match elemValue held r (i / recElems r) (i % recElems r) with
    | .error x => ([], 0, 0, some x)
    | .ok v =>
      let t := elemsFrom held r (i + 1) n
      (v.1 ++ t.1, v.2 ||| t.2.1, t.2.2.1 + 1, t.2.2.2)

/-! ### The next access of a record -/

/-- What a step of a payload comes to: the state after it; or why it does not come further, with the state so far. -/
abbrev CeGot := Except (CeErr × State) State

/-- The source bytes needed are read: one access, whose bytes are held. -/
def State.ceFetch (s : State) (e va fin : Nat) : CeGot :=
  let n := blockPart va fin
  match s.ceRead (s.ce e).ctx va n with
  | .error x => .error x
  | .ok b => .ok (b.2.updCe e fun c => { c with held := c.held ++ [⟨va, n, b.1, none⟩] })

/-- A reason not to come further met: bytes that are needed are read. -/
def State.ceNeed (s : State) (e : Nat) (x : CeErr) : CeGot :=
  match x with
  | .miss va fin => s.ceFetch e va fin
  | x => .error (x, s)

/-- The first source byte, from byte `i` on, that the channel has not read, of the next `n`. -/
def Ce.unread (c : Ce) : Nat → Nat → Nat
  | 0, i => i
  | n + 1, i =>
    let a := plainSrc c.rcd (i / recElems c.rcd) (i % recElems c.rcd)
    match c.held.find? (·.covers a.1) with
    | some p => c.unread n (i + min (a.2 - a.1) (p.va + p.len - a.1))
    | none => i

/-- Bytes, or elements, of a record's payload. -/
def Ce.total (c : Ce) : Nat := recRows c.rcd * recElems c.rcd

/-- The progress of a record as a count of elements. -/
def Ce.index (c : Ce) : Nat := c.progRows.toNat * recElems c.rcd + c.progElems.toNat

/-- The channel reads the whole source first, from byte `i` on, but for what it has read. -/
def Ce.scanFrom (c : Ce) (i : Nat) : Ce := { c with scan := some (c.unread (c.total - i) i) }

/-- A record that reads its whole source first reads on: one access, or why it cannot be read, which is found again when
the byte is to be written (R85). -/
def State.ceScan (s : State) (e i : Nat) : CeGot :=
  let c := s.ce e
  let a := plainSrc c.rcd (i / recElems c.rcd) (i % recElems c.rcd)
  let n := blockPart a.1 a.2
  let got (s : State) (p : Piece) : CeGot := .ok (s.updCe e fun c => Ce.scanFrom { c with held := c.held ++ [p] } i)
  match s.ceRead c.ctx a.1 n with
  | .error (.stop st addr, s) => got s ⟨a.1, n, [], some (st, addr)⟩
  | .error x => .error x
  | .ok b => got b.2 ⟨a.1, n, b.1, none⟩

/-- `n` more elements have been written. -/
def Ce.wrote (c : Ce) (n : Nat) : Ce :=
  let i := c.index + n
  let row := i / recElems c.rcd
  { c with
    progRows := BitVec.ofNat 32 row, progElems := BitVec.ofNat 32 (i % recElems c.rcd), bytes := c.bytes + n * destWidth c.rcd
    held := if c.scan.isSome || row == c.progRows.toNat then c.held
      else if recOp c.rcd == 0 then c.held.drop (c.held.length - 1) else [] }

/-- The elements that the next access of such an operation is to write, as far as their source has been read. -/
def Ce.elems (c : Ce) (left : Option Nat) : List Byte × FFlags × Nat × Option CeErr :=
  elemsFrom c.held c.rcd c.index (elemCount c.rcd c.progRows.toNat c.progElems.toNat left)

/-- One access of an operation whose progress counts elements: source bytes read, or elements written. What comes before
a byte that cannot be read is written first (R86). -/
def State.ceElems (s : State) (e : Nat) (left : Option Nat) : CeGot :=
  let c := s.ce e
  let g := c.elems left
  let put (s : State) : CeGot :=
    let a := elemDest c.rcd c.progRows.toNat c.progElems.toNat
    match s.ceWrite e c.ctx a g.1 (a, a + g.1.length) with
    | .error x => .error x
    | .ok s => .ok ((s.orFlags g.2.1).updCe e (·.wrote g.2.2.1))
  match g.2.2.2 with
  | some (.miss va fin) =>
    match s.ceFetch e va fin with
    | .error (.stop st addr, s) => if g.1.isEmpty then .error (.stop st addr, s) else put s
    | x => x
  | some x => if g.1.isEmpty then .error (x, s) else put s
  | none => put s

/-- ST24 entries of 3 bytes written in order, each whole or not at all (R94): what is left, and the state. -/
def ceEntries (e : Nat) (ctx : BitVec 12) (cover : Nat × Nat) :
    Nat → List Byte → Nat → State → (Nat × List Byte) × State × Option CeErr
  | va, bs, 0, s => ((va, bs), s, none)
  | va, bs, n + 1, s =>
    let m := min 3 (64 - va % 64)
    let rest (t : State) : Except (CeErr × State) State :=
      if m == 3 then .ok t else t.ceWrite e ctx (addrPlus va m) ((bs.take 3).drop m) cover
    match (s.ceWrite e ctx va (bs.take m) cover).bind rest with
    | .error x => ((va, bs), { s with tlb := x.2.tlb, l2tlb := x.2.l2tlb }, some x.1)
    | .ok s => ceEntries e ctx cover (addrPlus va 3) (bs.drop 3) n s

/-- How many ST24 entries from `va` on one access writes: those that lie in its 64-byte block, or one that two blocks
share, which is written whole (R36, R94); where `left` is some count of bytes, no more than reach it. -/
def entryCount (va : Nat) (left : Option Nat) : Nat :=
  min (max 1 ((64 - va % 64) / 3)) (match left with
    | some n => (n + 2) / 3
    | none => 22)

/-- One access of a row operation that writes: what is left of its first run, and the state. -/
def State.ceRun (s : State) (e : Nat) (u : WriteRun) (left : Option Nat) : (Nat × List Byte) × State × Option CeErr :=
  let ctx := (s.ce e).ctx
  if u.entries then ceEntries e ctx u.cover u.va u.bytes (min (u.bytes.length / 3) (entryCount u.va left)) s
  else
    let n := min (blockPart u.va (u.va + u.bytes.length)) (left.getD 64)
    let bs := u.bytes.take n
    match s.ceWrite e ctx u.va bs (u.va, u.va + n) with
    | .error x => ((u.va, u.bytes), x.2, some x.1)
    | .ok s => ((addrPlus u.va n, u.bytes.drop n), s, none)

/-- A row whose writes have all been made is complete; COMPRESS that has reached its capacity is not (R84). -/
def State.ceRowDone (s : State) (e : Nat) : CeGot :=
  let c := s.ce e
  match c.out, c.formed with
  | [], some (take, _) =>
    if recOp c.rcd == 5 && recAux c.rcd < c.outPos + take then
      .error (.stop 0x07 (addrPlus (recDst c.rcd) (recAux c.rcd)), s)
    else .ok (s.updCe e fun c => { c with
      progRows := c.progRows + 1, progElems := 0, outPos := c.outPos + take, formed := none, held := [] })
  | _, _ => .ok s

/-- One access of BUILD, COMPRESS or DECOMPRESS: source bytes read, or bytes of a formed row written. The flags of a column
of BUILD are those of its grid, and reach FPSTAT with the first of its bytes (R67). -/
def State.ceRows (s : State) (e : Nat) (left : Option Nat) : CeGot :=
  let c := s.ce e
  match c.out, c.formed with
  | u :: t, f =>
    let g := s.ceRun e u left
    let flags : FFlags := if g.1.2.length < u.bytes.length then (match f with
      | some x => x.2
      | none => 0) else 0
    let s := (g.2.1.orFlags flags).updCe e fun c => { c with
      out := if g.1.2.isEmpty then t else { u with va := g.1.1, bytes := g.1.2 } :: t
      bytes := c.bytes + (u.bytes.length - g.1.2.length) }
    match g.2.2 with
    | some x => .error (x, s)
    | none => s.ceRowDone e
  | [], some _ => s.ceRowDone e
  | [], none =>
    match rowForm c.held c.rcd c.progRows.toNat c.outPos with
    | .error x => s.ceNeed e x
    | .ok f => (s.updCe e fun c => { c with out := f.out.filter (!·.bytes.isEmpty), formed := some (f.take, f.flags) }).ceRowDone e

/-- Before a stop, the bytes to the next 128-byte boundary of what the record writes. -/
def Ce.left (c : Ce) (stopping : Bool) : Option Nat := if stopping then some (128 - c.bytes % 128) else none

/-- The next access of the payload; before a stop, none passes a 128-byte boundary of what the record writes. -/
def State.cePay (s : State) (e : Nat) (stopping : Bool) : CeGot :=
  let c := s.ce e
  let left := c.left stopping
  match c.scan with
  | some i => if i < c.total then s.ceScan e i else s.ceElems e left
  | none => if rowOp c.rcd then s.ceRows e left else s.ceElems e left

/-- The whole payload has been written. -/
def Ce.paid (c : Ce) : Bool := recRows c.rcd ≤ c.progRows.toNat

/-- Up to `n` accesses of a payload, one after the other, to its end. -/
def payAll (e : Nat) : Nat → State → CeGot
  | 0, s => .ok s
  | n + 1, s =>
    if (s.ce e).paid then .ok s
    else match s.cePay e false with
      | .error x => .error x
      | .ok s => payAll e n s

/-! ### The channel (R80 to R87) -/

/-- The cause a status is reported with; none for 0x0B (R86). -/
def statusCause (st : Nat) : Option Nat :=
  match st with
  | 0x04 => some 0x1A
  | 0x08 => some 0x19
  | 0x09 => some 0x17
  | 0x0B => none
  | 0x0C => some 0x14
  | _ => some 0x10

def resumable (st : Nat) : Bool := st == 0x01 || st == 0x0C

/-- Word 0 of the record at CEHEAD written by the engine. -/
def State.ceWord0 (s : State) (e : Nat) (v : Nat) : Except (CeErr × State) State :=
  s.ceWrite e (s.ce e).ctx (s.ce e).head (toBytes v 8) ((s.ce e).head, (s.ce e).head + 8)

/-- The status of a record that stops put into its word 0; the address and reason `none` where that must wait. Where word 0
cannot be read or written, or the record has already ended, it is left as it is. Log 105 (DESIGN CHOICE). -/
def State.ceMark (s : State) (e st : Nat) : Option State :=
  let c := s.ce e
  if c.stage = .next then some s
  else
    let w0 : Except (CeErr × State) (Nat × State) := match c.rcd with
      | w :: _ => .ok (w.toNat, s)
      | [] => (s.ceRead c.ctx c.head 8).map fun b => (ofBytes b.1, b.2)
    match w0 with
    | .error (.wait, _) => none
    | .error (_, s) => some s
    | .ok w => match w.2.ceWord0 e (setBits w.1 55 48 st) with
      | .error (.wait, _) => none
      | .error (_, s) => some s
      | .ok s => some s

/-- An uncorrectable error that an engine has met is counted at its wing (R333). -/
def State.ceEcc (s : State) (ctx : BitVec 12) (va : Nat) : State :=
  match s.resolve ctx (ceAcc .load 1) va with
  | .ok r => if r.pl.plain && s.poisoned (r.pl.key s) 1 then s.eccHit (eccUnit (r.pl.key s)) else s
  | .error _ => s

/-- A change of STATE, or the end of a record, ends a `wfe` (R255). -/
def State.ceState (s : State) (e : Nat) (st : CeState) : State :=
  (s.updCe e fun c => { c with state := st }).wake

/-- A record has ended with a nonzero status, which word 0 tells already (R86). One that fails its checks before PEND was
counted leaves its handle as it is. Log 91 (DESIGN CHOICE). -/
def State.ceStopped (s : State) (e st addr : Nat) : State :=
  let c := s.ce e
  let s := if st == 0x09 then s.ceEcc c.ctx addr else s
  let s := if c.counted && !resumable st && st != 0x0B then s.updHandle (recHandle c.rcd) (·.failed (BitVec.ofNat 8 st)) else s
  let s := s.updCe e fun c => { c with
    status := BitVec.ofNat 8 st, erra := if st == 0x0B then c.erra else addr, counted := c.counted && resumable st
    stop := none, nvme := false }
  let s := s.ceState e .stopped
  match statusCause st with
  | some cause => s.pendCause cause addr (st + e * 2 ^ 8 + bitsOf c.head 47 6 * 2 ^ 9)
  | none => s

/-- A record stops with a status: word 0 first, as soon as it can be written. -/
def State.ceStop (s : State) (e st addr : Nat) : State :=
  match if st == 0x0B then some s else s.ceMark e st with
  | some s => s.ceStopped e st addr
  | none => s.updCe e fun c => { c with stop := some (st, addr), nvme := false }

/-- The channel starts on the record at `head`. -/
def State.ceGo (s : State) (e head : Nat) : State :=
  (s.updCe e fun c => { c with head, rcd := [], counted := false, bytes := 0, outPos := 0, held := [], scan := none
                               out := [], formed := none, stage := .payload, stop := none, progRows := 0
                               progElems := 0, nvme := false, chain := true }).ceState e .run

/-- A kill in progress names the channel's context (R90). -/
def State.ceKilled (s : State) (e : Nat) : Bool := !s.modl.killDone && s.modl.killCtx = (s.ce e).ctx

/-- The record of a killed context ends, and the channel is idle with CEHEAD 0 (R90). -/
def State.ceEndKilled (s : State) (e : Nat) : State :=
  (s.ceStop e 0x0B (s.ce e).head).updCe e fun c => { c with
    owner := none, head := 0, state := .idleEnd, status := 0, rcd := [], kick := false, counted := false, chain := false }

/-- NEXT of a record that has ended is looked at again (R83), which the checks of a record look at (R82). A word 7 that
cannot be read stops that record, whose word 0 stays as it is; RESUME looks again. Log 106 (DESIGN CHOICE). -/
def State.ceNext (s : State) (e : Nat) : State :=
  let c := s.ce e
  match s.ceRead c.ctx (addrPlus c.head 56) 8 with
  | .error (.stop st addr, s) => (s.updCe e fun c => { c with stage := .next }).ceStop e st addr
  | .error (_, s) => s.updCe e fun c => { c with kick := true }
  | .ok (b, s) =>
    let v := ofBytes b
    let s := s.updCe e fun c => { c with kick := false }
    if v == 0 then s
    else if v / 2 ^ 48 != 0 || v % 64 != 0 then (s.updCe e fun c => { c with stage := .next }).ceStop e 0x03 c.head
    else s.ceGo e v

/-- KICK in STATE 0 or 1: the record at CEHEAD is read again, or its NEXT (R81, R83). Where the channel has run no chain since
reset, or since a kill set CEHEAD to 0, no record has ended there and a KICK finds nothing; the spec does not name the case.
Log 126 (DESIGN CHOICE). -/
def State.ceLook (s : State) (e : Nat) : State :=
  match (s.ce e).state with
  | .idleOwn => s.ceGo e (s.ce e).head
  | .idleEnd => if (s.ce e).chain then s.ceNext e else s.updCe e fun c => { c with kick := false }
  | _ => s

/-- The channel becomes idle; a latched KICK acts now (R81). -/
def State.ceIdle (s : State) (e : Nat) (st : CeState) : State :=
  let k := (s.ce e).kick
  let s := (s.updCe e fun c => { c with kick := false }).ceState e st
  if k then s.ceLook e else s

/-- A chain started by the core's task: ERR on misuse (R81). A KICK that is latched stays so. One of a context that is
being killed is discarded (R90). `starter` is the task that the chain counts as started by (R123, R246). Bits 63:48 of what is
written are dropped, and a stopped record that is abandoned leaves its handle FILLING even where it was the last: log 107
(DESIGN CHOICE). -/
def State.ceStartNow (s : State) (starter : Option TaskKey) (e head : Nat) : State :=
  let c := s.ce e
  if c.state = .run || c.state = .wait || head % 64 != 0 then s.updCe e fun c => { c with err := true }
  else if !s.modl.killDone && s.modl.killCtx = s.ctx then s
  else
    let s := if c.state = .stopped && c.counted then
        s.updHandle (recHandle c.rcd) fun h => { h with pend := h.pend - 1 } else s
    (s.updCe e fun c => { c with ctx := s.ctx, owner := starter, status := 0 }).ceGo e (head % 2 ^ 48)

/-- A chain start, deferred once the task holds a borrow (R81, R127); a seventeenth deferred operation is
loan discipline, given as a fault. -/
def State.ceStart (s : State) (e head : Nat) : Except Flt State :=
  match s.task with
  | none => .ok (s.ceStartNow none e head)
  | some k =>
    if s.borrows k then
      match s.findRec k with
      | some r =>
        if 16 ≤ r.deferred.length then .error ⟨0x0B, 0, 0⟩
        else .ok (s.updRec k fun r => { r with deferred := r.deferred ++ [.chain (BitVec.ofNat 1 e) head] })
      | none => .ok (s.ceStartNow k e head)
    else .ok (s.ceStartNow k e head)

/-- ABORT (R81): the record ends without a further byte. A record of a context that is being killed is ended by the
kill. -/
def State.ceAbort (s : State) (e : Nat) : State :=
  let c := s.ce e
  if (c.state = .run || c.state = .wait) && c.stop.isNone && !s.ceKilled e then s.ceStop e 0x0A c.head else s

/-- Source bytes that could not be read are to be read again: of a record that reads its whole source first, before it goes
on to write (R85). -/
def Ce.reread (c : Ce) : Ce :=
  if c.scan.isSome then
    Ce.scanFrom { c with held := c.held.filter fun p => !(p.fail.any fun f => resumable f.1) } 0
  else { c with held := [] }

/-- RESUME (R81). -/
def State.ceResume (s : State) (e : Nat) : State :=
  let c := s.ce e
  if c.state = .stopped && resumable c.status.toNat then
    (s.updCe e fun c => Ce.reread { c with status := 0 }).ceState e .run
  else s.updCe e fun c => { c with err := true }

/-- KICK (R81). -/
def State.ceKick (s : State) (e : Nat) : State :=
  match (s.ce e).state with
  | .idleOwn => s.ceLook e
  | .idleEnd => s.ceLook e
  | .stopped => s
  | _ => s.updCe e fun c => { c with kick := true }

/-- A CECTL write: CLR, ABORT, RESUME and KICK in turn (R80); the spec gives no order. Log 108 (DESIGN CHOICE). -/
def State.ceCtl (s : State) (e v : Nat) : State :=
  let s := if bitOf v 3 then s.updCe e fun c => { c with err := false } else s
  let s := if bitOf v 2 then s.ceAbort e else s
  let s := if bitOf v 1 then s.ceResume e else s
  if bitOf v 0 then s.ceKick e else s

def CeState.code : CeState → Nat
  | .idleOwn => 0
  | .idleEnd => 1
  | .run => 2
  | .wait => 3
  | .stopped => 4

/-- A channel register as read (R80), by its offset in the block. -/
def State.ceReg (s : State) (e off : Nat) : Nat :=
  let c := s.ce e
  match off with
  | 0x00 => c.head
  | 0x10 => c.ctx.toNat * 2 ^ 52 + (if c.state = .stopped then c.status.toNat * 2 ^ 8 else 0) + b2n c.err * 8 +
      c.state.code
  | 0x18 => c.progRows.toNat * 2 ^ 32 + c.progElems.toNat
  | 0x20 => c.erra
  | _ => 0

/-- The context that leaves the core at a pre-emption, or that has left it in DOUBLE-HALT, where it is the one that ran last. -/
def State.outCtx (s : State) : BitVec 12 := if s.task.isSome then s.ctx else s.recent.headD 0

/-- The core's task is recalled, and the channel's record is one that it started (R123). -/
def State.ceRecalled (s : State) (e : Nat) : Bool := s.recalled && (s.ce e).owner = s.task

/-- The channel is to stop: it runs for the outgoing context of a core that is pre-empted, swapped or halted (R87, R321), for a
task that is recalled (R123), or for a context that is killed (R90). -/
def State.ceHalts (s : State) (e : Nat) : Bool :=
  ((s.preemptOn || s.core.clerk.run = .doubleHalt) && (s.ce e).ctx = s.outCtx) || s.ceRecalled e || s.ceKilled e

/-- The last bytes that a record of BUILD has written are those of an ST24 entry. -/
def Ce.afterEntry (c : Ce) : Bool :=
  match c.out with
  | u :: t => recOp c.rcd == 4 && (u.va != u.cover.1 || t.length < recElems c.rcd / 64)
  | [] => false

/-- Where a channel may stop: between records, waiting for a handle, or at a 128-byte boundary of what its record writes;
an ST24 entry across one is written whole (R94). A record that waits for an NVMe controller has none. Log 109 (DEDUCED). -/
def Ce.atBoundary (c : Ce) : Bool :=
  !c.nvme && c.stop.isNone &&
    (c.state != .run || c.rcd.isEmpty || c.paid || c.bytes % 128 == 0 || (c.bytes % 128 < 3 && c.afterEntry))

/-- Whether the engine may go on with its chain. -/
def State.ceFree (s : State) (e : Nat) : Bool := !s.ceHalts e

/-- Rows of a record: where each reads and writes, and its length in bytes. -/
def nvmeRows (r : List Dword) : List (Nat × Nat × Nat) :=
  (List.range (recRows r)).map fun i => ((plainSrc r i 0).1, elemDest r i 0, recElems r)

/-- A row at `va` from its byte `d` on, `n` bytes of it, cut where pages of 64 KiB end: address, place in the row and
length of each part. -/
def pageParts (va : Nat) : Nat → Nat → Nat → List (Nat × Nat × Nat)
  | 0, _, _ => []
  | fuel + 1, d, n =>
    if n == 0 then []
    else
      let a := addrPlus va d
      let m := min (0x1_0000 - a % 0x1_0000) n
      (a, d, m) :: pageParts va fuel (d + m) (n - m)

/-- The NVMe namespace that `n` bytes at `va`, in one page, meet, and the physical address there (R341). -/
def State.nvmeAt (s : State) (ctx : BitVec 12) (k : AccKind) (va n : Nat) : Option ((Nat × Nat × Nat) × Nat) :=
  if s.nvmeWin.isEmpty then none
  else match s.resolve ctx (ceAcc k 1) va with
  | .ok ⟨.mem pa, _⟩ => (s.nvmeWin.find? fun w => w.1 < pa + n && pa < w.1 + w.2.1).map fun w => (w, pa)
  | _ => none

/-- A row of `n` bytes at `va` meets an NVMe namespace (R341). -/
def State.nvmeMeets (s : State) (ctx : BitVec 12) (k : AccKind) (va n : Nat) : Bool :=
  (pageParts va (n / 0x1_0000 + 2) 0 n).any fun p => (s.nvmeAt ctx k p.1 p.2.2).isSome

/-- Such a row does not start on a block boundary of a namespace or does not cover whole blocks of it (R341). A part of
it that is not mapped says nothing yet: its fault comes first. -/
def State.nvmeRowBad (s : State) (ctx : BitVec 12) (k : AccKind) (va n : Nat) : Bool :=
  let fits (p : Nat × Nat × Nat) : Bool := match s.nvmeAt ctx k p.1 p.2.2 with
    | some (w, pa) => w.1 ≤ pa && pa + p.2.2 ≤ w.1 + w.2.1 && (pa - w.1) % w.2.2 == p.2.1 % w.2.2 && n % w.2.2 == 0
    | none => match s.resolve ctx (ceAcc k 1) p.1 with
      | .ok _ => false
      | .error _ => true
  s.nvmeMeets ctx k va n && !(pageParts va (n / 0x1_0000 + 2) 0 n).all fits

/-- Some row that the record has still to write lies in an NVMe namespace (R341). -/
def State.nvmeDest (s : State) (e : Nat) : Bool :=
  let c := s.ce e
  recOp c.rcd ≤ 1 && !s.nvmeWin.isEmpty &&
    ((nvmeRows c.rcd).drop c.progRows.toNat).any fun x => s.nvmeMeets c.ctx .store x.2.1 x.2.2

/-- The first row still to be copied that does not cover whole blocks of a namespace, source or destination: its address
(R341). -/
def State.nvmeBad (s : State) (e : Nat) : Option Nat :=
  let c := s.ce e
  let src (x : Nat × Nat × Nat) : Bool := c.scan.all (· < c.total) && s.nvmeRowBad c.ctx .load x.1 x.2.2
  if 1 < recOp c.rcd || s.nvmeWin.isEmpty then none
  else (((nvmeRows c.rcd).drop c.progRows.toNat).find? fun x => src x || s.nvmeRowBad c.ctx .store x.2.1 x.2.2).map fun x =>
    if src x then x.1 else x.2.1

/-- A record that has been read and checked: it waits for its handle, or starts (R83, R89). -/
def State.ceBegin (s : State) (e : Nat) : State :=
  let r := (s.ce e).rcd
  if !recHv r then s
  else if (s.handle (recHandle r)).st = .filling then
    (s.updHandle (recHandle r) Handle.start).updCe e fun c => { c with counted := true }
  else s.ceState e .wait

/-- The checks of a record that has been read (R82, R84, R85, R341); one that overlaps itself, or that writes to an NVMe
namespace, reads its whole source before it writes. Where the look at its extents has to wait it is read again. -/
def State.ceCheck (s : State) (e : Nat) (r : List Dword) : State :=
  let c := s.ce e
  if !recOk r then s.ceStop e 0x03 c.head
  else match s.nvmeBad e with
    | some a => s.ceStop e 0x02 a
    | none =>
      let whole (s : State) : State := (s.updCe e fun c => { c with scan := some 0 }).ceBegin e
      match s.recOverlap c.ctx r with
      | .error s => s.updCe e fun c => { c with rcd := [] }
      | .ok (some a, s) => if 1 < recOp r then s.ceStop e 0x04 (a % 2 ^ 48) else whole s
      | .ok (none, s) => if s.nvmeDest e then whole s else s.ceBegin e

/-- A watchpoint that a record of the channel matched is pending (R332). -/
def State.ceWatched (s : State) (e : Nat) : Bool := (s.ce e).watched && s.core.clerk.pend.any fun p => p.code = 0x11

/-- A channel reads and checks its next record (R83); it starts none while a watchpoint it matched is
pending (R332). An idle channel with a KICK that has not acted yet looks for work. -/
def State.ceReadRecord (s : State) (e : Nat) : State :=
  let c := s.ce e
  if !s.ceFree e then s
  else if c.state = .idleEnd && c.kick then s.ceLook e
  else if c.state ≠ .run || c.stop.isSome then s
  else if c.stage = .next then (s.ceState e .idleEnd).ceNext e
  else if !c.rcd.isEmpty || s.ceWatched e then s
  else match s.ceRead c.ctx c.head 64 with
    | .error (.stop st addr, s) => s.ceStop e st addr
    | .error (_, s) => s
    | .ok (b, s) =>
      let r := (List.range 8).map fun i => BitVec.ofNat 64 (ofBytes ((b.drop (8 * i)).take 8))
      if !bitOf (recW r 0) 63 then s.ceIdle e .idleOwn
      else (s.updCe e fun c => { c with rcd := r }).ceCheck e r

/-- A record waiting in STATE 3 finds its handle FILLING and starts (R83, R89). -/
def State.ceHandleReady (s : State) (e : Nat) : State :=
  let c := s.ce e
  if c.state = .wait && c.stop.isNone && s.ceFree e && (s.handle (recHandle c.rcd)).st = .filling then
    ((s.updHandle (recHandle c.rcd) Handle.start).updCe e fun c => { c with counted := true }).ceState e .run
  else s

/-- What follows the payload, one access at a time: the completion word, the handle (R89), word 0, and then the next
record (R83). -/
def State.ceFinish (s : State) (e : Nat) : CeGot :=
  let c := s.ce e
  let r := c.rcd
  let at_ (s : State) (st : CeStage) : State := s.updCe e fun c => { c with stage := st }
  match c.stage with
  | .payload => .ok (at_ s .completion)
  | .completion =>
    if bitOf (recW r 0) 62 then
      let a := recW r 6 % 2 ^ 48
      match s.ceWrite e c.ctx a (toBytes (recW r 3 / 2 ^ 32) 4) (a, a + 4) with
      | .error x => .error x
      | .ok s => .ok (at_ s .handle)
    else .ok (at_ s .handle)
  | .handle =>
    let s := if c.counted then s.updHandle (recHandle r) (·.ended (bitOf (recW r 0) 60) c.bytes) else s
    .ok (s.updCe e fun c => { c with counted := false, stage := .word0 })
  | _ =>
    match s.ceWord0 e (setBits (setBits (recW r 0) 63 63 0) 55 48 0) with
    | .error x => .error x
    | .ok s =>
      let next := recW r 7 % 2 ^ 48
      let s := (s.updCe e fun c => { c with rcd := [], held := [] }).wake
      .ok (if next == 0 then s.ceIdle e .idleEnd else s.ceGo e next)

/-- The next access of a record that is under way. The rules of R341 hold of rows whose pages were mapped to a namespace
later, too. A completion word or a word 0 that cannot be written stops the record
with the status of that write, the latter after its handle has ended. Log 105 (DESIGN CHOICE). -/
def State.ceStep (s : State) (e : Nat) : CeGot :=
  let c := s.ce e
  if c.paid then s.ceFinish e
  else match s.nvmeBad e with
  | some a => .error (.stop 0x02 a, s)
  | none =>
    if !s.nvmeDest e then s.cePay e (s.ceHalts e)
    else match c.scan with
    | none => .ok (s.updCe e fun c => c.scanFrom c.index)
    | some i => if i < c.total then s.cePay e (s.ceHalts e) else .ok (s.updCe e fun c => { c with nvme := true })

/-- Whether a record goes on now: one that is to stop goes on to a boundary. -/
def State.ceRunning (s : State) (e : Nat) : Bool :=
  let c := s.ce e
  c.state = .run && !c.rcd.isEmpty && c.stop.isNone && !c.nvme && c.stage != .next && (s.ceFree e || !c.atBoundary)

/-- COPY_RECORD_COMPLETE: the next access of a record that meets no error; with the last one the record completes. -/
def State.ceComplete (s : State) (e : Nat) : State :=
  if s.ceRunning e then
    match s.ceStep e with
    | .ok s => s
    | .error _ => s
  else s

/-- COPY_RECORD_STOP: an access that meets an error stops the record (R86), which ends one of a killed context (R90); and a
record that stops once word 0 can be written. -/
def State.ceFail (s : State) (e : Nat) : State :=
  match (s.ce e).stop with
  | some x => if s.ceKilled e then s.ceEndKilled e else s.ceStop e x.1 x.2
  | none =>
    if s.ceRunning e then
      match s.ceStep e with
      | .error (.stop st addr, s) => if s.ceKilled e then s.ceEndKilled e else s.ceStop e st addr
      | .error (_, s) => s
      | .ok _ => s
    else s

/-- The controller reports an NVMe write (R341): all that the record writes is performed. A record of a killed context ends
with that (R90). -/
def State.nvmeDone (s : State) (e : Nat) (good : Bool) : State :=
  let c := s.ce e
  if c.state = .run && c.nvme then
    if good then
      match payAll e c.total s with
      | .ok s =>
        let s := s.updCe e fun c => { c with nvme := false }
        if s.ceKilled e then s.ceEndKilled e else s
      | .error (.stop st addr, s) => if s.ceKilled e then s.ceEndKilled e else s.ceStop e st addr
      | .error (_, s) => s
    else if s.ceKilled e then s.ceEndKilled e
    else s.ceStop e 0x02 (recDst c.rcd)
  else s

/-- The source address that a record reads next. -/
def Ce.source (c : Ce) : Nat :=
  let i := match c.scan with
    | some i => i
    | none => c.index
  (plainSrc c.rcd (i / recElems c.rcd) (i % recElems c.rcd)).1

/-- The controller reports an error of an NVMe read of the record (R341). -/
def State.nvmeReadBad (s : State) (e : Nat) : State :=
  let c := s.ce e
  if c.state = .run && !c.rcd.isEmpty && !c.paid && !c.nvme && c.stop.isNone && recOp c.rcd ≤ 1 &&
      c.scan.all (· < c.total) && (s.nvmeAt c.ctx .load c.source 1).isSome then
    if s.ceKilled e then s.ceEndKilled e else s.ceStop e 0x09 c.source
  else s

/-- The address of the access that a channel makes next. -/
def State.ceAddr (s : State) (e : Nat) : Nat :=
  let c := s.ce e
  let here (g : Except CeErr RowForm) : Nat := match g with
    | .error (.miss va _) => va
    | .error _ => c.head
    | .ok f => match f.out.filter (!·.bytes.isEmpty) with
      | u :: _ => u.va
      | [] => c.head
  if c.stage = .next || c.state = .idleEnd then addrPlus c.head 56
  else if c.rcd.isEmpty || c.stop.isSome then c.head
  else if c.paid then (if bitOf (recW c.rcd 0) 62 && (c.stage = .payload || c.stage = .completion) then recW c.rcd 6 % 2 ^ 48 else c.head)
  else match c.out with
    | u :: _ => u.va
    | [] =>
      if rowOp c.rcd then here (rowForm c.held c.rcd c.progRows.toNat c.outPos)
      else if c.scan.any (· < c.total) then c.source
      else
        let g := c.elems (c.left (s.ceHalts e))
        let dest := elemDest c.rcd c.progRows.toNat c.progElems.toNat
        match g.2.2.2 with
        | some (.miss va fin) => match s.ceFetch e va fin with
          | .error (.stop _ _, _) => if g.1.isEmpty then va else dest
          | _ => va
        | _ => dest

/-- The channel has an access outstanding, or a command of an NVMe controller: one that is to stop and stands at its boundary,
waits for a handle or has a watchpoint pending has none (R330). -/
def State.ceSent (s : State) (e : Nat) : Bool :=
  let c := s.ce e
  c.stop.isSome || match c.state with
  | .run =>
    if c.nvme then true
    else if c.stage = .next then s.ceFree e
    else if c.rcd.isEmpty then s.ceFree e && !s.ceWatched e
    else s.ceRunning e && c.stage != .handle
  | .idleEnd => c.kick && c.chain && s.ceFree e
  | _ => false

/-- A memory timeout of a channel's access (R86): the record stops with the address of that access; a record that waits to
write its status stops without. -/
def State.ceTimeout (s : State) (e : Nat) : State :=
  let c := s.ce e
  if !s.ceSent e then s
  else match c.stop with
  | some x => if s.ceKilled e then s.ceEndKilled e else s.ceStopped e x.1 x.2
  | none =>
    if s.ceKilled e then s.ceEndKilled e
    else
      let addr := s.ceAddr e
      let s := if c.state = .idleEnd then s.updCe e fun c => { c with stage := .next, kick := false } else s
      s.ceStop e 0x0C addr

/-- A channel that is to stop goes on, by at most `n` accesses, to the 128-byte boundary at which it stops (R87). At a
boundary it makes none. Log 109 (DEDUCED). -/
def State.ceToBoundary (e : Nat) : Nat → State → State
  | 0, s => s
  | n + 1, s => if s.ceHalts e && !(s.ce e).atBoundary then State.ceToBoundary e n (s.ceComplete e) else s

/-- COPY_BOUNDARY_STOP (R87, R90, R123): a channel that is to stop and stands at a 128-byte boundary. A pre-empted record
stays in STATE 2 with its progress; a killed or recalled one ends with status 0x0B, and a recall frees its handle. A record
that stands stopped in STATE 4 is left as it is. Log 92 (DESIGN CHOICE). -/
def State.ceBoundary (s : State) (e : Nat) : State :=
  let c := s.ce e
  if (c.state = .run || c.state = .wait) && s.ceHalts e && c.atBoundary then
    if s.ceKilled e then s.ceEndKilled e
    else if s.ceRecalled e then
      let s := if c.counted then s.updHandle (recHandle c.rcd) fun _ => Handle.reset else s
      s.ceStop e 0x0B c.head
    else s
  else s

end Sys2Proof.Machine
end

