-- ==== Sys2Proof/Machine/Grid.lean ====
section
/-! DEFINITION. The grid of a core: places and tokens (R155, R157), routing (R174), folios (R162 to R169), the
folio scheduler (R134 to R138), the application of configuration words (R166, R167, R177), barriers (R160, R161),
containment (R324) and quiescence (R136, R325). Rows and columns are physical. -/

namespace Sys2Proof.Machine

/-! ### Places (R4, R170, R172) -/

def dirIdx : Dir → Nat
  | .n => 0
  | .e => 1
  | .s => 2
  | .w => 3

/-- GRIDMAP.D. -/
def State.spare (s : State) : Nat := s.gridmap.toNat

/-- The physical grid: columns 1 to 17 without column D. -/
def State.isFe (s : State) (r c : Nat) : Bool := 1 ≤ r && r ≤ 16 && 1 ≤ c && c ≤ 17 && c != s.spare

/-- The physical column of a logical one. -/
def State.physCol (s : State) (c : Nat) : Nat := if c < s.spare then c else c + 1

/-- The logical column of a physical one. -/
def State.logCol (s : State) (c : Nat) : Nat := if c < s.spare then c else c - 1

/-- The next place in direction `d`; column D is passed over. -/
def State.neighbour (s : State) (r c d : Nat) : Nat × Nat :=
  match d with
  | 0 => (r - 1, c)
  | 1 => (r, if c + 1 == s.spare then c + 2 else c + 1)
  | 2 => (r + 1, c)
  | _ => (r, if c - 1 == s.spare then c - 2 else c - 1)

/-! ### Tokens (R155) -/

def dataTok (v : Nat) : Token := ⟨0, BitVec.ofNat 32 v⟩
def voidTok : Token := ⟨13, 0⟩
def endTok (l v : Nat) : Token := ⟨BitVec.ofNat 4 l, BitVec.ofNat 32 v⟩
def errTok (v : Nat) : Token := ⟨9, BitVec.ofNat 32 v⟩
def barTok (v : Nat) : Token := ⟨8, BitVec.ofNat 32 v⟩

/-- A token that counts for a firing: kind 0 or 13 (R158). -/
def Token.isData (t : Token) : Bool := t.kind = 0 || t.kind = 13
def Token.isVoid (t : Token) : Bool := t.kind = 13
def Token.isEnd (t : Token) : Bool := 1 ≤ t.kind.toNat && t.kind.toNat ≤ 7
def Token.isBar (t : Token) : Bool := t.kind = 8
def Token.isErr (t : Token) : Bool := t.kind = 9
def Token.barId (t : Token) : Byte := t.payload.setWidth 8

/-- The fabric reason for which an operator's input does not consume a token (R156), 0 for none. -/
def Token.badReason (t : Token) : Nat := if t.kind = 12 then 2 else if 14 ≤ t.kind.toNat then 1 else 0

/-! ### Registers of an FE (R173 to R176) -/

def State.fe (s : State) (r c : Nat) : Fe :=
  match s.core.fab.fes.find? (·.1 = (r, c)) with
  | some e => e.2
  | none => Fe.reset

def State.updFe (s : State) (r c : Nat) (f : Fe → Fe) : State :=
  s.updFab fun b => { b with fes := assocPut b.fes (r, c) (f (s.fe r c)) }

def Fe.code (f : Fe) : Nat := bitsOf f.kind.toNat 3 0
def Fe.sub (f : Fe) : Nat := bitsOf f.kind.toNat 15 8
def Fe.byp (f : Fe) : Nat := bitsOf f.kind.toNat 17 16
def Fe.rnd (f : Fe) : Rnd := Rnd.ofCode (bitsOf f.kind.toNat 19 18)
def Fe.sat (f : Fe) : Bool := bitOf f.kind.toNat 20

/-- Parameter register `k`. -/
def Fe.param (f : Fe) (k : Nat) : Nat := (f.p.toList.getD k 0).toNat

/-- COUNT of REPL, at least 1. -/
def Fe.copies (f : Fe) : Nat := max 1 (bitsOf f.repl.toNat 6 0)

/-- The side of input slot `i`: N 0, E 1, S 2, W 3. -/
def Fe.side (f : Fe) (i : Nat) : Option Nat :=
  let x := bitsOf f.route.toNat (4 * i + 2) (4 * i)
  if 1 ≤ x && x ≤ 4 then some (x - 1) else none

/-- The track that feeds a side's port. -/
def Fe.feed (f : Fe) (side : Nat) : Nat := bitsOf f.route.toNat (2 * side + 17) (2 * side + 16)

/-- SRC of crossing `k` = 4 * direction + track. -/
def Fe.cross (f : Fe) (k : Nat) : Nat := bitsOf f.xing.toNat (4 * k + 3) (4 * k)

def Fe.rateIn (f : Fe) (i : Nat) : Nat := bitsOf f.rate.toNat (4 * i + 3) (4 * i)
def Fe.rateOut (f : Fe) (k : Nat) : Nat := bitsOf f.rate.toNat (4 * k + 15) (4 * k + 12)

/-- The input slots that ROUTE routes. -/
def Fe.slots (f : Fe) : List Nat := (List.range 3).filter fun i => (f.side i).isSome

/-- The crossings that name output slot `k`. -/
def Fe.ownRegs (f : Fe) (k : Nat) : List Nat := (List.range 16).filter fun x => f.cross x == 8 + k

def Fe.routed (f : Fe) (k : Nat) : Bool := !(f.ownRegs k).isEmpty

/-- The output slots that are routed. -/
def Fe.outs (f : Fe) : List Nat := (List.range 4).filter f.routed

/-! ### FIFOs, windows and emit queues (R157) -/

/-- The tokens of a side, window first. -/
def Fe.held (f : Fe) (side : Nat) : List Token := f.window.getD side [] ++ f.fifo.getD side []

/-- The window holds the first 15 tokens of a side, the FIFO the others. -/
def Fe.setHeld (f : Fe) (side : Nat) (q : List Token) : Fe :=
  { f with window := updAt f.window side fun _ => q.take 15, fifo := updAt f.fifo side fun _ => q.drop 15 }

/-- What follows the next level-7 end or error end, and whether there was one. -/
def dropStream : List Token → List Token × Bool
  | [] => ([], false)
  | t :: q => if t.kind = 7 || t.isErr then (q, true) else dropStream q

/-- An input closed by an error end on another one discards (R159). -/
def Fe.purge (f : Fe) (i : Nat) : Fe :=
  if f.discard.getD i false then
    match f.side i with
    | some sd =>
      let r := dropStream (f.held sd)
      { f.setHeld sd r.1 with discard := updAt f.discard i fun _ => !r.2 }
    | none => { f with discard := updAt f.discard i fun _ => false }
  else f

def Fe.purgeAll (f : Fe) : Fe := ((f.purge 0).purge 1).purge 2

def Fe.inRoom (f : Fe) (side : Nat) : Bool := f.sealed || (f.held side).length < 19

/-- A token enters a side's FIFO; a sealed FE discards it (R324). -/
def Fe.arrive (f : Fe) (side : Nat) (t : Token) : Fe :=
  if f.sealed then f else (f.setHeld side (f.held side ++ [t])).purgeAll

/-- The tokens of input slot `i` that its window shows. -/
def Fe.win (f : Fe) (i : Nat) : List Token :=
  match f.side i with
  | some sd => f.window.getD sd []
  | none => []

def Fe.head (f : Fe) (i : Nat) : Option Token := (f.win i).head?

/-- `n` tokens taken from input slot `i`; those of IN0 count in POS (R323). -/
def Fe.take (f : Fe) (i n : Nat) : Fe :=
  match f.side i with
  | some sd =>
    let f := f.setHeld sd ((f.held sd).drop n)
    if i == 0 then { f with pos := f.pos + n } else f
  | none => f

/-- Free places of an emit queue; a token in a register that the slot feeds is still its first. -/
def Fe.emitRoom (f : Fe) (k : Nat) : Nat :=
  15 - ((f.emit.getD k []).length + b2n ((f.ownRegs k).any fun x => (f.track.getD x none).isSome))

/-- The emit queue's head to every crossing that names the slot, once all of their registers are free (R174). -/
def Fe.refill (f : Fe) (k : Nat) : Fe :=
  if (f.ownRegs k).all fun x => (f.track.getD x none).isNone then
    match f.emit.getD k [] with
    | [] => f
    | t :: q => { f with
        emit := updAt f.emit k fun _ => q
        track := (f.ownRegs k).foldl (fun l x => updAt l x fun _ => some t) f.track }
  else f

/-- Tokens given to output slot `k`; an unrouted slot takes none. -/
def Fe.send (f : Fe) (k : Nat) (ts : List Token) : Fe :=
  if f.routed k then ({ f with emit := updAt f.emit k fun q => q ++ ts }).refill k else f

/-- Every routed output has at least `n` free places. -/
def Fe.roomAll (f : Fe) (n : Nat) : Bool := f.outs.all fun k => n ≤ f.emitRoom k

def Fe.sendAll (f : Fe) (ts : List Token) : Fe := f.outs.foldl (fun f k => f.send k ts) f

/-! ### Where a token goes (R157, R174, R273, R298, R361) -/

/-- A place that takes a token: an input port, a switch-box register, an absorb lane's track, an A channel, a
plane port, or `tmu.in`. -/
inductive Dest where
  | port (r c side : Nat)
  | reg (r c k : Nat)
  | lane (p t : Nat)
  | meA (e k : Nat)
  | mePlane (e : Nat)
  | tmu
  deriving DecidableEq, Repr

/-- The places of a rectangle's copies, copy 0 first (R176). -/
def State.rectangle (s : State) (r c : Nat) (f : Fe) : List (Nat × Nat) :=
  let w := max 1 (bitsOf f.repl.toNat 12 8)
  (List.range f.copies).map fun i => (r + i / w, s.physCol (s.logCol c + i % w))

/-- The FE holds a copy, other than copy 0, of a replicated operator: it gives up its own (R176). -/
def State.isCopy (s : State) (r c : Nat) : Bool :=
  s.core.fab.fes.any fun x => x.1 ≠ (r, c) && 1 < x.2.copies && (x.2.live || x.2.startPending) &&
    (r, c) ∈ s.rectangle x.1.1 x.1.2 x.2

/-- The places that take a token which leaves (r, c) in direction `d` on track `t`. The inputs that an FE's own ROUTE names
take none while it holds a copy of another's operator (R176). -/
def State.dests (s : State) (r c d t : Nat) : List Dest :=
  let n := s.neighbour r c d
  let side := (d + 2) % 4
  if s.isFe n.1 n.2 then
    let f := s.fe n.1 n.2
    (if f.slots.any (fun i => f.side i = some side) && f.feed side == t && !s.isCopy n.1 n.2 then [Dest.port n.1 n.2 side]
      else []) ++
      ((List.range 16).filter fun k => k % 4 == t && f.cross k == side + 1).map fun k => Dest.reg n.1 n.2 k
  else if n.2 == 0 && d == 3 && 1 ≤ n.1 && n.1 ≤ 16 then [.lane (n.1 - 1) t]
  else if n.2 == 18 && d == 1 && 1 ≤ n.1 && n.1 ≤ 16 then
    let e := (n.1 - 1) / 8
    let k := (n.1 - 1) % 8
    if t == 0 then [.meA e k] else if t == 1 && k == 1 then [.mePlane e] else []
  else if n.1 == 17 && d == 2 && n.2 == s.physCol 1 && t == 0 then [.tmu]
  else []

def State.port (s : State) (p : Nat) : Port := s.core.ports.getD p Port.reset
def State.updPort (s : State) (p : Nat) (f : Port → Port) : State :=
  s.updCore fun c => { c with ports := updAt c.ports p f }

def State.me (s : State) (e : Nat) : Me := s.core.mes.getD e Me.reset
def State.updMe (s : State) (e : Nat) (f : Me → Me) : State :=
  s.updCore fun c => { c with mes := updAt c.mes e f }

def State.updTmu (s : State) (f : Tmu → Tmu) : State := s.updCore fun c => { c with tmu := f c.tmu }

/-- The next of a switch-box register's run: where the run goes on. -/
def Dest.step : Dest → Option (Nat × Nat × Nat × Nat)
  | .reg r c k => some (r, c, k / 4, k % 4)
  | _ => none

/-- The consumers that runs from the places of `todo` end at. -/
def traceRuns (s : State) : Nat → List (Nat × Nat × Nat × Nat) → List (Nat × Nat × Nat × Nat) → List Dest → List Dest
  | 0, _, _, acc => acc
  | _, [], _, acc => acc
  | n + 1, x :: todo, seen, acc =>
    if x ∈ seen then traceRuns s n todo seen acc
    else
      let ds := s.dests x.1 x.2.1 x.2.2.1 x.2.2.2
      traceRuns s n (ds.filterMap Dest.step ++ todo) (x :: seen) (acc ++ ds.filter fun d => d.step.isNone)

/-- A bound on the registers that runs pass. -/
def runFuel : Nat := 8192

def Dest.unit : Dest → Option UnitRef
  | .port r c _ => some (.fe r c)
  | .reg _ _ _ => none
  | .lane p _ => some (.lane p)
  | .meA e _ => some (.me e)
  | .mePlane e => some (.plane e)
  | .tmu => some .tmu

/-- The units that an output slot's runs end at. -/
def State.slotEnds (s : State) (r c k : Nat) : List UnitRef :=
  (traceRuns s runFuel (((s.fe r c).ownRegs k).map fun x => (r, c, x / 4, x % 4)) [] []).filterMap Dest.unit

/-- The reply target of a MEM with TP = 1 (R192). -/
def Fe.replyTo (f : Fe) : Option (Nat × Nat × Nat) :=
  if f.code == 7 && bitOf (f.param 3) 31 then
    some (f.param 3 % 32, bitsOf (f.param 3) 9 5, bitsOf (f.param 3) 11 10)
  else none

/-- The units that what a unit emits reaches first. -/
def State.unitEnds (s : State) (u : UnitRef) : List UnitRef :=
  match u with
  | .fe r c => ((List.range 4).flatMap fun k => s.slotEnds r c k) ++
      (match (s.fe r c).replyTo with
      | some x => [.fe x.1 x.2.1]
      | none => [])
  | .lane p => (traceRuns s runFuel ((List.range 4).map fun t => (p + 1, 0, 1, t)) [] []).filterMap Dest.unit
  | .me e => (traceRuns s runFuel [(8 * e + 8, 18, 3, 0)] [] []).filterMap Dest.unit
  | .tmu => (traceRuns s runFuel [(17, s.physCol 2, 0, 0)] [] []).filterMap Dest.unit
  | _ => []

/-! ### Barriers and their sinks (R161, R252) -/

/-- The units that routing leads to from units, and the sinks among them. -/
def forward (s : State) : Nat → List UnitRef → List UnitRef → List UnitRef → List UnitRef × List UnitRef
  | 0, _, seen, acc => (seen, acc)
  | _, [], seen, acc => (seen, acc)
  | n + 1, u :: todo, seen, acc =>
    if u ∈ seen then forward s n todo seen acc
    else match u with
      | .fe r c =>
        if (s.fe r c).outs.isEmpty then forward s n todo (u :: seen) (u :: acc)
        else forward s n (s.unitEnds u ++ todo) (u :: seen) acc
      | .tmu =>
        let ends := s.unitEnds .tmu
        if ends.isEmpty then forward s n todo (u :: seen) (u :: acc)
        else forward s n (ends ++ todo) (u :: seen) acc
      | _ => forward s n todo (u :: seen) (u :: acc)

/-- The units that routing leads to from one unit, and the sinks among them. -/
def State.wayFrom (s : State) (u : UnitRef) : List UnitRef × List UnitRef := forward s runFuel (s.unitEnds u) [] []

/-- An element with a word still to be applied, of a folio load up to number `n` or of an `scfg`. -/
def State.wordsDue (s : State) (n : Nat) : UnitRef → Bool
  | .fe r c => (s.core.fab.loads.any fun l => l.id ≤ n && (r, c) ∈ l.left) ||
      ((s.fe r c).waiting.any fun w => w.2.isNone)
  | _ => false

/-- The first barrier of a list for which `p` holds, changed by `g`. -/
def Barrier.updFirst (p : Barrier → Bool) (g : Barrier → Barrier) : List Barrier → List Barrier
  | [] => []
  | b :: t => if p b then g b :: t else b :: Barrier.updFirst p g t

/-- A barrier is at a sink. Several barriers with one id may be under way there; they arrive in the order in which they were
injected (R160), so that this one is the earliest that has yet to reach the sink. -/
def State.sinkReached (s : State) (u : UnitRef) (id : Byte) : State :=
  let awaits (b : Barrier) : Bool := b.id = id && !(u ∈ b.reached) && (u ∈ b.sinks || !b.untraced.isEmpty)
  s.updFab fun f => { f with bars := Barrier.updFirst awaits (fun b => { b with reached := u :: b.reached }) f.bars }

/-- A barrier has been injected by every unit that was to, and has reached every sink that routing leads to. -/
def Barrier.done (b : Barrier) : Bool := b.due.isEmpty && b.untraced.isEmpty && b.sinks.all fun u => u ∈ b.reached

/-- Whether every barrier with an id has reached every sink. -/
def State.barrierDone (s : State) (id : Byte) : Bool := s.core.fab.bars.all fun b => !(b.id = id) || b.done

/-- A unit takes part in a barrier. -/
def Barrier.part (b : Barrier) (u : UnitRef) : Bool := u ∈ b.sources || b.due.any fun x => x.1 = u

/-- A unit is to inject a barrier: it takes part in the earliest one under way that it takes no part in yet, or a new one
begins (R161, R252). Log 122 (DEDUCED). -/
def State.announce (s : State) (u : UnitRef) (id : Byte) : State :=
  s.updFab fun f =>
    let bars := f.bars.filter fun b => !b.done
    let fits (b : Barrier) : Bool := b.id = id && !b.part u
    { f with bars := if bars.any fits then Barrier.updFirst fits (fun b => { b with due := b.due ++ [(u, f.loadId)] }) bars
                     else bars ++ [Barrier.mk id [] [] [] [(u, f.loadId)] []] }

/-- The sinks of a barrier where they can be told: a unit that has injected it leads to them by the routing of this moment,
and no element on the way has a word to apply that was sent before the barrier. -/
def State.traced (s : State) (b : Barrier) : Barrier :=
  b.untraced.foldl (fun b x =>
    let way := s.wayFrom x.1
    if way.1.any (s.wordsDue x.2) then b
    else { b with untraced := b.untraced.erase x, sinks := b.sinks ++ way.2 }) b

def State.traceBarriers (s : State) : State := s.updFab fun f => { f with bars := f.bars.map s.traced }

/-- A unit emits a barrier that was announced, which injects it (R264). -/
def State.inject (s : State) (u : UnitRef) (id : Byte) : State :=
  let owes (b : Barrier) : Bool := b.id = id && b.due.any fun x => x.1 = u
  let given (b : Barrier) : Barrier := { b with
    due := b.due.eraseP fun x => x.1 = u, sources := u :: b.sources
    untraced := b.untraced ++ (b.due.find? fun x => x.1 = u).toList }
  (s.updFab fun f => { f with bars := Barrier.updFirst owes given f.bars }).traceBarriers

/-- A unit whose commands are discarded injects no barrier any more. -/
def State.unannounce (s : State) (u : UnitRef) : State :=
  s.updFab fun f => { f with bars := f.bars.map fun b => { b with due := b.due.filter fun v => !(v.1 = u) } }

/-! ### Containment (R269, R324) -/

/-- A port sealed: its commands are discarded, and the emit lane owes one error end. Configuration fragments are
no commands and stay. -/
def Port.seal (p : Port) (cause : Nat) : Port :=
  { p with
    sealed := true, sealToks := p.sealToks ++ [BitVec.ofNat 32 cause], emitCmd := none, absCmd := none, inq := [], reqq := []
    cut := none
    queue := p.queue.filter fun q => match q with
      | .cmd _ => false
      | .cfg _ _ => true }

/-- PIN of the tag entries that unperformed table lookups hold is released as the lookups are given up (R42). -/
def State.unpin (s : State) (reqs : List Req) : State :=
  reqs.foldl (fun s q => match q.kind, q.stage with
    | _, .performed _ => s
    | .tagLoad, _ =>
      let i := q.data.toNat / 2 ^ 64
      s.setTag i { s.tag i with pin := (s.tag i).pin - 1 }
    | _, _ => s) s

/-- Outstanding requests given up. -/
def State.dropReqs (s : State) (p : Req → Bool) : State :=
  (s.unpin (s.core.fab.reqs.filter p)).updFab fun f => { f with reqs := f.reqs.filter fun q => !p q }

/-- A port sealed, with its outstanding requests given up; a barrier that it discards has reached it. -/
def State.sealPort (s : State) (p cause : Nat) : State :=
  if (s.port p).sealed then s
  else
    let bars := (s.port p).inq.filter fun x => x.2.isBar
    let s := bars.foldl (fun s x => s.sinkReached (.lane p) x.2.barId) (s.updPort p (·.seal cause))
    (s.unannounce (.lane p)).dropReqs fun q => q.who = .lane p || q.who = .absorb p

/-- The links between FEs that containment follows. -/
def State.feLinks (s : State) : List (UnitRef × UnitRef) :=
  s.core.fab.fes.flatMap fun x =>
    let u : UnitRef := .fe x.1.1 x.1.2
    (s.unitEnds u).map (fun v => (u, v)) ++
      if 1 < x.2.copies && (x.2.live || x.2.startPending || x.2.sealed) then
        (s.rectangle x.1.1 x.1.2 x.2).map fun y => (u, .fe y.1 y.2)
      else []

def isFeRef : UnitRef → Bool
  | .fe _ _ => true
  | _ => false

/-- The closure of a set of units under links between FEs, in either direction. -/
def closeLinks (links : List (UnitRef × UnitRef)) : Nat → List UnitRef → List UnitRef → List UnitRef
  | 0, _, acc => acc
  | _, [], acc => acc
  | n + 1, x :: todo, acc =>
    if x ∈ acc then closeLinks links n todo acc
    else
      let next := links.filterMap fun l => if l.1 = x then some l.2 else if l.2 = x then some l.1 else none
      closeLinks links n (next ++ todo) (acc ++ [x])

/-- The component of an FE and the stream ports whose runs enter or leave it. -/
def State.component (s : State) (r c : Nat) : List UnitRef :=
  let all := s.feLinks
  let fes := all.filter fun l => isFeRef l.1 && isFeRef l.2
  let comp := closeLinks fes (2 * fes.length + 2) [.fe r c] []
  comp ++ ((List.range 16).map UnitRef.lane).filter fun p =>
    all.any (fun l => l.1 ∈ comp && l.2 = p) || (s.unitEnds p).any fun u => u ∈ comp

/-- An FE sealed: what it holds is discarded, and a channel that leaves it for an ME or the TMU gets one error
end. -/
def State.sealFe (s : State) (r c cause : Nat) : State :=
  let outs := (List.range 4).filter fun k => (s.slotEnds r c k).any fun u => match u with
    | .me _ => true
    | .plane _ => true
    | .tmu => true
    | _ => false
  (s.updFe r c fun f =>
    outs.foldl (fun f k => f.send k [errTok cause])
      { f with sealed := true, startPending := false, fifo := [[], [], [], []], window := [[], [], [], []]
               op := OpState.reset, discard := [false, false, false] }).dropReqs fun q => q.who = .fe r c

/-- An unrecoverable fault of an FE contained, with its record; 0x07 becomes pending. -/
def State.containAt (s : State) (r c : Nat) (y : Nat × Nat) (cause reason addr det : Nat) : State :=
  let f := s.fe r c
  if f.sealed then s
  else
    let s := (s.component r c).foldl (fun s u => match u with
      | .fe r c => s.sealFe r c cause
      | .lane p => s.sealPort p cause
      | _ => s) s
    s.fabRecord 0 reason cause f.code unitFe y.2 y.1 f.pos addr det

/-- The same for an operator whose record names its first place. -/
def State.contain (s : State) (r c cause reason addr det : Nat) : State := s.containAt r c (r, c) cause reason addr det

/-! ### A token arrives (R157) -/

/-- Places of an input at an edge node: a FIFO of 4 and a window of 15. -/
def inPlaces : Nat := 19

/-- The places that a port's emit lane, or what leaves them, sends tokens to. -/
def runPlaces (s : State) : Nat → List (Nat × Nat × Nat × Nat) → List (Nat × Nat × Nat × Nat) → List Dest → List Dest
  | 0, _, _, acc => acc
  | _, [], _, acc => acc
  | n + 1, x :: todo, seen, acc =>
    if x ∈ seen then runPlaces s n todo seen acc
    else
      let ds := s.dests x.1 x.2.1 x.2.2.1 x.2.2.2
      runPlaces s n (ds.filterMap Dest.step ++ todo) (x :: seen) (acc ++ ds)

def State.lanePlaces (s : State) (p : Nat) : List Dest :=
  runPlaces s runFuel ((List.range 4).map fun t => (p + 1, 0, 1, t)) [] []

/-- A place of an FE. -/
def Dest.isAt (r c : Nat) : Dest → Bool
  | .port x y _ => x == r && y == c
  | .reg x y _ => x == r && y == c
  | _ => false

/-- No token of the row's own port is on its way to an FE: fragments that follow such a token stay behind it (R166). -/
def State.laneClear (s : State) (r c : Nat) : Bool :=
  (s.lanePlaces (r - 1)).all fun d => match d with
    | .reg x y k => ((s.fe x y).track.getD k none).isNone ||
        !(Dest.isAt r c d || (runPlaces s runFuel [(x, y, k / 4, k % 4)] [] []).any (Dest.isAt r c))
    | _ => true

/-- A token of the row's own port follows the fragments that an FE has not applied yet, and stays behind them (R166,
R169). -/
def State.behindWords (s : State) (r c : Nat) (d : Dest) : Bool :=
  !(s.fe r c).waiting.isEmpty && d ∈ s.lanePlaces (r - 1)

def State.destFree (s : State) : Dest → Bool
  | .port r c side => (s.fe r c).inRoom side && !s.behindWords r c (.port r c side)
  | .reg r c k => ((s.fe r c).track.getD k none).isNone && !s.behindWords r c (.reg r c k)
  | .lane p t => (s.port p).sealed || ((s.port p).inq.filter fun x => x.1 == t).length < inPlaces
  | .meA e k => ((s.me e).afifo.getD k []).length < inPlaces
  | .mePlane e => (s.me e).pfifo.length < inPlaces
  | .tmu => s.core.tmu.infifo.length < inPlaces

/-- A token put into a place. A sealed port discards it, which is a barrier's arrival at that sink. -/
def State.deliver (s : State) (t : Token) : Dest → State
  | .port r c side => s.updFe r c (·.arrive side t)
  | .reg r c k => s.updFe r c fun f => { f with track := updAt f.track k fun _ => some t }
  | .lane p k =>
    if (s.port p).sealed then (if t.isBar then s.sinkReached (.lane p) t.barId else s)
    else s.updPort p fun q => { q with inq := q.inq ++ [(k, t)] }
  | .meA e k => s.updMe e fun m => { m with afifo := updAt m.afifo k fun q => q ++ [t] }
  | .mePlane e => s.updMe e fun m => { m with pfifo := m.pfifo ++ [t] }
  | .tmu => s.updTmu fun u => { u with infifo := u.infifo ++ [t] }

/-- Tokens emitted into the drain port's queue, which has 15 places (R273). -/
def Me.emit (m : Me) : Me :=
  let n := 15 - m.emitq.length
  { m with emitq := m.emitq ++ m.drain.take n, drain := m.drain.drop n }

/-- The token that waits to leave (r, c) in direction `d` on track `t`: in a switch-box register, at an ME's drain
port, or at `tmu.out`. -/
def State.hopHead (s : State) (r c d t : Nat) : Option Token :=
  if s.isFe r c then (s.fe r c).track.getD (4 * d + t) none
  else if c == 18 && d == 3 && t == 0 && (r == 8 || r == 16) then (s.me (r / 8 - 1)).emitq.head?
  else if r == 17 && d == 0 && t == 0 && c == s.physCol 2 then s.core.tmu.out.head?
  else none

/-- That token gone, and the register filled again from the emit queue of its slot. -/
def State.hopTake (s : State) (r c d t : Nat) : State :=
  if s.isFe r c then
    s.updFe r c fun f =>
      let f := { f with track := updAt f.track (4 * d + t) fun _ => none }
      let src := f.cross (4 * d + t)
      if 8 ≤ src then f.refill (src - 8) else f
  else if c == 18 then s.updMe (r / 8 - 1) fun m => { m with emitq := m.emitq.drop 1 }.emit
  else s.updTmu fun u => { u with out := u.out.drop 1 }

/-- TOKEN_HOP (R157): one hop, into free places only. A drain port with no path discards (R273); a barrier that leaves one
is injected there. -/
def execTokenHop (row col : Nat) (dir : Dir) (trk : BitVec 2) (s : State) : Host.Outcome State Fault Refusal :=
  let d := dirIdx dir
  let t := trk.toNat
  match s.hopHead row col d t with
  | none => .next s
  | some x =>
    let ds := s.dests row col d t
    let took := s.hopTake row col d t
    let took := if col == 18 && x.isBar then took.inject (.me (row / 8 - 1)) x.barId else took
    if col == 18 && ds.isEmpty then .next took
    else if !ds.isEmpty && ds.all s.destFree then .next (ds.foldl (fun s y => s.deliver x y) took)
    else .next s

/-! ### Quiescence (R136, R325) -/

/-- No request of the fabric by a unit is outstanding. -/
def State.noReqs (s : State) (u : UnitRef) : Bool := !(s.core.fab.reqs.any fun q => q.who = u)

/-- An FE's FIFOs, windows, emit queues and switch-box registers are empty. -/
def Fe.empty (f : Fe) : Bool :=
  f.fifo.all (·.isEmpty) && f.window.all (·.isEmpty) && f.emit.all (·.isEmpty) && f.track.all (·.isNone)

/-- The quiescence tree. -/
def State.quiescent (s : State) : Bool :=
  s.core.fab.fes.all (fun x => x.2.empty && s.noReqs (.fe x.1.1 x.1.2)) &&
    s.core.ports.all (fun p => p.inq.isEmpty) &&
    s.core.mes.all (fun m => m.afifo.all (·.isEmpty) && m.pfifo.isEmpty) && s.core.tmu.infifo.isEmpty

/-- An FE that is quiet applies its words (R166). -/
def State.feQuiet (s : State) (r c : Nat) : Bool :=
  (s.fe r c).empty && (s.fe r c).op.outq.isEmpty && s.noReqs (.fe r c)

/-! ### The checks of registers (R177, R360) -/

/-- The types a MAP operation allows (R182): f32 0, i32 1, bf16x2 2, i16x2 3. -/
def mapTypeOk (op ty : Nat) : Bool :=
  if op == 3 then ty != 3
  else if 12 ≤ op && op ≤ 18 then ty == 1 || ty == 3
  else if op == 19 then ty != 0
  else if op == 20 || op == 21 then ty == 0
  else if op == 22 then ty == 2 || ty == 3
  else op ≤ 23

/-- SUB is listed for the kind. -/
def subOk (code sub : Nat) : Bool :=
  match code with
  | 0 => sub < 256 && mapTypeOk (sub % 64) (sub / 64)
  | 1 => sub ≤ 6
  | 2 => sub ≤ 9
  | 3 => sub ≤ 6
  | 4 => sub ≤ 1
  | 5 => sub ≤ 1
  | 6 => sub == 0
  | 7 => sub ≤ 15
  | 8 => sub ≤ 1
  | 9 => sub ≤ 2
  | 10 => sub ≤ 3
  | 11 => sub ≤ 1
  | _ => false

/-- Register `reg` may hold `v`, as `cfgld` checks it (reason 0x28). -/
def cfgValueOk (reg v : Nat) : Bool :=
  match reg with
  | 8 => bitsOf v 31 21 == 0 && bitsOf v 7 4 == 0 && subOk (v % 16) (bitsOf v 15 8)
  | 9 =>
    if bitOf v 31 then
      let src := bitsOf v 25 22
      !bitOf v 30 && bitsOf v 21 0 == 0 && (src ≤ 4 || (8 ≤ src && src ≤ 11))
    else bitsOf v 30 24 == 0 && bitsOf v 15 11 == 0 && !bitOf v 7 && !bitOf v 3 &&
      [0, 4, 8].all fun i => bitsOf v (i + 2) i ≤ 4
  | 10 => bitsOf v 31 28 == 0
  | 11 => bitsOf v 31 21 == 0 && bitsOf v 15 13 == 0 && !bitOf v 7
  | _ => true

/-- The slots of R360: inputs needed, inputs optional, outputs needed, outputs allowed. -/
def Fe.slotsOf (f : Fe) : List Nat × List Nat × List Nat × List Nat :=
  let sub := f.sub
  let all := [0, 1, 2, 3]
  match f.code with
  | 0 => (if f.param 2 % 4 == 1 || f.param 2 % 4 == 2 then [0, 2] else [0], [1], [0], [0])
  | 3 => (if sub == 0 then [0, 1] else [0], [], [], [0, 1])
  | 4 => (if sub == 0 then [0, 1, 2] else [0, 1], [], [0], [0])
  | 5 => (if sub == 0 then [0, 1] else [0, 1, 2], if sub == 0 then [2] else [], [0, 1], [0, 1])
  | 6 => ([], [], [0], [0])
  | 7 =>
    let tp := f.replyTo.isSome
    if sub ≤ 4 || sub == 13 then ([0], [], if tp then [] else [0], if tp then [] else [0])
    else if sub ≤ 12 then ([0], [1], [], if tp then [] else [0])
    else if sub == 14 then ([0], [], [], if tp then [] else [0])
    else ([0], [], [], [])
  | 9 => if sub == 0 then ([0], [], [], all) else ([0], [], [0], [0])
  | 11 => if sub == 0 then ([0], [], [], all) else ([], [0, 1, 2], [], [0, 1, 2])
  | _ => ([0], [], [0], [0])

/-- Kinds and sub-operations that may be replicated (R180). -/
def Fe.mayRepeat (f : Fe) : Bool :=
  match f.code with
  | 0 => true
  | 1 => true
  | 2 => true
  | 7 => f.sub < 14
  | 8 => true
  | 9 => f.sub == 1
  | 10 => true
  | _ => false

/-- A pair of formats that CONV `cvt` converts: those of R53 and R84. -/
def convPair (sf df : Nat) : Bool :=
  cvtPair sf df || ([0x80, 0x0A, 0x0B].contains sf && (df == 1 || df == 2))

/-- Every parameter holds a value in the range its kind states. -/
def Fe.paramsOk (f : Fe) : Bool :=
  let p := f.param
  match f.code with
  | 0 => p 2 % 4 != 3
  | 2 => p 2 % 8 != 0
  | 6 => p 1 % 2 ^ 16 != 0 && p 1 / 2 ^ 16 != 0 && p 2 % 2 ^ 16 != 0 && p 2 / 2 ^ 16 != 0 &&
      bitsOf (p 5) 18 16 ≤ 4 && !bitOf (p 5) 19
  | 7 => p 1 / 2 ^ 16 == 0 && bitsOf (p 3) 30 12 == 0 && p 5 == 0 && p 6 == 0 && p 7 == 0
  | 8 =>
    let t := p 0 % 2 ^ 16
    p 2 % 128 ≤ 64 && (f.sub == 0 || !((bitOf t 15 && t != 0x8000) || bitsOf t 14 7 == 255))
  | 9 =>
    match f.sub with
    | 0 =>
      let w := p 0 % 64
      1 ≤ w && w ≤ 32 && [0, 8, 16, 24].all fun i => bitsOf (p 1) (i + 7) i < w
    | 1 =>
      let n := p 2 % 16
      1 ≤ n && n ≤ 15 && (List.range n).all fun j =>
        (if j < 8 then bitsOf (p 0) (4 * j + 3) (4 * j) else bitsOf (p 1) (4 * j - 29) (4 * j - 32)) < n
    | _ =>
      let a := p 0 % 16
      let b := bitsOf (p 0) 7 4
      1 ≤ a && a ≤ 8 && 1 ≤ b && b ≤ 8
  | 10 =>
    let df := bitsOf (p 0) 15 8
    match f.sub with
    | 0 =>
      let sf := p 0 % 256
      convPair sf df && f.rateIn 0 * recWidth df == f.rateOut 0 * recWidth sf
    | 1 => df == 1 || df == 2
    | _ => true
  | _ => true

/-- A track feeds this side of an FE: something leaves its neighbour there towards it. -/
def State.trackFed (s : State) (r c side : Nat) : Bool :=
  let n := s.neighbour r c side
  let t := (s.fe r c).feed side
  if s.isFe n.1 n.2 then (s.fe n.1 n.2).cross (4 * ((side + 2) % 4) + t) != 0
  else (n.2 == 0 && side == 3) || (n.2 == 18 && side == 1 && t == 0 && (r == 8 || r == 16)) ||
    (n.1 == 17 && side == 2 && t == 0 && c == s.physCol 2)

/-- A MEM operator names this side of an FE as its reply target. -/
def State.replyFed (s : State) (r c side : Nat) : Bool :=
  s.core.fab.fes.any fun x => (x.2.live || x.2.startPending) && x.2.replyTo = some (r, c, side)

/-- The registers of an FE agree (R177). -/
def State.feConsistent (s : State) (r c : Nat) : Bool :=
  let f := s.fe r c
  let ins := f.slots
  let outs := f.outs
  let sl := f.slotsOf
  let n := bitsOf f.repl.toNat 6 0
  let w := bitsOf f.repl.toNat 12 8
  let h := bitsOf f.repl.toNat 20 16
  let fork := f.code == 11 && f.sub == 1
  cfgValueOk 8 f.kind.toNat && cfgValueOk 10 f.rate.toNat && cfgValueOk 11 f.repl.toNat &&
    (List.range 3).all (fun i => (f.rateIn i != 0) == ins.contains i) &&
    (List.range 4).all (fun k => (f.rateOut k != 0) == outs.contains k) &&
    sl.1.all (ins.contains ·) && ins.all (fun i => sl.1.contains i || sl.2.1.contains i) &&
    sl.2.2.1.all (outs.contains ·) && outs.all (fun k => sl.2.2.2.contains k) &&
    (!(f.code == 3 || f.code == 11 || (f.code == 9 && f.sub == 0)) || !outs.isEmpty) &&
    (!fork || ins == outs) &&
    1 ≤ n && n ≤ 64 && 1 ≤ w && w ≤ 16 && 1 ≤ h && h ≤ 16 && (h - 1) * w < n && n ≤ h * w && r + h ≤ 17 &&
    s.logCol c + w ≤ 17 && (n == 1 || f.mayRepeat) && f.paramsOk &&
    (match f.replyTo with
     | some x => s.isFe x.1 x.2.1 && !s.trackFed x.1 x.2.1 x.2.2
     | none => true) &&
    ins.all fun i => match f.side i with
      | some sd => !(s.trackFed r c sd && s.replyFed r c sd)
      | none => true

/-! ### Configuration words applied (R163, R166, R167) -/

/-- An operator as it goes live. -/
def Fe.opInit (f : Fe) : OpState :=
  { OpState.reset with
    partials := if f.code == 2 then some (BitVec.ofNat 32 (f.param 0)) :: List.replicate (f.copies - 1) none else []
    idx := [0, 0, 0, 0], bufs := List.replicate f.copies [], blks := List.replicate f.copies 0 }

def Fe.goLive (f : Fe) : Fe := { f with live := true, startPending := false, op := f.opInit, pos := 0 }

def cfgRow (w : Nat) : Nat := bitsOf w 63 59
def cfgCol (w : Nat) : Nat := bitsOf w 58 54
def cfgReg (w : Nat) : Nat := bitsOf w 53 50
def cfgVal (w : Nat) : Nat := w % 2 ^ 32

/-- One register of an FE written. -/
def Fe.setReg (f : Fe) (reg v : Nat) : Fe :=
  let x := BitVec.ofNat 32 v
  match reg with
  | 8 => { f with kind := x, live := false, sealed := false, startPending := false, op := OpState.reset }
  | 9 =>
    if bitOf v 31 then
      let k := 4 * bitsOf v 29 28 + bitsOf v 27 26
      { f with xing := BitVec.ofNat 64 (setBits f.xing.toNat (4 * k + 3) (4 * k) (bitsOf v 25 22)) }
    else { f with route := x }
  | 10 => { f with rate := x }
  | 11 => { f with repl := x }
  | 12 => { f with start := x, live := false, startPending := false }
  | k => if h : k < 8 then { f with p := f.p.set k x h } else f

/-- A folio load with one of its words applied. -/
def FolioLoad.applied (l : FolioLoad) (id : Option Nat) (x : Nat × Nat) : FolioLoad :=
  if id = some l.id then { l with left := l.left.erase x } else l

/-- One waiting word applied by the FE. -/
def State.applyWord (s : State) (r c : Nat) (w : Dword × Option Nat) : State :=
  let v := w.1.toNat
  let s := s.updFe r c (·.setReg (cfgReg v) (cfgVal v))
  let s := s.updFab fun f => { f with loads := f.loads.map (·.applied w.2 (r, c)) }
  if cfgReg v == 12 && cfgVal v == 1 then
    if s.feConsistent r c then
      s.updFe r c fun f => if w.2.isNone then f.goLive else { f with startPending := true }
    else s.contain r c 0x08 8 0 0
  else s

/-- FE_CONFIG_APPLY (R166). -/
def execFeConfigApply (row col : Nat) (s : State) : Host.Outcome State Fault Refusal :=
  let ws := (s.fe row col).waiting
  if ws.isEmpty || !s.feQuiet row col then .next s
  else
    let s := s.updFe row col fun f => { f with waiting := [] }
    let s := ws.foldl (fun s w => s.applyWord row col w) s
    let fin := s.core.fab.loads.all fun l => !((row, col) ∈ l.left)
    .next (s.updFe row col fun f => { f with configured := f.configured || fin }).traceBarriers

/-- The next START of a folio all of whose words are applied is at (r, c); an FE contained meanwhile, or named twice, keeps its
place in the list. -/
def Fabric.startsNext (f : Fabric) (r c : Nat) : Bool := f.loads.any fun l => l.left.isEmpty && l.starts.head? = some (r, c)

/-- FE_GO_LIVE (R167): the next START of a folio all of whose words are applied. -/
def execFeGoLive (row col : Nat) (s : State) : Host.Outcome State Fault Refusal :=
  match s.core.fab.loads.find? fun l => l.left.isEmpty && l.starts.head? = some (row, col) with
  | none => .next s
  | some l =>
    let s := s.updFab fun f => { f with loads := f.loads.map fun x =>
      if x.id == l.id then { x with starts := x.starts.drop 1 } else x }
    .next (if (s.fe row col).startPending then s.updFe row col Fe.goLive else s)

/-! ### Reading an image (R162 to R165, R171) -/

/-- A read that waits: for a page walk (R32), for the layout of a compressed page (R50), or for a Span port (R338). It is
no fault: what makes the read makes it again. -/
def fltWait (va : Nat) : Flt := ⟨0, va, 0⟩

def Flt.waits (f : Flt) : Bool := f.cause == 0

/-- `n` bytes read for a unit: the value; or the fault, with its walk's fill of the TLBs (R32) and an uncorrectable error counted
at its wing (R333). -/
def State.unitRead (s : State) (ctx : BitVec 12) (a : Acc) (va n : Nat) : Except FetchFlt (Nat × State) :=
  if s.walkHeld ctx va then .error ⟨fltWait va, s⟩
  else match s.resolve ctx a va with
  | .error f => .error ⟨f, s.filled ctx va⟩
  | .ok r =>
    let t := s.fillRes r
    match s.placePoison r.pl n with
    | some k => .error ⟨⟨0x17, va, 0⟩, t.eccHit k⟩
    | none =>
      if !s.reaches ctx r.pl va then .error ⟨fltWait va, t⟩
      else match r.pl with
      | .own off => .ok (s.ownRead off n, t)
      | .page c p off =>
        if (s.pageAt c p).lock then .error ⟨fltWait va, t⟩
        else match s.pageRead c p off n with
          | some v => .ok (v, t)
          | none => .error ⟨⟨0x19, va, off / 1024⟩, t⟩
      | pl => .ok (s.rd (pl.key s) n, t)

/-- `n` 64-bit words from `va`. -/
def State.readWords (s : State) (a : Acc) (va : Nat) : Nat → Except FetchFlt (List Nat × State)
  | 0 => .ok ([], s)
  | n + 1 =>
    match s.unitRead s.ctx a (va % 2 ^ 48) 8 with
    | .error f => .error f
    | .ok (v, s) =>
      match s.readWords a (va + 8) n with
      | .error f => .error f
      | .ok (l, s) => .ok (v :: l, s)

/-- Fields of an image header held as its eight 64-bit words. -/
def hdrByte (h : List Nat) (o n : Nat) : Nat := bitsOf (h.getD (o / 8) 0) (8 * (o % 8) + 8 * n - 1) (8 * (o % 8))

def hdrFolio (h : List Nat) (i : Nat) : Nat := hdrByte h (24 + 4 * i) 4
def hdrFolios (h : List Nat) : Nat := hdrByte h 6 1

/-- Half-open ranges, in 8-byte units, that share no unit. -/
def apart (a b : Nat × Nat) : Bool := a.2 ≤ b.1 || b.2 ≤ a.1 || a.1 == a.2 || b.1 == b.2

/-- The checks 0x21 to 0x24 of R165 that need only the header; 0 when they pass. -/
def headerCheck (h : List Nat) (folio : Nat) : Nat :=
  let nf := hdrFolios h
  let ext (i : Nat) : Nat × Nat :=
    (hdrFolio h i / 2 ^ 12, hdrFolio h i / 2 ^ 12 + hdrFolio h i % 2 ^ 12)
  let rel := (hdrByte h 12 4 / 8, hdrByte h 12 4 / 8 + hdrByte h 16 2)
  let qs := (hdrByte h 20 4 / 8, hdrByte h 20 4 / 8 + 2 * hdrByte h 18 2)
  let is := List.range nf
  if hdrByte h 0 4 != 0x4E524C53 || hdrByte h 4 2 != 1 then 0x21
  else if nf == 0 || 8 < nf || nf ≤ hdrByte h 7 1 || nf ≤ folio then 0x22
  else if bitsOf (hdrByte h 8 2) 15 12 != 0 || hdrByte h 11 1 != 0 || h.getD 7 0 != 0 ||
      ((List.range 8).any fun i => nf ≤ i && hdrFolio h i != 0) || hdrByte h 12 4 % 8 != 0 || 64 < hdrByte h 18 2 ||
      hdrByte h 20 4 % 16 != 0 then 0x23
  else if is.any fun i => hdrFolio h i % 2 ^ 12 == 0 || (ext i).1 < 8 || !apart (ext i) rel || !apart (ext i) qs ||
      is.any fun j => j != i && !apart (ext i) (ext j) then 0x24
  else 0

/-- An entry-queue descriptor from its two words; none where it breaks R164. -/
def descOf (nf lo hi : Nat) : Option EntryQ :=
  let cap := bitsOf lo 56 41
  let esize := bitsOf lo 40 25
  let base := lo % 2 ^ 25
  if hi == 0 && bitsOf lo 63 61 < nf && cap != 0 && esize % 4 == 0 && 4 ≤ esize && esize ≤ 1024 && base % 64 == 0 &&
      base + cap * esize ≤ bankBytes then
    some { folio := BitVec.ofNat 3 (bitsOf lo 63 61), port := BitVec.ofNat 4 (bitsOf lo 60 57)
           cap := BitVec.ofNat 16 cap, esize := BitVec.ofNat 16 esize, base, rd := 0, cnt := 0, pos := 0 }
  else none

/-- All descriptors; none where one breaks R164. -/
def descsOf (nf : Nat) : List Nat → Option (List EntryQ)
  | lo :: hi :: t =>
    match descOf nf lo hi, descsOf nf t with
    | some q, some l => some (q :: l)
    | _, _ => none
  | _ => some []

/-- The checks 0x25 to 0x28 on a folio's words; 0 when they pass. -/
def State.wordsCheck (s : State) (map : Nat) (ws : List Nat) : Nat :=
  if ws.any fun w => 12 < cfgReg w || bitsOf w 48 32 != 0 then 0x25
  else if ws.any fun w => !s.isFe (cfgRow w) (cfgCol w) then 0x26
  else if !((map == 0 && s.spare == 17) || map == s.spare) then 0x27
  else if ws.any fun w => !cfgValueOk (cfgReg w) (cfgVal w) then 0x28
  else 0

/-- A folio read and checked: its words, the image's descriptors and RAMP, or a fault whose code is 0x08 for a
failed check (R165, R177). -/
def State.fetchFolio (s : State) (a : Acc) (image folio : Nat) : Except FetchFlt (List Nat × List EntryQ × State) :=
  match s.readWords a image 8 with
  | .error f => .error f
  | .ok (h, s) =>
    let bad (s : State) (r : Nat) : Except FetchFlt (List Nat × List EntryQ × State) := .error ⟨⟨0x08, image, r⟩, s⟩
    let c := headerCheck h folio
    if c == 0x21 || c == 0x22 then bad s c
    else match s.readWords a (image + hdrByte h 20 4) (if c == 0x23 then 0 else 2 * hdrByte h 18 2) with
      | .error f => .error f
      | .ok (ds, s) =>
        match descsOf (hdrFolios h) ds with
        | none => bad s 0x23
        | some qs =>
          if c != 0 then bad s c
          else match s.readWords a (image + 8 * (hdrFolio h folio / 2 ^ 12)) (hdrFolio h folio % 2 ^ 12) with
            | .error f => .error f
            | .ok (ws, s) =>
              let e := s.wordsCheck (hdrByte h 10 1) ws
              if e != 0 then bad s e else .ok (ws, qs, s)

/-! ### Sending a folio (R166, R168) and the folio scheduler (R135 to R138) -/

/-- Configuration fragments of an earlier load still stand in some port. -/
def State.cfgSending (s : State) : Bool :=
  s.core.ports.any fun p => p.queue.any fun q => match q with
    | .cfg _ _ => true
    | .cmd _ => false

def dedup : List (Nat × Nat) → List (Nat × Nat)
  | [] => []
  | x :: t => if x ∈ t then dedup t else x :: dedup t

/-- A folio's words put into the streams of its rows' ports; the folio is resident. -/
def State.sendFolio (s : State) (image folio : Nat) (ws : List Nat) (qs : List EntryQ) : State :=
  let f := s.core.fab
  let id := f.loadId + 1
  let at_ (w : Nat) : Nat × Nat := (cfgRow w, cfgCol w)
  let named := dedup (ws.map at_)
  let l : FolioLoad :=
    { id, named, left := ws.map at_
      starts := (ws.filter fun w => cfgReg w == 12 && cfgVal w == 1).map at_ }
  let fresh := f.image ≠ some image
  let s := s.updFab fun f => { f with
    image := some image, folio := some folio, loadId := id
    loads := (f.loads.filter fun x => !(x.left.isEmpty && x.starts.isEmpty)) ++ [l]
    qs := if fresh then qs else f.qs
    skips := if fresh then List.replicate 8 0 else f.skips }
  let s := named.foldl (fun s x => s.updFe x.1 x.2 fun f => { f with configured := false }) s
  (List.range 16).foldl (fun s p =>
    let mine := ws.filter fun w => cfgRow w == p + 1
    if mine.isEmpty then s
    else s.updPort p fun q => { q with queue := q.queue ++ [PortItem.cfg id (mine.map (BitVec.ofNat 64 ·))] }) s

/-- The waiting count of a folio. -/
def Fabric.waiting (f : Fabric) (n : Nat) : Nat := ((f.qs.filter fun q => q.folio.toNat == n).map (·.cnt)).sum

/-- The folios with waiting entries. -/
def Fabric.candidates (f : Fabric) : List Nat := (List.range 8).filter fun n => 0 < f.waiting n

/-- The scheduler's choice among candidates (R137). -/
def Fabric.choose (f : Fabric) : Option Nat :=
  let c := f.candidates
  let old := c.filter fun n => 4 ≤ f.skips.getD n 0
  let best (key : Nat → Nat) (l : List Nat) : Option Nat :=
    l.foldl (fun acc n => match acc with
      | none => some n
      | some g => if key g < key n then some n else some g) none
  if old.isEmpty then best f.waiting c else best (fun n => f.skips.getD n 0) old

/-- The skip counts after a change to folio `g`. -/
def Fabric.passOver (f : Fabric) (g : Nat) : Fabric :=
  let c := f.candidates
  { f with skips := (List.range 8).map fun n =>
      if n == g then 0 else if c.contains n then f.skips.getD n 0 + 1 else 0 }

/-- The resident folio is drained (R136). -/
def State.drained (s : State) : Bool :=
  match s.core.fab.folio with
  | none => false
  | some n => s.core.fab.waiting n == 0 && s.quiescent

/-- A read or check of a folio that failed outside a `cfgld`: its cause becomes pending (R165, R168). -/
def State.folioFault (s : State) (folio : Nat) (f : Flt) : State :=
  if f.cause == 0x08 then s.pendCause 0x08 f.addr (f.detail % 256 + folio % 256 * 2 ^ 8)
  else s.pendCause f.cause f.addr (f.detail % 2 ^ 10 + folio % 256 * 2 ^ 16)

/-- FOLIO_CHANGE (R136, R137). -/
def execFolioChange (s : State) : Host.Outcome State Fault Refusal :=
  let f := s.core.fab
  match f.image, f.choose with
  | some image, some g =>
    if s.task.isNone || !s.drained || s.cfgSending || s.lanesHeld then .next s
    else match s.fetchFolio (fabAcc .load 8) image g with
      | .error e =>
        if e.flt.waits then .next e.st
        else .next ((e.st.updFab fun f => { f.passOver g with folio := none }).folioFault g e.flt)
      | .ok (ws, qs, s) =>
        .next (((s.updFab fun f => { f.passOver g with entryPending := none }).sendFolio image g ws qs))
  | _, _ => .next s

/-- ENTRY of an image. -/
def State.entryOf (s : State) (image : Nat) : Nat :=
  match s.readWords (fabAcc .load 8) image 1 with
  | .ok (h, _) => bitsOf (h.getD 0 0) 63 56
  | .error _ => 0

/-- No image is resident: no queue descriptors, and every count is 0 (R168). -/
def Fabric.noImage (f : Fabric) : Fabric :=
  { f with image := none, folio := none, entryPending := none, qs := [], skips := List.replicate 8 0 }

/-- The resident image of an entering task (R168): its folio ENTRY read, checked and sent. -/
def State.loadEntry (s : State) (image : Nat) : State :=
  let entry := s.entryOf image
  match s.fetchFolio (fabAcc .load 8) image entry with
  | .error e => e.st.folioFault entry e.flt
  | .ok (ws, qs, s) => (s.sendFolio image entry ws qs).updFab fun f => { f with entryPending := some entry }

/-- The image of an entering task cannot be read yet. -/
def State.entryWaits (s : State) (image : Nat) : Bool :=
  image != 0 && match s.fetchFolio (fabAcc .load 8) image (s.entryOf image) with
    | .error e => e.flt.waits
    | .ok _ => false

end Sys2Proof.Machine
end

