-- ==== Sys2Proof/Machine/Fabric.lean ====
section
/-! DEFINITION. The operators of the catalogue but MEM (R180 to R189, R193 to R196): what one firing of each does,
and the alignment of error ends and barriers (R159, R160). -/

namespace Sys2Proof.Machine

/-! ### Firing (R158, R176) -/

/-- The operator may act: live, not contained, and no copy's place. -/
def State.feActive (s : State) (r c : Nat) : Bool :=
  (s.fe r c).live && !(s.fe r c).sealed && !s.isCopy r c

/-- The reason for which a token at the head of a routed input is not consumed (R156); 0 for none. -/
def Fe.badHead (f : Fe) : Nat :=
  (f.slots.map fun i => match f.head i with
    | some t => t.badReason
    | none => 0).foldl max 0

/-- n of SHUF `perm`. -/
def Fe.permCount (f : Fe) : Nat := f.param 2 % 16

/-- Tokens that a firing asks for at input slot `i`: its rate, and for SHUF `perm` the n that it takes (R158, R194). -/
def Fe.need (f : Fe) (i : Nat) : Nat := if f.code == 9 && f.sub == 1 then max f.permCount (f.rateIn i) else f.rateIn i

/-- A token FORK passes as it passes data. -/
def Token.passes (t : Token) : Bool := t.isData || t.kind = 10 || t.kind = 11

/-- A token that counts toward a firing's group. -/
def Fe.counts (f : Fe) (t : Token) : Bool := if f.code == 11 then t.passes else t.isData

/-- Input slot `i` holds a firing's tokens at the head of its window. -/
def Fe.ready (f : Fe) (i : Nat) : Bool :=
  let q := (f.win i).take (f.need i)
  q.length == f.need i && q.all Token.isData

def Fe.readyAll (f : Fe) : Bool := f.slots.all f.ready

/-- Every routed output has its rate of free places. -/
def Fe.roomRate (f : Fe) : Bool := f.outs.all fun k => f.rateOut k ≤ f.emitRoom k

def Fe.group (f : Fe) (i : Nat) : List Token := (f.win i).take (f.need i)

/-- A firing's tokens taken from every routed input. -/
def Fe.takeAll (f : Fe) : Fe := f.slots.foldl (fun f i => f.take i (f.need i)) f

/-- A step of an operator of kind `code`: a reserved token at an input contains it, else `act` says what happens. -/
def State.operator (s : State) (r c code : Nat) (act : Fe → Option (State → State)) :
    Host.Outcome State Fault Refusal :=
  let f := s.fe r c
  if !s.feActive r c || f.code != code then .next s
  else if f.badHead != 0 then .next (s.contain r c 0x08 f.badHead 0 0)
  else match act f with
    | some g => .next (g s)
    | none => .next s

/-- Whether a generic firing may happen. -/
def Fe.mayFire (f : Fe) : Bool := f.readyAll && f.roomRate && f.op.outq.isEmpty

/-- The element dealt to a copy (R180). -/
def Fe.copyOf (f : Fe) : Nat := f.op.elem % f.copies

def Fe.nextElem (f : Fe) : Fe := { f with op := { f.op with elem := f.op.elem + 1 } }

/-- The results of a firing, by element, cut or filled to the output's rate where the rates differ. An element that
emits nothing stays so, and so does a firing all of whose elements do (R181). -/
def fitRate (s : State) (nIn nOut : Nat) (rs : List (List Token)) : List Token :=
  let free (i : Nat) : List Token := [⟨0, Config.fabricWord (16 * s.stepNo + i)⟩]
  if rs.all (·.isEmpty) then []
  else (if nIn == nOut then rs else (rs ++ (List.range nOut).map free).take nOut).flatten

/-! ### MAP (R181 to R183) -/

/-- One lane of width `w`; `fl` for a float lane. -/
def mapLane (op : Nat) (fl : Option Fmt) (w : Nat) (rnd : Rnd) (sat : Bool) (a b c : Nat) : Nat × FFlags :=
  match fl with
  | some g =>
    match op with
    | 0 => fAdd g rnd a b
    | 1 => fSub g rnd a b
    | 2 => fMul g rnd a b
    | 3 => fFma g rnd a b c
    | 4 => fMinMax g false a b
    | 5 => fMinMax g true a b
    | 6 => (a % 2 ^ (w - 1), 0)
    | 7 => ((a + 2 ^ (w - 1)) % 2 ^ w, 0)
    | 8 => (b2n (fEq g a b).1, (fEq g a b).2)
    | 9 => (b2n (fLt g a b).1, (fLt g a b).2)
    | 10 => (b2n (fLe g a b).1, (fLe g a b).2)
    | 11 => (if a != 0 then b else c, 0)
    | _ => (a, 0)
  | none =>
    let x := signedOf w a
    let y := signedOf w b
    let n (v : Int) : Nat × FFlags := (narrow w sat v, 0)
    match op with
    | 0 => n (x + y)
    | 1 => n (x - y)
    | 2 => n (x * y)
    | 3 => n (x * y + signedOf w c)
    | 4 => n (min x y)
    | 5 => n (max x y)
    | 6 => n x.natAbs
    | 7 => n (-x)
    | 8 => (b2n (a == b), 0)
    | 9 => (b2n (x < y), 0)
    | 10 => (b2n (x ≤ y), 0)
    | 11 => (if a != 0 then b else c, 0)
    | 12 => (a &&& b, 0)
    | 13 => (a ||| b, 0)
    | 14 => (a ^^^ b, 0)
    | 15 => (a &&& (2 ^ w - 1 - b), 0)
    | 16 => (a * 2 ^ (b % w) % 2 ^ w, 0)
    | 17 => (a / 2 ^ (b % w), 0)
    | 18 => (intBits w (x / (2 ^ (b % w) : Nat)), 0)
    | _ => (a, 0)

/-- MAP's result on 32-bit operands: `op` of type f32 0, i32 1, bf16x2 2, i16x2 3 (R182). -/
def mapCalc (op ty : Nat) (rnd : Rnd) (sat : Bool) (a b c : Nat) : Nat × FFlags :=
  let lo (x : Nat) : Nat := x % 2 ^ 16
  let hi (x : Nat) : Nat := x / 2 ^ 16
  let two (g : Option Fmt) : Nat × FFlags :=
    let l := mapLane op g 16 rnd sat (lo a) (lo b) (lo c)
    let h := mapLane op g 16 rnd sat (hi a) (hi b) (hi c)
    (l.1 + h.1 * 2 ^ 16, l.2 ||| h.2)
  match op with
  | 19 => match ty with
    | 1 => intToF fp32 rnd (signedOf 32 a)
    | 2 => fConv bf16 fp32 rnd (lo a)
    | _ => intToF fp32 rnd (signedOf 16 (lo a))
  | 20 => fToInt 32 rnd sat a
  | 21 => fConv fp32 bf16 rnd a
  | 22 => (lo a + lo b * 2 ^ 16, 0)
  | _ => match ty with
    | 0 => mapLane op (some fp32) 32 rnd sat a b c
    | 1 => mapLane op none 32 rnd sat a b c
    | 2 => two (some bf16)
    | _ => two none

/-- Operand `j` of a slot's group, or `dflt` where the slot is unrouted. -/
def Fe.operand (f : Fe) (s : State) (i j : Nat) (dflt : Token) : Token :=
  if (f.side i).isNone then dflt
  else match (f.group i)[j]? with
    | some t => t
    | none => ⟨0, Config.fabricWord (16 * s.stepNo + j)⟩

/-- What MAP emits for the `j`-th token of its group, with flags; nothing under BYP 3. -/
def Fe.mapOne (f : Fe) (s : State) (j : Nat) : List Token × FFlags :=
  let a := f.operand s 0 j voidTok
  let b := f.operand s 1 j (dataTok (f.param 0))
  let tsel := f.param 2 % 4
  let x := f.operand s 2 j voidTok
  let c := if tsel == 1 then x else dataTok (f.param 1)
  if tsel == 2 && (x.isVoid || x.payload = 0) then
    (match f.byp with
     | 0 => [dataTok 0]
     | 1 => [a]
     | 2 => [voidTok]
     | _ => [], 0)
  else if a.isVoid || b.isVoid || c.isVoid then ([voidTok], 0)
  else
    let v := mapCalc (f.sub % 64) (f.sub / 64) f.rnd f.sat a.payload.toNat b.payload.toNat c.payload.toNat
    ([dataTok v.1], v.2)

/-- MAP_FIRE. -/
def execMapFire (row col : Nat) (s : State) : Host.Outcome State Fault Refusal :=
  s.operator row col 0 fun f =>
    if f.mayFire then some fun s =>
      let rs := (List.range (f.need 0)).map fun j => f.mapOne s j
      let out := fitRate s (f.need 0) (f.rateOut 0) (rs.map (·.1))
      (s.updFe row col fun f => (f.takeAll.send 0 out).nextElem).orFlags (rs.foldl (fun x r => x ||| r.2) 0)
    else none

/-! ### SFN (R184) -/

/-- SFN_FIRE. -/
def execSfnFire (row col : Nat) (s : State) : Host.Outcome State Fault Refusal :=
  s.operator row col 1 fun f =>
    if f.mayFire then some fun s =>
      let rs := (f.group 0).map fun t =>
        if t.isVoid then (voidTok, (0 : FFlags))
        else
          let v := sfn f.sub t.payload.toNat
          (dataTok v.1, v.2)
      let out := fitRate s (f.need 0) (f.rateOut 0) (rs.map fun r => [r.1])
      (s.updFe row col fun f => (f.takeAll.send 0 out).nextElem).orFlags (rs.foldl (fun x r => x ||| r.2) 0)
    else none

/-! ### RED (R185) -/

/-- One step of a reduction. -/
def redOp (sub : Nat) (rnd : Rnd) (sat : Bool) (p x : Nat) : Nat × FFlags :=
  let n (v : Int) : Nat × FFlags := (narrow 32 sat v, 0)
  match sub with
  | 0 => fAdd fp32 rnd p x
  | 1 => n (signedOf 32 p + signedOf 32 x)
  | 2 => fMinMax fp32 false p x
  | 3 => fMinMax fp32 true p x
  | 4 => n (min (signedOf 32 p) (signedOf 32 x))
  | 5 => n (max (signedOf 32 p) (signedOf 32 x))
  | 6 => (p &&& x, 0)
  | 7 => (p ||| x, 0)
  | 8 => (p ^^^ x, 0)
  | _ => ((p + x) % 2 ^ 32, 0)

/-- A token folded into a copy's partial; a copy with none takes the token, or 1 where tokens are counted. -/
def redFold (f : Fe) (acc : Option Word × FFlags) (t : Token) : Option Word × FFlags :=
  if t.isVoid then acc
  else
    let x := if f.sub == 9 then 1 else t.payload.toNat
    match acc.1 with
    | none => (some (BitVec.ofNat 32 x), acc.2)
    | some p =>
      let v := redOp f.sub f.rnd f.sat p.toNat x
      (some (BitVec.ofNat 32 v.1), acc.2 ||| v.2)

/-- RED_FIRE. -/
def execRedFire (row col : Nat) (s : State) : Host.Outcome State Fault Refusal :=
  s.operator row col 2 fun f =>
    if f.readyAll && f.roomRate then some fun s =>
      let k := f.copyOf
      let v := (f.group 0).foldl (redFold f) (f.op.partials.getD k none, 0)
      (s.updFe row col fun f =>
        let f := f.takeAll.nextElem
        { f with op := { f.op with partials := updAt f.op.partials k fun _ => v.1 } }).orFlags v.2
    else none

/-- The partials of the copies combined left to right, empty ones skipped (R180). -/
def redTotal (f : Fe) : Nat × FFlags :=
  (f.op.partials.filterMap id).foldl (fun (acc : Option Nat × FFlags) p =>
    match acc.1 with
    | none => (some p.toNat, acc.2)
    | some q =>
      let v := redOp f.sub f.rnd f.sat q p.toNat
      (some v.1, acc.2 ||| v.2)) (none, 0) |> fun r => (r.1.getD (f.param 0), r.2)

/-! ### STEER (R186) -/

/-- The test of a datum; `q` is the token of IN1 taken with it. -/
def steerTest (f : Fe) (t q : Token) : Bool × FFlags :=
  let x := t.payload.toNat
  let k := f.param 0
  if t.isVoid then (false, 0)
  else match f.sub with
    | 0 => (!q.isVoid && q.payload != 0, 0)
    | 1 => (x == k, 0)
    | 2 => (x != k, 0)
    | 3 => (signedOf 32 x < signedOf 32 k, 0)
    | 4 => (signedOf 32 k ≤ signedOf 32 x, 0)
    | 5 => fLt fp32 x k
    | _ => fLe fp32 k x

/-- STEER_FIRE. The NV of its f32 comparisons goes to FPSTAT (Log 124). -/
def execSteerFire (row col : Nat) (s : State) : Host.Outcome State Fault Refusal :=
  s.operator row col 3 fun f =>
    if f.readyAll && f.outs.all (fun k => max (f.rateOut k) (f.need 0) ≤ f.emitRoom k) then some fun s =>
      let rs := (List.range (f.need 0)).map fun j =>
        let t := f.operand s 0 j voidTok
        (t, steerTest f t (f.operand s 1 j voidTok))
      let sent (b : Bool) : List Token := (rs.filter fun r => r.2.1 == b).map (·.1)
      (s.updFe row col fun f => (f.takeAll.send 0 (sent false)).send 1 (sent true)).orFlags
        (rs.foldl (fun x r => x ||| r.2.2) 0)
    else none

/-! ### MERGE (R187) -/

/-- The input that MERGE takes from next, with whether IN2 gives a token too. -/
def Fe.mergePick (f : Fe) : Option Nat :=
  if f.sub == 0 then
    match f.head 2 with
    | some q => if !q.isData then none
      else
        let i := if !q.isVoid && q.payload != 0 then 1 else 0
        if f.ready i then some i else none
    | none => none
  else
    match f.ready 0, f.ready 1 with
    | true, true => some (if f.op.last then 0 else 1)
    | true, false => some 0
    | false, true => some 1
    | false, false => none

/-- MERGE_FIRE. -/
def execMergeFire (row col : Nat) (s : State) : Host.Outcome State Fault Refusal :=
  s.operator row col 4 fun f =>
    match f.mergePick with
    | some i =>
      if max (f.rateOut 0) (f.need i) ≤ f.emitRoom 0 then some fun s =>
        s.updFe row col fun f =>
          let ts := f.group i
          let f := f.take i (f.need i)
          let f := if f.sub == 0 then f.take 2 1 else f
          { f.send 0 ts with op := { f.op with last := i == 1 } }
      else none
    | none => none

/-! ### CARRY (R188) -/

/-- CARRY_FIRE. -/
def execCarryFire (row col : Nat) (s : State) : Host.Outcome State Fault Refusal :=
  s.operator row col 5 fun f =>
    let busy := f.op.busy
    let src := if busy then 1 else 0
    let use2 := (f.side 2).isSome && (if f.sub == 1 then busy else !busy)
    let n := f.need src
    let q := (f.head 2).getD voidTok
    let v := if q.isVoid then 0 else q.payload.toNat
    let cnt := if use2 then v else f.param 0
    let done := if busy then (if f.sub == 0 then f.op.limit ≤ f.op.iter else v != 0) else f.sub == 0 && cnt == 0
    let lvl := f.param 1 % 8
    let fin := busy && done && lvl != 0
    if f.ready src && (!use2 || q.isData && (f.head 2).isSome) && f.roomRate &&
        n ≤ f.emitRoom (if done then 1 else 0) && (!fin || 1 ≤ f.emitRoom 0) then some fun s =>
      s.updFe row col fun f =>
        let ts := f.group src
        let f := f.take src n
        let f := if use2 then f.take 2 1 else f
        let f := f.send (if done then 1 else 0) ts
        let f := if fin then f.send 0 [endTok lvl 0] else f
        { f with op := { f.op with
          busy := !done
          iter := if busy then f.op.iter + 1 else 1
          limit := if busy then f.op.limit else cnt } }
    else none

/-! ### GEN (R189) -/

/-- The extents of the four dimensions. -/
def Fe.extent (f : Fe) (d : Nat) : Nat := f.param (1 + d / 2) / 2 ^ (16 * (d % 2)) % 2 ^ 16
def Fe.gstep (f : Fe) (d : Nat) : Int := signedOf 16 (f.param (3 + d / 2) / 2 ^ (16 * (d % 2)) % 2 ^ 16)

/-- LIM. -/
def Fe.lim (f : Fe) : Nat := bitsOf (f.param 5) 31 21

/-- The token of the sweep at position `i`. -/
def Fe.genToken (f : Fe) (i : List Nat) : Token :=
  let at_ (d : Nat) : Int := i.getD d 0
  let x0 := signedOf 8 (f.param 5 % 2 ^ 8) + at_ 0
  let x1 := signedOf 8 (bitsOf (f.param 5) 15 8) + at_ 1
  let b0 : Nat := f.param 6 % 2 ^ 16
  let b1 : Nat := f.param 6 / 2 ^ 16
  let inside := (b0 == 0 || 0 ≤ x0 && x0 < b0) && (b1 == 0 || 0 ≤ x1 && x1 < b1)
  let v := (f.param 0 : Int) +
    (x0 * f.gstep 0 + x1 * f.gstep 1 + at_ 2 * f.gstep 2 + at_ 3 * f.gstep 3) * (2 ^ bitsOf (f.param 5) 18 16 : Nat)
  if inside then dataTok (intBits 32 v)
  else if bitOf (f.param 5) 20 then dataTok (f.param 7) else voidTok

/-- The position after `i`, and the number of dimensions that ended. -/
def Fe.genNext (f : Fe) (i : List Nat) : List Nat × Nat :=
  ((List.range 4).foldl (fun (acc : List Nat × Nat × Bool) d =>
    if acc.2.2 then
      if i.getD d 0 + 1 < f.extent d then (acc.1 ++ [i.getD d 0 + 1], acc.2.1, false)
      else (acc.1 ++ [0], acc.2.1 + 1, true)
    else (acc.1 ++ [i.getD d 0], acc.2.1, false)) ([], 0, true)) |> fun r => (r.1, r.2.1)

/-- GEN_EMIT: the next token of the sweep; an end token that follows a datum waits in `outq`. -/
def execGenEmit (row col : Nat) (s : State) : Host.Outcome State Fault Refusal :=
  s.operator row col 6 fun f =>
    match f.op.outq with
      | t :: q => if f.emitRoom 0 == 0 then none else some fun s => s.updFe row col fun f =>
          { f.send 0 [t] with op := { f.op with outq := q } }
      | [] =>
        if f.op.fin || f.emitRoom 0 == 0 || !f.roomRate then none
        else if f.lim != 0 && f.op.idx.getD 3 0 == f.lim then some fun s => s.updFe row col fun f =>
          { f.send 0 [endTok 7 f.op.count] with op := { f.op with fin := true } }
        else some fun s => s.updFe row col fun f =>
          let n := f.op.count + 1
          let x := f.genNext f.op.idx
          { f.send 0 [f.genToken f.op.idx] with op := { f.op with
            idx := x.1, count := n, fin := x.2 == 4
            outq := if x.2 == 0 then [] else if x.2 == 4 then [endTok 7 n] else [endTok x.2 0] } }

/-! ### SEG (R193) -/

/-- TAU admits element `y` in the run led by `l`. -/
def segNear (bf : Bool) (tau l y : Nat) : Bool :=
  if bf then
    match bf16.val y, bf16.val l, bf16.val tau with
    | .fin sy my ey, .fin sl ml el, .fin _ mt et =>
      let q := min ey (min el et)
      (signedAt sy my ey q - signedAt sl ml el q).natAbs ≤ mt * 2 ^ (et - q).toNat
    | _, _, _ => false
  else (signedOf 16 y - signedOf 16 l).natAbs ≤ tau

/-- The length of the run that begins a list: the lead and those near it. -/
def runLen (bf : Bool) (tau l : Nat) : List Nat → Nat
  | [] => 0
  | y :: t => if segNear bf tau l y then runLen bf tau l t + 1 else 0

/-- The segments of a block from position `i`. -/
def segments (bf : Bool) (tau : Nat) (zd : Bool) : Nat → Nat → List Nat → List Nat
  | 0, _, _ => []
  | _, _, [] => []
  | n + 1, i, l :: t =>
    let k := runLen bf tau l t
    let zero := if bf then l % 2 ^ 15 == 0 else l == 0
    let rest := segments bf tau zd n (i + 1 + k) (t.drop k)
    if zd && zero then rest else ((i + 1 + k) * 2 ^ 22 + i * 2 ^ 16 + l) :: rest

/-- The tokens of one coded block, without its end token. -/
def segCode (f : Fe) (xs : List Nat) : List Token :=
  let bf := f.sub == 1
  let tau := if bf then f.param 0 % 2 ^ 16 else f.param 0 % 2 ^ 8
  let thr := if f.param 2 % 128 == 0 then 16 else f.param 2 % 128
  let segs := segments bf tau (bitOf (f.param 2) 8) 64 0 xs
  if thr < segs.length then dataTok 0x20000000 :: xs.map dataTok
  else if segs.isEmpty then [dataTok 0x40000000]
  else segs.map dataTok

/-- Elements of a token: four INT8 sign-extended to 16 bits, or two BF16. -/
def segElems (bf : Bool) (t : Token) : List Nat :=
  let v := if t.isVoid then 0 else t.payload.toNat
  if bf then [v % 2 ^ 16, v / 2 ^ 16]
  else (List.range 4).map fun i => intBits 16 (signedOf 8 (v / 2 ^ (8 * i) % 2 ^ 8))

/-- One token buffered by copy `k`; a whole block is coded. -/
def segTake (k : Nat) (f : Fe) (t : Token) : Fe :=
  let bf := f.sub == 1
  let b := f.op.bufs.getD k [] ++ [t]
  if b.length * (if bf then 2 else 4) < 64 then { f with op := { f.op with bufs := updAt f.op.bufs k fun _ => b } }
  else
    let n := f.op.blks.getD k 0 + 1
    let kb := max 1 (f.param 1 % 2 ^ 16)
    { f with op := { f.op with
      bufs := updAt f.op.bufs k fun _ => []
      blks := updAt f.op.blks k fun _ => n
      outq := f.op.outq ++ segCode f (b.flatMap (segElems bf)) ++ [endTok (if n % kb == 0 then 2 else 1) 0] } }

/-- The head of `outq` goes to OUT0. -/
def Fe.sendOne (f : Fe) : Fe :=
  match f.op.outq with
  | [] => f
  | t :: q => { f.send 0 [t] with op := { f.op with outq := q } }

/-- SEG_FIRE: one word of the last block, or a firing's tokens once they are gone. -/
def execSegFire (row col : Nat) (s : State) : Host.Outcome State Fault Refusal :=
  s.operator row col 8 fun f =>
    if !f.op.outq.isEmpty then
      if f.emitRoom 0 == 0 then none else some fun s => s.updFe row col Fe.sendOne
    else if f.readyAll && f.roomRate then some fun s => s.updFe row col fun f =>
      ((f.group 0).foldl (segTake f.copyOf) f.takeAll).nextElem
    else none

/-! ### SHUF (R194) -/

/-- A token shifted into the window of SUB 0: the taps it sends, by output. A void token is passed in place of the
result (R181); that it does not enter the window, and is passed while the window fills, is log 98 (DESIGN CHOICE). -/
def winTake (f : Fe) (t : Token) : Fe :=
  let w := f.param 0 % 64
  if t.isVoid then f.sendAll [t]
  else
  let reg := (t :: f.op.reg).take w
  let f := { f with op := { f.op with reg } }
  if reg.length < w then f
  else f.outs.foldl (fun f k => f.send k [reg.getD (bitsOf (f.param 1) (8 * k + 7) (8 * k)) voidTok]) f

/-- IDX_j of SUB 1. -/
def Fe.permIdx (f : Fe) (j : Nat) : Nat :=
  if j < 8 then bitsOf (f.param 0) (4 * j + 3) (4 * j) else bitsOf (f.param 1) (4 * j - 29) (4 * j - 32)

/-- A token gathered by SUB 2: a complete group leaves column-major. A void token counts as data 0 (R181). -/
def xposeTake (f : Fe) (t : Token) : Fe :=
  let a := f.param 0 % 16
  let b := bitsOf (f.param 0) 7 4
  let g := f.op.bufs.getD 0 [] ++ [if t.isVoid then dataTok 0 else t]
  if g.length < a * b then { f with op := { f.op with bufs := [g] } }
  else { f with op := { f.op with
    bufs := [[]]
    outq := f.op.outq ++ (List.range b).flatMap fun j => (List.range a).map fun i => g.getD (i * b + j) voidTok } }

/-- SHUF_FIRE. -/
def execShufFire (row col : Nat) (s : State) : Host.Outcome State Fault Refusal :=
  s.operator row col 9 fun f =>
    match f.sub with
    | 0 => if f.readyAll && f.outs.all (fun k => max (f.rateOut k) (f.need 0) ≤ f.emitRoom k) then some fun s =>
        s.updFe row col fun f => (f.group 0).foldl winTake f.takeAll
      else none
    | 1 =>
      let n := f.permCount
      if f.readyAll && f.roomRate && n ≤ f.emitRoom 0 then some fun s => s.updFe row col fun f =>
        let g := (f.win 0).take n
        ((f.take 0 n).send 0 ((List.range n).map fun j => g.getD (f.permIdx j) voidTok)).nextElem
      else none
    | _ =>
      if !f.op.outq.isEmpty then
        if f.emitRoom 0 == 0 then none else some fun s => s.updFe row col Fe.sendOne
      else if f.readyAll && f.roomRate then some fun s => s.updFe row col fun f => (f.group 0).foldl xposeTake f.takeAll
      else none

/-! ### CONV (R195) -/

/-- One element converted by R69: a pair of R53 or of R84. -/
def convElem (sf df : Nat) (rnd : Rnd) (sat : Bool) (x : Nat) : Nat × FFlags :=
  let g := if df == 1 then bf16 else fp32
  match sf with
  | 0x80 => fConv fp16 g rnd x
  | 0x0A => fromOfp8 true g x
  | 0x0B => fromOfp8 false g x
  | _ => convertElem sf df rnd sat x

/-- A number as tokens of 4 bytes. -/
def wordToks (v n : Nat) : List Token := (List.range n).map fun i => dataTok (v / 2 ^ (32 * i) % 2 ^ 32)

/-- A group of tokens as one little-endian number; void counts as 0. -/
def toksNat : List Token → Nat
  | [] => 0
  | t :: q => (if t.isVoid then 0 else t.payload.toNat) + 2 ^ 32 * toksNat q

/-- SUB 0 on a group: the tokens of the converted elements, with flags. -/
def convGroup (f : Fe) (g : List Token) : List Token × FFlags :=
  let sf := f.param 0 % 256
  let df := bitsOf (f.param 0) 15 8
  let sw := recWidth sf
  let dw := recWidth df
  let n := 4 * g.length / sw
  let x := toksNat g
  let rs := (List.range n).map fun i => convElem sf df f.rnd f.sat (x / 2 ^ (8 * sw * i) % 2 ^ (8 * sw))
  let v := rs.zipIdx.foldl (fun a r => a + r.1.1 * 2 ^ (8 * dw * r.2)) 0
  (wordToks v (n * dw / 4), rs.foldl (fun a r => a ||| r.2) 0)

/-- A tile's head with another format byte, exponents and count. -/
def headTok (fmt e0 e1 cnt : Nat) : Token :=
  ⟨10, BitVec.ofNat 32 (fmt + e0 * 2 ^ 8 + e1 * 2 ^ 16 + cnt * 2 ^ 24)⟩

def tailTok (n : Nat) : Token := ⟨11, BitVec.ofNat 32 n⟩

/-- The format codes of a tile head or record (R289). -/
def tileCodes : List Nat := [1, 2, 3, 4, 5, 6, 7, 8, 9, 10, 11]

/-- A whole tile: head, data tokens and tail count. `none` where head, count or mask do not match (reason 7). -/
def convTile (f : Fe) (head : Token) (ds : List Token) (tail : Nat) : Option (List Token × FFlags) :=
  let h := head.payload.toNat
  let fmt := h % 256
  let cnt := bitsOf h 31 24
  let x := toksNat ds
  if !tileCodes.contains fmt || tail != ds.length || (cnt != 0 && 8 * cnt != ds.length) then none
  else match f.sub with
    | 1 =>
      let four := fmt == 5
      let df := bitsOf (f.param 0) 15 8
      let g := if df == 1 then bf16 else fp32
      let dw := if df == 1 then 2 else 4
      if (fmt == 4 || fmt == 5) && ds.length == (if four then 4 else 8) then
        let w := if four then 4 else 8
        let rs := (List.range 32).map fun i =>
          debExpand four g (bitsOf h 15 8) (bitsOf h 23 16) (signedOf 8 (f.param 1 % 256)) (x / 2 ^ (w * i) % 2 ^ w)
        let v := rs.zipIdx.foldl (fun a r => a + r.1.1 * 2 ^ (8 * dw * r.2)) 0
        some (headTok df 0 0 dw :: wordToks v (8 * dw) ++ [tailTok (8 * dw)], rs.foldl (fun a r => a ||| r.2) 0)
      else none
    | 2 =>
      let mask := x % 2 ^ 512
      let m := ((List.range 512).filter (bitOf mask ·)).length
      if 16 ≤ ds.length && ds.length == 16 + (m + 1) / 2 then
        let bs := bmvFill mask 512 0 (toBytes (x / 2 ^ 512) (2 * m))
        some (headTok fmt (bitsOf h 15 8) (bitsOf h 23 16) 32 :: wordToks (ofBytes bs) 256 ++ [tailTok 256], 0)
      else none
    | _ =>
      if ds.length == 256 then
        let bs := bmvEncode (toBytes x 1024)
        let n := (bs.length + 3) / 4
        some (headTok fmt (bitsOf h 15 8) (bitsOf h 23 16) 0 :: wordToks (ofBytes bs) n ++ [tailTok n], 0)
      else none

/-- One token of a tile: gathered, or at the tail the whole tile converted; reason 7 where it is malformed. -/
def Fe.tileTake (f : Fe) (t : Token) : Except Unit (Fe × FFlags) :=
  let g := f.op.bufs.getD 0 []
  let f := f.take 0 1
  let keep (g : List Token) : Fe := { f with op := { f.op with bufs := updAt f.op.bufs 0 fun _ => g } }
  if t.kind = 10 then (if g.isEmpty then .ok (keep [t], 0) else .error ())
  else match g with
    | [] => .error ()
    | h :: ds =>
      if t.kind = 11 then
        match convTile f h ds t.payload.toNat with
        | none => .error ()
        | some r =>
          let f := keep []
          .ok ({ f with op := { f.op with outq := r.1 } }, r.2)
      else .ok (keep (g ++ [t]), 0)

/-- Tokens of a tile taken one after another; reason 7 ends them. -/
def Fe.tileTakes (f : Fe) : List Token → Except Unit (Fe × FFlags)
  | [] => .ok (f, 0)
  | t :: q =>
    match f.tileTake t with
    | .error e => .error e
    | .ok (f, fl) =>
      match f.tileTakes q with
      | .error e => .error e
      | .ok (f, gl) => .ok (f, fl ||| gl)

/-- What a firing of CONV takes from a tile: its head or tail, or the rate's data tokens, fewer only where the tile's tail
or another head cuts them off. -/
def Fe.tileGroup (f : Fe) : List Token :=
  let q := f.win 0
  let g := (q.takeWhile Token.isData).take (f.need 0)
  let frame (t : Token) : Bool := t.kind = 10 || t.kind = 11
  match q.drop g.length with
  | t :: _ => if g.isEmpty then (if frame t then [t] else []) else if g.length == f.need 0 || frame t then g else []
  | [] => if g.length == f.need 0 then g else []

/-- CONV_FIRE. -/
def execConvFire (row col : Nat) (s : State) : Host.Outcome State Fault Refusal :=
  s.operator row col 10 fun f =>
    if f.sub == 0 then
      if f.mayFire then some fun s =>
        let r := convGroup f (f.group 0)
        (s.updFe row col fun f => (f.takeAll.send 0 r.1).nextElem).orFlags r.2
      else none
    else if !f.op.outq.isEmpty then
      if f.emitRoom 0 == 0 then none else some fun s => s.updFe row col Fe.sendOne
    else if f.tileGroup.isEmpty || !f.roomRate then none
    else some fun s =>
      match f.tileTakes f.tileGroup with
      | .error _ => s.contain row col 0x08 7 0 0
      | .ok (g, fl) => (s.updFe row col fun _ => g).orFlags fl

/-! ### FORK (R196) -/

/-- The group that lane `i` of `align` passes: its rate's tokens, fewer only where an end token, which passes in its place,
cuts them off. -/
def Fe.laneGroup (f : Fe) (i : Nat) : List Token :=
  let q := f.win i
  let g := (q.takeWhile Token.passes).take (f.need i)
  match q.drop g.length with
  | t :: _ => if g.length == f.need i || t.isEnd || t.isErr then g else []
  | [] => if g.length == f.need i then g else []

/-- The lanes of `align` that can pass a group. -/
def Fe.lanesReady (f : Fe) : List Nat :=
  f.slots.filter fun i => !(f.laneGroup i).isEmpty && max (f.rateOut i) (f.need i) ≤ f.emitRoom i

/-- The lanes of `align` that can pass the end token at their head. -/
def Fe.lanesShow (f : Fe) (p : Token → Bool) : List Nat :=
  f.slots.filter fun i => (match f.head i with
    | some t => p t
    | none => false) && 1 ≤ f.emitRoom i

/-- Tokens of each lane in `is` passed on: its group, or its head. -/
def Fe.passLanes (f : Fe) (is : List Nat) : Fe :=
  is.foldl (fun f i =>
    let g := if (f.laneGroup i).isEmpty then (f.win i).take 1 else f.laneGroup i
    (f.take i g.length).send i g) f

/-- FORK_FIRE. -/
def execForkFire (row col : Nat) (s : State) : Host.Outcome State Fault Refusal :=
  s.operator row col 11 fun f =>
    if f.sub == 0 then
      let g := f.group 0
      if g.length == f.need 0 && g.all Token.passes && f.outs.all (fun k => max (f.rateOut k) (f.need 0) ≤ f.emitRoom k) then
        some fun s => s.updFe row col fun f => f.takeAll.sendAll g
      else none
    else
      let is := f.lanesReady
      if is.isEmpty then none else some fun s => s.updFe row col fun f => f.passLanes is

/-! ### End tokens (R159) -/

/-- FORK `align`, which aligns no end tokens. -/
def Fe.isAlign (f : Fe) : Bool := f.code == 11 && f.sub == 1

/-- The inputs over which end tokens are aligned. -/
def Fe.endInputs (f : Fe) : List Nat :=
  if f.code == 5 then (if f.op.busy then (if f.sub == 1 then [1, 2] else [1])
    else if f.sub == 0 && (f.side 2).isSome then [0, 2] else [0])
  else f.slots

/-- The inputs whose heads decide whether ends and data clash: for MERGE `pred`, IN2 and the input it selects. -/
def Fe.clashInputs (f : Fe) : List Nat :=
  if f.code == 4 && f.sub == 0 then
    match f.head 2 with
    | some q => if q.isData then [2, if !q.isVoid && q.payload != 0 then 1 else 0] else [0, 1, 2]
    | none => []
  else f.endInputs

def Fe.headIs (f : Fe) (p : Token → Bool) (i : Nat) : Bool :=
  match f.head i with
  | some t => p t
  | none => false

/-- The level shown at input `i`; 0 for none. -/
def Fe.endAt (f : Fe) (i : Nat) : Nat :=
  match f.head i with
  | some t => if t.isEnd then t.kind.toNat else 0
  | none => 0

/-- MERGE `arrv`, whose ends hold one input while the other goes on. -/
def Fe.isArrv (f : Fe) : Bool := f.code == 4 && f.sub == 1

/-- Fewer data tokens than a firing takes stand ahead of a token that `p` selects. -/
def Fe.shortOf (f : Fe) (p : Token → Bool) (i : Nat) : Bool :=
  let q := f.win i
  let n := (q.takeWhile f.counts).length
  0 < n && n < f.need i && (match (q.drop n).head? with
    | some t => p t
    | none => false)

/-- The fabric reason that an end token raises; 0 for none. -/
def Fe.endReason (f : Fe) : Nat :=
  let is := f.clashInputs
  let lv := (is.map f.endAt).filter (· != 0)
  if f.code == 5 && f.headIs Token.isEnd 1 then 6
  else if f.endInputs.any (f.shortOf Token.isEnd) then (if (f.code == 9 && f.sub != 0) || f.code == 10 then 7 else 4)
  else if lv.any (fun l => l != lv.getD 0 0) || (!lv.isEmpty && !f.isArrv && is.any (f.headIs Token.isData)) then 3
  else if f.headIs Token.isEnd 0 then
    match f.code with
    | 8 => if f.op.bufs.any (fun b => !b.isEmpty) ||
          (f.endAt 0 == 7 && f.op.blks.any fun n => n % (max 1 (f.param 1 % 2 ^ 16)) != 0) then 4 else 0
    | 9 => if f.sub == 2 && f.op.bufs.any (fun b => !b.isEmpty) then 7 else 0
    | 10 => if f.op.bufs.any (fun b => !b.isEmpty) then 7 else 0
    | _ => 0
  else 0

/-- What an operator emits before the end token of level `l`, and what the end leaves of its state (R185, R191,
R193, R194). MEM `exit` is not among them. -/
def Fe.atEnd (f : Fe) (l : Nat) : List Token × FFlags × Fe :=
  match f.code with
  | 2 =>
    if l < f.param 2 % 8 then ([], 0, f)
    else
      let v := redTotal f
      ([dataTok v.1], v.2, { f with op := { f.op with partials := f.opInit.partials } })
  | 7 => ([], 0, if l == 7 then { f with op := { f.op with k := 0 } } else f)
  | 9 =>
    if f.sub == 0 && bitsOf (f.param 2) 2 0 ≤ l then ([], 0, { f with op := { f.op with reg := [] } }) else ([], 0, f)
  | _ => ([], 0, f)

/-! ### Error ends (R159) -/

/-- The state an operator keeps when an error end passes: it begins a new stream, a partial tile or group
discarded (R115). -/
def Fe.abandon (f : Fe) : Fe := { f with op := { f.opInit with elem := f.op.elem, lastBar := f.op.lastBar, last := f.op.last } }

/-- ERROR_END_PASS: behind what the operator has formed whole, data tokens cut off by the error end go with it; the other
inputs discard. At a MEM operator it passes ahead of the replies that requests sent before it have still to bring. Log 143
(DESIGN CHOICE). -/
def execErrorEndPass (row col : Nat) (s : State) : Host.Outcome State Fault Refusal :=
  let f := s.fe row col
  if !s.feActive row col then .next s
  else if f.isAlign then .next (s.updFe row col fun f => f.passLanes (f.lanesShow Token.isErr))
  else
    let shown (i : Nat) : Bool := f.headIs Token.isErr i || f.shortOf Token.isErr i
    match f.slots.find? shown with
    | none => .next s
    | some i =>
      if !f.roomAll 1 || !f.op.outq.isEmpty then .next s
      else
        let n := ((f.win i).takeWhile f.counts).length
        let t := ((f.win i).getD n voidTok)
        .next (s.updFe row col fun f =>
          let f := f.abandon.take i (n + 1)
          let ds := (List.range 3).map fun j => f.discard.getD j false || (j != i && f.slots.contains j)
          (Fe.purgeAll { f with discard := ds }).sendAll [t])

/-! ### Barriers (R160) -/

/-- The barrier inputs. -/
def Fe.barInputs (f : Fe) : List Nat :=
  if f.code == 5 then (if f.sub == 0 && (f.side 2).isSome then [0, 2] else [0]) else f.slots

/-- The inputs of a CARRY at which a barrier that returns is discarded (R188). -/
def Fe.backInputs (f : Fe) : List Nat :=
  if f.code == 5 then (if f.sub == 1 then [1, 2] else [1]) else []

def Fe.barAt (f : Fe) (i : Nat) : Option Byte :=
  match f.head i with
  | some t => if t.isBar then some t.barId else none
  | none => none

/-- BARRIER_ALIGN. -/
def execBarrierAlign (row col : Nat) (s : State) : Host.Outcome State Fault Refusal :=
  let f := s.fe row col
  let ids := f.barInputs.filterMap f.barAt
  if !s.feActive row col then .next s
  else match f.backInputs.find? fun i => (f.barAt i).isSome with
    | some i =>
      if f.barAt i = f.op.lastBar then .next (s.updFe row col fun f => f.take i 1)
      else .next (s.contain row col 0x08 5 0 0)
    | none =>
      if f.slots.any (f.shortOf Token.isBar) then .next (s.contain row col 0x08 4 0 0)
      else match ids with
        | [] => .next s
        | id :: rest =>
          if rest.any fun x => x != id then .next (s.contain row col 0x08 5 0 0)
          else if ids.length < f.barInputs.length || !f.op.outq.isEmpty || !s.noReqs (.fe row col) ||
              (f.code == 5 && f.op.busy) || !f.roomAll 1 then .next s
          else
            let t := (f.head (f.barInputs.getD 0 0)).getD voidTok
            let s := s.updFe row col fun f =>
              let f := f.barInputs.foldl (fun f i => f.take i 1) f
              { f.sendAll [t] with op := { f.op with lastBar := some id } }
            .next (if f.outs.isEmpty then s.sinkReached (.fe row col) id else s)

end Sys2Proof.Machine
end

