-- ==== Sys2Proof/Machine/Party.lean ====
section
/-! DEFINITION. Accesses of the parties of the fabric, the MEM operators, lanes, engines and the TMU: what each
check gives them (R34, R120, R122, R126, R257, R269, R324, R333), and the stall of a request. -/

namespace Sys2Proof.Machine

/-- What an access of a party comes to: a value; a wait for a loan or a layout; a stall on a translation fault;
or a fault that contains or seals the party, with its cause, address and detail. -/
inductive Got (α : Type) where
  | ok (v : α) (s : State)
  | wait (s : State)
  | stall (va reason level : Nat) (s : State)
  | fail (cause addr det : Nat) (s : State)

/-- The state of an outcome changed. -/
def Got.on {α : Type} (g : Got α) (f : State → State) : Got α :=
  match g with
  | .ok v s => .ok v (f s)
  | .wait s => .wait (f s)
  | .stall a r l s => .stall a r l (f s)
  | .fail c a d s => .fail c a d (f s)

/-- A fault as a party meets it: translation stalls; a hole, permission or memory type is cause 0x05, and so is a page with
S = 1 (reason 7), which R269 does not name. Log 102 (DESIGN CHOICE). -/
def Flt.got {α : Type} (f : Flt) (s : State) : Got α :=
  if f.cause == 4 && f.reason != 9 then .stall f.addr f.reason (f.detail / 256) s
  else if f.cause == 4 then .fail 5 f.addr 9 s
  else if f.cause == 5 || f.cause == 0x1C then .fail 5 f.addr 0 s
  else .fail f.cause f.addr 0 s

/-- A party stalls on a fault of a page of a set (R120). -/
def Flt.stalls {α : Type} (f : Flt) (s : State) : Got α := .stall f.addr f.reason (f.detail / 256) s

/-- The loan checks of a party's access to a place, the undo log written before a write. -/
def State.partyTouch (s : State) (va n : Nat) (kind : AccKind) (pl : Place) : Touch :=
  (s.touch true (s.canon va) n va kind (s.freePlace pl)).logged kind [(s.canon va, n)] va

/-- A fault of the page that an access of a party names. Where the access is the first touch of a set, of which the page is
one, the party stalls on it (R120). -/
def State.partyFlt {α : Type} (s : State) (k : AccKind) (va n : Nat) (f : Flt) : Got α :=
  let t := s.filled s.ctx va
  match t.touch true (s.canon va) n va k true with
  | .stall g t => g.stalls t
  | _ => f.got t

/-- `n` bytes at a resolved place read. -/
def State.placeRead (s : State) (pl : Place) (va n : Nat) : Got Nat :=
  match s.placePoison pl n with
  | some k => .fail 0x17 va 0 (s.eccHit k)
  | none => match pl with
    | .own off => .ok (s.ownRead off n) s
    | .page c t off =>
      if (s.pageAt c t).lock then .wait s
      else match s.pageRead c t off n with
        | some v => .ok v s
        | none => .fail 0x19 va (off / 1024) s
    | pl => .ok (s.rd (pl.key s) n) s

/-- Pieces of one access written at a resolved place, each at its offset, with its length and value: all of them, or
none where one may not be. A whole tile is compressed as it arrives; a part is a read-modify-write of its tile (R49). -/
def State.placePut (s : State) (pl : Place) (va : Nat) (ps : List (Nat × Nat × Nat)) : Got Unit :=
  match pl with
  | .own off =>
    if ps.any fun p => s.ownStoreRefused (off + p.1) then .fail 5 va 0 s
    else match ps.find? fun p => (Place.own off).plain && s.partPoisoned (scratchKey s.coreId (off + p.1)) p.2.1 with
      | some p => .fail 0x17 va 0 (s.eccHit (scratchKey s.coreId (off + p.1)))
      | none => .ok () (ps.foldl (fun s p => s.ownWrite (off + p.1) p.2.1 p.2.2) s)
  | .page c t off =>
    let i := off / 1024
    let put (bs : List Byte) : Got Unit :=
      match s.tileWrite c t i (ps.foldl (fun bs p => patch bs (off % 1024 + p.1) p.2.1 p.2.2) bs) with
      | some s => .ok () s
      | none => .fail 0x16 va t s
    if (s.pageAt c t).lock then .wait s
    else if ps.any fun p => off % 1024 + p.1 == 0 && p.2.1 == 1024 then put (List.replicate 1024 0)
    else match s.placePoison pl 1 with
      | some k => .fail 0x17 va 0 (s.eccHit k)
      | none => match s.tileRead c t i with
        | none => .fail 0x19 va i s
        | some bs => put bs
  | pl =>
    if ps.any fun p => s.objProtected (pl.key s + p.1) p.2.1 then .fail 5 va 0 s
    else match ps.find? fun p => s.partPoisoned (pl.key s + p.1) p.2.1 with
      | some p => .fail 0x17 va 0 (s.eccHit (pl.key s + p.1))
      | none => .ok () (ps.foldl (fun s p => s.wr (pl.key s + p.1) p.2.1 p.2.2) s)

/-- `n` bytes at a resolved place written. -/
def State.placeWrite (s : State) (pl : Place) (va n v : Nat) : Got Unit := s.placePut pl va [(0, n, v)]

/-- One access of a party, in one block or one tile: it waits while its page's walk is in flight (R32) or no Span port is
up for it (R338), is resolved and touched, and then performed. While no task runs it is not made: it stands with its address
until it is discarded (R321, `State.stallUnit`). -/
def State.partyAccess {α : Type} (s : State) (k : AccKind) (va n : Nat) (act : Place → State → Got α) : Got α :=
  if s.task.isNone then .stall va 0 0 s
  else if s.walkHeld s.ctx va then .wait s
  else match s.resolve s.ctx (fabAcc k n) va with
  | .error f => s.partyFlt k va n f
  | .ok r =>
    match (s.fillRes r).partyTouch va n k r.pl with
    | .fault f s => f.got s
    | .stall f s => f.stalls s
    | .wait s => .wait s
    | .ok s => if s.reaches s.ctx r.pl va then act r.pl s else .wait s

/-- One access that reads. -/
def State.partyRead (s : State) (va n : Nat) : Got Nat := s.partyAccess .load va n fun pl s => s.placeRead pl va n

/-- One access that writes. -/
def State.partyWrite (s : State) (va n v : Nat) : Got Unit :=
  s.partyAccess .store va n fun pl s => s.placeWrite pl va n v

/-- One access of `n` bytes that writes pieces of them. -/
def State.partyPieces (s : State) (va n : Nat) (ps : List (Nat × Nat × Nat)) : Got Unit :=
  s.partyAccess .store va n fun pl s => s.placePut pl va ps

/-- The pending 0x11 holds back atomics at a bank, whoever makes them: one more than one that matched has
been performed there (R332). -/
def State.skidHeld (s : State) (bank : Nat) : Bool :=
  s.core.clerk.pend.any (·.code = 0x11) && (bank, true) ∈ s.skid

/-- ENG of a watchpoint: an atomic performed at `n` bytes from offset `off` of this core's banks, at address `va` of the
party that made it (R332). Each bank at which one matches has its own skid. -/
def State.watchAtomic (s : State) (off va n : Nat) : State :=
  let b := bankOf off
  let before := if s.core.clerk.pend.any (·.code = 0x11) then s.skid else []
  let after := before.map fun x => if x.1 == b then (b, true) else x
  match s.watchHit 19 (globalView + s.coreId * windowSize + off) n with
  | some w => { s.pendWatch va (w + 3 * 16) with
      skid := if before.any fun x => x.1 == b then after else after ++ [(b, false)] }
  | none => { s with skid := after }

/-- Whether an address lies in a compressed page, for an access of kind `k`. -/
def State.inPage (s : State) (k : AccKind) (va : Nat) : Bool :=
  match s.resolve s.ctx (fabAcc k 64) va with
  | .ok ⟨.page _ _ _, _⟩ => true
  | _ => false

/-- The pieces of [va, va + n) that 64-byte blocks cut, or the tiles of a compressed page: a write of a whole tile, and a
read of any part of one (R49). -/
def blocksOf (s : State) (k : AccKind) (va n : Nat) : Nat → List (Nat × Nat)
  | 0 => []
  | fuel + 1 =>
    if n == 0 then []
    else
      let whole := va % 1024 == 0 && 1024 ≤ n
      let m := if (whole || k = .load) && s.inPage k va then min (1024 - va % 1024) n else min (64 - va % 64) n
      (va, m) :: blocksOf s k ((va + m) % 2 ^ 48) (n - m) fuel

/-- The access by which a unit reads the piece `p`: a tile of a compressed page is read whole (R49, R115). -/
def State.readOf (s : State) (p : Nat × Nat) : Nat × Nat := if s.inPage .load p.1 then (p.1 / 1024 * 1024, 1024) else p

/-- What a unit holds of the access `p`. -/
def State.heldOf (s : State) (u : UnitRef) (p : Nat × Nat) : Option (List Byte) :=
  (s.core.fab.held.find? fun x => x.1 = u && x.2.va == p.1 && x.2.len == p.2).map (·.2.bytes)

/-- A unit holds no bytes any more: what it has read for has been done or abandoned. -/
def State.unhold (s : State) (u : UnitRef) : State :=
  s.updFab fun f => { f with held := f.held.filter fun x => !(x.1 = u) }

/-- Bytes read by a unit block by block in ascending order, one access in a step (R36): until the last has been read, what
has been read is held and the unit waits. Rows of one tile of a compressed page come from one access (R115). -/
def State.partyBytes (s : State) (u : UnitRef) (va n : Nat) : Got (List Byte) :=
  let ps := blocksOf s .load (va % 2 ^ 48) n (n / 64 + 2)
  match (ps.map s.readOf).find? fun p => (s.heldOf u p).isNone with
  | some p =>
    match s.partyRead p.1 p.2 with
    | .ok v s => .wait (s.updFab fun f => { f with held := f.held ++ [(u, ⟨p.1, p.2, toBytes v p.2, none⟩)] })
    | .wait s => .wait s
    | .stall a r l s => .stall a r l s
    | .fail c a d s => .fail c a d s
  | none => .ok (ps.flatMap fun p => (((s.heldOf u (s.readOf p)).getD []).drop (p.1 - (s.readOf p).1)).take p.2) s

/-- A value of a few bytes, which lie in one block, read by a unit that holds it. -/
def State.partyValue (s : State) (u : UnitRef) (va n : Nat) : Got Nat :=
  match s.partyBytes u va n with
  | .ok bs s => .ok (ofBytes bs) s
  | .wait s => .wait s
  | .stall a r l s => .stall a r l s
  | .fail c a d s => .fail c a d s

/-- Where a sequence of accesses stands: how many bytes have been performed, and what the last access came to. -/
structure Put where
  done : Nat
  got : Got Unit

/-- The first block of bytes written in ascending order, one access in a step (R36). -/
def State.partyPut (s : State) (va : Nat) (bs : List Byte) : Put :=
  match blocksOf s .store (va % 2 ^ 48) bs.length (bs.length / 64 + 2) with
  | [] => ⟨0, .ok () s⟩
  | p :: _ => match s.partyWrite p.1 p.2 (ofBytes (bs.take p.2)) with
    | .ok v s => ⟨p.2, .ok v s⟩
    | g => ⟨0, g⟩

/-! ### Stalled requests (R34, R323) -/

/-- Unit, column and row of a party in a record. -/
def UnitRef.coord (s : State) (u : UnitRef) : Nat × Nat × Nat :=
  match u with
  | .fe r c => (unitFe, c, r)
  | .lane p => (unitPort, 0, p + 1)
  | .absorb p => (unitPort, 0, p + 1)
  | .me e => (unitMe, 18, 8 * e + 1)
  | .plane e => (unitMe, 18, 8 * e + 1)
  | .tmu => (unitTmu, s.physCol 1, 17)
  | .ce _ => (unitPort, 0, 0)

/-- A party already stalls. -/
def State.stalledAt (s : State) (u : UnitRef) : Bool :=
  s.core.fab.reqs.any fun q => q.who = u && (match q.stage with
    | .stalled _ _ => true
    | _ => false)

/-- A party other than a MEM operator stalls at its request, with a record; `trapret` frees it. Where no task runs there is no
fault to record. -/
def State.stallUnit (s : State) (u : UnitRef) (va reason acc level : Nat) : State :=
  if s.stalledAt u then s
  else
    let x := u.coord s
    let t := if s.task.isNone then (false, s) else s.transRecord va reason acc x.1 x.2.1 x.2.2
    t.2.updFab fun f => { f with
      reqs := f.reqs ++ [Req.mk u 0 .none va 0 (.stalled reason level) t.1 none] }

/-- The address of the access that a party makes next by `act`, if it makes one: what it does with no task running, when it
stands there. -/
def State.asks (s : State) (u : UnitRef) (act : State → State) : Option Nat :=
  let t := act (({ s with task := none } : State).updFab fun f => { f with reqs := [] })
  (t.core.fab.reqs.find? (·.who = u)).map (·.va)

end Sys2Proof.Machine
end

