-- ==== Sys2Proof/Machine/MemOp.lean ====
section
/-! DEFINITION. The MEM operator (R190 to R192): its firings, its requests at their homes (R34, R110, R116, R120),
its entries (R135), and its replies; and the alignment of end tokens, which ends an entry (R159). -/

namespace Sys2Proof.Machine

/-! ### Requests made by a firing -/

/-- BASE of a MEM operator. -/
def Fe.memBase (f : Fe) : Nat := f.param 0 + bitsOf (f.param 1) 15 0 * 2 ^ 32

/-- Bytes of a MEM sub-operation's access. -/
def memWidth (sub : Nat) : Nat :=
  match sub with
  | 0 => 1
  | 1 => 1
  | 2 => 2
  | 3 => 2
  | 5 => 1
  | 6 => 2
  | _ => 4

/-- The signed step of sequential addressing. -/
def Fe.memStride (f : Fe) : Int := if f.param 2 == 0 then (memWidth f.sub : Nat) else signedOf 32 (f.param 2)

/-- A sub-operation whose IN0 carries data, with its offset on IN1 or none. -/
def memWrites (sub : Nat) : Bool := 5 ≤ sub && sub ≤ 12

def memKind (sub : Nat) : ReqKind :=
  match sub with
  | 0 => .load 1 false
  | 1 => .load 1 true
  | 2 => .load 2 false
  | 3 => .load 2 true
  | 4 => .load 4 false
  | 5 => .store 1
  | 6 => .store 2
  | 7 => .store 4
  | 8 => .atomic .add
  | 9 => .atomic .min
  | 10 => .atomic .max
  | 11 => .atomic .swap
  | 12 => .atomic .fadd
  | 13 => .tagLoad
  | _ => .xf

/-- A request of copy `cp` of the operator, not yet performed. -/
def memReq (r c cp : Nat) (kind : ReqKind) (va lo hi : Nat) : Req :=
  { who := .fe r c, copy := cp, kind, va, data := BitVec.ofNat 128 (hi % 2 ^ 64 * 2 ^ 64 + lo % 2 ^ 64), stage := .waiting
    record := false, port := none }

/-- A reply that needs no access: PAD for a void address, a void token for a tag miss. -/
def memAnswer (r c cp : Nat) (kind : ReqKind) (v : Nat) : Req :=
  { memReq r c cp kind 0 0 0 with stage := .performed (BitVec.ofNat 32 v) }

def State.addReq (s : State) (q : Req) : State := s.updFab fun f => { f with reqs := f.reqs ++ [s.sentReq q] }

/-- The place of an operator's copy, which its records name (R323). -/
def State.copyPlace (s : State) (r c cp : Nat) : Nat × Nat := (s.rectangle r c (s.fe r c)).getD cp (r, c)

/-- One access at an address, whose offset is kept for a store's reply. -/
def State.memAccess (s : State) (r c cp : Nat) (kind : ReqKind) (n va v off : Nat) : State :=
  if va % n != 0 then s.containAt r c (s.copyPlace r c cp) 0x03 0 va 0 else s.addReq (memReq r c cp kind va v off)

/-- A table lookup of address `a` (R39, R42): a hit pins its entry and reads the slot. -/
def State.memTag (s : State) (r c cp a : Nat) : State :=
  match s.tagHit a with
  | none => s.addReq (memAnswer r c cp .none 0)
  | some i =>
    let off := bitsOf s.tagcfg.toNat 24 12 * 0x1000 + i * 0x1000 + a % 0x1000
    if a % 4 != 0 then s.containAt r c (s.copyPlace r c cp) 0x03 0 a 0
    else
      let e := s.tag i
      (s.setTag i { e with pin := e.pin + 1 }).addReq (memReq r c cp .tagLoad (selfAlias + off) 0 i)

/-- The element `j` of a firing's groups, `x` its token on IN0, for copy `cp` (R180). -/
def State.memElem (s : State) (r c cp j : Nat) (x : Token) (ofs : Option Token) : State :=
  let f := s.fe r c
  let sub := f.sub
  let pad (s : State) : State := s.addReq (memAnswer r c cp .const (f.param 4))
  let at_ (d : Int) : Nat := ((f.memBase : Int) + d) % (2 ^ 48 : Int) |>.toNat
  if sub == 13 then
    if x.isVoid then pad s else s.memTag r c cp (at_ (signedOf 32 x.payload.toNat))
  else if memWrites sub then
    if x.isVoid then s
    else match ofs with
      | some o =>
        if o.isVoid then pad s
        else s.memAccess r c cp (memKind sub) (memWidth sub) (at_ (signedOf 32 o.payload.toNat)) x.payload.toNat
          o.payload.toNat
      | none =>
        let d : Int := ((f.op.k + j : Nat) : Int) * f.memStride
        s.memAccess r c cp (memKind sub) (memWidth sub) (at_ d) x.payload.toNat (intBits 32 d)
  else if x.isVoid then pad s
  else s.memAccess r c cp (memKind sub) (memWidth sub) (at_ (signedOf 32 x.payload.toNat)) 0 0

/-- The transform words of a firing's tokens, 4 tokens each. -/
def memWords (s : State) : Nat → Nat → List Token → List (Option Nat)
  | 0, _, _ => []
  | _, _, [] => []
  | n + 1, i, ts =>
    let g := ts.take 4
    let v := (List.range 4).map fun j => match g[j]? with
      | some t => t.payload
      | none => Config.fabricWord (16 * s.stepNo + i + j)
    (if g.any Token.isVoid then none else some (wordsNat v)) :: memWords s n (i + 4) (ts.drop 4)
where
  wordsNat : List Word → Nat
    | [] => 0
    | w :: t => w.toNat + 2 ^ 32 * wordsNat t

/-- A transform request, of copy 0: refused words are contained (R54). -/
def State.memXf (s : State) (r c : Nat) (w : Option Nat) : State :=
  match w with
  | none => s
  | some w =>
    let code := xfCheck w
    if code != 0 then
      s.contain r c (xfTrap code) 0 (if xfTrap code == 0x08 then 0 else selfAlias + xfOff w) code
    else s.addReq { memReq r c 0 .xf (selfAlias + xfOff w) 0 0 with data := BitVec.ofNat 128 w }

/-- Requests of an FE that are outstanding. -/
def State.reqCount (s : State) (r c : Nat) : Nat := (s.core.fab.reqs.filter fun q => q.who = .fe r c).length

/-- Requests that a MEM operator may have outstanding: its emit queue's places. -/
def memLimit : Nat := 15

/-- A record of an `exit` grows by a firing's tokens; void tokens are words of 0. -/
def Fe.gather (f : Fe) (ts : List Token) : Fe :=
  let ws := ts.map fun t => if t.isVoid then dataTok 0 else dataTok t.payload.toNat
  { f with op := { f.op with bufs := updAt f.op.bufs 0 (· ++ ws) } }

/-- The queue descriptor that an `exit` writes. -/
def Fe.exitQ (f : Fe) : Nat := f.param 0 % 64

/-- An `exit` into a full queue stalls, as at a full FIFO (R135, R191). -/
def State.exitFull (s : State) (f : Fe) : Bool :=
  match s.core.fab.qs[f.exitQ]? with
  | some d => d.cap.toNat ≤ d.cnt
  | none => false

/-- MEM_FIRE: requests are sent in stream order; an `exit` gathers its record. -/
def execMemFire (row col : Nat) (s : State) : Host.Outcome State Fault Refusal :=
  s.operator row col 7 fun f =>
    let ts := f.group 0
    if !f.readyAll || !f.roomRate || (f.sub == 13 && s.tagBusy) then none
    else if f.sub == 15 then if s.exitFull f then none else some fun s => s.updFe row col fun f => f.takeAll.gather ts
    else if memLimit < s.reqCount row col + ts.length then none
    else some fun s =>
      let ofs := if (f.side 1).isSome then some (f.group 1) else none
      let s := s.updFe row col Fe.takeAll
      let s := if f.sub == 14 then (memWords s ts.length 0 ts).foldl (fun s w => s.memXf row col w) s
        else ts.zipIdx.foldl (fun s x =>
          if (s.fe row col).sealed then s
          else s.memElem row col f.copyOf x.2 x.1 (ofs.map fun l => l.getD x.2 ⟨0, Config.fabricWord (16 * s.stepNo + x.2)⟩)) s
      if (s.fe row col).sealed then s
      else s.updFe row col fun f => { f.nextElem with op := { f.nextElem.op with k := f.op.k + ts.length } }

/-! ### Requests at their homes -/

def State.req (s : State) (k : Nat) : Option Req := s.core.fab.reqs[k]?

def State.updReq (s : State) (k : Nat) (f : Req → Req) : State :=
  s.updFab fun b => { b with reqs := updAt b.reqs k f }

/-- The bytes a request touches, as a key range, and its banks. -/
def State.reqRange (s : State) (q : Req) : Option (Nat × Nat) :=
  match s.reqPlace q with
  | some pl => some (pl.key s, q.acc.n)
  | none => none

def State.reqBanks (s : State) (q : Req) : List (Nat × Nat) :=
  match q.kind with
  | .xf => [(s.coreId, bankOf (xfOff q.data.toNat))]
  | _ => match s.reqPlace q with
    | some pl => (Work.load .u8 pl).banks s
    | none => []

/-- A request that has been performed. -/
def Req.done (q : Req) : Bool :=
  match q.stage with
  | .performed _ => true
  | _ => false

/-- Requests of one party: one copy of an operator (R92). -/
def Req.same (a b : Req) : Bool := a.who = b.who && a.copy == b.copy

def Req.stalls (q : Req) : Bool :=
  match q.stage with
  | .stalled _ _ => true
  | _ => false

/-- The canonical ranges that a request touches (R350). -/
def State.reqParts (s : State) (q : Req) : List (Nat × Nat) :=
  match q.kind with
  | .xf => s.xfRanges (xfReads q.data.toNat ++ xfWrites q.data.toNat)
  | _ => [(s.canon q.va, q.acc.n)]

/-- The request waits for a loan. -/
def State.reqLoan (s : State) (q : Req) : Bool := (s.reqParts q).any fun p => s.loanWaits p.1 p.2

/-- An earlier request of the same party holds this one back: it stalls or waits for a loan (R34, R120), or both touch a
common byte or the same bank (R110). -/
def State.reqHeld (s : State) (k : Nat) (q : Req) : Bool :=
  (s.core.fab.reqs.take k).any fun e => e.same q && !e.done &&
    (e.stalls || s.reqLoan e || rangesMeet (s.reqRange e) (s.reqRange q) ||
      (s.reqBanks e).any fun b => b ∈ s.reqBanks q)

/-- No earlier request of its party is unperformed: a translation fault is reported for the first that has one (R34). -/
def State.reqFirst (s : State) (k : Nat) (q : Req) : Bool := (s.core.fab.reqs.take k).all fun e => !e.same q || e.done

/-- A walk of an address's page joined or started, while fewer than 128 are in flight (R32). -/
def State.joinWalk (s : State) (va : Nat) : State :=
  if s.walks.any fun w => s.inWalk w s.ctx va then
    { s with walks := s.walks.map fun w => if s.inWalk w s.ctx va then { w with joined := w.joined + 1 } else w }
  else if s.walks.length < 128 then { s with walks := s.walks ++ [Walk.mk s.ctx (va / 2 ^ 16) 1] }
  else s

/-- A request stalls on a translation fault, with a record (R34) that names the place of its copy. -/
def State.reqStall (s : State) (k : Nat) (va reason level : Nat) : State :=
  match s.req k with
  | none => s
  | some q =>
    let x := match q.who with
      | .fe r c =>
        let y := s.copyPlace r c q.copy
        (unitFe, y.2, y.1)
      | u => u.coord s
    let acc := match q.kind with
      | .store _ => 1
      | .atomic _ => 2
      | .xf => 3
      | _ => 0
    let t := s.transRecord va reason acc x.1 x.2.1 x.2.2
    t.2.updReq k fun q => { q with stage := .stalled reason level, record := t.1 }

/-- An atomic's new value on the 32-bit value found, and its flags (R116, R191, R235). -/
def memAtomic (op : AtomicOp) (old v : Nat) : Nat × FFlags :=
  match op with
  | .add => ((old + v) % 2 ^ 32, 0)
  | .min => (if signedOf 32 v < signedOf 32 old then v else old, 0)
  | .max => (if signedOf 32 old < signedOf 32 v then v else old, 0)
  | .swap => (v, 0)
  | .fadd => fAdd fp32 .rne old v
  | _ => (old, 0)

/-- The value given to a MEM request and the pin of its tag entry released. -/
def State.reqDone (s : State) (k : Nat) (q : Req) (v : Nat) : State :=
  let s := s.updReq k fun q => { q with stage := .performed (BitVec.ofNat 32 v) }
  match q.kind with
  | .tagLoad =>
    let i := q.data.toNat / 2 ^ 64
    let e := s.tag i
    s.setTag i { e with pin := e.pin - 1 }
  | _ => s

/-- A request ended by a fault: its operator's subgraph is contained, with a record that names the copy (R323). -/
def State.reqFail (s : State) (q : Req) (cause addr det : Nat) : State :=
  match q.who with
  | .fe r c => s.containAt r c (s.copyPlace r c q.copy) cause 0 addr det
  | _ => s

/-- The read, write or atomic of a request performed at its place. The flags of an `amofadd` reach FPSTAT with it, which R67
does not name for an operator of the fabric. Log 125 (DESIGN CHOICE). -/
def State.reqAct (s : State) (q : Req) (pl : Place) : Got Nat :=
  match q.kind with
  | .load n sg =>
    match s.placeRead pl q.va n with
    | .ok v s => .ok (if sg then intBits 32 (signedOf (8 * n) v) else v) s
    | r => r
  | .store n =>
    match s.placeWrite pl q.va n (q.data.toNat % 2 ^ (8 * n)) with
    | .ok _ s => .ok (q.data.toNat / 2 ^ 64 % 2 ^ 32) s
    | .wait s => .wait s
    | .stall a r l s => .stall a r l s
    | .fail c a d s => .fail c a d s
  | .atomic op =>
    match s.placeRead pl q.va 4 with
    | .ok old s =>
      let v := memAtomic op old (q.data.toNat % 2 ^ 32)
      match s.placeWrite pl q.va 4 v.1 with
      | .ok _ s =>
        let s := s.orFlags v.2
        .ok old (match pl with
          | .bank c off => if c == s.coreId then s.watchAtomic off q.va 4 else s
          | _ => s)
      | .wait s => .wait s
      | .stall a r l s => .stall a r l s
      | .fail c a d s => .fail c a d s
    | r => r
  | .tagLoad => s.placeRead pl q.va 4
  | _ => .ok 0 s

/-- A transform performed whole at its bank; one that would write a held object's word is refused (R105). -/
def State.reqXf (s : State) (q : Req) : Got Nat :=
  let w := q.data.toNat
  match s.xfLoans true w q.va with
  | .fault f s => f.got s
  | .stall f s => f.stalls s
  | .wait s => .wait s
  | .ok s =>
    if s.xfProtected w then .fail 5 q.va 0 s
    else if s.xfPoisoned w then .fail 0x17 q.va 0 (s.eccHit (scratchKey s.coreId (xfOff w)))
    else match s.xfPerform w with
      | .ok s => .ok 0 s
      | .error c => .fail 0x08 0 c s

/-- A request is an atomic at a bank of this core that the skid of R332 holds back. -/
def State.atomicHeld (s : State) (q : Req) (pl : Place) : Bool :=
  match q.kind, pl with
  | .atomic _, .bank c off => c == s.coreId && s.skidHeld (bankOf off)
  | _, _ => false

/-- A request goes on: a TLB miss begins a walk; else the access is checked and performed at its home. -/
def State.reqPerform (s : State) (k : Nat) : State :=
  match s.req k with
  | none => s
  | some q =>
    if q.stage ≠ .waiting || s.task.isNone || s.reqHeld k q then s
    else
      let out (g : Got Nat) : State := match g with
        | .ok v s => s.reqDone k q v
        | .wait s => s
        | .stall va r l s => if s.reqFirst k q then s.reqStall k va r l else s
        | .fail c a d s => s.reqFail q c a d
      match q.kind with
      | .xf => out (s.reqXf q)
      | _ =>
        if s.tlbMiss s.ctx q.va then (s.joinWalk q.va).updReq k fun q => { q with stage := .walking }
        else match s.resolve s.ctx q.acc q.va with
          | .error f => out (s.partyFlt q.acc.kind q.va q.acc.n f)
          | .ok r =>
            if s.atomicHeld q r.pl then s
            else match (s.fillRes r).partyTouch q.va q.acc.n q.acc.kind r.pl with
              | .fault f s => out (f.got s)
              | .stall f s => out (f.stalls s)
              | .wait s => s
              | .ok s => if q.port.isSome || s.reaches s.ctx r.pl q.va then out (s.reqAct q r.pl) else s

/-- Walks started for requests that wait for one of the 128. -/
def startWalks (s : State) : List Req → State
  | [] => s
  | q :: t =>
    startWalks (if q.stage = .walking && !(s.walks.any fun w => s.inWalk w s.ctx q.va) then
      s.joinWalk q.va else s) t

/-- PAGE_WALK_END: the walk fills both TLBs and its requests go on; or the first of each party stalls, and the others
wait behind it (R34). -/
def execPageWalkEnd (k : Nat) (s : State) : Host.Outcome State Fault Refusal :=
  match s.walks[k]? with
  | none => .next s
  | some w =>
    let mine (q : Req) : Bool := q.stage = .walking && s.inWalk w s.ctx q.va
    let s := { s with walks := s.walks.eraseIdx k }
    let s := match s.walk w.ctx (w.page * 2 ^ 16) with
      | .ok e =>
        let go (q : Req) : Req := if mine q then { q with stage := .waiting } else q
        ((s.fill e).updFab fun f => { f with reqs := f.reqs.map go }).sendReqs
      | .error (r, lvl) =>
        (List.range s.core.fab.reqs.length).foldl (fun s i =>
          match s.req i with
          | some q =>
            if !mine q then s
            else if s.reqFirst i q then s.reqStall i q.va r lvl else s.updReq i fun q => { q with stage := .waiting }
          | none => s) s
    .next (startWalks s s.core.fab.reqs)

/-! ### Entries (R135, R191), and the alignment of end tokens (R159) -/

/-- Another `exit` has begun an entry of the same queue. -/
def State.exitBusy (s : State) (r c q : Nat) : Bool :=
  s.core.fab.fes.any fun x => x.1 ≠ (r, c) && x.2.code == 7 && x.2.sub == 15 && x.2.exitQ == q && x.2.op.k != 0

/-- The next block of the entry `ws` written at the tail of queue `d`, by accesses of the operator to its own window; `k` of
the operator counts the bytes written. The entry is counted once its last word is (R135). -/
def State.exitWrite (s : State) (r c : Nat) (d : EntryQ) (ws : List Token) : State :=
  let f := s.fe r c
  let n := 4 * ws.length
  let slot := (d.rd + d.cnt) % d.cap.toNat
  let p := s.partyPut (selfAlias + d.base + slot * d.esize.toNat + f.op.k) ((toBytes (toksNat ws) n).drop f.op.k)
  match p.got with
  | .wait s => s
  | .stall va e l s => s.stallUnit (.fe r c) va e 1 l
  | .fail cause a det s => s.contain r c cause 0 a det
  | .ok _ s =>
    if f.op.k + p.done < n then s.updFe r c fun f => { f with op := { f.op with k := f.op.k + p.done } }
    else
      (s.updFab fun b => { b with qs := updAt b.qs f.exitQ fun d => { d with cnt := d.cnt + 1 } }).updFe r c fun f =>
        { f.take 0 1 with op := { f.op with bufs := [[]], k := 0 } }

/-- An end token of level `l` at an `exit` (R191): an entry, a stall on a full queue, or reason 4. -/
def State.exitEnd (s : State) (r c l : Nat) : State :=
  let f := s.fe r c
  let g := f.op.bufs.getD 0 []
  if l < bitsOf (f.param 0) 10 8 then s.updFe r c fun f => f.take 0 1
  else if g.isEmpty then s.updFe r c fun f => f.take 0 1
  else match s.core.fab.qs[f.exitQ]? with
    | none => s.contain r c 0x08 8 0 0
    | some d =>
      if 4 * g.length != d.esize.toNat then s.contain r c 0x08 4 0 0
      else if d.cap.toNat ≤ d.cnt || s.exitBusy r c f.exitQ then s
      else s.exitWrite r c d g

/-- END_TOKEN_ALIGN. -/
def execEndTokenAlign (row col : Nat) (s : State) : Host.Outcome State Fault Refusal :=
  let f := s.fe row col
  let is := f.endInputs
  let l := is.foldl (fun m i => max m (f.endAt i)) 0
  if !s.feActive row col then .next s
  else if f.isAlign then
    .next (s.updFe row col fun f => f.passLanes (f.lanesShow Token.isEnd))
  else if f.endReason != 0 then .next (s.contain row col 0x08 f.endReason 0 0)
  else if l == 0 || !is.all (fun i => f.endAt i == l) || !f.op.outq.isEmpty || !s.noReqs (.fe row col) ||
      (f.code == 5 && f.op.busy) then .next s
  else if f.code == 7 && f.sub == 15 then .next (s.exitEnd row col l)
  else
    let t := (f.head (is.getD 0 0)).getD voidTok
    let x := f.atEnd l
    let absorbed := f.code == 8 && l != 7
    if !absorbed && !f.roomAll (x.1.length + 1) then .next s
    else
      .next ((s.updFe row col fun _ =>
        let f := is.foldl (fun f i => f.take i 1) x.2.2
        if absorbed then f else f.sendAll (x.1 ++ [t])).orFlags x.2.1)

/-! ### Replies (R110, R192) -/

/-- The reply token of a performed request. -/
def Req.reply (q : Req) : Option Token :=
  match q.stage, q.kind with
  | .performed _, .none => some voidTok
  | .performed v, _ => some ⟨0, v⟩
  | _, _ => none

/-- MEM_RESPONSE: the first request of its operator replies, on OUT0 or to a third party's port. -/
def execMemResponse (k : Nat) (s : State) : Host.Outcome State Fault Refusal :=
  match s.req k with
  | none => .next s
  | some q =>
    match q.who, q.reply with
    | .fe r c, some t =>
      let f := s.fe r c
      let drop (s : State) : State := s.updFab fun b => { b with reqs := b.reqs.eraseIdx k }
      if (s.core.fab.reqs.take k).any fun e => e.who = q.who then .next s
      else match f.replyTo with
        | some x =>
          if (s.fe x.1 x.2.1).inRoom x.2.2 then
            .next ((drop s).updFe x.1 x.2.1 fun g => g.arrive x.2.2 t)
          else .next s
        | none =>
          if !f.routed 0 then .next (drop s)
          else if 1 ≤ f.emitRoom 0 then .next ((drop s).updFe r c fun f => f.send 0 [t])
          else .next s
    | _, _ => .next s

end Sys2Proof.Machine
end

