-- ==== Sys2Proof/Machine/System.lean ====
section
/-! DEFINITION. Buffer handles (R253), system registers (R206 to R208, R254, R319), the system instructions
(R255) and the return from a trap (R317, R320). -/

namespace Sys2Proof.Machine

/-! ### Handles (R89, R253) -/

/-- The value `hwait` returns. -/
def Handle.result (h : Handle) : Dword :=
  BitVec.ofNat 64 (h.bytes.toNat * 2 ^ 32 + h.err.toNat * 2 ^ 16 + 3)

/-- `hwait`: on FULL it makes the claim, on DRAINING it returns, while FILLING it waits. -/
def State.issueHwait (s : State) (x : Src) (h : Nat) : State :=
  if 63 < h then s.trapSrc x h 0 0 (formatAt x)
  else match (s.handle h).st with
    | .free => s.trapSrc x h 0 0 ⟨0x0F, 0, h⟩
    | _ => s.push x (x.unfin h 0 0 0 (.hwait h))

/-- A fault of `halloc` or `hfree`. -/
def handleFlt (s : State) (h : Nat) : Flt :=
  if 63 < h then ⟨0x08, s.core.clerk.pc.toNat, 0⟩ else ⟨0x0F, 0, h⟩

/-- HALLOC: FREE to FILLING. -/
def execHalloc (a : Reg) (s : State) : Host.Outcome State Fault Refusal :=
  let h := (s.reg a).toNat
  if h ≤ 63 && (s.handle h).st = .free then
    .next ((s.updHandle h fun _ => { Handle.reset with st := .filling }).advance 4)
  else .next (s.trapInstr (.halloc a) 0 h 0 (handleFlt s h))

/-- An earlier `hwait` of a handle has not returned. -/
def Clerk.waitsOn (c : Clerk) (h : Nat) : Bool := c.unfin.any fun u => u.done.isNone && u.work = .hwait h

/-- HFREE: FULL or DRAINING to FREE, behind an earlier `hwait` that the handle's end lets return. -/
def execHfree (a : Reg) (s : State) : Host.Outcome State Fault Refusal :=
  let h := (s.reg a).toNat
  if h ≤ 63 && ((s.handle h).st = .full || (s.handle h).st = .draining) then
    if s.core.clerk.waitsOn h then .next s
    else .next ((s.updHandle h fun e => { e with st := .free }).advance 4)
  else .next (s.trapInstr (.hfree a) 0 h 0 (handleFlt s h))

/-- HWAIT. -/
def execHwait (d a : Reg) (s : State) : Host.Outcome State Fault Refusal :=
  .next ((s.advance 4).issueHwait (s.src (.hwait d a) d) (s.reg a).toNat)

/-! ### System registers -/

/-- STATUS as read (R319). -/
def Clerk.status (c : Clerk) : Dword :=
  BitVec.ofNat 64 (b2n c.sstep * 16 + b2n (!c.pend.isEmpty) * 8 + b2n c.frozen * 2 + b2n (c.mode = .supervisor))

/-- The value of a system register; none for a number that names none (R207). -/
def State.sysreg (s : State) (n : Nat) : Option Dword :=
  let c := s.core.clerk
  match n with
  | 0x000 => some s.cycle
  | 0x001 => some (BitVec.ofNat 64 s.coreId)
  | 0x010 => some c.fpstat
  | 0x011 => some c.fpctl
  | 0x020 => some c.cmdbase
  | 0x100 => some c.status
  | 0x101 => some c.tvec
  | 0x102 => some c.cause
  | 0x103 => some c.faddress
  | 0x104 => some c.causeb
  | 0x105 => some c.addrb
  | _ => none

/-- A write to a system register; none where it traps with `reserved encoding` (R64, R65, R207, R208, R319). -/
def State.sysregWrite (s : State) (n : Nat) (v : Dword) : Option State :=
  match n with
  | 0x010 => some (s.updClerk fun c => { c with fpstat := v &&& 31 })
  | 0x011 => if v &&& ~~~0x1F03 = 0 then some (s.updClerk fun c => { c with fpctl := v }) else none
  | 0x020 => if v >>> 48 = 0 then some (s.updClerk fun c => { c with cmdbase := v &&& ~~~15 }) else none
  | 0x100 => if v &&& ~~~0x1B = 0 then some (s.updClerk fun c => { c with sstep := v.getLsbD 4 }) else none
  | 0x101 => if v >>> 48 = 0 then some (s.updClerk fun c => { c with tvec := v &&& ~~~3 }) else none
  | _ => none

/-- MFS (R206, R254). -/
def execMfs (d : Reg) (n : BitVec 10) (s : State) : Host.Outcome State Fault Refusal :=
  let pc := s.core.clerk.pc.toNat
  match s.sysreg n.toNat with
  | none => .next (s.trapInstr (.mfs d n) d 0 0 ⟨0x02, pc, 0⟩)
  | some v =>
    if 0x100 ≤ n.toNat && s.taskMode then .next (s.trapInstr (.mfs d n) d 0 0 ⟨0x1C, pc, 0⟩)
    else .next (s.finish d v 4)

/-- MTS (R206, R254). -/
def execMts (n : BitVec 10) (d : Reg) (s : State) : Host.Outcome State Fault Refusal :=
  let pc := s.core.clerk.pc.toNat
  if 0x100 ≤ n.toNat && s.taskMode then .next (s.trapInstr (.mts n d) 0 0 0 ⟨0x1C, pc, 0⟩)
  else match s.sysregWrite n.toNat (s.reg d) with
    | none => .next (s.trapInstr (.mts n d) 0 0 (s.reg d) ⟨0x02, pc, 0⟩)
    | some t => .next (t.advance 4)

/-! ### The other system instructions (R255) -/

/-- TRAP. -/
def execTrap (n : BitVec 10) (s : State) : Host.Outcome State Fault Refusal :=
  .next (s.trapPlain 0x13 0 n.toNat s.core.clerk.pc (s.nextPc 4))

/-- BRK. -/
def execBrk (s : State) : Host.Outcome State Fault Refusal :=
  .next (s.trapPlain 0x12 s.core.clerk.pc.toNat 0 s.core.clerk.pc (s.nextPc 4))

/-- TACK (R320). -/
def execTack (s : State) : Host.Outcome State Fault Refusal :=
  .next (s.privileged .tack fun s => (s.updClerk fun c => { c with frozen := false }).advance 4)

/-- HALT: once every earlier instruction has finished. -/
def execHalt (s : State) : Host.Outcome State Fault Refusal :=
  .next (s.privileged .halt fun s =>
    if s.core.clerk.unfin.isEmpty then (s.advance 4).updClerk fun c => { c with run := .halted } else s)

/-- WFE: the clerk waits; an event ends the wait and passes it (WFE_WAKE). -/
def execWfe (s : State) : Host.Outcome State Fault Refusal :=
  .next (s.updClerk fun c => { c with run := .wfe, wfeEvent := false })

/-- NOP. -/
def execNop (s : State) : Host.Outcome State Fault Refusal := .next (s.advance 4)

/-- Whether an earlier store of the clerk is unperformed. -/
def Clerk.storesOut (c : Clerk) : Bool :=
  c.unfin.any fun u => u.done.isNone && (u.unchecked || match u.work with
    | .store _ _ _ => true
    | .atomic _ _ _ _ _ => true
    | .xbank _ => true
    | .release _ => true
    | .arm _ _ _ => true
    | .rls _ _ => true
    | .acquire _ _ _ => true
    | _ => false)

/-- IFENCE: it waits for the clerk's earlier stores and discards every fetched word. -/
def execIfence (s : State) : Host.Outcome State Fault Refusal :=
  if s.core.clerk.storesOut then .next s else .next (State.advance { s with icache := [] } 4)

/-! ### Return from a trap (R317, R320) -/

/-- Stalled requests of the fabric reissued: a MEM request translates again; a lane or an engine goes on with
its command, which makes the request again. -/
def State.reissueStalled (s : State) : State :=
  State.sendReqs <| s.updFab fun f => { f with
    reqs := (f.reqs.filter fun r => match r.stage, r.who with
        | .stalled _ _, .fe _ _ => true
        | .stalled _ _, _ => false
        | _, _ => true).map fun r => match r.stage with
        | .stalled _ _ => { r with stage := .waiting, record := false }
        | _ => r }

/-- NTRANS and NFAB cleared (R323). -/
def State.clearRecords (s : State) : State :=
  let n := s.trapRd 0x3C0 8
  s.trapWr 0x3C0 8 (setBits (setBits n 4 0 0) 10 8 0)

/-- ORD, SCOPE and W from word 1 of an atomic. -/
def orderOf (w : Nat) : AmoOrder :=
  { ord := match bitsOf w 5 4 with
      | 0 => .rlx
      | 1 => .acq
      | 2 => .rel
      | _ => .ar
    scope := match bitsOf w 3 1 with
      | 0 => .e
      | 1 => .c
      | 2 => .w
      | 3 => .m
      | _ => .s
    wide := bitOf w 0 }

def atomicOf : Nat → Option AtomicOp
  | 0 => some .add
  | 1 => some .and
  | 2 => some .or
  | 3 => some .xor
  | 4 => some .min
  | 5 => some .max
  | 6 => some .minu
  | 7 => some .maxu
  | 8 => some .swap
  | 9 => some .cas
  | 10 => some .fadd
  | _ => none

def loadOf : Nat → Option LoadWidth
  | 0 => some .u8
  | 1 => some .u16
  | 2 => some .u32
  | 3 => some .u64
  | 4 => some .s8
  | 5 => some .s16
  | 6 => some .s32
  | _ => none

/-- An entry performed again with its own operands; none for an instruction whose operands it does not hold,
which is performed again at its PC. -/
def State.reissue (s : State) (x : Src) (ea : Nat) (b c : Dword) : Option State :=
  let major := x.op.toNat / 4
  let f := x.func.toNat
  match x.op.toNat % 4 with
  | 0 =>
    match major, f with
    | 2, 0 => some (s.issueAcquire x true ea)
    | 2, 1 => some (s.issueAcquire x false ea)
    | 2, 2 => some (s.issueRelease x ea)
    | 2, 3 => some (s.issueBind x ea b.toNat c.toNat)
    | 2, 4 => some (s.issueUnbind x ea)
    | 2, 5 => some (s.issueWaitw x ea b)
    | 2, 6 => some (s.issueJoin x ea b.toNat)
    | 2, 9 => some (s.issueLoan x ea b.toNat)
    | 2, 10 => some (s.issueLstat x ea)
    | 3, 0 => some (s.issueSpawn x ea)
    | 3, 1 => some (s.issueArm x ea b)
    | 3, 2 => some (s.issueRls x ea)
    | 4, 0 => some (s.issueTag x .look ea)
    | 4, 1 => some (s.issueTag x .ins ea)
    | 4, 2 => some (s.issueTag x .del ea)
    | 4, 3 => some (s.issueXbank x b c)
    | 5, 3 => some (s.issueKld x ea)
    | 5, 4 => some (s.issueKst x ea b c)
    | 5, 8 => some (s.issueHwait x ea)
    | _, _ => none
  | 1 =>
    if 0x0A ≤ major && major ≤ 0x10 then (loadOf (major - 0x0A)).map fun w => s.issueLoad x w ea
    else if 0x11 ≤ major && major ≤ 0x14 then some (s.issueStore x (2 ^ (major - 0x11)) ea b)
    else none
  | 2 => if major == 0 then (atomicOf f).map fun op => s.issueAtomic x op (orderOf x.w1.toNat) ea b c else none
  | _ =>
    match major with
    | 3 => (loadOf f).map fun w => s.issueLoad x w ea
    | 4 => if f < 4 then some (s.issueStore x (2 ^ f) ea b) else none
    | _ => none

/-- A destination given a value and set present, without any access (R320). -/
def Clerk.skip (c : Clerk) (kd : Bool) (d : Reg) (lo hi : Dword) : Clerk :=
  if kd then (c.setKreg (d.setWidth 3) (hi ++ lo)).setKpresent (d.setWidth 3) true
  else (c.setReg d lo).setPresent d true

/-- The fields of a replay entry. -/
def entryUnfin (e : List Nat) : Unfin :=
  let w0 := e.getD 0 0
  let w1 := e.getD 1 0
  { op := BitVec.ofNat 8 (bitsOf w0 63 56), func := BitVec.ofNat 9 (bitsOf w1 56 48), w1 := BitVec.ofNat 6 (bitsOf w1 62 57)
    pc := BitVec.ofNat 48 w0, kd := bitOf w0 53, dest := BitVec.ofNat 5 (bitsOf w0 52 48), ea := w1 % 2 ^ 48
    b := BitVec.ofNat 64 (e.getD 2 0), c := BitVec.ofNat 64 (e.getD 3 0), canon := 0, work := .result 0, done := none
    port := none, lost := false, behind := false, unchecked := false }

/-- The head that an instruction's entry has is the entry's (R317). -/
def Latch.fits (l : Latch) (u : Unfin) : Bool :=
  l.pc = u.pc && match l.what with
    | .instr i => headOf (encode i) = (u.op, u.func, u.w1)
    | .reject _ => true

/-- The latch of an entry is used once (R117), and so is what the entry goes on with. -/
def Clerk.taken (c : Clerk) (u : Unfin) (kept : Option Unfin) : Clerk :=
  { c with
    latches := c.latches.filter fun l => !l.fits u
    kept := match kept with
      | some k => c.kept.erase k
      | none => c.kept }

/-- What an entry goes on with: the instruction that a trap found unfinished at its PC with its EA. -/
def Clerk.keptFor (c : Clerk) (u : Unfin) : Option Unfin := c.kept.find? fun k => k.pc = u.pc && k.ea == u.ea

/-- One replay entry re-injected. One that is decided before the next instruction issues is performed again at its PC,
with its latch; the entries behind it wait for it. -/
def State.replayOne (s : State) (e : List Nat) (rpc : BitVec 48) (rest : List (List Nat)) : State :=
  let u := entryUnfin e
  let kept := s.core.clerk.keptFor u
  let x : Src := { op := u.op, func := u.func, w1 := u.w1, pc := u.pc, kd := u.kd, dest := u.dest, rpc, rest, kept }
  let latch := s.core.clerk.latches.find? (·.fits u)
  let s := s.updClerk (·.taken u kept)
  let redo := (s.updClerk fun k => { k with redo := some ⟨u, rpc, latch, rest⟩ }).setPc u.pc
  if bitOf (e.getD 0 0) 55 then s.updClerk fun k => k.skip u.kd u.dest u.b u.c
  else match latch, s.reissue x u.ea u.b u.c with
    | none, some t => t
    | _, _ => redo

/-- Replay entries re-injected in order; a trap that one of them takes carries the rest with it, and so does one that is
performed again at its PC. When the task goes on, nothing is kept any more. -/
def State.replay (s : State) (rpc : BitVec 48) : List (List Nat) → State
  | [] => s.updClerk fun c => if c.mode = .task then { c with kept := [] } else c
  | e :: t =>
    let s' := s.replayOne e rpc t
    if s'.core.clerk.frozen || s'.core.clerk.run = .doubleHalt || s'.core.clerk.redo.isSome then s' else s'.replay rpc t

/-- An entry has been performed again at its PC: those that follow it are re-injected, and the clerk goes on at the
frame's resume PC, or where the instruction jumps. -/
def State.redone (s : State) (i : Instr) (r : Redo) : State :=
  let s := s.updClerk fun c => { if Instr.jumps i then c else c.setPc r.rpc with redo := none }
  s.replay r.rpc r.rest

/-- What follows an instruction performed from `s` with result `t`: lent registers are given back, an instruction
performed again is followed by the frame's resume PC (R231, R320), and one that SSTEP watches is marked (R319). -/
def State.settle (s : State) (i : Instr) (t : State) : State :=
  let pc := s.core.clerk.pc
  let trapped := t.core.clerk.frozen && !s.core.clerk.frozen || t.core.clerk.run = .doubleHalt || t.task ≠ s.task
  let completed := !trapped && !(Instr.holds i && t.core.clerk.pc = pc)
  let t := s.giveBack i completed t
  let t := if completed then
      match s.core.clerk.redo with
      | some r => t.redone i r
      | none => t
    else t
  if completed && s.core.clerk.stepping && t.taskMode then
    t.updClerk fun c => { c with stepping := false, stepped := some pc }
  else t

/-- The unfinished instructions of a task that was pre-empted re-injected in order, each translated anew from its EA (R317,
R326); a trap that one of them takes carries the rest with it, and the entries in `tail` that come after them. -/
def State.reinjectFrom (s : State) (rpc : BitVec 48) (tail : List (List Nat)) : List (List Nat) → State
  | [] => s
  | e :: t =>
    let s' := s.replayOne e rpc (t ++ tail)
    if s'.core.clerk.run = .doubleHalt || (s'.core.clerk.frozen && !s.core.clerk.frozen) then s'
    else s'.reinjectFrom rpc tail t

/-- The same, with the replay that the task may have stood in set aside for them. What has come to its value while the task was
pre-empted, a `join` or an `acq`, returns it (R107, R140). -/
def State.reinject (s : State) : State :=
  let s := s.updClerk fun c => { c.drain with unfin := c.unfin.filter (·.done.isNone) }
  let c := s.core.clerk
  let aside := s.updClerk fun c => { c with unfin := [], redo := none, latches := c.keptLatches, kept := c.kept ++ c.underWay none }
  let t := aside.reinjectFrom s.resumePc c.redoEntries (c.unfin.map (·.entry false))
  if t.core.clerk.run = .doubleHalt || (t.core.clerk.frozen && !c.frozen) then t
  else t.updClerk fun k => { k with redo := c.redo, latches := c.latches, kept := c.kept }

/-- The four words of entry `k` in the trap area. -/
def State.entryAt (s : State) (k : Nat) : List Nat :=
  (List.range 4).map fun i => s.trapRd (0x40 + 32 * k + 8 * i) 8

/-- The return from a trap: the one way out (R320). -/
def State.trapReturn (s : State) : State :=
  let w0 := s.trapRd 0 8
  let rpc := BitVec.ofNat 48 (s.trapRd 24 8)
  let entries := (List.range (min 16 (bitsOf w0 14 10))).map s.entryAt
  let task := !bitOf w0 9
  let s := s.updClerk fun c => { c with frozen := false }
  let s := s.reissueStalled.clearRecords
  let s := s.updClerk fun c => { c.setPc rpc with
    mode := if task then .task else .supervisor, joinQueued := c.joinQueued && !task
    stepping := c.sstep && task, stepped := if c.sstep && task then c.stepped else none, redo := none }
  s.replay rpc entries

/-- TRAPRET: once every earlier instruction has finished. -/
def execTrapret (s : State) : Host.Outcome State Fault Refusal :=
  .next (s.privileged .trapret fun s => if s.core.clerk.unfin.isEmpty then s.trapReturn else s)

end Sys2Proof.Machine
end

