-- ==== Sys2Proof/Machine/Ports.lean ====
section
/-! DEFINITION. The stream ports: the two lanes of each, what each command emits, reads, takes and writes (R256 to
R272, R361), seals, gates and cuts. -/

namespace Sys2Proof.Machine

/-! ### Classes of commands (R256) -/

def Instr.emits : Instr → Bool
  | .sread _ _ => true
  | .sgather _ _ => true
  | .stile _ _ => true
  | .ssegt _ _ => true
  | .scfg _ _ _ => true
  | .sbar _ _ _ _ => true
  | .send _ _ _ _ _ => true
  | _ => false

def Instr.absorbs : Instr → Bool
  | .swrite _ _ => true
  | .sscatter _ _ => true
  | _ => false

def Instr.paired : Instr → Bool
  | .sreq _ _ _ _ => true
  | _ => false

/-- The port of a stream command. -/
def Instr.portOf : Instr → Option (BitVec 4)
  | .sread p _ | .swrite p _ | .sgather p _ | .sscatter p _ | .stile p _ | .ssegt p _ | .scfg p _ _
  | .sbar p _ _ _ | .send p _ _ _ _ | .sclose p _ _ | .sgateSetPlvl p _ _ | .sgateGate p _ _
  | .sgateUngate p _ _ | .sreq p _ _ _ => some p
  | _ => none

/-- CODE of a command, bits 7:0 of its first word (R209). -/
def Instr.code (i : Instr) : Nat := ((encode i).getD 0 0).toNat % 256

def LaneCmd.start (i : Instr) : LaneCmd :=
  { cmd := i, n := 0, i := 0, j := 0, claimed := false, hdr := [], out := [], closing := false }

/-- What a lane takes from the queue: its oldest item. -/
def nextEmit : List PortItem → Option (Nat × PortItem)
  | [] => none
  | .cfg id ws :: _ => some (0, .cfg id ws)
  | .cmd i :: t =>
    if Instr.emits i || Instr.paired i then some (0, .cmd i)
    else match nextEmit t with
      | some r => some (r.1 + 1, r.2)
      | none => none

def nextAbsorb : List PortItem → Option (Nat × Instr)
  | [] => none
  | .cmd i :: t =>
    if Instr.absorbs i || Instr.paired i then some (0, i)
    else match nextAbsorb t with
      | some r => some (r.1 + 1, r.2)
      | none => none
  | .cfg _ _ :: t =>
    match nextAbsorb t with
    | some r => some (r.1 + 1, r.2)
    | none => none

/-- A paired command is taken by both lanes at once; by neither while the emit lane is `held`, which then takes no
command (R265). -/
def Port.takePaired (q : Port) (held : Bool) : Port :=
  if held then q
  else match q.emitCmd, q.absCmd, nextEmit q.queue, nextAbsorb q.queue with
  | none, none, some (k, .cmd i), some (m, _) =>
    if Instr.paired i && k == m then
      { q with queue := q.queue.eraseIdx k, emitCmd := some (LaneCmd.start i), absCmd := some (LaneCmd.start i)
               posE := 0, posA := 0 }
    else q
  | _, _, _, _ => q

/-- The emit lane takes its oldest command when it is free. Configuration words stay in the queue until sent. -/
def Port.takeEmit (q : Port) : Port :=
  match q.emitCmd, nextEmit q.queue with
  | none, some (k, .cmd i) =>
    if Instr.paired i then q.takePaired false
    else { q with queue := q.queue.eraseIdx k, emitCmd := some (LaneCmd.start i), posE := 0 }
  | _, _ => q

def Port.takeAbsorb (q : Port) (held : Bool) : Port :=
  match q.absCmd, nextAbsorb q.queue with
  | none, some (k, i) =>
    if Instr.paired i then q.takePaired held
    else { q with queue := q.queue.eraseIdx k, absCmd := some (LaneCmd.start i), posA := 0 }
  | _, _ => q

/-! ### Gates (R265, R266, R123, R325) -/

/-- The emit lane is stopped: by `sgate`, or held at a boundary of its PLVL. -/
def State.laneStopped (s : State) (p : Nat) : Bool :=
  let q := s.port p
  q.gated || (s.lanesHeld && q.plvl.toNat ≤ q.bnd)

/-- An `sgate` that waits takes effect at a boundary of its level. -/
def Port.atGate (q : Port) : Port :=
  match q.gate with
  | some l => if l.toNat ≤ q.bnd then { q with gated := true, gate := none } else q
  | none => q

/-! ### Faults (R269) -/

/-- A lane's fault: its record, and the port sealed. -/
def State.portFault (s : State) (p cmd cause reason addr det : Nat) : State :=
  let q := s.port p
  (s.fabRecord cmd reason cause 0 unitPort 0 (p + 1) (q.posA.toNat * 2 ^ 32 + q.posE.toNat) addr det).sealPort p cause |>.unhold (.lane p)

/-- A lane's access that has not been performed; `u` is the lane (R257). -/
def laneGot {α : Type} (u : UnitRef) (p cmd acc : Nat) (g : Got α) (f : α → State → State) : State :=
  match g with
  | .ok v s => f v s
  | .wait s => s
  | .stall va r l s => s.stallUnit u va r acc l
  | .fail c a d s => s.portFault p cmd c 0 a d

/-! ### Snapshots (R264, R271) -/

def snapWord (id : Byte) (absorb : Bool) (serial : Half) (pos : Word) : Dword :=
  BitVec.ofNat 64 (id.toNat * 2 ^ 56 + b2n absorb * 2 ^ 55 + serial.toNat * 2 ^ 32 + pos.toNat)

def Port.snapshot (q : Port) (t : Token) (absorb : Bool) : Port :=
  if t.isBar && t.payload.getLsbD 8 then
    { q with snap := snapWord t.barId absorb (if absorb then q.serialA else q.serialE)
                       (if absorb then q.posA else q.posE), snapv := true }
  else q

/-! ### The emit lane's tokens (R361) -/

def Instr.isStile : Instr → Bool
  | .stile _ _ => true
  | _ => false

/-- The places that every token of the emit lane enters. -/
def State.laneDests (s : State) (p : Nat) : List Dest := (List.range 4).flatMap fun t => s.dests (p + 1) 0 1 t

def State.laneRoom (s : State) (p : Nat) : Bool := (s.laneDests p).all s.destFree

/-- A token leaves the lane; a barrier is injected with it (R264). -/
def State.laneSend (s : State) (p : Nat) (t : Token) : State :=
  (s.laneDests p).foldl (fun s d => s.deliver t d) (if t.isBar then s.inject (.lane p) t.barId else s)

/-- The boundary at which a token leaves the lane: a tile's tail is one where the command is `stile` (R265). -/
def Port.boundary (q : Port) (t : Token) : Nat :=
  let tile : Bool := match q.emitCmd with
    | some c => Instr.isStile c.cmd
    | none => false
  if t.isEnd then t.kind.toNat else if t.kind = 11 && tile then 8 else 0

/-- The lane with its command after a token has left. -/
def Port.emitted (q : Port) (t : Token) : Port :=
  let q := q.snapshot t false
  { q with posE := q.posE + 1, bnd := q.boundary t }.atGate

def wordTok (v : Nat) : Token := dataTok v

/-- Data tokens of bytes, little-endian (R259). -/
def tokensOf (bs : List Byte) : List Token := (words32 bs).map dataTok

/-! ### What emitting commands form (R259 to R263) -/

/-- Tokens formed, and the command's progress. -/
abbrev Formed := List Token × LaneCmd

/-- How an emitting command goes on: tokens, or an access that waits, stalls or fails, or a fabric reason. -/
inductive Form where
  | ok (f : LaneCmd) (s : State)
  | wait (s : State)
  | stall (va reason level : Nat) (s : State)
  | fail (cause addr det : Nat) (s : State)
  | bad (reason : Nat)

def Got.form {α : Type} (g : Got α) (f : α → State → Form) : Form :=
  match g with
  | .ok v s => f v s
  | .wait s => .wait s
  | .stall a r l s => .stall a r l s
  | .fail c a d s => .fail c a d s

/-- The closing of a read (R259). -/
def closeRead (opn : Bool) (rlvl k n : Nat) : List Token :=
  if !opn then [endTok 7 k] else if rlvl != 0 then [endTok rlvl (n - 1)] else []

/-- A handle to claim that is not yet claimed. -/
def LaneCmd.claims (c : LaneCmd) : Option Nat :=
  if c.claimed then none
  else match c.cmd with
    | .sread _ f => if f.hv then some f.handle.toNat else none
    | .sgather _ f => if f.hv then some f.handle.toNat else none
    | _ => none

/-- `sread`: the next 64-byte block of a row, and the ends that follow it. -/
def formRead (f : ReadFields) (c : LaneCmd) (s : State) : Form :=
  let n := max f.rows.toNat 1
  let len := f.len.toNat
  let step := if f.stride = 0 then len else 64 * f.stride.toNat
  let va := (f.addr.toNat + c.i * step + c.j) % 2 ^ 48
  let piece := min (64 - va % 64) (len - c.j)
  (s.partyRead va piece).form fun v s =>
    let ts := tokensOf (toBytes v piece)
    let k := c.n + piece / 4
    let rowEnd := c.j + piece == len
    let last := rowEnd && c.i + 1 == n
    let ends := if last then closeRead f.opn f.rlvl.toNat k n
      else if rowEnd && f.rlvl != 0 then [endTok f.rlvl.toNat c.i] else []
    .ok { c with
      n := k, i := if rowEnd then c.i + 1 else c.i, j := if rowEnd then 0 else c.j + piece
      out := ts ++ ends, closing := last } s

/-- `sgather`: an index, which is read once, and then its element. -/
def formGather (u : UnitRef) (f : GatherFields) (c : LaneCmd) (s : State) : Form :=
  let z := 2 ^ (f.esz.toNat + 2)
  let n := f.count.toNat
  match c.hdr with
  | [] => (s.partyRead (selfAlias + 4 * f.idx.toNat + 4 * c.i) 4).form fun v s =>
      .ok { c with hdr := [BitVec.ofNat 32 v] } s
  | j :: _ =>
    let a := (f.base.toNat + j.toNat * z) % 2 ^ 48
    if a % 4 != 0 then .fail 0x03 a 0 s
    else (s.partyBytes u a z).form fun bs s =>
      let k := c.n + z / 4
      let last := c.i + 1 == n
      let ends := if last then closeRead f.opn f.rlvl.toNat k n
        else if f.rlvl != 0 then [endTok f.rlvl.toNat c.i] else []
      .ok { c with n := k, i := c.i + 1, hdr := [], out := tokensOf bs ++ ends, closing := last } s

/-- The fields of a tile record held as its four 32-bit words (R289). -/
def recNat (h : List Word) : Nat := ofBytes (h.flatMap fun w => toBytes w.toNat 4)
def trB (h : List Word) : Nat := bitsOf (recNat h) 47 0
def trF (h : List Word) : Nat := bitsOf (recNat h) 55 48
def trAlign (h : List Word) : Nat := bitsOf (recNat h) 63 56
def trRows (h : List Word) : Nat := bitsOf (recNat h) 79 64
def trC (h : List Word) : Nat := bitsOf (recNat h) 95 80
def trS (h : List Word) : Nat := bitsOf (recNat h) 127 96

def wordsOf (bs : List Byte) : List Word := (words32 bs).map (BitVec.ofNat 32 ·)

/-- Rows sent by `stile`. -/
def tileRows (f : TileFields) (h : List Word) : Nat := if f.n = 0 then trRows h else f.n.toNat

/-- Bytes of 64 elements of an element format. -/
def sixtyFour (fmt : Nat) : Nat := 64 * recWidth fmt

/-- The lane's checks of a tile record (R262, reason 7). -/
def tileOk (f : TileFields) (h : List Word) : Bool :=
  let fmt := trF h
  let n := tileRows f h
  [1, 2, 3, 4, 5, 6, 9, 10, 11].contains fmt && n ≤ trRows h && (fmt != 6 || n % 4 == 0) &&
    (fmt == 6 || (if isDeb fmt then trC h % 32 == 0 else trC h % 64 == 0)) && trB h % 2 ^ trAlign h == 0

/-- Number of tiles, and data tokens of one (R262). -/
def tileCount (f : TileFields) (h : List Word) : Nat :=
  let n := tileRows f h
  if trF h == 6 then max (trC h) 1 else if isDeb (trF h) then n * (trC h / 32) else trC h / 64

def tileData (f : TileFields) (h : List Word) : Nat :=
  let n := tileRows f h
  if trF h == 6 then n / 4 + 48 * n else if trF h == 4 then 8 else if trF h == 5 then 4 else n * sixtyFour (trF h) / 4

def tileHead (f : TileFields) (h : List Word) (e0 e1 : Nat) : Token :=
  let d := tileData f h
  let cnt := if d % 8 == 0 && d ≤ 2040 then d / 8 else 0
  ⟨10, BitVec.ofNat 32 (cnt * 2 ^ 24 + e1 * 2 ^ 16 + e0 * 2 ^ 8 + trF h)⟩

def tileTail (d : Nat) : Token := ⟨11, BitVec.ofNat 32 d⟩

/-- Pieces of memory read in turn. -/
def readAll (u : UnitRef) : List (Nat × Nat) → List Byte → State → Got (List Byte)
  | [], acc, s => .ok acc s
  | p :: t, acc, s =>
    match s.partyBytes u p.1 p.2 with
    | .ok bs s => readAll u t (acc ++ bs) s
    | .wait s => .wait s
    | .stall a r l s => .stall a r l s
    | .fail c a d s => .fail c a d s

/-- `stile`: the record; then, by tile, head, rows and tail. A tile from a compressed page is read whole (R94, R115). -/
def formTile (u : UnitRef) (f : TileFields) (c : LaneCmd) (s : State) : Form :=
  match c.hdr with
  | [] => (s.partyBytes u (f.trec.toNat * 16) 16).form fun bs s =>
      let h := wordsOf bs
      if tileOk f h then
        let c := { c with hdr := h }
        if tileCount f h == 0 then
          .ok { c with out := if f.close then [endTok 7 0] else [], closing := true } s
        else .ok c s
      else .bad 7
  | h =>
    let n := tileRows f h
    let b := trB h
    let st := trS h
    let exp := f.exp.toNat * 64
    let d := tileData f h
    let tiles := tileCount f h
    let len := if trF h == 6 then 192 else sixtyFour (trF h)
    let rowAt (r : Nat) : Nat := (if trF h == 6 then b + (c.i * trRows h + r) * st else b + r * st + len * c.i) % 2 ^ 48
    let done (s : State) (pre : List Token) : Form :=
      let last := c.i + 1 == tiles
      .ok { c with
        i := c.i + 1, j := 0, n := c.n + d, closing := last
        out := pre ++ [tileTail d] ++ (if last && f.close then [endTok 7 tiles] else []) } s
    if isDeb (trF h) then
      let nb := trC h / 32
      let row := c.i / nb
      let blk := c.i % nb
      let w := if trF h == 4 then 32 else 16
      (s.partyBytes u ((exp + row * trC h / 16 + 2 * blk) % 2 ^ 48) 2).form fun e s =>
        (s.partyBytes u ((b + row * st + w * blk) % 2 ^ 48) w).form fun bs s =>
          done s (tileHead f h (e.getD 0 0).toNat (e.getD 1 0).toNat :: tokensOf bs)
    else if c.j == 0 then
      let rows := (List.range n).map fun r => (rowAt r, len)
      if rows.any fun p => s.inPage .load p.1 then
        (if trF h == 6 then s.partyBytes u exp n else .ok [] s).form fun es s =>
          (readAll u rows [] s).form fun bs s => done s (tileHead f h 0 0 :: tokensOf (es ++ bs))
      else if trF h == 6 && n != 0 then
        (s.partyBytes u exp n).form fun bs s => .ok { c with j := 1, out := tileHead f h 0 0 :: tokensOf bs } s
      else if n == 0 then done s [tileHead f h 0 0]
      else .ok { c with j := 1, out := [tileHead f h 0 0] } s
    else
      (s.partyBytes u (rowAt (c.j - 1)) len).form fun bs s =>
        if c.j == n then done s (tokensOf bs) else .ok { c with j := c.j + 1, out := tokensOf bs } s

/-- `ssegt`: the record, the header, and then one block of one row at a time. -/
def formSegt (u : UnitRef) (f : SegtFields) (c : LaneCmd) (s : State) : Form :=
  let rows := if f.nrows = 0 then 64 else f.nrows.toNat
  match c.hdr with
  | [] => (s.partyBytes u (f.trec.toNat * 16) 16).form fun bs s =>
      if trF (wordsOf bs) == 7 then .ok { c with hdr := wordsOf bs } s else .bad 7
  | [a, b, x, y] => (s.partyBytes u (trB [a, b, x, y]) 64).form fun bs s =>
      let kblks := ofBytes ((bs.drop 4).take 2)
      let woff := ofBytes ((bs.drop 16).take 4)
      let nkb := if f.nkb = 0 then kblks - f.kb0.toNat else f.nkb.toNat
      if ofBytes (bs.take 2) != 0x5E67 || kblks < f.kb0.toNat + nkb then .bad 7
      else if nkb == 0 then .ok { c with out := [endTok 7 rows], closing := true } s
      else .ok { c with hdr := [a, b, x, y, BitVec.ofNat 32 nkb, BitVec.ofNat 32 woff] } s
  | h =>
    let b := trB (h.take 4)
    let nkb := (h.getD 4 0).toNat
    let woff := (h.getD 5 0).toNat
    let row := f.frow.toNat + c.i / nkb
    let kb := f.kb0.toNat + c.i % nkb
    (s.partyRead ((b + 64 + 4 * (kb * 64 + row)) % 2 ^ 48) 4).form fun e s =>
      (s.partyBytes u ((b + woff + 4 * (e % 2 ^ 25)) % 2 ^ 48) (4 * (e / 2 ^ 25))).form fun bs s =>
        let rowEnd := c.i % nkb + 1 == nkb
        let last := c.i + 1 == rows * nkb
        let t := if last then endTok 7 rows else if rowEnd then endTok 2 0 else endTok 1 0
        .ok { c with i := c.i + 1, n := c.n + e / 2 ^ 25, out := tokensOf bs ++ [t], closing := last } s

/-- What an emitting command forms next. -/
def formNext (u : UnitRef) (c : LaneCmd) (s : State) : Form :=
  match c.cmd with
  | .sread _ f => formRead f c s
  | .sgather _ f => formGather u f c s
  | .stile _ f => formTile u f c s
  | .ssegt _ f => formSegt u f c s
  | .sbar _ _ id snap => .ok { c with out := [barTok (id.toNat + b2n snap * 256)], closing := true } s
  | .send _ _ lvl pay err =>
    .ok { c with out := [if err then errTok pay.toNat else endTok lvl.toNat pay.toNat], closing := true } s
  | _ => .ok { c with closing := true } s

/-- Commands that `sclose` can cut. -/
def Instr.cuttable : Instr → Bool
  | .sread _ _ => true
  | .sgather _ _ => true
  | .stile _ _ => true
  | .ssegt _ _ => true
  | _ => false

/-- Data tokens among those formed and not yet emitted. -/
def LaneCmd.pending (c : LaneCmd) : Nat := (c.out.filter fun t => t.isData).length

/-! ### Configuration words (R166, R264) -/

/-- A configuration word may enter its FE's place for waiting words: fewer than 16 wait there, and no token that left
the row's port before it is still on its way to the FE. Log 70. -/
def State.cfgRoom (s : State) (w : Dword) : Bool :=
  (s.fe (cfgRow w.toNat) (cfgCol w.toNat)).waiting.length < 16 && s.laneClear (cfgRow w.toNat) (cfgCol w.toNat)

def State.cfgSend (s : State) (w : Dword) (id : Option Nat) : State :=
  s.updFe (cfgRow w.toNat) (cfgCol w.toNat) fun f => { f with waiting := f.waiting ++ [(w, id)] }

/-- The next word of a folio's configuration at the head of the emit lane's order. -/
def State.emitCfg (s : State) (p k id : Nat) (ws : List Dword) : State :=
  match ws with
  | [] => s.updPort p fun q => { q with queue := q.queue.eraseIdx k, bnd := 8 }
  | w :: t =>
    if s.cfgRoom w then
      (s.cfgSend w (some id)).updPort p fun q =>
        if t.isEmpty then { q with queue := q.queue.eraseIdx k, bnd := 8 }.atGate
        else { q with queue := updAt q.queue k fun _ => .cfg id t, bnd := 0 }
    else s

/-! ### Entry queues (R134, R135, R164) -/

/-- The entry queues of a port that hold an entry. -/
def State.entriesAtPort (s : State) (p : Nat) : List (Nat × EntryQ) :=
  let f := s.core.fab
  match f.folio with
  | none => []
  | some n => (f.qs.zipIdx.map fun x => (x.2, x.1)).filter fun x =>
      x.2.folio.toNat == n && x.2.port.toNat == p && 0 < x.2.cnt

/-- The entry queue whose entry the lane has begun, also where another folio has become current since. -/
def State.begunEntry (s : State) (p : Nat) : Option (Nat × EntryQ) :=
  (s.core.fab.qs.zipIdx.map fun x => (x.2, x.1)).find? fun x => x.2.port.toNat == p && x.2.pos != 0 && 0 < x.2.cnt

/-- The entry queue that a free emit lane serves: one whose entry it has begun, else the first. -/
def State.entryAtPort (s : State) (p : Nat) : Option (Nat × EntryQ) :=
  match s.begunEntry p with
  | some x => some x
  | none => (s.entriesAtPort p).head?

/-- A record that the lane has begun, which it finishes before any other work (R134). -/
def State.midEntry (s : State) (p : Nat) : Bool := (s.begunEntry p).isSome && !(s.port p).sealed

/-- The emit lane takes no command now: it is stopped, or within a record. -/
def State.laneKept (s : State) (p : Nat) : Bool := s.laneStopped p || s.midEntry p

/-- One token of the entry at the head of a queue, read by an access of the lane. -/
def State.emitEntry (s : State) (p k : Nat) (d : EntryQ) : State :=
  if !s.laneRoom p || s.stalledAt (.lane p) then s
  else laneGot (.lane p) p 0 0 (s.partyRead (selfAlias + d.base + d.rd * d.esize.toNat + 4 * d.pos) 4) fun v s =>
    let last := 4 * (d.pos + 1) == d.esize.toNat
    let d' : EntryQ := if last then { d with pos := 0, rd := (d.rd + 1) % d.cap.toNat, cnt := d.cnt - 1 }
      else { d with pos := d.pos + 1 }
    let s := s.laneSend p (dataTok v)
    (s.updFab fun f => { f with qs := updAt f.qs k fun _ => d' }).updPort p fun q =>
      { q with bnd := if last then 8 else 0 }.atGate

/-! ### LANE_EMIT_TOKEN -/

/-- A command's next tokens formed, the first of which leaves at once: at a boundary no token past it is formed, and no
memory read for one (R266). -/
def State.laneForm (s : State) (p : Nat) (c : LaneCmd) : State :=
  match formNext (.lane p) c s with
  | .ok c s =>
    let s := s.unhold (.lane p)
    match c.out with
    | [] => s.updPort p fun q => { q with emitCmd := some c }
    | t :: r => (s.laneSend p t).updPort p fun q => { q with emitCmd := some { c with out := r } }.emitted t
  | .wait s => s
  | .stall va r l s => s.stallUnit (.lane p) va r 0 l
  | .fail cause a d s => s.portFault p (Instr.code c.cmd) cause 0 a d
  | .bad r => s.portFault p (Instr.code c.cmd) 0x08 r 0 0

/-- A `stile` that the lane has taken has its record to read, whatever else holds the lane (R262). -/
def Port.recordDue (q : Port) : Option LaneCmd := q.emitCmd.filter fun c => Instr.isStile c.cmd && c.hdr.isEmpty && !c.closing

/-- The record of a `stile` read and checked; what a record of no tile forms stands in the command. -/
def State.laneRecord (s : State) (p : Nat) (c : LaneCmd) : State :=
  match formNext (.lane p) c s with
  | .ok c s => (s.unhold (.lane p)).updPort p fun q => { q with emitCmd := some c }
  | .wait s => s
  | .stall va r l s => s.stallUnit (.lane p) va r 0 l
  | .fail cause a d s => s.portFault p (Instr.code c.cmd) cause 0 a d
  | .bad r => s.portFault p (Instr.code c.cmd) 0x08 r 0 0

/-- A lane whose command is cut at the boundary where it stands forms its end and no more (R265); behind a tile's tail stands
no token but the end of the whole command, in whose place the cut's end comes. -/
def Port.cutNow (q : Port) (c : LaneCmd) : Option LaneCmd :=
  match q.cut with
  | some l =>
    if q.posE != 0 && l.toNat ≤ q.bnd && (c.out.isEmpty || q.bnd == 8) then
      some { c with closing := true, out := if q.bnd == 7 then [] else [endTok 7 c.n] }
    else none
  | none => none

/-- A token that `sreq` has taken is answered (R267): its response is read, and its first token leaves at once. -/
def State.serveReq (s : State) (p : Nat) (a : LaneCmd) (base sz : Nat) (t : Token) (rest : List Token) : State :=
  let n := 2 ^ sz
  let put (s : State) (ts : List Token) : State :=
    let s := s.updPort p fun q => { q with absCmd := some { a with out := rest } }
    match ts with
    | [] => s
    | x :: r => (s.laneSend p x).updPort p fun q => { q.emitted x with reqq := r }
  if t.isVoid then put s (List.replicate (n / 4) voidTok)
  else if t.isData then
    let va := ((base : Int) + signedOf 32 t.payload.toNat) % (2 ^ 48 : Int) |>.toNat
    if va % n != 0 then s.portFault p 0x1B 0x03 0 va 0
    else laneGot (.lane p) p 0x1B 0 (s.partyRead va n) fun v s => put s (tokensOf (toBytes v n))
  else put s [t]

/-- The emit lane with a command moves. The word of an `scfg` counts as the two fragments that it is sent as (R264, R270). -/
def State.laneMove (s : State) (p : Nat) (c : LaneCmd) : State :=
  let q := s.port p
  match c.cmd with
  | .scfg _ _ w =>
    if c.closing || !s.cfgRoom w then s
    else (s.cfgSend w none).updPort p fun q => { q with
      emitCmd := some { c with closing := true }, posE := q.posE + 2, bnd := 0 }
  | .sreq _ _ base sz =>
    if !s.laneRoom p || s.stalledAt (.lane p) then s
    else match q.reqq, q.absCmd with
      | t :: r, _ => (s.laneSend p t).updPort p fun q => { q.emitted t with reqq := r }
      | [], some a => match a.out with
        | [] => s
        | t :: r => s.serveReq p a base.toNat sz.toNat t r
      | [], none => s
  | _ =>
    match q.cutNow c with
    | some c => s.updPort p fun q => { q with emitCmd := some c, cut := none }
    | none =>
      match c.out with
      | t :: r =>
        if s.laneRoom p then
          (s.laneSend p t).updPort p fun q => { q with emitCmd := some { c with out := r } }.emitted t
        else s
      | [] =>
        if c.closing || c.claims.isSome || s.stalledAt (.lane p) || !s.laneRoom p then s else s.laneForm p c

/-- LANE_EMIT_TOKEN (R256). -/
def execLaneEmitToken (p : BitVec 4) (s : State) : Host.Outcome State Fault Refusal :=
  let k := p.toNat
  let q := s.port k
  match q.sealToks, q.recordDue with
  | w :: ws, _ =>
    if s.laneRoom k then .next ((s.laneSend k ⟨9, w⟩).updPort k fun q => { q with sealToks := ws, bnd := 8 })
    else .next s
  | [], some c => .next (if s.stalledAt (.lane k) then s else s.laneRecord k c)
  | [], none =>
    if s.laneStopped k then .next s
    else match q.emitCmd with
      | some c => .next (s.laneMove k c)
      | none =>
        let entry : State := match s.entryAtPort k with
          | some x => if q.sealed then s else s.emitEntry k x.1 x.2
          | none => s
        if s.midEntry k then .next entry
        else match nextEmit q.queue with
          | some (i, .cfg id ws) => .next (s.emitCfg k i id ws)
          | some _ => .next (s.updPort k Port.takeEmit)
          | none => .next entry

/-! ### The absorb lane (R259, R260, R267, R361) -/

/-- The tracks whose runs end at the port. -/
def State.laneTracks (s : State) (p : Nat) : List Nat :=
  let c := (s.neighbour (p + 1) 0 1).2
  (List.range 4).filter fun t => (s.fe (p + 1) c).cross (12 + t) != 0

/-- The token at the head of a track. -/
def Port.trackHead (q : Port) (t : Nat) : Option Token := (q.inq.find? fun x => x.1 == t).map (·.2)

/-- What the absorb lane takes next. -/
inductive AbsNext where
  | none
  | token (k : Nat) (t : Token)
  | barrier (t : Token)
  | clash
  deriving DecidableEq, Repr

/-- The place of the oldest token that no barrier holds: each track's head, in arrival order. -/
def oldestFree : List (Nat × Token) → List Nat → Nat → Option (Nat × Token)
  | [], _, _ => none
  | x :: t, seen, k =>
    if x.1 ∈ seen then oldestFree t seen (k + 1)
    else if x.2.isBar then oldestFree t (x.1 :: seen) (k + 1)
    else some (k, x.2)

/-- Barriers with different ids at the heads of two runs clash, whatever a third shows (R160). -/
def State.absNext (s : State) (p : Nat) : AbsNext :=
  let q := s.port p
  let ts := s.laneTracks p
  let bs := (ts.filterMap q.trackHead).filter Token.isBar
  if bs.any fun u => bs.any fun v => u.barId != v.barId then .clash
  else match oldestFree q.inq [] 0 with
    | some x => .token x.1 x.2
    | none => match bs with
      | [] => .none
      | t :: _ => if bs.length < ts.length then .none else .barrier t

/-- The first token of each track removed. -/
def dropHeads : List (Nat × Token) → List Nat → List (Nat × Token)
  | [], _ => []
  | x :: t, seen => if x.1 ∈ seen then x :: dropHeads t seen else dropHeads t (x.1 :: seen)

/-- A barrier taken: the lane is its sink; under an `sreq` that has not taken its last token it goes on, behind the
responses (R267). -/
def State.absBarrier (s : State) (p : Nat) (t : Token) : State :=
  let fwd := match (s.port p).absCmd with
    | some c => Instr.paired c.cmd && !c.closing
    | none => false
  let s := s.updPort p fun q =>
    let q := q.snapshot t true
    { q with
      inq := dropHeads q.inq [], posA := if q.absCmd.isSome then q.posA + 1 else q.posA
      absCmd := if fwd then q.absCmd.map fun c => { c with out := c.out ++ [t] } else q.absCmd }
  let s := if fwd then s.announce (.lane p) t.barId else s
  s.sinkReached (.lane p) t.barId

/-- A token consumed by the absorbing command. -/
def State.absTaken (s : State) (p k : Nat) (c : LaneCmd) : State :=
  s.updPort p fun q => { q with inq := q.inq.eraseIdx k, absCmd := some c, posA := q.posA + 1 }

/-- Tokens of the pattern of `swrite` and `sscatter`, and of one row or element of it. -/
def absSize : Instr → Nat × Nat
  | .swrite _ f => (max f.rows.toNat 1 * (f.len.toNat / 4), f.len.toNat / 4)
  | .sscatter _ f => (f.count.toNat * 2 ^ f.esz.toNat, 2 ^ f.esz.toNat)
  | _ => (0, 1)

/-- Where they write token `k`; the index of its element is held in `hdr`. -/
def LaneCmd.absAddr (c : LaneCmd) (k : Nat) : Nat :=
  let w := (absSize c.cmd).2
  match c.cmd with
  | .swrite _ f =>
    let step := if f.stride = 0 then f.len.toNat else 64 * f.stride.toNat
    (f.addr.toNat + k / w * step + 4 * (k % w)) % 2 ^ 48
  | .sscatter _ f => (f.base.toNat + (c.hdr.getD 0 0).toNat * (4 * w) + 4 * (k % w)) % 2 ^ 48
  | _ => 0

/-- The index of the element at hand, not yet read: it is read once (R260). -/
def LaneCmd.wantsIndex (c : LaneCmd) : Option Nat :=
  match c.cmd with
  | .sscatter _ f =>
    if c.hdr.isEmpty && c.n < (absSize c.cmd).1 then some (selfAlias + 4 * f.idx.toNat + 4 * (c.n / (absSize c.cmd).2))
    else none
  | _ => none

/-- The tokens taken reach the end of a 64-byte block, or of their row or element. -/
def LaneCmd.blockFull (c : LaneCmd) : Bool :=
  !c.out.isEmpty && (c.n % (absSize c.cmd).2 == 0 || c.absAddr c.n % 64 == 0)

/-- What the tokens taken write, as offsets, lengths and values; void tokens write nothing. -/
def LaneCmd.pieces (c : LaneCmd) : List (Nat × Nat × Nat) :=
  (c.out.zipIdx.filter fun x => !x.1.isVoid).map fun x => (4 * x.2, 4, x.1.payload.toNat)

/-- That write, one access of a block (R257). -/
def State.absWrite (s : State) (c : LaneCmd) : Got Unit :=
  s.partyPieces (c.absAddr (c.n - c.out.length)) (4 * c.out.length) c.pieces

/-- The tokens taken written. -/
def State.absFlush (s : State) (p : Nat) (c : LaneCmd) : State :=
  let c' := { c with out := [], hdr := if c.n % (absSize c.cmd).2 == 0 then [] else c.hdr }
  let done (s : State) : State := s.updPort p fun q => { q with absCmd := some c' }
  if c.pieces.isEmpty then done s
  else laneGot (.absorb p) p (Instr.code c.cmd) 1 (s.absWrite c) fun _ s => done s

/-- The tokens taken are to be written now: a full block, or a part of one ahead of a barrier, of the end, of what seals the
port, or when no token is left at a pre-emption. -/
def State.absDue (s : State) (p : Nat) (c : LaneCmd) : Bool :=
  !Instr.paired c.cmd && !c.out.isEmpty && (c.blockFull || match s.absNext p with
    | .none => s.lanesHeld && (s.port p).inq.isEmpty
    | .token _ t => t.kind = 7 || t.isErr || t.kind = 12 || 14 ≤ t.kind.toNat
    | _ => true)

/-- The lane reads the index of a token that it is to take (R260). -/
def State.absIndex (s : State) (p : Nat) (c : LaneCmd) : Option (Got Nat) :=
  match s.absNext p, c.wantsIndex with
  | .token _ t, some a => if t.isData then some (s.partyRead a 4) else none
  | _, _ => none

/-- The lane takes a token and then faults on it: SPPOS counts it (R259, R269). -/
def State.tokenFault (s : State) (p cmd cause reason addr : Nat) : State :=
  (s.updPort p fun q => { q with posA := q.posA + 1 }).portFault p cmd cause reason addr 0

/-- A data or void token of an absorbing command. -/
def State.absData (s : State) (p k : Nat) (c : LaneCmd) (t : Token) : State :=
  let code := Instr.code c.cmd
  if c.n == (absSize c.cmd).1 then s.tokenFault p code 0x08 4 0
  else match c.wantsIndex with
    | some a => laneGot (.absorb p) p code 0 (s.partyRead a 4) fun v s =>
        s.updPort p fun q => { q with absCmd := some { c with hdr := [BitVec.ofNat 32 v] } }
    | none =>
      if !t.isVoid && c.absAddr c.n % 4 != 0 then s.tokenFault p code 0x03 0 (c.absAddr c.n)
      else s.absTaken p k { c with n := c.n + 1, out := c.out ++ [t] }

/-- A token that is no barrier, taken by the lane's command. -/
def State.absToken (s : State) (p k : Nat) (c : LaneCmd) (t : Token) : State :=
  let code := Instr.code c.cmd
  let last := t.kind = 7 || t.isErr
  if c.closing then s
  else if t.kind = 12 then s.tokenFault p code 0x08 2 0
  else if 14 ≤ t.kind.toNat then s.tokenFault p code 0x08 1 0
  else if Instr.paired c.cmd then
    if c.out.isEmpty || s.laneStopped p then s.absTaken p k { c with closing := last, n := c.n + 1, out := c.out ++ [t] }
    else s
  else if t.isData then s.absData p k c t
  else s.absTaken p k { c with closing := last }

/-- LANE_ABSORB_TOKEN (R256): what is due to be written is written before a further token is looked at. -/
def execLaneAbsorbToken (p : BitVec 4) (s : State) : Host.Outcome State Fault Refusal :=
  let k := p.toNat
  let s := if (s.port k).absCmd.isNone then s.updPort k (·.takeAbsorb (s.laneKept k)) else s
  let q := s.port k
  if s.stalledAt (.absorb k) then .next s
  else
    match q.absCmd, s.absNext k with
    | none, .clash => .next (s.portFault k 0 0x08 5 0 0)
    | none, .barrier t => .next (s.absBarrier k t)
    | none, _ => .next s
    | some c, x =>
      if s.absDue k c then .next (s.absFlush k c)
      else match x with
        | .none => .next s
        | .clash => .next (s.portFault k (Instr.code c.cmd) 0x08 5 0 0)
        | .barrier t => .next (s.absBarrier k t)
        | .token i t => .next (s.absToken k i c t)

/-! ### Completion, claims, seals -/

/-- The emit lane is free: a boundary of every level. -/
def Port.freeEmit (q : Port) : Port :=
  { q with emitCmd := none, serialE := q.serialE + 1, bnd := 8, cut := none }.atGate

/-- LANE_COMMAND_COMPLETE (R256): the lane's command has formed and emitted, or taken, everything; the lane takes
its next command. A paired command ends on both lanes. -/
def execLaneCommandComplete (p : BitVec 4) (absorb : Bool) (s : State) : Host.Outcome State Fault Refusal :=
  let k := p.toNat
  let q := s.port k
  let next (s : State) : State :=
    if s.laneKept k then s.updPort k (·.takeAbsorb true) else s.updPort k fun q => q.takeEmit.takeAbsorb false
  let done (e : LaneCmd) : Bool := e.closing && e.out.isEmpty && (q.cutNow e).isNone
  match q.emitCmd, q.absCmd with
  | some e, some a =>
    if Instr.paired e.cmd then
      if a.closing && a.out.isEmpty && q.reqq.isEmpty then
        .next (next (s.updPort k fun q => { q.freeEmit with absCmd := none, serialA := q.serialA + 1 }))
      else .next s
    else if absorb then
      if a.closing && a.out.isEmpty then
        .next (next (s.updPort k fun q => { q with absCmd := none, serialA := q.serialA + 1 }))
      else .next s
    else if done e then .next (next (s.updPort k Port.freeEmit))
    else .next s
  | some e, none =>
    if !absorb && done e then .next (next (s.updPort k Port.freeEmit)) else .next s
  | none, some a =>
    if absorb && a.closing && a.out.isEmpty then
      .next (next (s.updPort k fun q => { q with absCmd := none, serialA := q.serialA + 1 }))
    else .next s
  | none, none => .next s

/-- HANDLE_CLAIM (R89, R261): FULL moves to DRAINING, DRAINING stays; a handle with ERR gives an error end. -/
def execHandleClaim (p : BitVec 4) (s : State) : Host.Outcome State Fault Refusal :=
  let k := p.toNat
  match (s.port k).emitCmd with
  | none => .next s
  | some c =>
    match c.claims with
    | none => .next s
    | some h =>
      let e := s.handle h
      if e.st = .full || e.st = .draining then
        let s := s.updHandle h fun e => { e with st := .draining }
        let c := { c with claimed := true }
        let c := if e.err = 0 then c else { c with out := [errTok e.err.toNat], closing := true }
        .next (s.updPort k fun q => { q with emitCmd := some c })
      else .next s

/-- The seal of a port ends (R269, R270); an error end that it owes still leaves. -/
def execSpctlUnseal (p : BitVec 4) (s : State) : Host.Outcome State Fault Refusal :=
  .next (s.updPort p.toNat fun q => { q with sealed := false })

/-! ### Immediate commands (R265) -/

/-- The lower of two levels that wait: its boundary comes first, or with the other's. -/
def lowerLvl (old : Option (BitVec 3)) (l : BitVec 3) : Option (BitVec 3) :=
  match old with
  | some m => some (if m.toNat ≤ l.toNat then m else l)
  | none => some l

/-- `sclose`: the command that the emit lane performs is cut at its next boundary. -/
def Port.close (q : Port) (lvl : BitVec 3) : Port :=
  match q.emitCmd with
  | some c => if Instr.cuttable c.cmd && !(c.closing && c.out.isEmpty) then { q with cut := lowerLvl q.cut lvl } else q
  | none => q

def Port.setGate (q : Port) (lvl : BitVec 3) : Port := { q with gate := lowerLvl q.gate lvl }.atGate

def Port.ungate (q : Port) : Port := { q with gated := false }

/-! ### Registers of a port (R270) -/

def Form.isWait : Form → Bool
  | .wait _ => true
  | _ => false

def Got.isWait {α : Type} : Got α → Bool
  | .wait _ => true
  | _ => false

/-- The read that `sreq` makes for the token that it has taken (R267). -/
def State.reqRead (s : State) (p : Nat) (c : LaneCmd) : Option (Got Nat) :=
  match c.cmd, (s.port p).reqq, (s.port p).absCmd with
  | .sreq _ _ base sz, [], some a => match a.out with
    | t :: _ =>
      if t.kind = 0 then some (s.partyRead (((base.toNat : Int) + signedOf 32 t.payload.toNat) % (2 ^ 48 : Int)).toNat (2 ^ sz.toNat))
      else none
    | [] => none
  | _, _, _ => none

/-- The emit lane's command waits for a handle, a read or room. -/
def State.emitWaits (s : State) (p : Nat) (c : LaneCmd) : Bool :=
  c.claims.isSome || s.stalledAt (.lane p) ||
    match c.cmd with
    | .scfg _ _ w => !c.closing && !s.cfgRoom w
    | .sreq _ _ _ _ => !s.laneRoom p || (s.reqRead p c).any Got.isWait
    | _ => !s.laneRoom p || (c.out.isEmpty && !c.closing && (formNext (.lane p) c s).isWait)

/-- ESTATE and ASTATE. -/
def State.estate (s : State) (p : Nat) : Nat :=
  let q := s.port p
  if s.laneStopped p then 3
  else match q.emitCmd with
    | none => 0
    | some c => if s.emitWaits p c then 2 else 1

def State.astate (s : State) (p : Nat) : Nat :=
  let q := s.port p
  match q.absCmd with
  | none => 0
  | some c =>
    if s.absNext p = .none || s.stalledAt (.absorb p) then 2
    else if s.absDue p c && !c.pieces.isEmpty && (s.absWrite c).isWait then 2
    else if (s.absIndex p c).any Got.isWait then 2
    else 1

/-- Commands queued. -/
def Port.depth (q : Port) : Nat :=
  (q.queue.filter fun x => match x with
    | .cmd _ => true
    | .cfg _ _ => false).length

def laneCode (c : Option LaneCmd) : Nat :=
  match c with
  | some c => Instr.code c.cmd
  | none => 0

/-- A port register as read. -/
def State.portReg (s : State) (p off : Nat) : Nat :=
  let q := s.port p
  match off with
  | 0x00 => q.depth * 2 ^ 32 + laneCode q.emitCmd * 2 ^ 24 + laneCode q.absCmd * 2 ^ 16 + b2n q.sealed * 2 ^ 11 +
      b2n (s.laneStopped p) * 2 ^ 10 + q.plvl.toNat * 2 ^ 7 + b2n q.snapv * 2 ^ 6 + s.estate p * 4 + s.astate p
  | 0x08 => q.posA.toNat * 2 ^ 32 + q.posE.toNat
  | 0x10 => q.snap.toNat
  | _ => 0

end Sys2Proof.Machine
end

