-- ==== Sys2Proof/Machine/Matrix.lean ====
section
/-! DEFINITION. The matrix engines: planes, accumulator banks, products, drain, status and seals (R273 to R297). -/

namespace Sys2Proof.Machine

/-! ### Banks and their contexts (R278, R281, R329) -/

/-- Physical bank `j`. -/
def Me.bank (m : Me) (j : Bool) : Bank := if j then m.bank1 else m.bank0
def Me.setBank (m : Me) (j : Bool) (b : Bank) : Me := if j then { m with bank1 := b } else { m with bank0 := b }

/-- The physical bank that a command's BANK field names. -/
def Me.named (m : Me) (second : Bool) : Bool := m.prim != second

def Bank.col (b : Bank) (n : Nat) : Option Col := b.cols.find? fun c => c.n == n

/-- Cell (m, n) of a bank; an EMPTY column reads as zero. -/
def Bank.cell (b : Bank) (m n : Nat) : Dword :=
  match b.col n with
  | some c => c.cells.getD m 0
  | none => 0

def Bank.kind (b : Bank) (n : Nat) : ColKind :=
  match b.col n with
  | some c => c.kind
  | none => .empty

def Bank.exp (b : Bank) (n : Nat) : Nat :=
  match b.col n with
  | some c => c.exp.toNat
  | none => 0

/-- Columns put in place of those with the same numbers, in rising order. -/
def putCols (old new : List Col) : List Col :=
  new.foldl (fun l c => (l.filter fun x => x.n < c.n) ++ c :: l.filter fun x => c.n < x.n) old

/-- Columns below `n` made EMPTY. -/
def Bank.emptyBelow (b : Bank) (n : Nat) : Bank :=
  { b with cols := b.cols.flatMap fun c => if n ≤ c.n then [c] else c.emptied }

def ColKind.code : ColKind → Nat
  | .empty => 0
  | .int => 1
  | .fp => 2

/-- Byte `i` of a bank image (R281). -/
def Bank.imageByte (b : Bank) (i : Nat) : Byte :=
  if i < 262144 then
    BitVec.ofNat 8 ((b.cell (i / 4096) (i % 4096 / 8)).toNat >>> (8 * (i % 8)))
  else if i < 262656 then BitVec.ofNat 8 (b.kind (i - 262144)).code
  else BitVec.ofNat 8 (b.exp (i - 262656))

def imageBytes : Nat := 263168

def Bank.image (b : Bank) : List Byte := (List.range imageBytes).map b.imageByte

/-- The columns of a bank image, an FP cell in bits 31:0 alone (R278); none where its metadata is invalid. -/
def colsOfImage (bs : List Byte) : Option (List Col) :=
  let meta_ := ((bs.drop 262144).take 512).map (·.toNat)
  if meta_.any fun x => 3 ≤ x then none
  else
    let exps := bs.drop 262656
    let cells := bs.take 262144
    some ((List.range 512).filterMap fun n =>
      let k := meta_.getD n 0
      let w := if k == 2 then 4 else 8
      if k == 0 then (if exps.getD n 0 = 0 then none else some ⟨n, .empty, exps.getD n 0, []⟩)
      else some ⟨n, if k == 1 then .int else .fp, exps.getD n 0, (List.range 64).map fun m =>
        BitVec.ofNat 64 (ofBytes ((cells.drop (4096 * m + 8 * n)).take w))⟩)

/-- The physical place of a context's bank image in its save area (R329). -/
def State.saveArea (s : State) (ctx : BitVec 12) (e : Nat) (second : Bool) : Nat :=
  s.rd (bitsOf s.modl.savetab.toNat 51 11 * 2 ^ 11 + 8 * ctx.toNat) 8 % 2 ^ 52 + s.coreId * 0x20_0000 +
    (2 * e + b2n second) * 0x4_0400

/-- A bank spilled to its owner's save area, and left unowned. -/
def State.spillOut (s : State) (e : Nat) (j : Bool) : State :=
  let b := (s.me e).bank j
  match b.owner with
  | none => s
  | some x => (s.wrBytes (s.saveArea x e b.second) b.image).updMe e fun m => m.setBank j Bank.reset

/-- A bank given to a context with every column EMPTY; another context's bank is spilled first. -/
def State.takeBank (s : State) (e : Nat) (j : Bool) (ctx : BitVec 12) (second : Bool) : State :=
  (s.spillOut e j).updMe e fun m => m.setBank j ⟨some ctx, second, []⟩

/-- A bank of the task's context filled from its save area, where its image there is valid. -/
def State.fillBank (s : State) (e : Nat) (j : Bool) (ctx : BitVec 12) (second : Bool) : State :=
  match colsOfImage (memBytes s.mem (s.saveArea ctx e second) imageBytes) with
  | some cols => s.updMe e fun m => m.setBank j ⟨some ctx, second, cols⟩
  | none => s

/-! ### Seals (R296) -/

/-- An engine's fault: its record, the command abandoned and the engine sealed. What stands in the drain port's emit queue
still leaves, and the error end behind it. -/
def State.meFault (s : State) (e cmd cause reason addr det : Nat) : State :=
  let m := s.me e
  if m.sealed then s
  else
    let s := s.fabRecord cmd reason cause 0 unitMe 18 (8 * e + 1) m.apos addr det
    let s := s.updMe e fun m => Me.emit { m with
      sealed := true, queue := [], drain := [errTok cause], tile := []
      apart := List.replicate 8 [], arows := List.replicate 8 [], adiscard := List.replicate 8 false }
    ((s.updFab fun f => { f with reqs := f.reqs.filter fun q => !(q.who = .me e) }).unhold (.me e)).unhold (.plane e) |>.unannounce (.me e)

/-- What an access of an engine for a command comes to. -/
def meGot {α : Type} (e cmd acc : Nat) (g : Got α) (f : α → State → State) : State :=
  match g with
  | .ok v s => f v s
  | .wait s => s
  | .stall va r l s => s.stallUnit (.me e) va r acc l
  | .fail c a d s => s.meFault e cmd c 0 a d

/-! ### The queue (R274) -/

def Instr.product : Instr → Option ProductFields
  | .mdense _ f => some f
  | .mseg _ _ _ _ f => some f
  | .mbatch _ f => some f
  | .mgather _ _ f => some f
  | _ => none

/-- A product whose rows arrive on A channels. -/
def Instr.fromChannels : Instr → Bool
  | .mdense _ _ => true
  | .mseg _ _ _ _ f => !f.src
  | .mbatch _ _ => true
  | _ => false

def Instr.isMload : Instr → Bool
  | .mload _ _ => true
  | _ => false

def Instr.drainBank : Instr → Option Bool
  | .mdrain _ f => some f.bank
  | _ => none

/-- Whether a command begins behind those ahead of it. -/
def canBegin (before : List EngCmd) (c : EngCmd) : Bool :=
  if Instr.isMload c.cmd then
    before.all fun b => (Instr.product b.cmd).isSome || (Instr.drainBank b.cmd).isSome
  else match Instr.product c.cmd with
    | some f => before.all fun b => match Instr.drainBank b.cmd with
      | some k => b.begun && k != f.bank
      | none => false
    | none => before.isEmpty

/-- The first command that has begun and satisfies `p`, with its place. -/
def firstBegun (p : EngCmd → Bool) : List EngCmd → List EngCmd → Option (Nat × EngCmd)
  | _, [] => none
  | before, c :: t =>
    if p c && !c.fin && canBegin before c then some (before.length, c) else firstBegun p (before ++ [c]) t

/-- The product in progress. -/
def Me.product (m : Me) : Option (Nat × EngCmd) := firstBegun (fun c => (Instr.product c.cmd).isSome) [] m.queue

/-- The `mload` that waits for a burst. -/
def Me.loading (m : Me) : Option (Nat × LoadFields) :=
  match firstBegun (fun c => match c.cmd with
    | .mload _ f => !f.src
    | _ => false) [] m.queue with
  | some (k, c) => match c.cmd with
    | .mload _ f => some (k, f)
    | _ => none
  | none => none

/-- A command marked as finished. -/
def Me.finish (m : Me) (k : Nat) : Me := { m with queue := updAt m.queue k fun c => { c with fin := true } }

/-! ### Planes (R275, R276) -/

/-- Entry k of column n. -/
def Plane.entry (p : Plane) (n k : Nat) : Nat := ((p.cols.getD n []).getD k 0).toNat

/-- S_n[j], with S_n[0] = 0. -/
def Plane.sum (p : Plane) (n j : Nat) : Int := if j == 0 then 0 else signedOf 24 (p.entry n (j - 1))

/-- The exponent of a column: 144 for BF16 and INT8. -/
def Plane.expOf (p : Plane) (n : Nat) : Nat :=
  match p.pf with
  | .st24 => (p.exps.getD n 0).toNat
  | _ => 144

/-- The tile format and plane format of PFMT. -/
def pfmtCode (f : BitVec 2) : Nat := if f = 0 then 1 else if f = 1 then 3 else 6
def pfmtPlane (f : BitVec 2) : PlaneFmt := if f = 0 then .bf16 else if f = 1 then .int8 else .st24

/-- Bytes of one column of a plane. -/
def colBytes (f : BitVec 2) : Nat := if f = 0 then 128 else if f = 1 then 64 else 192

/-- The 64 entries of a column from its bytes. -/
def entriesOf (f : BitVec 2) (bs : List Byte) : List (BitVec 24) :=
  (List.range 64).map fun k =>
    if f = 0 then BitVec.ofNat 24 (ofBytes ((bs.drop (2 * k)).take 2) * 2 ^ 8)
    else if f = 1 then (bs.getD k 0).signExtend 24
    else BitVec.ofNat 24 (ofBytes ((bs.drop (3 * k)).take 3))

/-- A plane from exponent bytes and the bytes of its columns. -/
def planeOf (f : LoadFields) (exps cols : List Byte) : Plane :=
  let n := f.n.toNat
  { pf := pfmtPlane f.pfmt, pn := n, exps := if f.pfmt = 2 then exps.take n else []
    cols := (List.range n).map fun i => entriesOf f.pfmt ((cols.drop (colBytes f.pfmt * i)).take (colBytes f.pfmt)) }

/-- Data tokens of a burst. -/
def burstTokens (f : LoadFields) : Nat :=
  let n := f.n.toNat
  if f.pfmt = 0 then 32 * n else if f.pfmt = 1 then 16 * n else n / 4 + 48 * n

def toksBytes (ts : List Token) : List Byte := ts.flatMap fun t => toBytes t.payload.toNat 4

/-- A whole burst: the plane it gives, none where head, tokens and tail do not match. -/
def burstPlane (f : LoadFields) (tile : List Token) (tail : Token) : Option Plane :=
  match tile with
  | [] => none
  | h :: data =>
    let d := data.length
    let cnt := bitsOf h.payload.toNat 31 24
    if h.payload.toNat % 256 != pfmtCode f.pfmt || d != burstTokens f || tail.payload.toNat != d ||
        (cnt != 0 && 8 * cnt != d) then none
    else
      let bs := toksBytes data
      let n := f.n.toNat
      some (if f.pfmt = 2 then planeOf f (bs.take n) (bs.drop n) else planeOf f [] bs)

/-- ME_PLANE_TOKEN (R276). -/
def execMePlaneToken (e : BitVec 1) (s : State) : Host.Outcome State Fault Refusal :=
  let k := e.toNat
  let m := s.me k
  match m.pfifo with
  | [] => .next s
  | t :: rest =>
    let pop (s : State) : State := s.updMe k fun m => { m with pfifo := rest }
    let sink (s : State) : State := if t.isBar then (pop s).sinkReached (.plane k) t.barId else pop s
    if m.sealed then .next (sink s)
    else match m.tile with
      | [] =>
        if t.isBar then .next (sink s)
        else if t.isEnd || t.isErr then .next (pop s)
        else if t.kind = 10 then
          match m.loading with
          | some _ => .next ((pop s).updMe k fun m => { m with tile := [t] })
          | none => .next s
        else .next (s.meFault k (match m.loading with
          | some _ => 0x20
          | none => 0) 0x08 7 0 0)
      | tile =>
        match m.loading with
        | none => .next s
        | some (j, f) =>
          if t.isData then .next ((pop s).updMe k fun m => { m with tile := tile ++ [t] })
          else if t.isErr then .next ((pop s).updMe k fun m => { m with tile := [] }.finish j)
          else if t.kind = 11 then
            match burstPlane f tile t with
            | some p => .next ((pop s).updMe k fun m => { m with tile := [], shadow := p }.finish j)
            | none => .next (s.meFault k 0x20 0x08 7 0 0)
          else .next (s.meFault k 0x20 0x08 7 0 0)

/-- The direct form of `mload`: the tile record, then exponents and columns. What it has read is held apart from what a product
or a drain ahead of it has (R281: each command reads only after its issue). -/
def loadDirect (e : Nat) (f : LoadFields) (s : State) (k : Nat) : State :=
  let n := f.n.toNat
  let kb := f.kb.toNat
  meGot e 0x20 0 (s.partyBytes (.plane e) (f.trec.toNat * 32) 16) fun r s =>
    let h := wordsOf r
    let st := f.pfmt = 2
    let w := colBytes f.pfmt
    if trF h != pfmtCode f.pfmt || trRows h < n || trB h % 2 ^ trAlign h != 0 ||
        (if st then trC h ≤ kb else trC h / 64 ≤ kb) then s.meFault e 0x20 0x08 7 0 0
    else
      let at_ (i : Nat) : Nat :=
        (if st then trB h + (kb * trRows h + i) * trS h else trB h + i * trS h + w * kb) % 2 ^ 48
      let exps (s : State) : Got (List Byte) :=
        if st then s.partyBytes (.plane e) ((trB h + 192 * trRows h * trC h) % 2 ^ 48) n else .ok [] s
      let cols (s : State) : Got (List Byte) :=
        (List.range n).foldl (fun (g : Got (List Byte)) i => match g with
          | .ok acc s => match s.partyBytes (.plane e) (at_ i) w with
            | .ok bs s => .ok (acc ++ bs) s
            | r => r
          | r => r) (.ok [] s)
      meGot e 0x20 0 (exps s) fun xs s => meGot e 0x20 0 (cols s) fun bs s =>
        (s.unhold (.plane e)).updMe e fun m => { m with shadow := planeOf f xs bs }.finish k

/-! ### Rows on the A channels (R283, R286) -/

/-- Channels of a product, and rows that arrive on one of them. -/
def channelsOf (f : ProductFields) : Nat := f.ach.toNat + 1

def rowsOn (c ch : Nat) : Nat := ((List.range 64).filter fun m => m % c == ch).length

/-- A 16-bit value of a segment or raw word as its format takes it, and whether it is well formed (R78). -/
def valueOk (bf : Bool) (v : Nat) : Bool := bf || v / 2 ^ 8 % 2 ^ 8 == (if bitOf v 7 then 255 else 0)

/-- A block of `mseg` (R286): its words, none where it is malformed. -/
def blockOk (bf : Bool) (ts : List Word) : Bool :=
  match ts with
  | [] => false
  | w :: rest =>
    match bitsOf w.toNat 31 29 with
    | 1 => w.toNat % 2 ^ 29 == 0 && rest.length == 64 && rest.all fun x => valueOk bf (x.toNat % 2 ^ 16)
    | 2 => w.toNat % 2 ^ 29 == 0 && rest.isEmpty
    | 0 =>
      (ts.foldl (fun (acc : Bool × Nat) x =>
        let a := bitsOf x.toNat 21 16
        let b := bitsOf x.toNat 28 22
        (acc.1 && bitsOf x.toNat 31 29 == 0 && acc.2 ≤ a && a < b && b ≤ 64 && valueOk bf (x.toNat % 2 ^ 16), b))
        (true, 0)).1
    | _ => false

/-- The checks 1, 2 and 4 of a product against the planes and banks (R284, R291): the reason, or 0. -/
def Me.productReason (m : Me) (i : Instr) (f : ProductFields) : Nat :=
  let fmtOk := match i with
    | .mseg _ _ _ _ _ => m.active.pf = .st24
    | _ => if f.afmt then m.active.pf = .bf16 else m.active.pf = .int8
  let nOk := match i with
    | .mbatch _ _ => m.active.pn == 512
    | _ => f.n.toNat ≤ m.active.pn
  if !fmtOk then 1 else if !nOk then 2 else if f.bank && !m.second then 4 else 0

/-- A row's token count is right, or its block is well formed; the reason, or 0. -/
def rowReason (i : Instr) (bf : Bool) (row : List Word) : Nat :=
  match i with
  | .mseg _ _ _ _ _ => if blockOk bf row then 0 else 5
  | _ => if row.length == (if bf then 32 else 16) then 0 else 6

/-- A token's payload as a row holds it; a void token counts as 0. -/
def rowWord (t : Token) : Word := if t.isVoid then 0 else t.payload

def tokWords (ts : List Token) : List Word := ts.map rowWord

/-- The west neighbour drives A channel `ch`: it is routed. -/
def State.routedA (s : State) (e ch : Nat) : Bool :=
  let r := 8 * e + 1 + ch
  let c := (s.neighbour r 18 3).2
  (s.fe r c).cross 4 != 0

def Me.aHead (m : Me) (ch : Nat) : Option Token := (m.afifo.getD ch []).head?

/-- A channel's head token taken. -/
def Me.popA (m : Me) (ch : Nat) : Me :=
  { m with afifo := updAt m.afifo ch fun q => q.drop 1, apos := m.apos + 1 }

/-- The product in progress has taken A tokens. -/
def Me.begunRows (m : Me) : Bool := m.apart.any (fun x => !x.isEmpty) || m.arows.any fun x => !x.isEmpty

/-- A barrier at the head of channel `ch` (R160, R161): taken from every routed channel at once. -/
def State.meBarrier (s : State) (e : Nat) : State :=
  let m := s.me e
  let code := match m.product with
    | some (_, c) => Instr.code c.cmd
    | none => 0
  let chs := (List.range 8).filter fun ch => s.routedA e ch
  let ids := chs.filterMap fun ch => match m.aHead ch with
    | some t => if t.isBar then some t.barId else none
    | none => none
  match ids with
  | [] => s
  | id :: rest =>
    if rest.any fun x => x != id then s.meFault e code 0x08 10 0 0
    else if ids.length < chs.length || m.begunRows then s
    else (s.updMe e fun m => chs.foldl (fun m ch => m.popA ch) m).sinkReached (.me e) id

/-- The product abandoned by an error end on channel `ch`, which goes on to the drain port (R283). -/
def Me.abandon (m : Me) (k ch : Nat) (t : Token) : Me :=
  Me.emit { m with
    queue := m.queue.eraseIdx k, apart := List.replicate 8 [], arows := List.replicate 8 []
    adiscard := updAt m.adiscard ch fun _ => true, drain := m.drain ++ [t] }

/-- A token for the product in progress, from channel `ch`. R78 faults a malformed segment or raw token where the engine meets it:
it meets a row when the row's end token has come. Log 134 (DESIGN CHOICE). -/
def State.meRow (s : State) (e ch : Nat) (k : Nat) (c : EngCmd) (f : ProductFields) (t : Token) : State :=
  let m := s.me e
  let code := Instr.code c.cmd
  let part := m.apart.getD ch []
  let pr := m.productReason c.cmd f
  if channelsOf f ≤ ch || rowsOn (channelsOf f) ch ≤ (m.arows.getD ch []).length then s
  else if pr != 0 then s.meFault e code 0x1B pr 0 0
  else if t.isErr then s.updMe e fun m => (m.popA ch).abandon k ch t
  else if t.isData then
    s.updMe e fun m =>
      let m := m.popA ch
      { m with apart := updAt m.apart ch (· ++ [t]) }
  else if t.isEnd then
    let r := rowReason c.cmd f.afmt (tokWords part)
    if r != 0 then s.meFault e code 0x08 r 0 0
    else s.updMe e fun m =>
      let m := m.popA ch
      { m with apart := updAt m.apart ch fun _ => [], arows := updAt m.arows ch (· ++ [part]) }
  else s.meFault e code 0x08 6 0 0

/-- ME_A_TOKEN (R283). -/
def execMeAToken (e : BitVec 1) (ch : BitVec 3) (s : State) : Host.Outcome State Fault Refusal :=
  let k := e.toNat
  let c := ch.toNat
  let m := s.me k
  match m.aHead c with
  | none => .next s
  | some t =>
    let pop (s : State) : State := s.updMe k fun m => m.popA c
    if m.sealed then .next (if t.isBar then (pop s).sinkReached (.me k) t.barId else pop s)
    else if m.adiscard.getD c false then
      if t.isBar then .next ((pop s).sinkReached (.me k) t.barId)
      else .next ((pop s).updMe k fun m => { m with adiscard := updAt m.adiscard c fun _ => !(t.kind = 7 || t.isErr) })
    else if t.isBar then .next (s.meBarrier k)
    else if t.kind = 7 && (m.apart.getD c []).isEmpty then .next (pop s)
    else match m.product with
      | some (j, x) =>
        match Instr.product x.cmd with
        | some f => .next (if Instr.fromChannels x.cmd then s.meRow k c j x f t else s)
        | none => .next s
      | none => .next s

/-! ### Arithmetic (R284, R285, R287) -/

/-- A BF16 operand with a subnormal taken as zero of its sign (R68). -/
def daz (x : Nat) : Nat := if bf16.efield x == 0 then bf16.signBit (bf16.sign x) else x

/-- The rounded dot product of BF16 pairs (R285). -/
def fpDot (ps : List (Nat × Nat)) : Nat × FFlags :=
  let ps := ps.map fun p => (daz p.1, daz p.2)
  let nan := ps.any fun p => bf16.isNan p.1 || bf16.isNan p.2
  let snan := ps.any fun p => bf16.isSnan p.1 || bf16.isSnan p.2
  let vs := ps.map fun p => if bf16.isNan p.1 || bf16.isNan p.2 then some .nan else (bf16.val p.1).mul (bf16.val p.2)
  let inv := vs.any (·.isNone)
  let inf (b : Bool) : Bool := vs.any fun v => match v with
    | some (.inf t) => t == b
    | _ => false
  let bad := inv || (!nan && inf false && inf true)
  if nan || bad then (fp32.defaultNan, fWhen (snan || bad) fNV)
  else if inf false then (fp32.infBits, 0)
  else if inf true then (fp32.signBit true + fp32.infBits, 0)
  else
    let fs := vs.filterMap fun v => match v with
      | some (.fin t m e) => some (t, m, e)
      | _ => none
    let q := fs.foldl (fun q x => min q x.2.2) 0
    let sum := fs.foldl (fun a x => a + signedAt x.1 x.2.1 x.2.2 q) (0 : Int)
    if sum == 0 then (fp32.signBit (!fs.isEmpty && fs.all (·.1)), 0)
    else roundTo fp32 .rne (sum < 0) sum.natAbs 1 q

/-- The start value of a cell (R284). -/
def startVal (acc : Nat) (gamma : Nat) (fp : Bool) (empty : Bool) (c : Nat) : Nat × FFlags :=
  if acc == 0 || empty then (0, 0)
  else if acc == 2 && fp then fMul fp32 .rne (daz gamma * 2 ^ 16) c
  else (c, 0)

/-- An INT cell with an exact sum added, and whether it wraps. -/
def intAdd (start : Nat) (x : Int) : Nat × Bool :=
  let v := signedOf 64 start + x
  (intBits 64 v, !(-((2 ^ 63 : Nat) : Int) ≤ v && v < ((2 ^ 63 : Nat) : Int)))

/-- Element k of a dense row held as words. -/
def rowElem (bf : Bool) (row : List Word) (k : Nat) : Nat :=
  if bf then (row.getD (k / 2) 0).toNat / 2 ^ (16 * (k % 2)) % 2 ^ 16
  else (row.getD (k / 4) 0).toNat / 2 ^ (8 * (k % 4)) % 2 ^ 8

/-- One cell's contribution of a dense row: an exact integer, or a rounded FP32 with flags. -/
def denseInt (p : Plane) (n : Nat) (row : List Word) : Int :=
  (List.range 64).foldl (fun a k => a + signedOf 8 (rowElem false row k) * signedOf 24 (p.entry n k)) 0

def denseFp (p : Plane) (n : Nat) (row : List Word) : Nat × FFlags :=
  fpDot ((List.range 64).map fun k => (rowElem true row k, p.entry n k / 2 ^ 8))

/-- The value, START and END of each step of a block: a raw word steps through its 64 elements. -/
def blockSteps (row : List Word) : List (Nat × Nat × Nat) :=
  match row with
  | [] => []
  | w :: rest =>
    match bitsOf w.toNat 31 29 with
    | 1 => rest.zipIdx.map fun x => (x.1.toNat % 2 ^ 16, x.2, x.2 + 1)
    | 2 => []
    | _ => row.map fun x => (x.toNat % 2 ^ 16, bitsOf x.toNat 21 16, bitsOf x.toNat 28 22)

def segInt (p : Plane) (n : Nat) (row : List Word) : Int :=
  (blockSteps row).foldl (fun a x => a + signedOf 16 x.1 * (p.sum n x.2.2 - p.sum n x.2.1)) 0

/-- v * D * 2^(e - 144), rounded once (R287). -/
def segProduct (v : Nat) (d : Int) (e : Nat) : Nat × FFlags :=
  let x := daz v
  if bf16.isNan x then (fp32.quiet (x * 2 ^ 16), fWhen (bf16.isSnan x) fNV)
  else match (bf16.val x).mul (.fin (d < 0) d.natAbs ((e : Int) - 144)) with
    | some v => v.round fp32 .rne
    | none => invalid fp32

def segFp (p : Plane) (n : Nat) (row : List Word) (start : Nat) (fl : FFlags) : Nat × FFlags :=
  (blockSteps row).foldl (fun acc x =>
    let pr := segProduct x.1 (p.sum n x.2.2 - p.sum n x.2.1) (p.expOf n)
    let c := fAdd fp32 .rne acc.1 pr.1
    (c.1, acc.2 ||| pr.2 ||| c.2)) (start, fl)

/-- A cell's new value from its start value and the rows that reach it, with flags and the wrap bit. -/
def cellNew (i : Instr) (f : ProductFields) (p : Plane) (n : Nat) (rows : List (List Word)) (st : Nat × FFlags) :
    Nat × BitVec 6 :=
  let seg := match i with
    | .mseg _ _ _ _ _ => true
    | _ => false
  rows.foldl (fun (acc : Nat × BitVec 6) row =>
    if f.afmt then
      if seg then
        let r := segFp p n row acc.1 0
        (r.1, acc.2 ||| r.2.setWidth 6)
      else
        let d := denseFp p n row
        let r := fAdd fp32 .rne acc.1 d.1
        (r.1, acc.2 ||| (d.2 ||| r.2).setWidth 6)
    else
      let r := intAdd acc.1 (if seg then segInt p n row else denseInt p n row)
      (r.1, acc.2 ||| (if r.2 then 32 else 0))) (st.1, st.2.setWidth 6)

/-- The columns a product touches. -/
def touchedCols (i : Instr) (f : ProductFields) : Nat :=
  match i with
  | .mbatch _ _ => 512
  | _ => f.n.toNat

/-- Reason 3 (R284): a column that is not EMPTY has another kind, or another exponent. -/
def kindClash (i : Instr) (f : ProductFields) (p : Plane) (b : Bank) : Bool :=
  f.acc != 0 && (List.range (touchedCols i f)).any fun n =>
    match b.kind n with
    | .empty => false
    | .int => f.afmt || b.exp n != p.expOf n
    | .fp => !f.afmt

/-- The block committed: for every column the rows that reach its row m are `rowsAt m n`; a row with none and no
start keeps its cell. `named m n` says whether cell (m, n) is updated. -/
def commitBlock (i : Instr) (f : ProductFields) (p : Plane) (b : Bank) (named : Nat → Nat → Bool)
    (rowsAt : Nat → List (List Word)) : Bank × BitVec 6 :=
  let kind : ColKind := if f.afmt then .fp else .int
  let cols := (List.range (touchedCols i f)).map fun n =>
    let cells := (List.range 64).map fun m =>
      let old := (b.cell m n).toNat
      if named m n then
        cellNew i f p n (rowsAt m) (startVal f.acc.toNat f.gamma.toNat f.afmt (b.kind n = .empty) old)
      else (old, 0)
    (Col.mk n kind (BitVec.ofNat 8 (p.expOf n)) (cells.map fun c => BitVec.ofNat 64 c.1),
      cells.foldl (fun x c => x ||| c.2) 0)
  ({ b with cols := putCols b.cols (cols.map (·.1)) }, cols.foldl (fun x c => x ||| c.2) 0)

/-! ### Commits (R283, R287, R291, R292) -/

/-- Array cycles of a product (R285, R288, R291). -/
def productCycles (i : Instr) (f : ProductFields) (rows : List (List Word)) : Nat :=
  let n := f.n.toNat
  match i with
  | .mbatch _ _ => if f.afmt then 32 else 16
  | .mseg _ _ _ _ _ =>
    let cnt (r : List Word) : Nat := (blockSteps r).length
    max 1 (rows.foldl (fun c r => max c (cnt r)) 0) * ((n + 127) / 128)
  | _ => if f.afmt then n / 2 else n / 4

/-- A product's results written into its bank, with flags and cycles, and the command marked. -/
def State.meCommit (s : State) (e k : Nat) (i : Instr) (f : ProductFields) (named : Nat → Nat → Bool)
    (rowsAt : Nat → List (List Word)) (cyc : Nat) : State :=
  let m := s.me e
  let j := m.named f.bank
  let b := m.bank j
  if kindClash i f m.active b then s.meFault e (Instr.code i) 0x1B 3 0 0
  else
    let r := commitBlock i f m.active b named rowsAt
    (s.unhold (.me e)).updMe e fun m => { (m.setBank j r.1).finish k with
      flags := m.flags ||| r.2, pcyc := m.pcyc + BitVec.ofNat 64 cyc
      apart := List.replicate 8 [], arows := List.replicate 8 [] }

/-- The 64 rows that arrived on the channels of a product, in order; none while some are missing. -/
def Me.rows (m : Me) (c : Nat) : Option (List (List Word)) :=
  if (List.range c).all fun ch => (m.arows.getD ch []).length == rowsOn c ch then
    some ((List.range 64).map fun r => tokWords ((m.arows.getD (r % c) []).getD (r / c) []))
  else none

/-- Cells that a product on 64 rows updates: all of its columns, or the diagonal blocks of `mbatch`. -/
def namesCell (i : Instr) (m n : Nat) : Bool :=
  match i with
  | .mbatch _ _ => m / 4 == n / 32
  | _ => true

/-- Rows of block KB of a stored segment tile (R290); a reason where it does not match. -/
def storedRows (e : Nat) (f : ProductFields) (kb : Nat) (trec : Nat) (s : State) : Got (Nat × List (List Word)) :=
  match s.partyBytes (.me e) (trec * 32) 16 with
  | .ok r s =>
    let h := wordsOf r
    match s.partyBytes (.me e) (trB h) 64 with
    | .ok hd s =>
      let at_ (o n : Nat) : Nat := ofBytes ((hd.drop o).take n)
      let kblks := at_ 4 2
      if trF h != 7 || trRows h != 64 || trAlign h < 8 || trB h % 2 ^ trAlign h != 0 || at_ 0 2 != 0x5E67 || at_ 3 1 != 64 ||
          at_ 2 1 != (if f.afmt then 1 else 3) || kblks != trC h || kblks ≤ kb then .ok (7, []) s
      else
        (List.range 64).foldl (fun (g : Got (Nat × List (List Word))) m => match g with
          | .ok (r, acc) s =>
            if r != 0 then .ok (r, acc) s
            else match s.partyValue (.me e) ((trB h + 64 + 4 * (kb * 64 + m)) % 2 ^ 48) 4 with
              | .ok x s =>
                let off := x % 2 ^ 25
                let cnt := x / 2 ^ 25
                if at_ 12 4 < off + cnt then .ok (7, acc) s
                else match s.partyBytes (.me e) ((trB h + at_ 16 4 + 4 * off) % 2 ^ 48) (4 * cnt) with
                  | .ok bs s =>
                    if blockOk f.afmt (wordsOf bs) then .ok (0, acc ++ [wordsOf bs]) s else .ok (5, acc) s
                  | .wait s => .wait s
                  | .stall a r l s => .stall a r l s
                  | .fail c a d s => .fail c a d s
              | .wait s => .wait s
              | .stall a r l s => .stall a r l s
              | .fail c a d s => .fail c a d s
          | g => g) (.ok (0, []) s)
    | .wait s => .wait s
    | .stall a r l s => .stall a r l s
    | .fail c a d s => .fail c a d s
  | .wait s => .wait s
  | .stall a r l s => .stall a r l s
  | .fail c a d s => .fail c a d s

/-- The rows of `mgather` with their target rows; a reason where the descriptor is bad, a cause 0x03 for a row
address that is not aligned. -/
def gatherRows (e : Nat) (f : ProductFields) (desc : Nat) (s : State) : Got (Nat × List (Nat × List Word)) :=
  match s.partyBytes (.me e) (selfAlias + desc * 64) 64 with
  | .ok d s =>
    let w (k : Nat) : Nat := ofBytes ((d.drop (8 * k)).take 8)
    let cnt := bitsOf (w 1) 38 32
    let gidx := w 2
    let sidx := w 3
    if w 0 / 2 ^ 48 != 0 || w 1 / 2 ^ 39 != 0 || cnt == 0 || 64 < cnt || w 1 % 64 != 0 || gidx / 2 ^ 25 != 0 ||
        gidx % 4 != 0 || sidx / 2 ^ 25 != 0 || w 4 != 0 || w 5 != 0 || w 6 != 0 || w 7 != 0 then .ok (8, []) s
    else
      (List.range cnt).foldl (fun (g : Got (Nat × List (Nat × List Word))) m => match g with
        | .ok (r, acc) s =>
          if r != 0 then .ok (r, acc) s
          else match s.partyValue (.me e) (selfAlias + gidx + 4 * m) 4 with
            | .ok gi s =>
              match s.partyValue (.me e) (selfAlias + sidx + 4 * m) 4 with
              | .ok t s =>
                let va := (w 0 + gi * (w 1 % 2 ^ 32)) % 2 ^ 48
                if 63 < t then .ok (8, acc) s
                else if va % 64 != 0 then .fail 0x03 va 0 s
                else match s.partyBytes (.me e) va (if f.afmt then 128 else 64) with
                  | .ok bs s => .ok (0, acc ++ [(t, wordsOf bs)]) s
                  | .wait s => .wait s
                  | .stall a r l s => .stall a r l s
                  | .fail c a d s => .fail c a d s
              | .wait s => .wait s
              | .stall a r l s => .stall a r l s
              | .fail c a d s => .fail c a d s
            | .wait s => .wait s
            | .stall a r l s => .stall a r l s
            | .fail c a d s => .fail c a d s
        | g => g) (.ok (0, []) s)
  | .wait s => .wait s
  | .stall a r l s => .stall a r l s
  | .fail c a d s => .fail c a d s

/-- The cause of an engine's reason (R296). -/
def meCause (reason : Nat) : Nat := if [5, 6, 7, 10].contains reason then 0x08 else 0x1B

/-- The product in progress: its checks, and its commit where all its rows are there. -/
def State.meProduct (s : State) (e k : Nat) (i : Instr) (f : ProductFields) : State :=
  let m := s.me e
  let code := Instr.code i
  let pr := m.productReason i f
  let go (s : State) (rows : List (List Word)) : State :=
    s.meCommit e k i f (namesCell i) (fun r => [rows.getD r []]) (productCycles i f rows)
  if s.stalledAt (.me e) then s
  else if pr != 0 then s.meFault e code 0x1B pr 0 0
  else match i with
    | .mgather _ desc _ =>
      meGot e code 0 (gatherRows e f desc.toNat s) fun r s =>
        if r.1 != 0 then s.meFault e code (meCause r.1) r.1 0 0
        else s.meCommit e k i f (fun m _ => r.2.any fun x => x.1 == m)
          (fun m => (r.2.filter fun x => x.1 == m).map (·.2)) (productCycles i f [])
    | .mseg _ _ kb trec _ =>
      if f.src then
        meGot e code 0 (storedRows e f kb.toNat trec.toNat s) fun r s =>
          if r.1 != 0 then s.meFault e code (meCause r.1) r.1 0 0 else go s r.2
      else match m.rows (channelsOf f) with
        | some rows => go s rows
        | none => s
    | _ => match m.rows (channelsOf f) with
      | some rows => go s rows
      | none => s

/-- ME_PRODUCT_COMMIT (R283). -/
def execMeProductCommit (e : BitVec 1) (s : State) : Host.Outcome State Fault Refusal :=
  match (s.me e.toNat).product with
  | none => .next s
  | some (k, c) =>
    match Instr.product c.cmd with
    | some f => .next (s.meProduct e.toNat k c.cmd f)
    | none => .next s

/-! ### Drain (R293) -/

/-- One drained value: its pattern in OFMT and its flags. -/
def drainCell (bf : Bool) (kind : ColKind) (exp c f : Nat) : Nat × FFlags :=
  let g := if bf then bf16 else fp32
  match kind with
  | .empty => (0, 0)
  | .int =>
    if fp32.isNan f then (if bf then nanTo fp32 bf16 f else fp32.quiet f, fWhen (fp32.isSnan f) fNV)
    else
      let x := signedOf 64 c
      match (Val.fin (x < 0) x.natAbs ((exp : Int) - 144)).mul (fp32.val f) with
      | some v => v.round g .rne
      | none => invalid g
  | .fp =>
    let y := fMul fp32 .rne c f
    if bf then
      let z := fConv fp32 bf16 .rne y.1
      (z.1, y.2 ||| z.2)
    else y

/-- The tokens of a drain, and the flags. -/
def drainTokens (f : DrainFields) (b : Bank) (scale : List Word) : List Token × FFlags :=
  let n := f.n.toNat
  let row (m : Nat) : List (Nat × FFlags) := (List.range n).map fun i =>
    drainCell f.ofmt (b.kind i) (b.exp i) (b.cell m i).toNat (if f.sv then (scale.getD i 0).toNat else 0x3F80_0000)
  let toks (r : List (Nat × FFlags)) : List Token :=
    if f.ofmt then (List.range (n / 2)).map fun j =>
      dataTok ((r.getD (2 * j) (0, 0)).1 + 2 ^ 16 * (r.getD (2 * j + 1) (0, 0)).1)
    else r.map fun x => dataTok x.1
  let rows := (List.range 64).map row
  ((rows.zipIdx.flatMap fun r => toks r.1 ++ [if r.2 < 63 then endTok 1 r.2 else endTok 7 64]) ++
      (if f.bv then [barTok f.bar.toNat] else []),
    rows.flatten.foldl (fun x r => x ||| r.2) 0)

/-- A drain begins: its scales are read and its tokens formed; without a path they are discarded. -/
def State.drainBegin (s : State) (e k : Nat) (f : DrainFields) : State :=
  let m := s.me e
  if f.bank && !m.second then s.meFault e 0x26 0x1B 4 0 0
  else if s.stalledAt (.me e) then s
  else meGot e 0x26 0 (if f.sv then s.partyBytes (.me e) (f.scale.toNat * 64) (4 * f.n.toNat) else .ok [] s) fun bs s =>
    let r := drainTokens f ((s.me e).bank ((s.me e).named f.bank)) (wordsOf bs)
    let path := !(s.unitEnds (.me e)).isEmpty
    let s := if f.bv && !path then s.inject (.me e) f.bar else s
    (s.unhold (.me e)).updMe e fun m => Me.emit { m with
      drain := if path then m.drain ++ r.1 else m.drain, flags := m.flags ||| r.2.setWidth 6
      queue := updAt m.queue k fun c => { c with begun := true } }

/-! ### ME_COMMAND_COMPLETE (R274, R277, R279 to R281, R295) -/

/-- A command leaves the queue and is counted. -/
def Me.retire (m : Me) (k : Nat) : Me := { m with queue := m.queue.eraseIdx k, done := m.done + 1 }

def planeCode : PlaneFmt → Nat
  | .bf16 => 0
  | .int8 => 1
  | .st24 => 2
  | .none => 3

/-- The record of `mstat` (R295). -/
def Me.record (m : Me) (seq : Word) : List Nat :=
  [m.done.toNat * 2 ^ 32 + seq.toNat, m.flags.toNat,
   planeCode m.shadow.pf * 2 ^ 26 + m.shadow.pn * 2 ^ 16 + planeCode m.active.pf * 2 ^ 10 + m.active.pn,
   b2n m.second * 2 + b2n m.prim, m.pcyc.toNat, 0, 0, 0]

/-- `mbank` claim: the other physical bank becomes the context's second bank (R279). -/
def State.bankClaim (s : State) (e : Nat) : State :=
  let m := s.me e
  let j := !m.prim
  if m.second then s
  else (if (m.bank j).owner = some s.ctx then s else s.takeBank e j s.ctx true).updMe e fun m =>
    { m.setBank j { m.bank j with second := true } with second := true }

/-- `mbank` release: the second bank is given up. -/
def Me.bankRelease (m : Me) : Me :=
  if m.second then { m.setBank (!m.prim) Bank.reset with second := false } else m

/-- Bytes that a command has written: they are not written again after a stall or a pre-emption (R117). -/
def Me.advance (m : Me) (k n : Nat) : Me := { m with queue := updAt m.queue k fun c => { c with pos := c.pos + n } }

/-- A command that has begun and runs by itself: one access of its own in a step (R36). -/
def State.meRun (s : State) (e k : Nat) (c : EngCmd) : State :=
  let m := s.me e
  let code := Instr.code c.cmd
  let retire (s : State) : State := (s.unhold (.me e)).updMe e fun m => m.retire k
  let second (b : Bool) (f : State) : State := if b && !m.second then s.meFault e code 0x1B 4 0 0 else f
  if c.fin then retire s
  else if s.stalledAt (.me e) then s
  else match c.cmd with
    | .mload _ f => if f.src then loadDirect e f s k else s
    | .mswap _ => retire (s.updMe e fun m => { m with active := m.shadow, shadow := m.active })
    | .mzero _ _ n b =>
      second b (retire (s.updMe e fun m =>
        let j := m.named b
        m.setBank j ((m.bank j).emptyBelow (if n = 0 then 512 else n.toNat))))
    | .mbankClaim _ => retire (s.bankClaim e)
    | .mbankRelease _ => retire (s.updMe e Me.bankRelease)
    | .mspill _ a b =>
      let rest := (m.bank (m.named b)).image.drop c.pos
      let p := s.partyPut (a.toNat * 64 + c.pos) rest
      second b (meGot e code 1 p.got fun _ s =>
        if p.done == rest.length then retire s else s.updMe e fun m => m.advance k p.done)
    | .mfill _ a b =>
      second b (meGot e code 0 (s.partyBytes (.me e) (a.toNat * 64) imageBytes) fun bs s =>
        match colsOfImage bs with
        | none => s.meFault e code 0x1B 9 0 0
        | some cols => retire (s.updMe e fun m => m.setBank (m.named b) { m.bank (m.named b) with cols }))
    | .mstat _ _ a clr seq =>
      meGot e code 1 (s.partyWrite (a.toNat * 64) 64 (ofBytes ((m.record seq).flatMap fun v => toBytes v 8))) fun _ s =>
        retire (if clr then s.updMe e fun m => { m with flags := 0 } else s)
    | .mdrain _ f =>
      if !c.begun then s.drainBegin e k f
      else if m.emitq.isEmpty then
        retire (if f.za then s.updMe e fun m =>
          m.setBank (m.named f.bank) ((m.bank (m.named f.bank)).emptyBelow f.n.toNat) else s)
      else s
    | _ => s

/-- Whether a command can act in this step: it is finished, or it has begun and runs by itself. -/
def EngCmd.runs (m : Me) (c : EngCmd) : Bool :=
  c.fin || (match c.cmd with
    | .mload _ f => f.src
    | .mdrain _ _ => !c.begun || m.emitq.isEmpty
    | i => (Instr.product i).isNone)

/-- The first command that a step of completion acts on. -/
def Me.runnable (m : Me) : List EngCmd → List EngCmd → Option (Nat × EngCmd)
  | _, [] => none
  | before, c :: t =>
    if canBegin before c && c.runs m then some (before.length, c) else m.runnable (before ++ [c]) t

/-- ME_COMMAND_COMPLETE. -/
def execMeCommandComplete (e : BitVec 1) (s : State) : Host.Outcome State Fault Refusal :=
  let m := s.me e.toNat
  match m.runnable [] m.queue with
  | some (k, c) => .next (s.meRun e.toNat k c)
  | none => .next s

/-- MESEAL_END (R296). -/
def execMesealEnd (e : BitVec 1) (s : State) : Host.Outcome State Fault Refusal :=
  .next (s.updMe e.toNat fun m => { m with sealed := false })

/-- The planes, status and queues that a task entry resets (R297). -/
def Me.entered (m : Me) : Me :=
  { Me.reset with bank0 := m.bank0, bank1 := m.bank1, prim := m.prim, second := m.second }

end Sys2Proof.Machine
end

