-- ==== Sys2Proof/Machine/Tmu.lean ====
section
/-! DEFINITION. The token-merge unit: concordances, matching, merging, status and seal (R298 to R313, R354). -/

namespace Sys2Proof.Machine

def Tmu.slot (t : Tmu) (n : Nat) : Slot := t.slots.getD n ⟨.free, .free, none⟩

def Tmu.conc (t : Tmu) (n : Nat) : Option Conc := (t.slot n).c

/-- Contents committed to a slot, or discarded (R305). -/
def Tmu.commit (t : Tmu) (n : Nat) (c : Option Conc) : Tmu :=
  let old : SlotState := if c.isSome then .ready else .free
  { t with slots := updAt t.slots n fun x => { x with c, old } }

/-! ### Slots at issue (R305) -/

def Instr.tmuReads : Instr → List Nat
  | .tmerge _ n _ _ => [n.toNat]
  | .tlogsz n _ => [n.toNat]
  | .tunmerge _ n _ _ => [n.toNat]
  | .tsave n _ => [n.toNat]
  | .tcompose _ a b => [a.toNat, b.toNat]
  | _ => []

def Instr.tmuWrites : Instr → Option Nat
  | .tmatch _ n _ _ => some n.toNat
  | .tload n _ => some n.toNat
  | .tcompose n _ _ => some n.toNat
  | _ => none

def Instr.tmuFrees : Instr → Option Nat
  | .tfree n => some n.toNat
  | _ => none

/-- The issued states after a command is accepted. -/
def Tmu.accept (t : Tmu) (i : Instr) : Tmu :=
  let set (n : Nat) (st : SlotState) (t : Tmu) : Tmu := { t with slots := updAt t.slots n fun x => { x with st } }
  let t := match Instr.tmuWrites i with
    | some n => set n .ready t
    | none => t
  let t := match Instr.tmuFrees i with
    | some n => set n .free t
    | none => t
  { t with queue := t.queue ++ [⟨i, false, 0, false⟩], accepted := t.accepted + 1 }

/-! ### Seal (R312) -/

/-- The issued states that a seal leaves. -/
def Slot.atSeal (x : Slot) : Slot :=
  let st : SlotState := if x.c.isSome then .ready else if x.old = .lost then .lost else .free
  { x with st, old := st }

/-- The barriers whose turn it is moved to `out`: nothing that a command emits from now on passes them (R354). -/
def Tmu.flushBars (t : Tmu) : Tmu :=
  { t with bars := t.bars.filter fun b => t.ended < b.1, out := t.out ++ (t.bars.filter fun b => b.1 ≤ t.ended).map (·.2) }

/-- A fault of the TMU: its record, the commands discarded, and the seal (R312). -/
def State.tmuFault (s : State) (cmd cause reason addr det : Nat) : State :=
  let t := s.core.tmu
  if t.sealed then s
  else
    let s := s.fabRecord cmd reason cause 0 unitTmu (s.physCol 1) 17 t.inpos addr det
    let s := s.updTmu fun t => { t.flushBars with
      sealed := true, queue := [], rows := [], part := [], inEnd := false, emitting := [], emitted := 0, begun := false
      out := t.flushBars.out ++ [errTok cause], slots := t.slots.map Slot.atSeal, ended := t.accepted }
    (s.updFab fun f => { f with reqs := f.reqs.filter fun q => !(q.who = .tmu) }).unhold .tmu

def tmuGot {α : Type} (cmd acc : Nat) (g : Got α) (f : α → State → State) : State :=
  match g with
  | .ok v s => f v s
  | .wait s => s
  | .stall va r l s => s.stallUnit .tmu va r acc l
  | .fail c a d s => s.tmuFault cmd c 0 a d

/-! ### Concordances (R301, R309, R310) -/

/-- `outsize` of a map. -/
def outSizes (m : Nat) (dst insize : List Nat) : List Nat :=
  (List.range m).map fun j => ((dst.zip insize).filterMap fun p => if p.1 == j then some p.2 else none).sum

def Conc.make (n m : Nat) (dst insize : List Nat) : Conc := ⟨n, m, dst, insize, outSizes m dst insize⟩

/-- The conditions of R301. -/
def Conc.ok (c : Conc) : Bool :=
  let first (j : Nat) : Nat := c.dst.findIdx (· == j)
  2 ≤ c.n && c.n ≤ 512 && 1 ≤ c.m && c.m ≤ c.n && c.dst.all (· < c.m) &&
    (List.range c.m).all (fun j => c.dst.contains j && (j == 0 || first (j - 1) < first j)) &&
    c.insize.all (fun x => 1 ≤ x && x ≤ 65535) && c.outsize == outSizes c.m c.dst c.insize &&
    c.outsize.all (· ≤ 65535)

def Conc.compose (a b : Conc) : Conc := Conc.make a.n b.m (a.dst.map fun i => b.dst.getD i 0) a.insize

/-- Bytes 2 onward of a concordance image. -/
def Conc.image (c : Conc) : List Byte :=
  toBytes c.n 2 ++ toBytes c.m 2 ++ List.replicate 58 0 ++ c.dst.flatMap (toBytes · 2) ++
    c.insize.flatMap (toBytes · 2) ++ c.outsize.flatMap (toBytes · 2)

def concMagic : Nat := 0x7C0D

/-- A concordance from an image's header of 64 bytes and the bytes that follow it. -/
def concOf (hd rest : List Byte) : Option Conc :=
  let n := ofBytes ((hd.drop 2).take 2)
  let m := ofBytes ((hd.drop 4).take 2)
  let hs := halves rest
  let c : Conc := ⟨n, m, hs.take n, (hs.drop n).take n, (hs.drop (2 * n)).take m⟩
  if ofBytes (hd.take 2) == concMagic && (hd.drop 6).all (· == 0) && c.ok then some c else none

/-- Bytes of an image past its header, from N and M. -/
def concLen (hd : List Byte) : Nat := 4 * ofBytes ((hd.drop 2).take 2) + 2 * ofBytes ((hd.drop 4).take 2)

/-! ### Matching (R302 to R304) -/

/-- A sum of squares of FP32 elements, with flags. -/
def dotFma (xs : List (Nat × Nat)) : Nat × FFlags :=
  xs.foldl (fun acc p =>
    let r := fFma fp32 .rne p.1 p.2 acc.1
    (r.1, acc.2 ||| r.2)) (0, 0)

/-- A key normalised; none where it is not finite or its sum overflows (reason 2). -/
def normKey (x : List Nat) : Option (List Nat × FFlags) :=
  if x.any fun v => fp32.efield v == 255 then none
  else
    let ss := dotFma (x.map fun v => (v, v))
    if fp32.efield ss.1 == 255 then none
    else if ss.1 == 0 then some (x.map fun _ => 0, ss.2)
    else match fp32.val ss.1 with
      | .fin _ m e =>
        let g := rsqrtRound m e
        let us := x.map fun v => fMul fp32 .rne v g.1
        some (us.map (·.1), us.foldl (fun f u => f ||| u.2) (ss.2 ||| g.2))
      | _ => none

/-- The best partner of a token among B in ascending order, with the score and flags. -/
def bestPartner (u : List (List Nat)) (a : Nat) (bs : List Nat) : Option (Nat × Nat) × FFlags :=
  bs.foldl (fun acc b =>
    let sc := dotFma ((u.getD a []).zip (u.getD b []))
    let f := acc.2 ||| sc.2
    match acc.1 with
    | none => (some (b, sc.1), f)
    | some (_, e) => if fp32.key e < fp32.key sc.1 then (some (b, sc.1), f) else (acc.1, f)) (none, 0)

/-- Insertion into a ranking by falling edge; equal edges keep their order. -/
def rankInsert (x : Nat × Nat × Nat) : List (Nat × Nat × Nat) → List (Nat × Nat × Nat)
  | [] => [x]
  | y :: t => if fp32.key y.2.2 < fp32.key x.2.2 then x :: y :: t else y :: rankInsert x t

/-- The concordance of a match: keys as FP32 rows, mask bits, sizes, and r; a reason where it faults. -/
def matchConc (keys : List (List Nat)) (masked : Nat → Bool) (sizes : List Nat) (r : Nat) :
    Except Nat (Conc × FFlags) :=
  let n := keys.length
  let us := keys.map normKey
  if us.any (·.isNone) then .error 2
  else
    let u := us.map fun x => match x with
      | some y => y.1
      | none => []
    let f0 := us.foldl (fun f x => match x with
      | some y => f ||| y.2
      | none => f) 0
    let as := (List.range n).filter fun i => i % 2 == 0 && !masked i
    let bs := (List.range n).filter fun i => i % 2 == 1
    if as.length < r then .error 3
    else if sizes.any (· == 0) then .error 4
    else
      let es := as.map fun a => (a, bestPartner u a bs)
      let fl := es.foldl (fun f e => f ||| e.2.2) f0
      let ranked := es.foldl (fun l e => match e.2.1 with
        | some (b, sc) => rankInsert (e.1, b, sc) l
        | none => l) []
      let merged := ranked.take r
      let surv := (List.range n).filter fun i => !(merged.any fun x => x.1 == i)
      let dst := (List.range n).map fun i => match merged.find? fun x => x.1 == i with
        | some x => surv.findIdx (· == x.2.1)
        | none => surv.findIdx (· == i)
      let c := Conc.make n (n - r) dst sizes
      if c.outsize.any (65535 < ·) then .error 4 else .ok (c, fl)

/-- A match descriptor that keeps R302. -/
def matchDescOk (w : Nat → Nat) : Bool :=
  let n := w 1 % 2 ^ 10
  w 0 / 2 ^ 48 == 0 && w 0 % 64 == 0 && w 1 / 2 ^ 48 == 0 && bitsOf (w 1) 47 32 % 64 == 0 &&
    bitsOf (w 1) 31 17 == 0 && bitsOf (w 1) 15 10 == 0 && 2 ≤ n && n ≤ 512 && w 2 / 2 ^ 48 == 0 && w 2 % 8 == 0 &&
    w 3 / 2 ^ 48 == 0 && w 3 % 2 == 0 && w 4 == 0 && w 5 == 0 && w 6 == 0 && w 7 == 0

/-- The keys read row by row. -/
def readKeys (base stride d : Nat) : Nat → List (List Nat) → State → Got (List (List Nat))
  | 0, acc, s => .ok acc s
  | n + 1, acc, s =>
    match s.partyBytes .tmu ((base + acc.length * stride) % 2 ^ 48) (2 * d) with
    | .ok bs s => readKeys base stride d n (acc ++ [(halves bs).map (· * 2 ^ 16)]) s
    | .wait s => .wait s
    | .stall a r l s => .stall a r l s
    | .fail c a x s => .fail c a x s

/-- `tmatch` performed (R302 to R304). -/
def tmuMatch (slot desc r : Nat) (done : State → State) (s : State) : State :=
  tmuGot 0x30 0 (s.partyBytes .tmu (selfAlias + desc * 64) 64) fun d s =>
    let w (k : Nat) : Nat := ofBytes ((d.drop (8 * k)).take 8)
    if !matchDescOk w then s.tmuFault 0x30 0x08 1 0 0
    else
      let n := w 1 % 2 ^ 10
      let dim := if bitOf (w 1) 16 then 128 else 64
      let stride := if bitsOf (w 1) 47 32 == 0 then 2 * dim else bitsOf (w 1) 47 32
      tmuGot 0x30 0 (readKeys (w 0) stride dim n [] s) fun keys s =>
        tmuGot 0x30 0 (if w 2 == 0 then .ok [] s else s.partyBytes .tmu (w 2) 64) fun mask s =>
          tmuGot 0x30 0 (if w 3 == 0 then .ok [] s else s.partyBytes .tmu (w 3) (2 * n)) fun sz s =>
            let sizes := if w 3 == 0 then List.replicate n 1 else halves sz
            match matchConc keys (fun i => bitOf (mask.getD (i / 8) 0).toNat (i % 8)) sizes r with
            | .error e => s.tmuFault 0x30 0x08 e 0 0
            | .ok (c, f) => done ((s.updTmu (·.commit slot (some c))).orFlags f)

/-! ### Merging (R307, R308) -/

/-- The values of a row as FP32 patterns. -/
def rowVals (bf : Bool) (row : List Word) : List Nat :=
  if bf then row.flatMap fun w => [w.toNat % 2 ^ 16 * 2 ^ 16, w.toNat / 2 ^ 16 * 2 ^ 16] else row.map (·.toNat)

/-- Two BF16 patterns to a token. -/
def packPairs : List Nat → List Word
  | a :: b :: t => BitVec.ofNat 32 (a + b * 2 ^ 16) :: packPairs t
  | _ => []

/-- One merged row of the group of input tokens `g`. -/
def mergeRow (bf : Bool) (c : Conc) (rows : List (List Word)) (j : Nat) : List Word × FFlags :=
  let g := (List.range c.n).filter fun i => c.dst.getD i 0 == j
  match g with
  | [i] => (rows.getD i [], 0)
  | _ =>
    let size (n : Nat) : Nat := (intToF fp32 .rne n).1
    let vals := g.map fun i => (size (c.insize.getD i 0), rowVals bf (rows.getD i []))
    let w := (rowVals bf (rows.getD (g.getD 0 0) [])).length
    let ys := (List.range w).map fun k =>
      let acc := dotFma (vals.map fun v => (v.1, v.2.getD k 0))
      let d := size (c.outsize.getD j 0)
      if bf then
        -- rounded once, from the exact quotient
        match fp32.val acc.1, fp32.val d with
        | .fin t m e, .fin _ m' e' =>
          let q := roundTo bf16 .rne t m m' (e - e')
          (q.1, acc.2 ||| q.2)
        | _, _ =>
          let q := fDiv fp32 .rne acc.1 d
          let z := fConv fp32 bf16 .rne q.1
          (z.1, acc.2 ||| q.2 ||| z.2)
      else
        let q := fDiv fp32 .rne acc.1 d
        (q.1, acc.2 ||| q.2)
    (if bf then packPairs (ys.map (·.1)) else ys.map fun y => BitVec.ofNat 32 y.1,
      ys.foldl (fun f y => f ||| y.2) 0)

/-- Rows as tokens with their ends. -/
def rowTokens (rows : List (List Word)) : List Token :=
  rows.zipIdx.flatMap fun r => r.1.map (⟨0, ·⟩) ++
    [if r.2 + 1 == rows.length then endTok 7 rows.length else endTok 1 r.2]

/-- The logarithm of a size (R308). -/
def logSize (two : Bool) (n : Nat) : Nat × FFlags := sfnLog two n 0

/-! ### Commands -/

/-- Commands that take input: tokens of a row, and whether it merges. -/
def Instr.tmuInput : Instr → Option (Nat × Bool)
  | .tmerge _ _ num vf => some (if vf then num.toNat / 2 else num.toNat, true)
  | .tunmerge _ _ num vf => some (if vf then num.toNat / 2 else num.toNat, false)
  | _ => none

/-- Rows that a command takes. -/
def Tmu.rowsWanted (t : Tmu) (i : Instr) : Nat :=
  match i with
  | .tmerge _ n _ _ => match t.conc n.toNat with
    | some c => c.n
    | none => 0
  | .tunmerge _ n _ _ => match t.conc n.toNat with
    | some c => c.m
    | none => 0
  | _ => 0

/-- The command in progress takes input and has not had its end. -/
def Tmu.taking (t : Tmu) : Option Instr :=
  match t.queue with
  | [] => none
  | c :: _ => if (Instr.tmuInput c.cmd).isSome && !t.inEnd then some c.cmd else none

/-- A command leaves the queue. -/
def Tmu.retire (t : Tmu) : Tmu :=
  { t with queue := t.queue.drop 1, rows := [], part := [], inEnd := false, emitting := [], emitted := 0, begun := false
           ended := t.ended + 1 }

def Tmu.complete (t : Tmu) : Tmu := { t.retire with done := t.done + 1 }

/-- The command's tokens formed; it completes when they have left for `out`. -/
def Tmu.form (t : Tmu) (ts : List Token) : Tmu :=
  { t with emitting := ts, queue := updAt t.queue 0 fun c => { c with begun := true } }

def SlotState.code : SlotState → Nat
  | .free => 0
  | .ready => 1
  | .lost => 2

/-- The record of `tstat` (R311). -/
def Tmu.record (t : Tmu) (seq : Word) : List Byte :=
  let st := t.slots.zipIdx.foldl (fun a x => a + x.1.st.code * 4 ^ x.2) 0
  let ms := t.slots.map fun x => match x.c with
    | some c => c.m
    | none => 0
  toBytes (t.done.toNat * 2 ^ 32 + seq.toNat) 8 ++ toBytes (t.disc.toNat * 2 ^ 32 + st) 8 ++
    ms.flatMap (toBytes · 2) ++ List.replicate 16 0

/-- Bytes that the command at the head has written: they are not written again after a stall (R117). -/
def Tmu.advance (t : Tmu) (n : Nat) : Tmu := { t with queue := updAt t.queue 0 fun c => { c with pos := c.pos + n } }

/-- The command at the head begins and is performed. -/
def State.tmuRun (s : State) (i : Instr) : State :=
  let t := s.core.tmu
  let code := Instr.code i
  let done (s : State) : State := (s.unhold .tmu).updTmu Tmu.complete
  match i with
  | .tmatch _ slot desc num => tmuMatch slot.toNat desc.toNat num.toNat done s
  | .tmerge _ slot _ vf =>
    match t.conc slot.toNat with
    | none => s
    | some c =>
      let rs := (List.range c.m).map (mergeRow vf c t.rows)
      (s.updTmu (·.form (rowTokens (rs.map (·.1))))).orFlags (rs.foldl (fun f r => f ||| r.2) 0)
  | .tunmerge _ slot _ _ =>
    match t.conc slot.toNat with
    | none => s
    | some c => s.updTmu (·.form (rowTokens (c.dst.map fun j => t.rows.getD j [])))
  | .tlogsz slot b2 =>
    match t.conc slot.toNat with
    | none => s
    | some c =>
      let rs := c.outsize.map (logSize b2)
      (s.updTmu (·.form (rs.map (fun r => dataTok r.1) ++ [endTok 7 c.m]))).orFlags (rs.foldl (fun f r => f ||| r.2) 0)
  | .tcompose slot a b =>
    match t.conc a.toNat, t.conc b.toNat with
    | some x, some y =>
      if x.m != y.n then s.tmuFault code 0x08 6 0 0
      else done (s.updTmu (·.commit slot.toNat (some (x.compose y))))
    | _, _ => s
  | .tsave slot addr =>
    match t.conc slot.toNat with
    | none => s
    | some c =>
      let n := match t.queue with
        | e :: _ => e.pos
        | [] => 0
      let p := s.partyPut (addr.toNat * 64 + 2 + n) (c.image.drop n)
      if n < c.image.length then tmuGot code 1 p.got fun _ s => s.updTmu (·.advance p.done)
      else tmuGot code 1 (s.partyWrite (addr.toNat * 64) 2 concMagic) fun _ s => done s
  | .tload slot addr =>
    tmuGot code 0 (s.partyBytes .tmu (addr.toNat * 64) 64) fun hd s =>
      if 3 * 512 * 2 < concLen hd then s.tmuFault code 0x08 7 0 0
      else tmuGot code 0 (s.partyBytes .tmu ((addr.toNat * 64 + 64) % 2 ^ 48) (concLen hd)) fun bs s =>
        match concOf hd bs with
        | some c => done (s.updTmu (·.commit slot.toNat (some c)))
        | none => s.tmuFault code 0x08 7 0 0
  | .tfree slot => done (s.updTmu (·.commit slot.toNat none))
  | .tstat _ addr seq =>
    tmuGot code 1 (s.partyWrite (addr.toNat * 64) 64 (ofBytes (t.record seq))) fun _ s => done s
  | _ => s

/-! ### Steps -/

/-- A barrier that `tmu.in` takes (R298, R354): with `tmu.out` unrouted the TMU is its sink. -/
def State.tmuBarrier (s : State) (x : Token) : State :=
  if (s.unitEnds .tmu).isEmpty then s.sinkReached .tmu x.barId
  else s.updTmu fun t => { t with bars := t.bars ++ [(t.accepted, x)] }

/-- A token taken from `tmu.in`. -/
def Tmu.pop (t : Tmu) : Tmu := { t with infifo := t.infifo.drop 1, inpos := t.inpos + 1 }

/-- A row ends in the command that takes input. -/
def State.tmuRow (s : State) (i : Instr) (last : Bool) : State :=
  let t := s.core.tmu
  let w := match Instr.tmuInput i with
    | some x => x.1
    | none => 0
  let n := t.rows.length + 1
  if t.part.length != w || t.rowsWanted i < n || (last && n != t.rowsWanted i) || (!last && n == t.rowsWanted i) then
    s.tmuFault (Instr.code i) 0x08 5 0 0
  else s.updTmu fun t => { t.pop with rows := t.rows ++ [t.part], part := [], inEnd := last }

/-- An end that the drain of a pre-emption discards. -/
def isLastEnd (x : Token) : Bool := x.kind = 7 || x.isErr

/-- TMU_IN_TOKEN (R298, R307, R313). -/
def execTmuInToken (s : State) : Host.Outcome State Fault Refusal :=
  let t := s.core.tmu
  match t.infifo with
  | [] => .next s
  | x :: _ =>
    let pop (s : State) : State := s.updTmu Tmu.pop
    let skipped (s : State) : State := (pop s).updTmu fun t => { t with skip := t.skip - b2n (isLastEnd x) }
    if t.sealed then .next (if x.isBar then (pop s).sinkReached .tmu x.barId else skipped s)
    else if s.lanesHeld then
      .next (if x.isBar then (pop s).tmuBarrier x
        else if 0 < t.skip then skipped s
        else (pop s).updTmu fun t => { t with drained := t.drained + b2n (isLastEnd x) })
    else if x.isBar then .next (if t.taking.isSome && t.skip == 0 then s else (pop s).tmuBarrier x)
    else if 0 < t.skip then .next (skipped s)
    else match t.taking with
      | none => .next (if x.kind = 7 then pop s else s)
      | some i =>
        if x.isData then .next (s.updTmu fun t => { t.pop with part := t.part ++ [rowWord x] })
        else if x.isErr then .next (s.updTmu fun t => { t.pop.flushBars.retire with out := t.flushBars.out ++ [x] })
        else if x.isEnd then .next (s.tmuRow i (x.kind = 7))
        else .next (s.tmuFault (Instr.code i) 0x08 5 0 0)

/-- Tokens moved to the emit queue of `tmu.out`; with no path they are discarded. Each counts for the end that a
pre-emption owes (R313). -/
def Tmu.emit (t : Tmu) (path : Bool) : Tmu :=
  let n := if path then 15 - t.out.length else t.emitting.length
  let ts := t.emitting.take n
  { t with
    emitting := t.emitting.drop n, out := if path then t.out ++ ts else t.out
    emitted := t.emitted + ts.length, begun := t.begun || !ts.isEmpty }

/-- TMU_COMMAND_COMPLETE (R299): a barrier whose turn it is leaves; else the command at the head is performed, emits,
or completes. -/
def execTmuCommandComplete (s : State) : Host.Outcome State Fault Refusal :=
  let t := s.core.tmu
  let path := !(s.unitEnds .tmu).isEmpty
  if s.lanesHeld then .next s
  else match t.bars with
    | b :: rest =>
      if b.1 ≤ t.ended then
        .next (if t.out.length < 15 then s.updTmu fun t => { t with bars := rest, out := t.out ++ [b.2] } else s)
      else go t path s
    | [] => go t path s
where
  go (t : Tmu) (path : Bool) (s : State) : Host.Outcome State Fault Refusal :=
    match t.queue with
    | [] => .next s
    | c :: _ =>
      if c.begun then
        .next (if t.emitting.isEmpty then s.updTmu Tmu.complete else s.updTmu (·.emit path))
      else if t.taking.isSome || s.stalledAt .tmu then .next s
      else .next (s.tmuRun c.cmd)

/-- TMSEAL_END (R312). -/
def execTmsealEnd (s : State) : Host.Outcome State Fault Refusal :=
  .next (s.updTmu fun t => { t with sealed := false })

/-! ### Pre-emption (R305, R313) -/

def Slot.lose (x : Slot) : Slot :=
  let st : SlotState := if x.st = .ready then .lost else x.st
  { st, old := st, c := none }

/-- Input commands discarded whose end had not reached `tmu.in`. -/
def Tmu.endsOwed (t : Tmu) : Nat :=
  (t.queue.filter fun c => (Instr.tmuInput c.cmd).isSome).length - b2n t.inEnd - t.drained

/-- The TMU as a pre-emption leaves it: what it emits first at the resumption stands in `out`. -/
def Tmu.preempted (t : Tmu) : Tmu :=
  { Tmu.reset with
    out := t.out ++ (if t.begun then [endTok 7 t.emitted] else []) ++ t.bars.map (·.2)
    slots := t.slots.map Slot.lose, done := t.done, sealed := t.sealed
    disc := BitVec.ofNat 8 (min 255 (t.disc.toNat + t.queue.length)), skip := t.skip + t.endsOwed, inpos := t.inpos }

end Sys2Proof.Machine
end

