-- ==== Sys2Proof/Machine/Commands.lean ====
section
/-! DEFINITION. Issue of stream commands (R212, R213, R250): sampling, the checks at issue, acceptance and what it does
at once; the configuration instructions (R251) and `wbar` (R252). An arm of a stream command is its issue by
`issue` with the command in the register. -/

namespace Sys2Proof.Machine

/-! ### Register references (R258, R276, R282, R293, R295, R300) -/

/-- The scalar registers that a command references; 0 is none. -/
def Instr.cmdRefs : Instr → List Reg
  | .sread _ f => [f.r1, f.r2]
  | .swrite _ f => [f.r1, f.r2]
  | .sgather _ f => [f.r1, f.r2]
  | .sscatter _ f => [f.r1, f.r2]
  | .stile _ f => [f.r1, f.r2]
  | .ssegt _ f => [f.r1, f.r2]
  | .scfg _ r _ => [r]
  | .sbar _ r _ _ => [r]
  | .send _ r _ _ _ => [r]
  | .sclose _ r _ => [r]
  | .sgateSetPlvl _ r _ => [r]
  | .sgateGate _ r _ => [r]
  | .sgateUngate _ r _ => [r]
  | .sreq _ r _ _ => [r]
  | .cchain _ r _ => [r]
  | .mload _ f => [f.r1, f.r2]
  | .mdense _ f => [f.r1]
  | .mseg _ r _ _ f => [f.r1, r]
  | .mbatch _ f => [f.r1]
  | .mgather _ _ f => [f.r1]
  | .mdrain _ f => [f.r1]
  | .mzero _ r _ _ => [r]
  | .mstat _ r _ _ _ => [r]
  | .tmatch r _ _ _ => [r]
  | .tmerge r _ _ _ => [r]
  | .tunmerge r _ _ _ => [r]
  | .tstat r _ _ => [r]
  | _ => []

/-- A field of `w` bits that holds bits `lo` and up of the value a reference supplies; none where the value does
not fit (R213, reason 0x34). -/
def State.supply {w : Nat} (s : State) (r : Reg) (lo : Nat) (old : BitVec w) : Option (BitVec w) :=
  if r = 0 then some old
  else
    let v := (s.reg r).toNat
    if v % 2 ^ lo != 0 || 2 ^ (w + lo) ≤ v then none else some (BitVec.ofNat w (v / 2 ^ lo))

/-- N of a product supplied. -/
def State.supplyN (s : State) (f : ProductFields) : Option ProductFields :=
  (s.supply f.r1 0 f.n).map fun n => { f with n }

/-- A command with the sampled values in its fields; none where one does not fit. -/
def State.sample (s : State) (i : Instr) : Option Instr :=
  match i with
  | .sread p f => (s.supply f.r1 0 f.addr).bind fun addr => (s.supply f.r2 0 f.len).map fun len =>
      .sread p { f with addr, len }
  | .swrite p f => (s.supply f.r1 0 f.addr).bind fun addr => (s.supply f.r2 0 f.len).map fun len =>
      .swrite p { f with addr, len }
  | .sgather p f => (s.supply f.r1 0 f.base).bind fun base => (s.supply f.r2 0 f.count).map fun count =>
      .sgather p { f with base, count }
  | .sscatter p f => (s.supply f.r1 0 f.base).bind fun base => (s.supply f.r2 0 f.count).map fun count =>
      .sscatter p { f with base, count }
  | .stile p f => (s.supply f.r1 0 f.n).bind fun n => (s.supply f.r2 4 f.trec).map fun trec =>
      .stile p { f with n, trec }
  | .ssegt p f => (s.supply f.r1 4 f.trec).bind fun trec => (s.supply f.r2 0 f.kb0).map fun kb0 =>
      .ssegt p { f with trec, kb0 }
  | .scfg p r w => (s.supply r 0 (w.setWidth 32)).map fun v => .scfg p r (w.extractLsb' 32 32 ++ v)
  | .sbar p r id sn => (s.supply r 0 id).map fun id => .sbar p r id sn
  | .send p r l pay e => (s.supply r 0 pay).map fun pay => .send p r l pay e
  | .sclose p r l => (s.supply r 0 l).map fun l => .sclose p r l
  | .sgateSetPlvl p r l => (s.supply r 0 l).map fun l => .sgateSetPlvl p r l
  | .sgateGate p r l => (s.supply r 0 l).map fun l => .sgateGate p r l
  | .sgateUngate p r l => (s.supply r 0 l).map fun l => .sgateUngate p r l
  | .sreq p r b z => (s.supply r 0 b).map fun b => .sreq p r b z
  | .cchain e r h => (s.supply r 0 h).map fun h => .cchain e r h
  | .mload e f => (s.supply f.r1 0 f.n).bind fun n => (s.supply f.r2 0 f.kb).map fun kb =>
      .mload e { f with n, kb }
  | .mdense e f => (s.supplyN f).map fun f => .mdense e f
  | .mseg e r kb t f => (s.supplyN f).bind fun f => (s.supply r 0 kb).map fun kb => .mseg e r kb t f
  | .mbatch e f => (s.supplyN f).map fun f => .mbatch e f
  | .mgather e d f => (s.supplyN f).map fun f => .mgather e d f
  | .mdrain e f => (s.supply f.r1 0 f.n).map fun n => .mdrain e { f with n }
  | .mzero e r n b => (s.supply r 0 n).map fun n => .mzero e r n b
  | .mstat e r a c q => (s.supply r 0 q).map fun q => .mstat e r a c q
  | .tmatch r sl d n => (s.supply r 0 n).map fun n => .tmatch r sl d n
  | .tmerge r sl n v => (s.supply r 0 n).map fun n => .tmerge r sl n v
  | .tunmerge r sl n v => (s.supply r 0 n).map fun n => .tunmerge r sl n v
  | .tstat r a q => (s.supply r 0 q).map fun q => .tstat r a q
  | i => some i

/-! ### Checks at issue (R213) -/

/-- N of a matrix command (R282, check 1). -/
def colsOk (n : Nat) : Bool := n % 16 == 0 && 16 ≤ n && n ≤ 512

/-- The shape check of a matrix command. -/
def Instr.shapeOk : Instr → Bool
  | .mload _ f => colsOk f.n.toNat
  | .mdense _ f => colsOk f.n.toNat
  | .mseg _ _ _ _ f => colsOk f.n.toNat
  | .mgather _ _ f => colsOk f.n.toNat
  | .mbatch _ f => f.n = 0 || f.n = 512
  | .mdrain _ f => colsOk f.n.toNat
  | .mzero _ _ n _ => n = 0 || colsOk n.toNat
  | _ => true

/-- The limits of the product fields (R282, check 2). -/
def productLimits (i : Instr) (f : ProductFields) : Bool :=
  let seg := match i with
    | .mseg _ _ _ _ _ => true
    | _ => false
  let gather := match i with
    | .mgather _ _ _ => true
    | _ => false
  f.acc != 3 && (f.gamma = 0 || f.acc = 2) && !(f.acc = 2 && !f.afmt) && (!f.src || seg) &&
    (f.ach = 0 || !(f.src || gather))

/-- The list of `sgather` and `sscatter` lies in the banks (R260). -/
def listOk (esz : BitVec 3) (count : Half) (idx : BitVec 23) : Bool :=
  esz != 7 && count != 0 && 4 * idx.toNat + 4 * count.toNat ≤ bankBytes

/-- DV of `tmerge` and `tunmerge` (R300). -/
def dvOk (n : Nat) (vf : Bool) : Bool := n != 0 && n ≤ 512 && !(vf && n % 2 == 1)

/-- The limits that each command's description states (reason 0x35). -/
def State.limitsOk (s : State) (i : Instr) : Bool :=
  match i with
  | .sread _ f => f.len != 0 && f.len.toNat % 4 == 0 && f.addr.toNat % 4 == 0 && f.rlvl != 7
  | .swrite _ f => f.len != 0 && f.len.toNat % 4 == 0 && f.addr.toNat % 4 == 0
  | .sgather _ f => listOk f.esz f.count f.idx && f.rlvl != 7
  | .sscatter _ f => listOk f.esz f.count f.idx
  | .ssegt _ f => f.nrows.toNat ≤ 64 && f.frow.toNat + (if f.nrows = 0 then 64 else f.nrows.toNat) ≤ 64
  | .scfg p _ w =>
    cfgRow w.toNat == p.toNat + 1 && cfgReg w.toNat ≤ 12 && bitsOf w.toNat 48 32 == 0 &&
      s.isFe (cfgRow w.toNat) (cfgCol w.toNat)
  | .send _ _ l _ e => (l = 0) == e
  | .sclose _ _ l => l != 0
  | .sgateSetPlvl _ _ l => l != 0
  | .sgateGate _ _ l => l != 0
  | .sgateUngate _ _ l => l = 0
  | .sreq _ _ _ z => 2 ≤ z.toNat && z.toNat ≤ 6
  | .mload _ f => f.pfmt != 3
  | .mdense _ f => productLimits i f
  | .mseg _ _ _ _ f => productLimits i f
  | .mbatch _ f => productLimits i f
  | .mgather _ _ f => productLimits i f
  | .tmatch _ _ _ n => n.toNat ≤ 256
  | .tmerge _ _ n v => dvOk n.toNat v
  | .tunmerge _ _ n v => dvOk n.toNat v
  | _ => true

/-- `format` at issue with a reason. -/
def State.refuse (s : State) (r : Nat) : Flt := ⟨0x08, s.core.clerk.pc.toNat, r⟩

/-- The slots a TMU command reads (R305): FREE refuses it, and LOST is `concordance lost` with the lowest one. -/
def State.slotCheck (s : State) (i : Instr) : Option Flt :=
  let st (n : Nat) : SlotState := (s.core.tmu.slot n).st
  if (Instr.tmuReads i).any fun n => st n = .free then some (s.refuse 0x35)
  else match (List.range 16).find? fun n => (Instr.tmuReads i).contains n && st n = .lost with
    | some n => some ⟨0x0E, 0, Instr.code i + n * 2 ^ 8⟩
    | none => none

/-- The checks of a sampled command, in their order; none when it passes. -/
def State.cmdCheck (s : State) (i : Instr) : Option Flt :=
  if !Instr.shapeOk i then some ⟨0x1B, 0, Instr.code i⟩
  else if !s.limitsOk i then some (s.refuse 0x35)
  else s.slotCheck i

/-! ### Acceptance (R212) -/

/-- What takes a command. -/
inductive Target where
  | port (p : Nat)
  | me (e : Nat)
  | tmu
  | ce (e : Nat)
  deriving DecidableEq, Repr

/-- TARGET of a command (R210). -/
def Instr.target : Instr → Target
  | .mload e _ | .mswap e | .mdense e _ | .mseg e _ _ _ _ | .mbatch e _ | .mgather e _ _ | .mdrain e _
  | .mzero e _ _ _ | .mbankClaim e | .mbankRelease e | .mspill e _ _ | .mfill e _ _ | .mstat e _ _ _ _ =>
    .me e.toNat
  | .cchain e _ _ | .cabort e => .ce e.toNat
  | i => match Instr.portOf i with
    | some p => .port p.toNat
    | none => .tmu

def EngCmd.waiting (q : List EngCmd) : Nat := (q.filter fun c => !c.begun).length

/-- A command that waits in no queue (R265, R268). -/
def Instr.immediate : Instr → Bool
  | .sclose _ _ _ | .sgateSetPlvl _ _ _ | .sgateGate _ _ _ | .sgateUngate _ _ _ | .cchain _ _ _ | .cabort _ => true
  | _ => false

/-- The target's queue has room, or discards what it is given. -/
def State.cmdRoom (s : State) (i : Instr) : Bool :=
  Instr.immediate i || match Instr.target i with
    | .port p => (s.port p).sealed || (s.port p).depth < 16
    | .me e => (s.me e).sealed || EngCmd.waiting (s.me e).queue < 16
    | .tmu => s.core.tmu.sealed || EngCmd.waiting s.core.tmu.queue < 16
    | .ce _ => true

/-- An N of 0 that stands for 512 (R280, R282). -/
def Instr.full : Instr → Instr
  | .mbatch e f => .mbatch e { f with n := if f.n = 0 then 512 else f.n }
  | .mzero e r n b => .mzero e r (if n = 0 then 512 else n) b
  | i => i

/-- The port accepts a command. `sbar` injects its barrier as the lane emits it (R252, R264). -/
def State.portAccept (s : State) (p : Nat) (i : Instr) : State :=
  if (s.port p).sealed then s
  else match i with
    | .sclose _ _ l => s.updPort p (·.close l)
    | .sgateSetPlvl _ _ l => s.updPort p fun q => { q with plvl := l }
    | .sgateGate _ _ l => s.updPort p (·.setGate l)
    | .sgateUngate _ _ _ => s.updPort p Port.ungate
    | i =>
      let s := s.updPort p fun q => { q with queue := q.queue ++ [PortItem.cmd i] }
      match i with
      | .sbar _ _ id _ => s.announce (.lane p) id
      | _ => s

/-- A matrix engine accepts a command. -/
def State.meAccept (s : State) (e : Nat) (i : Instr) : State :=
  if (s.me e).sealed then s
  else
    let s := s.updMe e fun m => { m with queue := m.queue ++ [EngCmd.mk i false 0 false] }
    match i with
    | .mdrain _ f => if f.bv then s.announce (.me e) f.bar else s
    | _ => s

/-- A copy engine acts on a command at once: its queue is empty whenever one arrives (R268). -/
def State.ceAccept (s : State) (e : Nat) (i : Instr) : Except Flt State :=
  match i with
  | .cchain _ _ h => s.ceStart e h.toNat
  | .cabort _ => .ok (s.ceAbort e)
  | _ => .ok s

/-- A command that has passed its checks is accepted. -/
def State.cmdAccept (s : State) (i : Instr) : Except Flt State :=
  match Instr.target i with
  | .port p => .ok (s.portAccept p i)
  | .me e => .ok (s.meAccept e (Instr.full i))
  | .tmu => .ok (if s.core.tmu.sealed then s else s.updTmu (·.accept i))
  | .ce e => s.ceAccept e i

/-- A stream command issued by `carrier`, `ea` its address in the pool: the one way in (R212). It waits for its
references and for room; its issue is a release at .c, made when every earlier access is performed (R99). -/
def State.acceptCmd (s : State) (carrier : Instr) (ea : Nat) (cmd : Instr) : State :=
  if !((Instr.cmdRefs cmd).all s.core.clerk.present) then s
  else match s.sample cmd with
    | none => s.trapInstr carrier 0 ea 0 (s.refuse 0x34)
    | some c =>
      match s.cmdCheck c with
      | some f => s.trapInstr carrier 0 ea 0 f
      | none =>
        if !s.allPerformed || !s.cmdRoom c then s
        else match s.cmdAccept c with
          | .error f => s.trapInstr carrier 0 ea 0 f
          | .ok t => t.advance (Instr.bytes carrier)

/-- The same from the command's 128 bits, once the registers that REF1 and REF2 name are present (R209, R212). An
`sgate` of MODE 3 is sampled before its MODE is refused. -/
def State.issueWord (s : State) (carrier : Instr) (ea : Nat) (q : Qword) : State :=
  let r1 : Reg := BitVec.ofNat 5 (bitsOf q.toNat 12 8)
  let r2 : Reg := BitVec.ofNat 5 (bitsOf q.toNat 17 13)
  if !s.core.clerk.present r1 || !s.core.clerk.present r2 then s
  else match decodeCommand q with
    | .ok i => s.acceptCmd carrier ea i
    | .error r =>
      s.trapInstr carrier 0 ea 0 (s.refuse (if r == 0x35 && (s.supply r1 0 (0 : BitVec 3)).isNone then 0x34 else r))

/-- ISSUE. -/
def execIssue (k : KReg) (s : State) : Host.Outcome State Fault Refusal :=
  .next (s.issueWord (.issue k) 0 (s.kreg k))

/-- The read of a command as an unfinished load of the clerk. -/
def State.poolLoad (s : State) (ea : Nat) (pl : Place) : Unfin :=
  (s.src (.issuex 0) 0).unfin ea 0 0 (s.canon ea) (.loadK pl)

/-- ISSUEX: the command is read from the pool as a clerk load (R208): in its order behind the clerk's own accesses, and
under its own stores that are not performed (R101, R233). -/
def execIssuex (idx : BitVec 15) (s : State) : Host.Outcome State Fault Refusal :=
  let i := Instr.issuex idx
  let ea := s.poolEa idx
  if s.walkHeld s.ctx ea || s.core.clerk.unfin.any Unfin.setsRules then .next s
  else match s.checkAccess .load 16 ea with
  | .error f => .next ((s.walked ea f).trapInstr i 0 ea 0 f)
  | .ok r =>
    match (s.fillRes r).loanChecks false .load ea 16 r.pl with
    | .fault f s => .next (s.trapInstr i 0 ea 0 f)
    | .stall f s => .next (s.trapInstr i 0 ea 0 f)
    | .wait s => .next s
    | .ok s =>
      if s.heldBy s.core.clerk.unfin (s.poolLoad ea r.pl) || !s.reaches s.ctx r.pl ea then .next s
      else if s.pageShut r.pl then .next (s.trapInstr i 0 ea 0 (reasonFlt ea 10 3))
      else match s.placeRead r.pl ea 16 with
      | .ok v s =>
        .next (s.issueWord i ea (BitVec.ofNat 128 (overlay s s.core.clerk.unfin (r.pl.key s) 16 v)))
      | .wait s => .next s
      | .fail c a d s => .next (s.trapInstr i 0 ea 0 ⟨c, a, d⟩)
      | .stall a r l s => .next (s.trapInstr i 0 ea 0 (reasonFlt a r l))

/-! ### The commands, one by one -/

/-- SREAD (R259). -/
def execSread (p : BitVec 4) (f : ReadFields) (s : State) : Host.Outcome State Fault Refusal :=
  .next (s.acceptCmd (.issue 0) 0 (.sread p f))

/-- SWRITE (R259). -/
def execSwrite (p : BitVec 4) (f : WriteFields) (s : State) : Host.Outcome State Fault Refusal :=
  .next (s.acceptCmd (.issue 0) 0 (.swrite p f))

/-- SGATHER (R260). -/
def execSgather (p : BitVec 4) (f : GatherFields) (s : State) : Host.Outcome State Fault Refusal :=
  .next (s.acceptCmd (.issue 0) 0 (.sgather p f))

/-- SSCATTER (R260). -/
def execSscatter (p : BitVec 4) (f : ScatterFields) (s : State) : Host.Outcome State Fault Refusal :=
  .next (s.acceptCmd (.issue 0) 0 (.sscatter p f))

/-- STILE (R262). -/
def execStile (p : BitVec 4) (f : TileFields) (s : State) : Host.Outcome State Fault Refusal :=
  .next (s.acceptCmd (.issue 0) 0 (.stile p f))

/-- SSEGT (R263). -/
def execSsegt (p : BitVec 4) (f : SegtFields) (s : State) : Host.Outcome State Fault Refusal :=
  .next (s.acceptCmd (.issue 0) 0 (.ssegt p f))

/-- SCFG (R264). -/
def execScfg (p : BitVec 4) (r1 : Reg) (word : Dword) (s : State) : Host.Outcome State Fault Refusal :=
  .next (s.acceptCmd (.issue 0) 0 (.scfg p r1 word))

/-- SBAR (R264). -/
def execSbar (p : BitVec 4) (r1 : Reg) (id : Byte) (snap : Bool) (s : State) : Host.Outcome State Fault Refusal :=
  .next (s.acceptCmd (.issue 0) 0 (.sbar p r1 id snap))

/-- SEND (R264). -/
def execSend (p : BitVec 4) (r1 : Reg) (lvl : BitVec 3) (pay : Word) (err : Bool) (s : State) : Host.Outcome State Fault Refusal :=
  .next (s.acceptCmd (.issue 0) 0 (.send p r1 lvl pay err))

/-- SCLOSE (R265). -/
def execSclose (p : BitVec 4) (r1 : Reg) (lvl : BitVec 3) (s : State) : Host.Outcome State Fault Refusal :=
  .next (s.acceptCmd (.issue 0) 0 (.sclose p r1 lvl))

/-- SGATE_SET_PLVL (R265). -/
def execSgateSetPlvl (p : BitVec 4) (r1 : Reg) (lvl : BitVec 3) (s : State) : Host.Outcome State Fault Refusal :=
  .next (s.acceptCmd (.issue 0) 0 (.sgateSetPlvl p r1 lvl))

/-- SGATE_GATE (R265). -/
def execSgateGate (p : BitVec 4) (r1 : Reg) (lvl : BitVec 3) (s : State) : Host.Outcome State Fault Refusal :=
  .next (s.acceptCmd (.issue 0) 0 (.sgateGate p r1 lvl))

/-- SGATE_UNGATE (R265). -/
def execSgateUngate (p : BitVec 4) (r1 : Reg) (lvl : BitVec 3) (s : State) : Host.Outcome State Fault Refusal :=
  .next (s.acceptCmd (.issue 0) 0 (.sgateUngate p r1 lvl))

/-- SREQ (R267). -/
def execSreq (p : BitVec 4) (r1 : Reg) (base : BitVec 48) (sz : BitVec 3) (s : State) : Host.Outcome State Fault Refusal :=
  .next (s.acceptCmd (.issue 0) 0 (.sreq p r1 base sz))

/-- CCHAIN (R268). -/
def execCchain (e : BitVec 1) (r1 : Reg) (head : BitVec 48) (s : State) : Host.Outcome State Fault Refusal :=
  .next (s.acceptCmd (.issue 0) 0 (.cchain e r1 head))

/-- CABORT (R268). -/
def execCabort (e : BitVec 1) (s : State) : Host.Outcome State Fault Refusal :=
  .next (s.acceptCmd (.issue 0) 0 (.cabort e))

/-- MLOAD (R276). -/
def execMload (e : BitVec 1) (f : LoadFields) (s : State) : Host.Outcome State Fault Refusal :=
  .next (s.acceptCmd (.issue 0) 0 (.mload e f))

/-- MSWAP (R277). -/
def execMswap (e : BitVec 1) (s : State) : Host.Outcome State Fault Refusal :=
  .next (s.acceptCmd (.issue 0) 0 (.mswap e))

/-- MDENSE (R285). -/
def execMdense (e : BitVec 1) (f : ProductFields) (s : State) : Host.Outcome State Fault Refusal :=
  .next (s.acceptCmd (.issue 0) 0 (.mdense e f))

/-- MSEG (R287). -/
def execMseg (e : BitVec 1) (r2 : Reg) (kb : Half) (trec : BitVec 43) (f : ProductFields) (s : State) : Host.Outcome State Fault Refusal :=
  .next (s.acceptCmd (.issue 0) 0 (.mseg e r2 kb trec f))

/-- MBATCH (R291). -/
def execMbatch (e : BitVec 1) (f : ProductFields) (s : State) : Host.Outcome State Fault Refusal :=
  .next (s.acceptCmd (.issue 0) 0 (.mbatch e f))

/-- MGATHER (R292). -/
def execMgather (e : BitVec 1) (desc : BitVec 19) (f : ProductFields) (s : State) : Host.Outcome State Fault Refusal :=
  .next (s.acceptCmd (.issue 0) 0 (.mgather e desc f))

/-- MDRAIN (R293). -/
def execMdrain (e : BitVec 1) (f : DrainFields) (s : State) : Host.Outcome State Fault Refusal :=
  .next (s.acceptCmd (.issue 0) 0 (.mdrain e f))

/-- MZERO (R280). -/
def execMzero (e : BitVec 1) (r1 : Reg) (n : Half) (bank : Bool) (s : State) : Host.Outcome State Fault Refusal :=
  .next (s.acceptCmd (.issue 0) 0 (.mzero e r1 n bank))

/-- MBANK_CLAIM (R279). -/
def execMbankClaim (e : BitVec 1) (s : State) : Host.Outcome State Fault Refusal :=
  .next (s.acceptCmd (.issue 0) 0 (.mbankClaim e))

/-- MBANK_RELEASE (R279). -/
def execMbankRelease (e : BitVec 1) (s : State) : Host.Outcome State Fault Refusal :=
  .next (s.acceptCmd (.issue 0) 0 (.mbankRelease e))

/-- MSPILL (R281). -/
def execMspill (e : BitVec 1) (addr : BitVec 42) (bank : Bool) (s : State) : Host.Outcome State Fault Refusal :=
  .next (s.acceptCmd (.issue 0) 0 (.mspill e addr bank))

/-- MFILL (R281). -/
def execMfill (e : BitVec 1) (addr : BitVec 42) (bank : Bool) (s : State) : Host.Outcome State Fault Refusal :=
  .next (s.acceptCmd (.issue 0) 0 (.mfill e addr bank))

/-- MSTAT (R295). -/
def execMstat (e : BitVec 1) (r1 : Reg) (addr : BitVec 42) (clr : Bool) (seq : Word) (s : State) : Host.Outcome State Fault Refusal :=
  .next (s.acceptCmd (.issue 0) 0 (.mstat e r1 addr clr seq))

/-- TMATCH (R303). -/
def execTmatch (r1 : Reg) (slot : BitVec 4) (desc : BitVec 19) (num : BitVec 10) (s : State) : Host.Outcome State Fault Refusal :=
  .next (s.acceptCmd (.issue 0) 0 (.tmatch r1 slot desc num))

/-- TMERGE (R307). -/
def execTmerge (r1 : Reg) (slot : BitVec 4) (num : BitVec 10) (vf : Bool) (s : State) : Host.Outcome State Fault Refusal :=
  .next (s.acceptCmd (.issue 0) 0 (.tmerge r1 slot num vf))

/-- TLOGSZ (R308). -/
def execTlogsz (slot : BitVec 4) (b2 : Bool) (s : State) : Host.Outcome State Fault Refusal :=
  .next (s.acceptCmd (.issue 0) 0 (.tlogsz slot b2))

/-- TUNMERGE (R307). -/
def execTunmerge (r1 : Reg) (slot : BitVec 4) (num : BitVec 10) (vf : Bool) (s : State) : Host.Outcome State Fault Refusal :=
  .next (s.acceptCmd (.issue 0) 0 (.tunmerge r1 slot num vf))

/-- TCOMPOSE (R309). -/
def execTcompose (slot sla slb : BitVec 4) (s : State) : Host.Outcome State Fault Refusal :=
  .next (s.acceptCmd (.issue 0) 0 (.tcompose slot sla slb))

/-- TSAVE (R310). -/
def execTsave (slot : BitVec 4) (addr : BitVec 42) (s : State) : Host.Outcome State Fault Refusal :=
  .next (s.acceptCmd (.issue 0) 0 (.tsave slot addr))

/-- TLOAD (R310). -/
def execTload (slot : BitVec 4) (addr : BitVec 42) (s : State) : Host.Outcome State Fault Refusal :=
  .next (s.acceptCmd (.issue 0) 0 (.tload slot addr))

/-- TFREE (R310). -/
def execTfree (slot : BitVec 4) (s : State) : Host.Outcome State Fault Refusal :=
  .next (s.acceptCmd (.issue 0) 0 (.tfree slot))

/-- TSTAT (R311). -/
def execTstat (r1 : Reg) (addr : BitVec 42) (seq : Word) (s : State) : Host.Outcome State Fault Refusal :=
  .next (s.acceptCmd (.issue 0) 0 (.tstat r1 addr seq))

/-! ### Configuration and barriers (R251, R252) -/

/-- CFGLD. A `cfgld` of the entry folio before any other folio has been sent sends nothing (R168); one of a
folio of the resident image counts as a folio change (R138). -/
def execCfgld (a b : Reg) (s : State) : Host.Outcome State Fault Refusal :=
  let i := Instr.cfgld a b
  let image := (s.reg a).toNat
  let folio := (s.reg b).toNat
  if 2 ^ 48 ≤ image then .next (s.trapInstr i 0 image (s.reg b) (reasonFlt image 9 0))
  else if image % 64 != 0 then .next (s.trapInstr i 0 image (s.reg b) ⟨0x03, image, 0⟩)
  else if s.cfgSending then .next s
  else match s.fetchFolio ⟨.fabric, .load, 8, s.taskMode⟩ image folio with
    | .error f => .next (if f.flt.waits then f.st else f.st.trapInstr i 0 image (s.reg b) f.flt)
    | .ok (ws, qs, s) =>
      let f := s.core.fab
      let resident := f.image = some image
      if resident && f.entryPending = some folio then
        .next ((s.updFab fun f => { f with folio := some folio }).advance 4)
      else
        let s := if resident then s.updFab (·.passOver folio) else s
        .next (((s.sendFolio image folio ws qs).updFab fun f => { f with entryPending := none }).advance 4)

/-- Every element that the most recent folio names has applied its words. -/
def Fabric.configured (f : Fabric) : Bool :=
  match f.loads.find? fun l => l.id == f.loadId with
  | some l => l.left.isEmpty
  | none => true

/-- CFGWAIT. -/
def execCfgwait (s : State) : Host.Outcome State Fault Refusal :=
  if s.core.fab.configured then .next (s.advance 4) else .next s

/-- WBAR: the return is an acquire, which the clerk's earlier acquire and release points precede (R101). -/
def execWbar (a : Reg) (s : State) : Host.Outcome State Fault Refusal :=
  let v := s.reg a
  if v >>> 8 != 0 then .next (s.trapInstr (.wbar a) 0 0 v ⟨0x08, s.core.clerk.pc.toNat, 0⟩)
  else if s.barrierDone (v.setWidth 8) && s.pointsDone then .next (s.advance 4)
  else .next s

end Sys2Proof.Machine
end

