-- ==== Sys2Proof/Machine/Moves.lean ====
section
/-! DEFINITION. Whether any token can move in the core: what the watchdog asks (R330), and a recall whose task has a touch that it
may not make any more (R123, R124). -/

namespace Sys2Proof.Machine

/-- A step changes the state. -/
def changes (s : State) (o : Host.Outcome State Fault Refusal) : Bool :=
  match o with
  | .next t => t ≠ s
  | _ => false

/-- What an FE's operator comes to when it fires. -/
def fired (f : Fe) (r c : Nat) (s : State) : Host.Outcome State Fault Refusal :=
  match f.code with
  | 0 => execMapFire r c s
  | 1 => execSfnFire r c s
  | 2 => execRedFire r c s
  | 3 => execSteerFire r c s
  | 4 => execMergeFire r c s
  | 5 => execCarryFire r c s
  | 6 => execGenEmit r c s
  | 7 => execMemFire r c s
  | 8 => execSegFire r c s
  | 9 => execShufFire r c s
  | 10 => execConvFire r c s
  | 11 => execForkFire r c s
  | _ => .next s

/-- A token can move at an FE. -/
def State.feMoves (s : State) (f : Fe) (r c : Nat) : Bool :=
  (f.live && [fired f r c s, execEndTokenAlign r c s, execErrorEndPass r c s, execBarrierAlign r c s].any (changes s)) ||
    [Dir.n, Dir.e, Dir.s, Dir.w].any fun d => (List.range 4).any fun t =>
      changes s (execTokenHop r c d (BitVec.ofNat 2 t) s)

/-- A token can move somewhere in the core: at an FE, as a reply to a request, at a port, at a matrix engine or at the TMU. -/
def State.tokensMove (s : State) : Bool :=
  (s.core.fab.fes.any fun x => s.feMoves x.2 x.1.1 x.1.2) ||
    ((List.range s.core.fab.reqs.length).any fun k => changes s (execMemResponse k s)) ||
    ((List.range 16).any fun p => changes s (execLaneEmitToken (BitVec.ofNat 4 p) s) ||
      changes s (execLaneAbsorbToken (BitVec.ofNat 4 p) s)) ||
    ((List.range 2).any fun e => changes s (execMePlaneToken (BitVec.ofNat 1 e) s) ||
      changes s (execTokenHop (8 * (e + 1)) 18 .w 0 s) || changes s (execMeCommandComplete (BitVec.ofNat 1 e) s) ||
      changes s (execMeProductCommit (BitVec.ofNat 1 e) s) ||
      (List.range 8).any fun k => changes s (execMeAToken (BitVec.ofNat 1 e) (BitVec.ofNat 3 k) s)) ||
    changes s (execTmuInToken s) || changes s (execTmuCommandComplete s) || changes s (execTokenHop 17 (s.physCol 2) .n 0 s)

/-- Something waits for a set that the recalled task may not borrow any more: it has been asked for, or a token would move if
it could be. -/
def State.touchHeld (s : State) : Bool :=
  s.anyLoanWaits ||
    State.tokensMove { s with
      recalling := s.recalling.filter fun k => !(s.task = some k), preempting := some .yield }

end Sys2Proof.Machine
end

