-- ==== Sys2Proof/Machine/Tasks.lean ====
section
/-! DEFINITION. Tasks on cores: the end of a task (R246), dispatch with task entry and resumption (R133, R152, R168),
pre-emption (R325 to R327), recall (R123, R124), FAULTEND (R154, R347, R362) and partition swaps (R328). Other cores
have a desk's view only (log 2). -/

namespace Sys2Proof.Machine

/-! ### The end of a task (R246) -/

/-- A lane with nothing to do. -/
def Port.idle (q : Port) : Bool := q.queue.isEmpty && q.emitCmd.isNone && q.absCmd.isNone

/-- Step 1 of `tend`: every command is done, the fabric is empty and the channels that the task has started are idle or
stopped. -/
def State.mayEnd (s : State) : Bool :=
  s.core.clerk.unfin.isEmpty && s.core.ports.all Port.idle && s.core.mes.all (fun m => m.queue.isEmpty) &&
    s.core.tmu.queue.isEmpty && s.core.tmu.emitting.isEmpty && s.quiescent &&
    s.core.ces.all fun c => !(c.owner = s.task && (c.state = .run || c.state = .wait))

/-- A deferred operation performed at the end of its task, which ran on core `c` (R127, R244). A spawn whose TCB no longer
translates is dropped with no record: R244 gives one for a TCB in state 1 to 4. Log 129 (DESIGN CHOICE). -/
def State.deferredOp (s : State) (k : TaskKey) (c : Nat) : Deferred → State
  | .chain e head => s.ceStartNow none e.toNat head
  | .spawn tcb =>
    let ctx := s.taskCtx k
    match s.tcbPa ctx tcb with
    | none => s
    | some pa =>
      let st := bitsOf (s.tcbRd pa 3) 10 8
      if 1 ≤ st && st ≤ 4 then s.faultRecord (s.tcbQueueWing k) k.tcb c 0x08 tcb
      else s.launchTask ⟨ctx, tcb⟩

/-- The core's clerk with no task. -/
def State.idleCore (s : State) : State :=
  (s.freeCore s.coreId).updCore fun c => { c with clerk := Clerk.reset }

/-- What the end of a task on core `c` comes to at the desks: it leaves its cohort, its objects are released and its sets
returned, the deferred operations `ops` are performed, its successors are decremented, and it is ENDED. -/
def State.endSteps (s : State) (k : TaskKey) (c : Nat) (ops : List Deferred) : State :=
  let s := ((s.leaveCohort k).releaseObjects k).returnSets k
  let s := s.updRec k fun r => { r with deferred := [], undoUsed := 0, logged := [] }
  let s := ops.foldl (fun s d => s.deferredOp k c d) s
  let s := s.decrementAll k c false
  let s := match s.tcbPa k.ctx k.tcb with
    | some pa => s.tcbSet pa 3 10 8 5
    | none => s
  State.dropRec { s with recalling := s.recalling.filter fun x => !(x = k) } k

/-- Steps 2 to 8 of `tend`. -/
def State.endTask (s : State) (k : TaskKey) : State :=
  let s := (s.updTmu fun t => { t with slots := List.replicate 16 ⟨.free, .free, none⟩ }).endSteps k s.coreId (s.deferredOf k)
  { s with preempting := none }.idleCore

/-- TEND. -/
def execTend (s : State) : Host.Outcome State Fault Refusal :=
  match s.task with
  | none => .next s
  | some k => if s.mayEnd then .next (s.endTask k) else .next s

/-! ### Pre-emption (R325 to R327) -/

/-- Saved states that core `c` keeps in its shadow storage (R326). -/
def State.shadowCount (s : State) (c : Nat) : Nat := ((s.wings.flatMap (·.ready)).filter fun r => r.left = some c).length

def State.shadowFull (s : State) (c : Nat) : Bool := 8 ≤ s.shadowCount c

/-- TYIELD: with full shadow storage it completes without yielding (R326). -/
def execTyield (s : State) : Host.Outcome State Fault Refusal :=
  if s.task.isNone || !s.core.clerk.unfin.isEmpty then .next s
  else if s.shadowFull s.coreId then .next (s.advance 4)
  else .next { s.advance 4 with preempting := some .yield }

/-- The channel has a record under way. -/
def Ce.busy (c : Ce) : Bool := c.state = .run || c.state = .wait

/-- A channel that runs for another context than the outgoing one, `x`: a pre-emption neither stops nor saves it (R87). What
it does then the spec does not say: it goes on, with its handle, on its core. Log 132 (DESIGN CHOICE). -/
def Ce.foreign (x : BitVec 12) (c : Ce) : Bool := c.busy && c.ctx != x

/-- Handle `h` is that of the channel's record, which is counted on it or waits for it. -/
def Ce.holdsHandle (h : Nat) (c : Ce) : Bool := c.busy && (c.counted || c.state = .wait) && recHandle c.rcd == h

/-- The state a pre-empted task of context `x` is saved in: unfinished instructions stand as the replay queue does, a clerk that
waits or is halted goes on at its PC, and 0x0E is pending when DISC grew, which it does up to 255 (R313, R326). A channel that
runs for another context is not in it. -/
def Core.saved (x : BitVec 12) (c : Core) : Core :=
  let n := c.tmu.queue.length
  let k := c.clerk.drain
  let k := { k with unfin := k.unfin.filter (·.done.isNone), run := .running, wfeEvent := false }
  { c with
    clerk := if c.tmu.preempted.disc = c.tmu.disc then k else k.pendCause 0x0E 0 (n * 2 ^ 16), tmu := c.tmu.preempted
    fab := { c.fab with held := [] }
    ces := c.ces.map fun e => if e.foreign x then Ce.reset else e
    handles := c.handles.zipIdx.map fun p => if c.ces.any fun e => e.foreign x && e.holdsHandle p.2 then Handle.reset else p.1 }

/-- What a core holds when the state of a task of context `x` has moved to shadow storage (R325, step 5): all that was saved is
at its reset value, and the accumulator banks stand (R297). DEDUCED, log 37. A channel that runs for another context stands. -/
def Core.left (x : BitVec 12) (c : Core) : Core :=
  { Core.reset with
    mes := c.mes.map Me.entered
    ces := c.ces.map fun e => if e.foreign x then e else Ce.reset
    handles := c.handles.zipIdx.map fun p => if c.ces.any fun e => e.foreign x && e.holdsHandle p.2 then p.1 else Handle.reset }

/-- The channels and handles of a core on which the saved state `c` is restored: a record that is still under way on the core
keeps its channel and its handle. Log 132 (DESIGN CHOICE). -/
def Core.withBusy (old c : Core) : Core :=
  { c with
    ces := c.ces.zipIdx.map fun p => if (old.ces.getD p.2 Ce.reset).busy then old.ces.getD p.2 Ce.reset else p.1
    handles := c.handles.zipIdx.map fun p =>
      if old.ces.any fun e => e.holdsHandle p.2 then old.handles.getD p.2 Handle.reset else p.1 }

/-- Tokens that a writing lane has taken have been written. -/
def Port.flushed (q : Port) : Bool :=
  match q.absCmd with
  | some c => Instr.paired c.cmd || c.out.isEmpty
  | none => true

/-- A pre-emption may save: the tree reports empty, every emit lane and every copy engine of its context stands at its boundary,
what absorb lanes have taken is written, and every configuration word sent has been applied. -/
def State.maySave (s : State) : Bool :=
  s.preemptOn && s.quiescent && s.core.fab.fes.all (fun x => x.2.waiting.isEmpty) &&
    s.core.ports.all Port.flushed && (s.core.ces.all fun c => c.foreign s.ctx || c.atBoundary) && (List.range 16).all s.laneStopped

/-- A task leaves core `c` as PREEMPTED and is enqueued again (R132, R150). -/
def State.requeue (s : State) (k : TaskKey) (c : Nat) : State :=
  ((({ s with occ := s.occ.filter fun o => o.core != c }).memberRuns k false).farSave k c).enqueue k 4 (some c)

/-- The channel of a saved task whose context is killed: its record is discarded (R90). -/
def Ce.killSaved (ctx : BitVec 12) (c : Ce) : Ce := if c.ctx = ctx then { Ce.reset with ctx := c.ctx, err := c.err } else c

/-- A saved state that a kill of a context under way has met. -/
def State.killedCore (s : State) (c : Core) : Core :=
  if s.modl.killDone then c else { c with ces := c.ces.map (Ce.killSaved s.modl.killCtx) }

/-- The core's task saved. -/
def State.saveTask (s : State) (k : TaskKey) : State :=
  let saved := s.killedCore (s.core.saved s.ctx)
  State.requeue { s with shadow := s.shadow ++ [(k, saved)], core := s.core.left s.ctx, task := none, preempting := none }
    k s.coreId

/-- PREEMPT_SAVE. -/
def execPreemptSave (s : State) : Host.Outcome State Fault Refusal :=
  match s.task with
  | some k => if s.maySave && !s.recalled then .next (s.saveTask k) else .next s
  | none => .next s

/-- PREEMPTION_TIMEOUT: the pre-emption is abandoned. -/
def execPreemptionTimeout (s : State) : Host.Outcome State Fault Refusal :=
  if s.preempting.isSome then
    .next (State.pendCause { s with preempting := none, nextTask := s.nextTask.filter fun x => x.1 != s.coreId } 0x15 0 1)
  else .next s

/-- Pre-emption of core `c` begins; another core's task is saved at once. -/
def State.preempt (s : State) (c : Nat) (why : PreemptWhy) : State :=
  if c == s.coreId then
    if s.task.isSome && s.preempting.isNone then { s with preempting := some why } else s
  else match s.occ.find? fun o => o.core == c with
    | some o => if o.key ∈ s.recalling then s.rollRestart o.key else s.requeue o.key c
    | none => s

/-! ### Bank selection (R278, R329) -/

/-- How long ago a context ran on the core: its place in `recent`. -/
def State.lastRan (s : State) (x : Option (BitVec 12)) : Nat :=
  match x with
  | some x => (s.recent.findIdx? (· = x)).getD s.recent.length
  | none => s.recent.length

/-- The bank taken for a context that owns none. -/
def State.victim (s : State) (e : Nat) : Bool :=
  let m := s.me e
  if m.bank0.owner.isNone then false
  else if m.bank1.owner.isNone then true
  else if m.bank0.owner = m.bank1.owner then m.bank1.second
  else s.lastRan m.bank0.owner < s.lastRan m.bank1.owner

/-- The primary bank of context `x` on engine `e`; `fill` fills a bank taken anew, and `second` takes back the
second bank. -/
def State.selectBank (s : State) (x : BitVec 12) (fill second : Bool) (e : Nat) : State :=
  let owned (s : State) (j : Bool) : Bool := ((s.me e).bank j).owner = some x
  let take (s : State) (j snd : Bool) : State :=
    let t := s.takeBank e j x snd
    if fill then t.fillBank e j x snd else t
  let r : Bool × State :=
    if owned s false && !(s.me e).bank0.second then (false, s)
    else if owned s true && !(s.me e).bank1.second then (true, s)
    else (s.victim e, take s (s.victim e) false)
  let s := if second && !owned r.2 (!r.1) then take r.2 (!r.1) true else r.2
  s.updMe e fun m => { m with prim := r.1, second := owned s (!r.1) }

/-! ### Dispatch (R133, R152, R168) -/

/-- The clerk at task entry (R11, R208, R319). Command registers are 0: log 88 (DESIGN CHOICE). -/
def Clerk.entered (entry arg tcb : Nat) (tvec : Dword) : Clerk :=
  let c := { Clerk.reset with
    tvec, cmdbase := BitVec.ofNat 64 (entry / 2 ^ 21 * 2 ^ 21), run := .running }
  ((c.setReg 1 (BitVec.ofNat 64 arg)).setReg 2 (BitVec.ofNat 64 tcb)).setPc (BitVec.ofNat 48 entry)

/-- The context that ran last on the core is in front. -/
def State.ranLast (s : State) (x : BitVec 12) : State := { s with recent := x :: s.recent.filter fun y => !(y = x) }

/-- A task starts at its entry point, with no image resident yet (R168). -/
def State.enterTask (s : State) (r : Ready) (pa : Nat) : State :=
  let w (i : Nat) : Nat := s.tcbRd pa i % 2 ^ 48
  let image := w 2
  let ctx := s.taskCtx r.key
  let clerk := Clerk.entered (w 0) (w 1) r.key.tcb (s.modl.ptvec.getD r.part.toNat 0)
  let s := (s.dropReqs fun _ => true).updCore fun c => { c with
    clerk, ports := List.replicate 16 Port.reset, mes := c.mes.map Me.entered, tmu := Tmu.reset
    fab := Fabric.noImage { c.fab with bars := [] } }
  let s : State := { s with task := some r.key, preempting := none }
  let s := ([0, 1].foldl (fun s e => s.selectBank ctx false false e) s).ranLast ctx
  if image == 0 then s else s.loadEntry image

/-- A pre-empted task goes on: every item saved is restored, but for the engines' banks, and what was unfinished is
re-injected (R326). -/
def State.resumeTask (s : State) (r : Ready) (c : Core) : State :=
  let bank (e : Nat) (m : Me) : Me :=
    let n := s.me e
    { m with bank0 := n.bank0, bank1 := n.bank1, prim := n.prim, second := n.second }
  let second (e : Nat) : Bool := (c.mes.getD e Me.reset).second
  let mes := c.mes.zipIdx.map fun p => bank p.2 p.1
  let s : State := { s with
    core := s.core.withBusy { c with mes := mes }, task := some r.key, preempting := none
    shadow := s.shadow.filter fun (e : TaskKey × Core) => !(e.1 = r.key) }
  let ctx := s.taskCtx r.key
  (([0, 1].foldl (fun s e => s.selectBank ctx true (second e) e) s).ranLast ctx).reinject

/-- A task of an order starts on a free core. -/
def State.dispatchTo (s : State) (r : Ready) (c : Nat) : State :=
  let s : State := { s with
    wings := s.wings.map fun (g : Wing) => { g with ready := g.ready.filter fun x => !(x.key = r.key) }
    nextTask := s.nextTask.filter fun x => !(x.2 = r.key) && x.1 != c }
  match s.tcbPa r.key.ctx r.key.tcb with
  | none => s
  | some pa =>
    let s := s.tcbSet pa 3 10 8 3
    let s := ({ s with occ := s.occ ++ [Occ.mk c r.key r.prio s.timer] } : State)
    let s := (s.updRec r.key fun x => { x with core := c }).memberRuns r.key true
    if c != s.coreId then s.farRestore r.key c
    else match s.shadow.find? fun e => e.1 = r.key with
      | some e => s.resumeTask r e.2
      | none => s.enterTask r pa

/-- A core on which no task runs and which is not halted. -/
def State.freeCoreAt (s : State) (c : Nat) : Bool :=
  s.hasCore c && !(s.occ.any fun o => o.core == c) &&
    (c != s.coreId || (s.task.isNone && s.core.clerk.run ≠ .doubleHalt))

/-- The effective priority of an entry (R152); PERIOD counts 1,000 ns. -/
def Ready.level (r : Ready) (now period : Nat) : Nat := min 7 (r.prio + (now - r.enqt) / (period * 1000))

/-- The desk's order (R152). -/
def Ready.before (now period : Nat) (a b : Ready) : Bool :=
  let la := a.level now period
  let lb := b.level now period
  lb < la || (la == lb && (a.enqt < b.enqt || (a.enqt == b.enqt && a.key.tcb < b.key.tcb)))

def insertReady (now period : Nat) (r : Ready) : List Ready → List Ready
  | [] => [r]
  | x :: t => if r.before now period x then r :: x :: t else x :: insertReady now period r t

def State.order (s : State) (w : Nat) : List Ready :=
  let g := s.wing w
  g.ready.foldl (fun l r => insertReady s.timer g.period.toNat r l) []

/-- The columns of core `c`: its GRIDMAP.D (R170). Log 6. -/
def State.mapOf (s : State) (c : Nat) : Nat := if c == s.coreId then s.gridmap.toNat else 17

/-- Whether a core can load the task's image (R171). -/
def State.mapFits (s : State) (r : Ready) (c : Nat) : Bool :=
  let d := s.mapOf c
  let image := match s.tcbPa r.key.ctx r.key.tcb with
    | some pa => s.tcbRd pa 2 % 2 ^ 48
    | none => 0
  image == 0 || (r.map = 0 && d == 17) || r.map.toNat == d

/-- Eligibility of an entry for core `c` (R152). -/
def State.eligible (s : State) (r : Ready) (c : Nat) : Bool :=
  let p := s.modl.partcur.getD r.part.toNat ⟨false, 0, none, false⟩
  bitOf r.wings.toNat (c / 20) && bitOf r.aff.toNat (c % 20) && s.corePart c == r.part.toNat && p.v &&
    p.swap.isNone && p.ctx = s.taskCtx r.key && s.mapFits r c && (match r.left with
      | some x => x == c
      | none => true)

/-- A core that a QUANTUM pre-emption frees is kept for the task that it is freed for, and one on which a start waits for the
task that is to start there; and the task for it (R152). -/
def State.promised (s : State) (r : Ready) (c : Nat) : Bool :=
  s.nextTask.all fun x => (x.1 == c) == decide (x.2 = r.key)

/-- The lowest free core of wing `w` for which a task is eligible. -/
def State.coreFor (s : State) (r : Ready) (w : Nat) : Option Nat :=
  ((List.range 20).map (20 * w + ·)).find? fun c => s.freeCoreAt c && s.eligible r c && s.promised r c

/-- A channel has a record under way on the core and another, stopped or under way, in a saved state. -/
def Core.clashes (old c : Core) : Bool :=
  (old.ces.zip c.ces).any fun p => p.1.busy && (p.2.busy || p.2.state = .stopped)

/-- The core's start of a task waits for a walk, or for the layout of a page, that the read of its image needs; that of a saved
one waits while a channel that has a record of its own runs one of another task. Log 132 (DESIGN CHOICE). -/
def State.startWaits (s : State) (r : Ready) (c : Nat) : Bool :=
  c == s.coreId && match s.shadow.find? fun e => e.1 = r.key with
    | some e => s.core.clashes e.2
    | none => match s.tcbPa r.key.ctx r.key.tcb with
      | some pa => State.entryWaits { s with task := some r.key } (s.tcbRd pa 2 % 2 ^ 48)
      | none => false

/-- A task is given a core; where its start waits the core is kept for it, and it for the core. -/
def State.giveCore (s : State) (r : Ready) (c : Nat) : State :=
  if !s.startWaits r c then s.dispatchTo r c
  else if (c, r.key) ∈ s.nextTask then s
  else { s with nextTask := s.nextTask ++ [(c, r.key)] }

/-- Each task of an order, in turn, to the lowest free core of wing `w` for which it is eligible. -/
def popOwn (w : Nat) : List Ready → State → State
  | [], s => s
  | r :: t, s =>
    match s.coreFor r w with
    | some c => popOwn w t (s.giveCore r c)
    | none => popOwn w t s

/-- The first task of another wing's order for which core `c` is free and eligible. -/
def State.popOther (s : State) (w c : Nat) : State :=
  if !s.freeCoreAt c then s
  else match ((List.range 8).flatMap fun v => if v == w then [] else s.order v).find? fun r =>
      s.eligible r c && s.promised r c with
    | some r => s.giveCore r c
    | none => s

/-- The free cores of wing `w` that are kept for a task are given to it; one whose task is not eligible any more is kept
no longer. -/
def State.keepPromises (s : State) (w : Nat) : State :=
  (s.nextTask.filter fun x => x.1 / 20 == w && s.freeCoreAt x.1).foldl (fun (s : State) (x : Nat × TaskKey) =>
    match (s.wings.flatMap (·.ready)).find? fun r => r.key = x.2 && s.eligible r x.1 with
    | some r => s.giveCore r x.1
    | none => { s with nextTask := s.nextTask.filter fun y => !(y = x) }) s

/-- DISPATCH. -/
def execDispatch (wing : BitVec 3) (s : State) : Host.Outcome State Fault Refusal :=
  let w := wing.toNat
  let s := s.keepPromises w
  let s := popOwn w (s.order w) s
  .next ((List.range 20).foldl (fun s c => s.popOther w (20 * w + c)) s)

/-- Core `c` qualifies for pre-emption by task `r` of the order of wing `v`: QUANTUM is that of the core's wing, and the
task has the level that it has in its order (R152, R326). -/
def State.yieldsTo (s : State) (r : Ready) (v c : Nat) : Bool :=
  let g := s.wing (c / 20)
  match s.occ.find? fun o => o.core == c with
  | some o => g.quantum != 0 && g.quantum.toNat * 1000 ≤ s.timer - o.since &&
      o.prio < r.level s.timer (s.wing v).period.toNat && s.eligible r c && s.promised r c && !s.shadowFull c
  | none => false

/-- PRIO of the task on core `c`. -/
def State.prioAt (s : State) (c : Nat) : Nat :=
  match s.occ.find? fun o => o.core == c with
  | some o => o.prio
  | none => 8

/-- The core that `r`, of the order of wing `v`, pre-empts among all that qualify: the lowest PRIO, then the lowest
number. -/
def State.preemptFor (s : State) (r : Ready) (v : Nat) : Option Nat :=
  ((s.occ.map (·.core)).filter (s.yieldsTo r v)).foldl (fun (best : Option Nat) (c : Nat) => match best with
    | some b => if s.prioAt c < s.prioAt b || (s.prioAt c == s.prioAt b && c < b) then some c else some b
    | none => some c) none

/-- The tasks that may take a core of wing `w`, each with the wing of its order: the wing's own first, then those of the
others in ascending order (R152). -/
def State.orders (s : State) (w : Nat) : List (Nat × Ready) :=
  (w :: (List.range 8).filter fun v => v != w).flatMap fun v => (s.order v).map fun r => (v, r)

/-- The task for which core `core` is pre-empted. -/
def State.takerOf (s : State) (core : Nat) : Option (Nat × Ready) :=
  (s.orders (core / 20)).find? fun x => s.preemptFor x.2 x.1 = some core

/-- QUANTUM_PREEMPT: the core is pre-empted, and kept for the task. -/
def execQuantumPreempt (core : Nat) (s : State) : Host.Outcome State Fault Refusal :=
  match s.takerOf core with
  | some x =>
    if core == s.coreId && s.preempting.isSome then .next s
    else
      let keep := s.nextTask.filter (fun y => y.1 != core) ++ [(core, x.2.key)]
      .next (State.preempt { s with nextTask := keep } core .quantum)
  | none => .next s

/-! ### Recall (R123, R124) -/

/-- A request touches a set that its task has not borrowed: in a recall it borrows no more (R124). -/
def State.reqTouches (s : State) (q : Req) : Bool :=
  match s.task with
  | none => false
  | some k => k ∈ s.recalling && match s.findRec k with
    | none => false
    | some r => (s.reqParts q).any fun p => (declsMet r.decls p.1 p.2).any fun d => d.2.st ≠ .borrowed

/-- A request that a recall gives up: it stalls, waits for a loan, would be a first touch, or stands behind one that does. -/
def State.givenUp (s : State) (k : Nat) (q : Req) : Bool :=
  let waits (e : Req) : Bool := !e.done && (e.stalls || s.reqLoan e || s.reqTouches e)
  !q.done && (waits q || (s.core.fab.reqs.take k).any fun e => e.same q && waits e)

/-- The recall has nothing more to wait for in the fabric: every request is done or given up, no page walk runs and no page
changes its layout, and no token moves, where something waits for a set that the task may not borrow any more. -/
def State.recallStuck (s : State) : Bool :=
  s.walks.isEmpty && s.pages.all (fun p => !p.lock) && (s.core.fab.reqs.zipIdx.all fun x => x.1.done || s.givenUp x.2 x.1) &&
    !s.tokensMove && ((s.core.fab.reqs.zipIdx.any fun x => s.givenUp x.2 x.1) || s.touchHeld)

/-- The recalled core has drained: requests that the recall gives up count as no traffic, and tokens that can move no more
behind a touch that it gives up are discarded with the task. Log 133 (DESIGN CHOICE). -/
def State.recallDrained (s : State) : Bool :=
  let left := (s.core.fab.reqs.zipIdx.filter fun x => !s.givenUp x.2 x.1).map (·.1)
  ((s.updFab fun f => { f with reqs := left }).quiescent || s.recallStuck) &&
    s.core.ces.all fun c => !(c.owner = s.task && (c.state = .run || c.state = .wait))

/-- An FE without its tokens, as one that is quiet (R325). -/
def Fe.drained (f : Fe) : Fe :=
  { f with fifo := Fe.reset.fifo, window := Fe.reset.window, emit := Fe.reset.emit, track := Fe.reset.track
           op := { f.op with outq := [] } }

/-- A core whose task has been rolled back: what is left of the task in its units is discarded. -/
def Core.recalled (c : Core) : Core :=
  { c with clerk := Clerk.reset, ports := List.replicate 16 Port.reset, mes := c.mes.map Me.entered, tmu := Tmu.reset
           fab := { c.fab with bars := [], held := [], fes := c.fab.fes.map fun x => (x.1, x.2.drained) } }

/-- RECALL_ROLLBACK: of the core's task once it has drained, or of another core's. -/
def execRecallRollback (t : TaskKey) (s : State) : Host.Outcome State Fault Refusal :=
  if !(t ∈ s.recalling) then .next s
  else if s.task = some t then
    if !s.recallDrained then .next s
    else
      let s := ((s.rollBack t).dropReqs fun _ => true).updCore Core.recalled
      .next (({ s.freeCore s.coreId with preempting := none }.memberRuns t false).restart t)
  else .next (s.rollRestart t)

/-! ### FAULTEND (R154, R347, R362) -/

/-- FADDR of a task ended by FAULTEND, from the cause registers or the first stream-translation record of the core
that holds its clerk. -/
def State.endFaddr (s : State) (k : TaskKey) (cause : Nat) : Nat :=
  match s.taskCore k with
  | some c => if cause == 0x06 then s.trapRd 0x240 8 % 2 ^ 48 else c.clerk.faddress.toNat % 2 ^ 48
  | none => Config.otherFaddress s.stepNo % 2 ^ 48

/-- The core cleared and freed, as a write of 1 to DHALT does (R321). -/
def State.clearCore (s : State) : State :=
  { ((s.dropReqs fun _ => true).updCore Core.cleared).freeCore s.coreId with
    preempting := none
    recalling := match s.task with
      | some k => s.recalling.filter fun x => !(x = k)
      | none => s.recalling }

/-- A task ended by the desk, wherever it is. -/
def State.endFaulted (s : State) (k : TaskKey) (core cause : Nat) : State :=
  let faddr := s.endFaddr k cause
  let own := s.task = some k
  let s := (s.faultTask k core cause faddr).memberRuns k false
  if own then s.clearCore else { s with occ := s.occ.filter fun o => !(o.key = k) }

/-- The tasks RUNNING on a core of wing `w`, or PREEMPTED from one, with that TCB address, in a partition the
writer may name: with the core and the partition. -/
def State.faultMatches (s : State) (w tcb : Nat) (part : Option (BitVec 4)) : List (TaskKey × Nat × BitVec 4) :=
  let run := s.occ.filterMap fun o =>
    if o.core / 20 == w && o.key.tcb == tcb then some (o.key, o.core, BitVec.ofNat 4 (s.corePart o.core)) else none
  let pre := (s.wings.flatMap (·.ready)).filterMap fun r => match r.left with
    | some c => if c / 20 == w && r.key.tcb == tcb then some (r.key, c, r.part) else none
    | none => none
  (run ++ pre).filter fun x => match part with
    | some p => x.2.2 = p
    | none => true

/-- The task that a FAULTEND write ends: the one PARTCUR names, else the one with the lowest age stamp. Of several that the
PARTCUR of their own partitions name it is the first that runs, and else the first that is queued: log 138 (DESIGN CHOICE). -/
def State.faultPick (s : State) (l : List (TaskKey × Nat × BitVec 4)) : Option (TaskKey × Nat × BitVec 4) :=
  match l.find? fun x =>
      let p := s.modl.partcur.getD x.2.2.toNat ⟨false, 0, none, false⟩
      p.v && p.ctx = s.taskCtx x.1 with
  | some x => some x
  | none => l.foldl (fun best x => match best with
    | some b => if s.ageOf x.1 < s.ageOf b.1 then some x else some b
    | none => some x) none

/-- A write to FAULTEND of a wing; `part` is the writing core's partition, none for the owning master. -/
def State.faultend (s : State) (w : Nat) (v : Dword) (part : Option (BitVec 4)) : State :=
  let tcb := v.toNat % 2 ^ 48
  match s.faultPick (s.faultMatches w tcb part) with
  | some x => s.endFaulted x.1 x.2.1 (bitsOf v.toNat 63 56)
  | none => s.updWing w fun g => { g with launchst := BitVec.ofNat 64 (6 * 2 ^ 56 + tcb) }

/-- FAULTEND. -/
def execFaultend (wing : BitVec 3) (v : Dword) (part : Option (BitVec 4)) (s : State) : Host.Outcome State Fault Refusal :=
  .next (s.faultend wing.toNat v part)

/-- CORERST_DHALT. -/
def execCorerstDhalt (s : State) : Host.Outcome State Fault Refusal := .next s.clearCore

/-! ### Launch and the desk's registers (R147, R148, R151) -/

/-- A LAUNCH write: a refused one sets LAUNCHST. -/
def State.launchWrite (s : State) (w : Nat) (v : Dword) : State :=
  let k : TaskKey := ⟨BitVec.ofNat 12 (bitsOf v.toNat 63 52), v.toNat % 2 ^ 48⟩
  let code := s.launchCode k
  if code == 0 then s.launchTask k
  else s.updWing w fun g => { g with launchst := BitVec.ofNat 64 (code * 2 ^ 56 + k.tcb) }

/-- LAUNCH. -/
def execLaunch (wing : BitVec 3) (v : Dword) (s : State) : Host.Outcome State Fault Refusal :=
  .next (s.launchWrite wing.toNat v)

/-- A read of LAUNCHST: the value, and the register cleared. -/
def State.launchstTake (s : State) (w : Nat) : Dword × State :=
  ((s.wing w).launchst, s.updWing w fun g => { g with launchst := 0 })

/-- LAUNCHST_READ, by a master: the value returns to it. -/
def execLaunchstRead (wing : BitVec 3) (s : State) : Host.Outcome State Fault Refusal :=
  let r := s.launchstTake wing.toNat
  .next { r.2 with hostRead := some r.1 }

/-- A DESKCTL write; one with PERIOD out of range or a reserved bit is ignored. -/
def State.deskctl (s : State) (w : Nat) (v : Dword) : State :=
  let p := bitsOf v.toNat 13 0
  if bitsOf v.toNat 63 48 != 0 || bitsOf v.toNat 31 14 != 0 || p < 64 || 16000 < p then s
  else s.updWing w fun g => { g with quantum := BitVec.ofNat 16 (bitsOf v.toNat 47 32), period := BitVec.ofNat 14 p }

/-- DESKCTL_WRITE. -/
def execDeskctlWrite (wing : BitVec 3) (v : Dword) (s : State) : Host.Outcome State Fault Refusal :=
  .next (s.deskctl wing.toNat v)

/-! ### Partition swaps (R328) -/

def State.partcur (s : State) (p : Nat) : PartCur := s.modl.partcur.getD p ⟨false, 0, none, false⟩

def State.updPartcur (s : State) (p : Nat) (f : PartCur → PartCur) : State :=
  s.updMod fun m => { m with partcur := updAt m.partcur p f }

/-- The cores of a partition on which a task runs. -/
def State.partRunning (s : State) (p : Nat) : List Nat := (s.occ.map (·.core)).filter fun c => s.corePart c == p

/-- A write to PARTCUR: ERR cleared; then a swap, a refusal, or the fields stored. -/
def State.partcurWrite (s : State) (p : Nat) (v : Dword) : State :=
  let clr := v.getLsbD 61
  let s := if clr then s.updPartcur p fun x => { x with err := false } else s
  let c := s.partcur p
  let ctx : BitVec 12 := v.setWidth 12
  if !v.getLsbD 63 then
    if clr then s
    else if c.swap.isSome then s.updPartcur p fun x => { x with err := true }
    else s.updPartcur p fun x => { x with v := false, ctx }
  else if c.swap.isSome || (List.range 160).any fun k => s.hasCore k && s.corePart k == p && s.shadowFull k then
    if c.v && c.ctx = ctx && c.swap.isNone then s else s.updPartcur p fun x => { x with err := true }
  else if c.v && c.ctx = ctx then s
  else (s.partRunning p).foldl (fun s k => s.preempt k .swap) (s.updPartcur p fun x => { x with swap := some ctx })

/-- PARTITION_SWAP. -/
def execPartitionSwap (p : BitVec 4) (v : Dword) (s : State) : Host.Outcome State Fault Refusal :=
  .next (s.partcurWrite p.toNat v)

/-- PARTITION_SWAP_DONE: while a core of the partition still runs a task, it is pre-empted (again). -/
def execPartitionSwapDone (p : BitVec 4) (s : State) : Host.Outcome State Fault Refusal :=
  let k := p.toNat
  match (s.partcur k).swap with
  | none => .next s
  | some ctx =>
    match s.partRunning k with
    | [] => .next (s.updPartcur k fun x => { x with v := true, ctx, swap := none })
    | l => .next (l.foldl (fun s c => s.preempt c .swap) s)

/-- PARTCUR_CLEAR_ERROR. -/
def execPartcurClearError (p : BitVec 4) (s : State) : Host.Outcome State Fault Refusal :=
  .next (s.updPartcur p.toNat fun x => { x with err := false })

/-- PARTCUR as read. -/
def PartCur.word (x : PartCur) : Nat :=
  b2n x.v * 2 ^ 63 + b2n x.swap.isSome * 2 ^ 62 + b2n x.err * 2 ^ 61 + x.ctx.toNat

end Sys2Proof.Machine
end

