-- ==== Sys2Proof/Machine/Control.lean ====
section
/-! DEFINITION. The module's own steps (R33, R38, R44, R90, R331, R333, R335 to R343), the steps of the copy engines
(R80 to R87), and every control register: what a load of it reads and what a store does (R21, R22). -/

namespace Sys2Proof.Machine

/-! ### Copy engines (R80 to R87, R341) -/

/-- CE_CHAIN_START. The storing instruction takes the fault of a seventeenth deferred start. -/
def execCeChainStart (e : BitVec 1) (head : Dword) (s : State) : Host.Outcome State Fault Refusal :=
  .next (match s.ceStart e.toNat head.toNat with
    | .ok t => t
    | .error _ => s)

/-- CE_CLEAR_ERROR. -/
def execCeClearError (e : BitVec 1) (s : State) : Host.Outcome State Fault Refusal :=
  .next (s.updCe e.toNat fun c => { c with err := false })

/-- CE_ABORT. -/
def execCeAbort (e : BitVec 1) (s : State) : Host.Outcome State Fault Refusal := .next (s.ceAbort e.toNat)

/-- CE_RESUME. -/
def execCeResume (e : BitVec 1) (s : State) : Host.Outcome State Fault Refusal := .next (s.ceResume e.toNat)

/-- CE_KICK. -/
def execCeKick (e : BitVec 1) (s : State) : Host.Outcome State Fault Refusal := .next (s.ceKick e.toNat)

/-- COPY_RECORD_READ. -/
def execCopyRecordRead (e : BitVec 1) (s : State) : Host.Outcome State Fault Refusal := .next (s.ceReadRecord e.toNat)

/-- COPY_HANDLE_READY. -/
def execCopyHandleReady (e : BitVec 1) (s : State) : Host.Outcome State Fault Refusal := .next (s.ceHandleReady e.toNat)

/-- COPY_RECORD_COMPLETE. -/
def execCopyRecordComplete (e : BitVec 1) (s : State) : Host.Outcome State Fault Refusal := .next (s.ceComplete e.toNat)

/-- COPY_RECORD_STOP. -/
def execCopyRecordStop (e : BitVec 1) (s : State) : Host.Outcome State Fault Refusal := .next (s.ceFail e.toNat)

/-- COPY_BOUNDARY_STOP. -/
def execCopyBoundaryStop (e : BitVec 1) (n : Nat) (s : State) : Host.Outcome State Fault Refusal :=
  .next ((State.ceToBoundary e.toNat n s).ceBoundary e.toNat)

/-- NVME_WRITE_COMPLETE. -/
def execNvmeWriteComplete (e : BitVec 1) (good : Bool) (s : State) : Host.Outcome State Fault Refusal :=
  .next (s.nvmeDone e.toNat good)

/-! ### Invalidation (R33) -/

/-- Whether an invalidation clears an entry. -/
def xinvClears (v : Nat) (e : Tlb) : Bool :=
  match bitsOf v 1 0 with
  | 0 => e.hits (BitVec.ofNat 12 (bitsOf v 63 52)) (bitsOf v 47 16 * 2 ^ 16)
  | 1 => e.ctx.toNat == bitsOf v 63 52
  | _ => true

/-- A write to XINV. -/
def State.xinv (s : State) (v : Nat) : State :=
  if s.modl.xinvBusy || bitsOf v 1 0 == 3 || bitsOf v 51 48 != 0 || bitsOf v 15 2 != 0 then
    s.updMod fun m => { m with xinvErr := true }
  else
    State.updMod { s with tlb := s.tlb.filter fun e => !xinvClears v e, l2tlb := s.l2tlb.filter fun e => !xinvClears v e }
      fun m => { m with xinvBusy := true }

/-- XINV_WRITE. -/
def execXinvWrite (v : Dword) (s : State) : Host.Outcome State Fault Refusal := .next (s.xinv v.toNat)

/-- An unperformed access of the clerk whose address has been translated. -/
def Unfin.translated (u : Unfin) : Bool :=
  let phys (pl : Place) : Bool := match pl with
    | .mem _ => true
    | .peer _ _ => true
    | .page _ _ _ => true
    | _ => false
  u.done.isNone && match u.work with
    | .load _ pl => phys pl
    | .loadK pl => phys pl
    | .store _ pl _ => phys pl
    | .atomic _ pl _ _ _ => phys pl
    | .waitw pl _ => phys pl
    | .acquire pl _ queued => phys pl && !queued
    | .release pl => phys pl
    | .arm _ _ _ => true
    | .rls _ _ => true
    | _ => false

/-- XINV_COMPLETE. The fabric's requests are translated when they are performed. -/
def execXinvComplete (s : State) : Host.Outcome State Fault Refusal :=
  if s.core.clerk.unfin.any Unfin.translated then .next s
  else .next (s.updMod fun m => { m with xinvBusy := false })

/-- XINVSTAT_CLEAR_ERROR. -/
def execXinvstatClearError (s : State) : Host.Outcome State Fault Refusal :=
  .next (s.updMod fun m => { m with xinvErr := false })

/-! ### Killing a context (R90) -/

/-- A channel of the context that runs no record becomes idle. -/
def Ce.kill (ctx : BitVec 12) (c : Ce) : Ce :=
  if c.ctx = ctx && !(c.state = .run || c.state = .wait) then
    { c with head := 0, status := 0, state := .idleEnd, kick := false, rcd := [], counted := false, stop := none, chain := false }
  else c

/-- Whether that changes its STATE, which ends a `wfe` (R255). -/
def Ce.killMoves (ctx : BitVec 12) (c : Ce) : Bool := c.ctx = ctx && (c.state = .idleOwn || c.state = .stopped)

/-- A GO write: running records end at a boundary (COPY_BOUNDARY_STOP), and saved and deferred starts are discarded. -/
def State.ctxkill (s : State) (ctx : BitVec 12) : State :=
  if !s.modl.killDone then s.updMod fun m => { m with killErr := true }
  else
    let s := s.updMod fun m => { m with killCtx := ctx, killDone := false }
    let s := if s.core.ces.any (Ce.killMoves ctx) then s.wake else s
    let s := s.updCore fun c => { c with ces := c.ces.map (Ce.kill ctx) }
    let chain (d : Deferred) : Bool := match d with
      | .chain _ _ => true
      | .spawn _ => false
    { s with
      shadow := s.shadow.map fun e => (e.1, { e.2 with ces := e.2.ces.map (Ce.killSaved ctx) })
      recs := s.recs.map fun r => if r.ctx = ctx then { r with deferred := r.deferred.filter fun d => !chain d } else r }

/-- CTXKILL_GO. -/
def execCtxkillGo (ctx : BitVec 12) (s : State) : Host.Outcome State Fault Refusal := .next (s.ctxkill ctx)

/-- CTXKILL_DONE: no engine holds a record of the context. -/
def execCtxkillDone (s : State) : Host.Outcome State Fault Refusal :=
  if s.core.ces.any fun c => c.ctx = s.modl.killCtx && (c.state = .run || c.state = .wait) then .next s
  else .next (s.updMod fun m => { m with killDone := true })

/-- CTXKILL_CLEAR_ERROR. -/
def execCtxkillClearError (s : State) : Host.Outcome State Fault Refusal :=
  .next (s.updMod fun m => { m with killErr := false })

/-! ### Tag table and compressed pages (R38, R44) -/

/-- A value that TAGCFG refuses. -/
def tagcfgBad (v : Nat) : Bool :=
  9 < bitsOf v 3 0 || bitsOf v 63 25 != 0 || bitsOf v 11 4 != 0 ||
    bankBytes < (bitsOf v 24 12 + 8 * 2 ^ bitsOf v 3 0) * 0x1000

/-- A write to TAGCFG; none where it is refused. -/
def State.tagcfgSet (s : State) (v : Dword) : Option State :=
  if tagcfgBad v.toNat then none
  else
    let clear (e : Nat × TagEntry) : Nat × TagEntry := (e.1, { e.2 with v := false })
    some { s with tagcfg := v, tagVictim := [], tags := s.tags.map clear }

/-- TAGCFG_WRITE: a refused one changes nothing. -/
def execTagcfgWrite (v : Dword) (s : State) : Host.Outcome State Fault Refusal := .next ((s.tagcfgSet v).getD s)

/-- CPDESC_WRITE: it waits while LOCK is 1; a refused one changes nothing. -/
def execCpdescWrite (t : BitVec 6) (v : Dword) (s : State) : Host.Outcome State Fault Refusal :=
  .next (if (s.page t.toNat).lock then s else (s.cpdescWrite s.coreId t.toNat v.toNat).getD s)

/-! ### Ownership (R335, R336) -/

def putNibble (x : BitVec 4) (m : BitVec 2) (b : Bool) : BitVec 4 := putBit x m.toNat b

/-- OWNREQ_REQUEST. -/
def execOwnreqRequest (m : BitVec 2) (enter : Bool) (s : State) : Host.Outcome State Fault Refusal :=
  .next (s.updMod fun x => { x with ownPend := putNibble x.ownPend m enter })

/-- OWNREQ_CLRERR. -/
def execOwnreqClrerr (_m : BitVec 2) (s : State) : Host.Outcome State Fault Refusal :=
  .next (s.updMod fun x => { x with ownErr := false })

/-- A write to OWNREQ by a master: CLRERR leaves the request as it stands. -/
def State.ownreqWrite (s : State) (m : BitVec 2) (v : Nat) : State :=
  if v / 2 ^ 9 != 0 || bitsOf v 7 1 != 0 then s
  else s.updMod fun x =>
    if bitOf v 8 then { x with ownErr := false } else { x with ownPend := putNibble x.ownPend m (bitOf v 0) }

/-- A write to OWNPASS by a master. -/
def State.ownpassWrite (s : State) (m : BitVec 2) (v : BitVec 4) : State :=
  s.updMod fun x =>
    if x.owner = some m && v = 15 then { x with owner := none }
    else if x.owner = some m && v < 4 then
      { x with owner := some (v.setWidth 2), ownPend := putNibble x.ownPend (v.setWidth 2) false }
    else { x with ownErr := true }

/-- OWNPASS. -/
def execOwnpass (m : BitVec 2) (v : BitVec 4) (s : State) : Host.Outcome State Fault Refusal :=
  .next (s.ownpassWrite m v)

/-- The lowest master with a request. -/
def lowestPend (x : BitVec 4) : Option (BitVec 2) :=
  if x.getLsbD 0 then some 0 else if x.getLsbD 1 then some 1 else if x.getLsbD 2 then some 2
  else if x.getLsbD 3 then some 3 else none

/-- OWNERSHIP_GRANT. -/
def execOwnershipGrant (s : State) : Host.Outcome State Fault Refusal :=
  .next (match s.modl.owner, lowestPend s.modl.ownPend with
    | none, some m => s.updMod fun x => { x with owner := some m, ownPend := putNibble x.ownPend m false }
    | _, _ => s)

/-- MASTER_LINK_DOWN. -/
def execMasterLinkDown (m : BitVec 2) (s : State) : Host.Outcome State Fault Refusal :=
  .next (s.updMod fun x => { x with owner := if x.owner = some m then none else x.owner })

/-! ### Power (R343) -/

/-- WPWR_WRITE. -/
def execWpwrWrite (wing : BitVec 3) (code : BitVec 2) (s : State) : Host.Outcome State Fault Refusal :=
  .next (s.updWing wing.toNat fun g => { g with wpwrReq := some code })

/-- CLOCK_CHANGE_EFFECT. -/
def execClockChangeEffect (wing : BitVec 3) (s : State) : Host.Outcome State Fault Refusal :=
  .next (s.updWing wing.toNat fun g => { g with wpwr := g.wpwrReq.getD g.wpwr, wpwrReq := none })

/-- POWER_LIMIT_STEP_DOWN: every wing one code down. -/
def execPowerLimitStepDown (draw : Nat) (s : State) : Host.Outcome State Fault Refusal :=
  if draw ≤ s.modl.pwrlim.toNat then .next s
  else
    let down (g : Wing) : Wing := { g with wpwr := if g.wpwr = 3 then 3 else g.wpwr + 1 }
    .next { s with wings := s.wings.map down }

/-! ### Security (R342) -/

/-- The mailbox's GO: a report is asked for. -/
def State.attestGo (s : State) : State := s.updMod fun m => { m with attBusy := true, attDone := 0 }

/-- ATTESTATION_REQUEST. -/
def execAttestationRequest (s : State) : Host.Outcome State Fault Refusal := .next s.attestGo

/-- The attestation report, which holds the nonce among bytes whose number and contents are not stated, and its signature
of 7,856 bytes (R342). Log 11. -/
def attestReport (nonce : List Byte) : List Byte :=
  let free (i n : Nat) : List Byte := (List.range n).map fun j => Config.attestByte (ofBytes nonce) (i + j)
  let a := Config.attestBefore
  free 0 a ++ nonce ++ free a (32 + Config.attestAfter + 7856)

/-- ATTESTATION_REPORT_DONE: the report and its signature stand at the destination. -/
def execAttestationReportDone (s : State) : Host.Outcome State Fault Refusal :=
  if !s.modl.attBusy then .next s
  else
    let s := if s.inHost s.modl.attDest && s.modl.attDest % 64 == 0 then
        s.wrBytes s.modl.attDest (attestReport s.modl.nonce) else s
    .next (s.updMod fun m => { m with attBusy := false, attDone := 1 })

/-- The machine in reset: what a reset sets is as after reset, and what the parts and the wiring of the module fix stays (its
core and grid, its memories, windows, host-die ranges and MODCFG), with what its masters and the outside have yet to do. -/
def State.inReset (s : State) : State :=
  { State.reset with
    coreId := s.coreId, gridmap := s.gridmap, mem := s.mem, stepNo := s.stepNo, hostMem := s.hostMem, nvmeWin := s.nvmeWin
    agenda := s.agenda, outside := s.outside
    wings := s.wings.map fun g => { Wing.reset with cxlBytes := g.cxlBytes }
    modl := { Module.reset with modcfg := s.modl.modcfg } }

/-- BOOT_FIRMWARE_CHECK: with a firmware image that fails it, the module stays in reset. -/
def execBootFirmwareCheck (good : Bool) (s : State) : Host.Outcome State Fault Refusal :=
  .next (if good then s else s.inReset.updMod fun m => { m with bootstat := true })

/-! ### Errors and links (R331, R333, R337, R339) -/

/-- A read of ECCSTAT: the counts, which it clears. -/
def State.eccTake (s : State) (w : Nat) : Dword × State :=
  ((s.wing w).eccUnc ++ (s.wing w).eccCorr, s.updWing w fun g => { g with eccCorr := 0, eccUnc := 0 })

/-- ECCSTAT_READ, by a master. -/
def execEccstatRead (wing : BitVec 3) (s : State) : Host.Outcome State Fault Refusal :=
  let r := s.eccTake wing.toNat
  .next { r.2 with hostRead := some r.1 }

/-- A flit that failed: it is replayed, or after 16 failed replays the port goes down. -/
def Wing.flitBad (i : Nat) (g : Wing) : Wing :=
  if !(g.spanUp.getD i false) then g
  else if 16 ≤ g.spanFails.getD i 0 then
    { g with spanUp := updAt g.spanUp i fun _ => false, spanLanes := updAt g.spanLanes i fun _ => 0
             spanFails := updAt g.spanFails i fun _ => 0 }
  else { g with spanReplay := updAt g.spanReplay i fun x => if x = BitVec.allOnes 32 then x else x + 1
                spanFails := updAt g.spanFails i (· + 1) }

/-- A request of a clerk that went out by port `p` is lost. -/
def Unfin.lose (p : Nat) (u : Unfin) : Unfin := if u.done.isNone && u.port = some p then { u with lost := true } else u

def Clerk.lose (p : Nat) (c : Clerk) : Clerk :=
  { c with unfin := c.unfin.map (Unfin.lose p), kept := c.kept.map (Unfin.lose p) }

/-- A request of the fabric that went out by port `p` is lost. -/
def Req.lose (p : Nat) (q : Req) : Req := if q.stage = .waiting && q.port = some p then { q with stage := .lost } else q

/-- The requests in flight by port `p`, also those of pre-empted tasks that stand queued at a peer, are lost: each ends by the
memory timeout (R339). -/
def State.loseBy (s : State) (p : Nat) : State :=
  { (s.updClerk (·.lose p)).updFab fun f => { f with reqs := f.reqs.map (Req.lose p) } with
    shadow := s.shadow.map fun e => (e.1, { e.2 with clerk := e.2.clerk.lose p }) }

/-- SPAN_FLIT_RECEIVE. -/
def execSpanFlitReceive (port : BitVec 5) (good : Bool) (s : State) : Host.Outcome State Fault Refusal :=
  let i := port.toNat % 4
  let w := port.toNat / 4
  let down := !good && 16 ≤ (s.wing w).spanFails.getD i 0
  .next ((if down then s.loseBy port.toNat else s).updWing w fun g =>
    if good then { g with spanFails := updAt g.spanFails i fun _ => 0 } else g.flitBad i)

/-- SPAN_PORT_TRAIN: a port that is present trains; requests that found no port up go out. -/
def execSpanPortTrain (port : BitVec 5) (lanes8 : Bool) (s : State) : Host.Outcome State Fault Refusal :=
  let i := port.toNat % 4
  if !((s.modl.modcfg.getD 8 0).getLsbD port.toNat) then .next s
  else
    let s := s.updWing (port.toNat / 4) fun g => { g with
      spanUp := updAt g.spanUp i fun _ => true, spanLanes := updAt g.spanLanes i fun _ => if lanes8 then 8 else 4
      spanFails := updAt g.spanFails i fun _ => 0 }
    .next (s.updClerk fun c => { c with unfin := c.unfin.map fun u => if u.done.isNone then s.sent u else u }).sendReqs

/-- NI_MESSAGE_SEND: the first message goes when the whole of it stands in the send buffer. -/
def execNiMessageSend (s : State) : Host.Outcome State Fault Refusal :=
  match s.niOut with
  | m :: t =>
    if m.len ≤ m.have_ && m.len ≤ 288 then .next { s with niOut := t, niFlight := s.niFlight ++ [m] } else .next s
  | [] => .next s

/-- NI_MESSAGE_DELIVER: a message that has come whole is delivered. -/
def execNiMessageDeliver (s : State) : Host.Outcome State Fault Refusal :=
  match s.niFlight with
  | m :: t =>
    if m.len ≤ m.have_ then .next { s with niFlight := t, niIn := s.niIn ++ [m], niGot := s.niGot + 1 } else .next s
  | [] => .next s

/-! ### Control registers: reading (R21, R22) -/

/-- Where a control offset lies: the module block, a wing's registers, a core's block, or in none of these. -/
inductive CtrlAt where
  | modl (o : Nat)
  | wing (w o : Nat)
  | core (c o : Nat)
  | none
  deriving DecidableEq, Repr

def ctrlAt (off : Nat) : CtrlAt :=
  let b := off / 0x1000_0000
  let r := off % 0x1000_0000
  if b == 0 then .modl r
  else if r < 0x80_0000 then .wing (b - 1) r
  else if r / 0x80_0000 ≤ 20 then .core (20 * (b - 1) + (r / 0x80_0000 - 1)) (r % 0x80_0000)
  else .none

/-- OWNSTAT. -/
def Module.ownstat (m : Module) : Nat :=
  b2n m.ownErr * 2 ^ 8 + m.ownPend.toNat * 2 ^ 4 + match m.owner with
    | some x => 8 + x.toNat
    | none => 0

/-- A register of the module block as read. -/
def State.modlReg (s : State) (o : Nat) : Nat :=
  let m := s.modl
  if 0x180 ≤ o && o ≤ 0x1C0 then (m.modcfg.getD ((o - 0x180) / 8) 0).toNat
  else if 0x200 ≤ o && o < 0x280 then (s.partcur ((o - 0x200) / 8)).word
  else if 0x280 ≤ o && o < 0x300 then (m.ptvec.getD ((o - 0x280) / 8) 0).toNat
  else if 0x1000 ≤ o && o < 0x1020 then ofBytes ((m.nonce.drop (o - 0x1000)).take 8)
  else match o with
    | 0x000 => m.ctxtab.toNat
    | 0x108 => b2n m.xinvErr * 2 + b2n m.xinvBusy
    | 0x110 => m.killCtx.toNat * 2 ^ 52 + b2n m.killErr * 4 + b2n m.killDone * 2
    | 0x118 => m.savetab.toNat
    | 0x150 => m.ownstat
    | 0x160 => m.pwrlim.toNat
    | 0x170 => b2n m.bootstat
    | 0x1020 => m.attDest
    | 0x1048 => m.attDone.toNat
    | _ => 0

/-- A wing's register as read. -/
def State.wingReg (s : State) (w o : Nat) : Nat :=
  let g := s.wing w
  if 0x100 ≤ o && o < 0x120 then
    let i := (o - 0x100) / 8
    (g.spanReplay.getD i 0).toNat * 2 ^ 32 + (g.spanLanes.getD i 0).toNat * 16 + b2n (g.spanUp.getD i false)
  else match o with
    | 0x08 => g.launchst.toNat
    | 0x10 => g.quantum.toNat * 2 ^ 32 + g.period.toNat
    | 0x18 => g.ptimeout.toNat
    | 0x20 => g.partmap0.toNat
    | 0x28 => g.partmap1.toNat
    | 0x40 => g.faultlog.toNat
    | 0x48 => g.fheadDrop.toNat * 2 ^ 32 + g.fheadCount.toNat
    | 0x50 => g.faulttail.toNat
    | 0x80 => g.eccUnc.toNat * 2 ^ 32 + g.eccCorr.toNat
    | 0x88 => g.eccaddr.toNat
    | 0x90 => (g.wpwrReq.getD g.wpwr).toNat
    | _ => 0

/-- A word of the watchpoints, at its offset in the core's block, as read. -/
def watchReg (ws : List Watch) (o : Nat) : Nat :=
  let w := ws.getD ((o - 0xC00) / 16) ⟨0, 0⟩
  if o % 16 == 0 then w.base.toNat else w.ctl.toNat

/-- A word of the watchpoints given a value; reserved bits are dropped. -/
def watchPut (ws : List Watch) (o v : Nat) : List Watch :=
  updAt ws ((o - 0xC00) / 16) fun w =>
    if o % 16 == 0 then { w with base := BitVec.ofNat 64 (bitsOf v 47 4 * 16) }
    else { w with ctl := BitVec.ofNat 64 (v % 2 ^ 21) }

/-- A field of WDCFG given a value: one out of range leaves it (R330). -/
def wdField (cur v : Nat) : Nat := if 16 ≤ v && v ≤ 40 then v else cur

/-- A register of the modelled core's block as read. -/
def State.coreReg (s : State) (o : Nat) : Nat :=
  if 0x400 ≤ o && o < 0x500 then s.ceReg ((o - 0x400) / 0x80) ((o - 0x400) % 0x80)
  else if 0x800 ≤ o && o < 0xA00 then s.portReg ((o - 0x800) / 0x20) ((o - 0x800) % 0x20)
  else if 0xC00 ≤ o && o < 0xC40 then watchReg s.core.watches o
  else if 0x1000 ≤ o && o < 0x1200 then (s.page ((o - 0x1000) / 8)).word
  else match o with
    | 0x200 => s.tagcfg.toNat
    | 0x300 => s.gridmap.toNat
    | 0xA00 => b2n (s.me 0).sealed
    | 0xA08 => b2n (s.me 1).sealed
    | 0xA10 => b2n s.core.tmu.sealed
    | 0xB00 => s.core.mto * 2 ^ 8 + s.core.wdg
    | 0x1_0000 => b2n (s.core.clerk.run = .doubleHalt)
    | _ => 0

/-- A unit of a core shows its work at an offset of the core's block. -/
def coreHas (o : Nat) : Bool :=
  (0x400 ≤ o && o < 0x500 && [0x00, 0x10, 0x18, 0x20].contains ((o - 0x400) % 0x80)) ||
    (0x800 ≤ o && o < 0xA00 && (o - 0x800) % 0x20 != 0x18) || [0xA00, 0xA08, 0xA10, 0x1_0000].contains o

/-- A register of another core as read: the model holds its CPDESC, GRIDMAP, TAGCFG, watchpoints and WDCFG; what its units
show of their work has free values. Log 84. -/
def State.farReg (s : State) (c o : Nat) : Nat :=
  let f := s.farCore c
  if 0x1000 ≤ o && o < 0x1200 then (s.pageAt c ((o - 0x1000) / 8)).word
  else if 0xC00 ≤ o && o < 0xC40 then watchReg f.watches o
  else if o == 0x200 then f.tagcfg.toNat
  else if o == 0xB00 then f.mto * 2 ^ 8 + f.wdg
  else if o == 0x300 then s.mapOf c
  else if coreHas o then (Config.otherCoreReg s.stepNo).toNat
  else 0

/-- The 64-bit register at a control offset, a multiple of 8; an unimplemented one reads zero. -/
def State.ctrlReg (s : State) (off : Nat) : Nat :=
  match ctrlAt off with
  | .modl o => s.modlReg o
  | .wing w o => if s.hasWing w then s.wingReg w o else 0
  | .core c o => if c == s.coreId then s.coreReg o else if s.hasCore c then s.farReg c o else 0
  | .none => 0

/-- What reading a register does beside: LAUNCHST and ECCSTAT are cleared. -/
def State.ctrlReadEffect (s : State) (off : Nat) : State :=
  match ctrlAt off with
  | .wing w 0x08 => (s.launchstTake w).2
  | .wing w 0x80 => (s.eccTake w).2
  | _ => s

/-- A load of `n` bytes, 4 or 8, from the control region. -/
def State.ctrlRead (s : State) (off n : Nat) : Nat × State :=
  let base := off / 8 * 8
  (s.ctrlReg base / 2 ^ (8 * (off % 8)) % 2 ^ (8 * n), s.ctrlReadEffect base)

/-! ### Control registers: writing -/

/-- The value a store gives a register: a 4-byte store keeps the other half of a stored field, and gives zero for
that of a register that acts when written. Log 18. -/
def merged (cur off n v : Nat) : Nat :=
  if n == 8 then v % 2 ^ 64 else setBits cur (8 * (off % 8) + 31) (8 * (off % 8)) (v % 2 ^ 32)

/-- A store to a register of the module block. -/
def State.modlWrite (s : State) (o : Nat) (full : Nat → Nat) : State :=
  let cur := s.modlReg o
  let st := full cur
  let act := full 0
  if 0x200 ≤ o && o < 0x280 then s.partcurWrite ((o - 0x200) / 8) (BitVec.ofNat 64 act)
  else if 0x280 ≤ o && o < 0x300 then
    s.updMod fun m => { m with ptvec := updAt m.ptvec ((o - 0x280) / 8) fun _ => BitVec.ofNat 64 (bitsOf st 47 2 * 4) }
  else if 0x1000 ≤ o && o < 0x1020 then
    s.updMod fun m => { m with nonce := m.nonce.take (o - 0x1000) ++ toBytes st 8 ++ m.nonce.drop (o - 0x1000 + 8) }
  else match o with
    | 0x000 => s.updMod fun m => { m with ctxtab := BitVec.ofNat 64 (bitsOf st 51 16 * 2 ^ 16) }
    | 0x100 => s.xinv act
    | 0x108 => if bitOf act 1 then s.updMod fun m => { m with xinvErr := false } else s
    | 0x110 =>
      let s := if bitOf act 2 then s.updMod fun m => { m with killErr := false } else s
      let ctx : BitVec 12 := BitVec.ofNat 12 (bitsOf act 63 52)
      if bitOf act 0 then s.ctxkill ctx
      else if s.modl.killDone && !bitOf act 2 then s.updMod fun m => { m with killCtx := ctx } else s
    | 0x118 => s.updMod fun m => { m with savetab := BitVec.ofNat 64 (bitsOf st 51 11 * 2 ^ 11) }
    | 0x160 =>
      let w := bitsOf st 15 0
      if 500 ≤ w && w ≤ 3000 then s.updMod fun m => { m with pwrlim := BitVec.ofNat 16 w } else s
    | 0x1020 => s.updMod fun m => { m with attDest := st }
    | 0x1040 => if act == 1 then s.attestGo else s
    | _ => s

/-- A store to a wing's register; `part` is the writing clerk's partition, none for a master. -/
def State.wingWrite (s : State) (w o : Nat) (full : Nat → Nat) (part : Option (BitVec 4)) : State :=
  let st := full (s.wingReg w o)
  let act := BitVec.ofNat 64 (full 0)
  match o with
  | 0x00 => s.launchWrite w act
  | 0x10 => s.deskctl w (BitVec.ofNat 64 st)
  | 0x18 =>
    if st / 2 ^ 16 != 0 || st == 0 then s else s.updWing w fun g => { g with ptimeout := BitVec.ofNat 16 st }
  | 0x20 => s.updWing w fun g => { g with partmap0 := BitVec.ofNat 64 st }
  | 0x28 => s.updWing w fun g => { g with partmap1 := BitVec.ofNat 64 (st % 2 ^ 16) }
  | 0x30 => s.faultend w act part
  | 0x40 => s.updWing w fun g => { g with faultlog := BitVec.ofNat 64 (bitsOf st 51 6 * 2 ^ 6 + st % 16) }
  | 0x50 => s.updWing w fun g => { g with faulttail := BitVec.ofNat 32 st }
  | 0x90 => s.updWing w fun g => { g with wpwrReq := some (BitVec.ofNat 2 st) }
  | _ => s

/-- A store to a register of the modelled core's block. -/
def State.coreWrite (s : State) (o va : Nat) (full : Nat → Nat) : Got Unit :=
  let st := full (s.coreReg o)
  let act := full 0
  let sealBit (f : State) : Got Unit := if act == 1 then .ok () f else .ok () s
  if 0x400 ≤ o && o < 0x500 then
    let e := (o - 0x400) / 0x80
    match (o - 0x400) % 0x80 with
    | 0x00 => match s.ceStart e act with
      | .ok t => .ok () t
      | .error f => .fail f.cause va 0 s
    | 0x08 => .ok () (s.ceCtl e act)
    | _ => .ok () s
  else if 0x800 ≤ o && o < 0xA00 then
    if (o - 0x800) % 0x20 == 0x18 then
      sealBit (s.updPort ((o - 0x800) / 0x20) fun q => { q with sealed := false })
    else .ok () s
  else if 0xC00 ≤ o && o < 0xC40 then
    .ok () (s.updCore fun c => { c with watches := watchPut c.watches o st })
  else if 0x1000 ≤ o && o < 0x1200 then
    let t := (o - 0x1000) / 8
    if (s.page t).lock then .wait s
    else match s.cpdescWrite s.coreId t st with
      | some t => .ok () t
      | none => .fail 5 va 10 s
  else match o with
    | 0x200 => match s.tagcfgSet (BitVec.ofNat 64 st) with
      | some t => .ok () t
      | none => .fail 5 va 10 s
    | 0xA00 => sealBit (s.updMe 0 fun m => { m with sealed := false })
    | 0xA08 => sealBit (s.updMe 1 fun m => { m with sealed := false })
    | 0xA10 => sealBit (s.updTmu fun t => { t with sealed := false })
    | 0xB00 =>
      .ok () (s.updCore fun c => { c with mto := wdField c.mto (bitsOf st 12 8), wdg := wdField c.wdg (bitsOf st 4 0) })
    | 0x1_0000 => .ok () (if bitOf act 0 then s.clearCore else s)
    | _ => .ok () s

/-- A store to a register of another core: its pages and stored registers are held here, and CORERST frees it; what else the
core does is not seen (log 2). -/
def State.farWrite (s : State) (c o va : Nat) (full : Nat → Nat) : Got Unit :=
  let st := full (s.farReg c o)
  if 0x1000 ≤ o && o < 0x1200 then
    let t := (o - 0x1000) / 8
    match s.cpdescWrite c t st with
    | some t => .ok () t
    | none => .fail 5 va 10 s
  else if 0xC00 ≤ o && o < 0xC40 then .ok () (s.updFar c fun f => { f with watches := watchPut f.watches o st })
  else if o == 0x200 then
    if tagcfgBad st then .fail 5 va 10 s else .ok () (s.updFar c fun f => { f with tagcfg := BitVec.ofNat 64 st })
  else if o == 0xB00 then
    .ok () (s.updFar c fun f => { f with mto := wdField f.mto (bitsOf st 12 8), wdg := wdField f.wdg (bitsOf st 4 0) })
  else if o == 0x1_0000 && bitOf (full 0) 0 then .ok () (s.freeCore c)
  else .ok () s

/-- A store of `n` bytes, 4 or 8, to the control region; one to an unimplemented offset is ignored. -/
def State.ctrlWrite (s : State) (off n v : Nat) (part : Option (BitVec 4)) : Got Unit :=
  let base := off / 8 * 8
  let full (cur : Nat) : Nat := merged cur off n v
  match ctrlAt base with
  | .modl o => .ok () (s.modlWrite o full)
  | .wing w o => .ok () (if s.hasWing w then s.wingWrite w o full part else s)
  | .core c o =>
    if c == s.coreId then s.coreWrite o (0xF000_0000_0000 + off) full
    else if s.hasCore c then s.farWrite c o (0xF000_0000_0000 + off) full
    else .ok () s
  | .none => .ok () s

/-- The state after a write that no clerk made. -/
def Got.state {α : Type} (g : Got α) (s : State) : State :=
  match g with
  | .ok _ t => t
  | _ => s

/-- CONTROL_REGISTER_WRITE, by the owner. -/
def execControlRegisterWrite (off : Nat) (wide : Bool) (v : Dword) (s : State) : Host.Outcome State Fault Refusal :=
  .next ((s.ctrlWrite off (if wide then 8 else 4) v.toNat none).state s)

/-! ### Requests of masters (R103, R335) -/

/-- A master's write to a control register: OWNREQ by any master, OWNPASS with its own rule, others by the owner. -/
def State.masterWrite (s : State) (m : BitVec 2) (off n : Nat) (v : Nat) : State :=
  if off % n != 0 then s
  else if off / 8 * 8 == 0x140 then s.ownreqWrite m (merged 0 off n v)
  else if off / 8 * 8 == 0x148 then s.ownpassWrite m (BitVec.ofNat 4 (merged 0 off n v))
  else if s.modl.owner = some m then (s.ctrlWrite off n v none).state s
  else s

/-- An access of the host die in a context. -/
def hostAcc (k : AccKind) (n : Nat) : Acc := ⟨.fabric, k, n, false⟩

/-- The place of a host access; it waits for a page walk or for a Span port. -/
def State.hostPlace (s : State) (ctx : BitVec 12) (k : AccKind) (va n : Nat) : Got Place :=
  if va % n != 0 then .fail 3 va 0 s
  else if s.walkHeld ctx va then .wait s
  else match s.resolve ctx (hostAcc k n) va with
    | .error f => f.got s
    | .ok r => if s.reaches ctx r.pl va then .ok r.pl s else .wait s

/-- A host read of memory: the value returns, or none where it is refused. -/
def State.hostLoad (s : State) (ctx : BitVec 12) (va n : Nat) : State :=
  let g : Got Nat := match s.hostPlace ctx .load va n with
    | .ok pl s => s.placeRead pl va n
    | .wait s => .wait s
    | .stall a r l s => .stall a r l s
    | .fail c a d s => .fail c a d s
  match g with
  | .ok v t => { t with hostRead := some (BitVec.ofNat 64 v) }
  | .wait _ => s
  | .stall _ _ _ t => { t with hostRead := none }
  | .fail _ _ _ t => { t with hostRead := none }

/-- A host write of memory; one that is refused changes nothing. -/
def State.hostStore (s : State) (ctx : BitVec 12) (va n v : Nat) : State :=
  match s.hostPlace ctx .store va n with
  | .ok pl s => match s.placeWrite pl va n (v % 2 ^ (8 * n)) with
    | .ok _ t => t
    | .fail _ _ _ t => t
    | _ => s
  | _ => s

/-- HOST_REQUEST: performed in the order sent. Reads of the control region are always allowed (R335); a module whose firmware
failed its check stays in reset and does nothing else. Log 62 (DEDUCED). -/
def execHostRequest (q : HostReq) (s : State) : Host.Outcome State Fault Refusal :=
  .next (match q with
    | .readCtrl _ off wide =>
      let r := s.ctrlRead off (if wide then 8 else 4)
      { r.2 with hostRead := some (BitVec.ofNat 64 r.1) }
    | .writeCtrl m off wide v => if s.modl.bootstat then s else s.masterWrite m off (if wide then 8 else 4) v.toNat
    | .readMem ctx va n => if s.modl.bootstat then s else s.hostLoad ctx va n
    | .writeMem ctx va n v => if s.modl.bootstat then s else s.hostStore ctx va n v.toNat)

end Sys2Proof.Machine
end

