-- ==== Sys2Proof/Machine/Sync.lean ====
section
/-! DEFINITION. Synchronisation objects, bindings, cohorts and loans (R237 to R243); fences. -/

namespace Sys2Proof.Machine

/-- ACQ (R238). -/
def execAcq (d a : Reg) (s : State) : Host.Outcome State Fault Refusal :=
  .next ((s.advance 4).issueAcquire (s.src (.acq d a) d) true (s.reg a).toNat)

/-- ACQS (R238). -/
def execAcqs (d a : Reg) (s : State) : Host.Outcome State Fault Refusal :=
  .next ((s.advance 4).issueAcquire (s.src (.acqs d a) d) false (s.reg a).toNat)

/-- REL (R239). -/
def execRel (a : Reg) (s : State) : Host.Outcome State Fault Refusal :=
  .next ((s.advance 4).issueRelease (s.src (.rel a) 0) (s.reg a).toNat)

/-- BIND (R240). -/
def execBind (d a b : Reg) (s : State) : Host.Outcome State Fault Refusal :=
  .next ((s.advance 4).issueBind (s.src (.bind d a b) d) (s.reg d).toNat (s.reg a).toNat (s.reg b).toNat)

/-- UNBIND (R240). -/
def execUnbind (d a : Reg) (s : State) : Host.Outcome State Fault Refusal :=
  .next ((s.advance 4).issueUnbind (s.src (.unbind d a) d) (s.reg a).toNat)

/-- WAITW (R241). -/
def execWaitw (d a b : Reg) (s : State) : Host.Outcome State Fault Refusal :=
  .next ((s.advance 4).issueWaitw (s.src (.waitw d a b) d) (s.reg a).toNat (s.reg b))

/-- JOIN (R242). -/
def execJoin (d a b : Reg) (s : State) : Host.Outcome State Fault Refusal :=
  .next ((s.advance 4).issueJoin (s.src (.join d a b) d) (s.reg a).toNat (s.reg b).toNat)

/-- A `join` of the clerk has issued and not reached the desk: what asks for the membership waits for it. -/
def Clerk.joinIssued (c : Clerk) : Bool :=
  c.unfin.any fun u => u.done.isNone && (match u.work with
    | .join _ .issued => true
    | _ => false)

/-- LEAVE (R141, R242). The leaver's own `join` that still waits never returns: it is finished, and its destination stays
empty. Log 110 (DESIGN CHOICE). -/
def execLeave (s : State) : Host.Outcome State Fault Refusal :=
  match s.task with
  | none => .next s
  | some k =>
    if s.core.clerk.joinIssued then .next s
    else match s.cohortOf k with
    | some h =>
      let s := s.updClerk fun c => { c with unfin := c.unfin.filter fun u => !u.waitsIn h.id }
      .next ((s.leaveCohort k).advance 4)
    | none => .next (s.trapInstr .leave 0 0 0 ⟨0x08, s.core.clerk.pc.toNat, 0⟩)

/-- Whether every current member of a cohort has issued its `n`-th `cbar`. -/
def Cohort.arrived (h : Cohort) (n : Nat) : Bool := h.members.all fun m => n ≤ m.cbars

/-- CBAR (R142, R242): the member's arrival is counted once, when its earlier accesses are performed (R99); the
clerk goes on when every member has arrived. -/
def execCbar (s : State) : Host.Outcome State Fault Refusal :=
  match s.task with
  | none => .next s
  | some k =>
    if s.core.clerk.joinIssued then .next s
    else match s.cohortOf k with
    | none => .next (s.trapInstr .cbar 0 0 0 ⟨0x08, s.core.clerk.pc.toNat, 0⟩)
    | some h =>
      if !s.allPerformed then .next s
      else
        let upd (f : Member → Member) (s : State) : State :=
          s.updCohort h.ctx h.id fun h => { h with members := h.members.map fun m => if m.key = k then f m else m }
        let s := upd (fun m => { m with cbars := m.passed + 1 }) s
        match s.cohortOf k with
        | none => .next s
        | some h =>
          let n := match h.members.find? fun m => m.key = k with
            | some m => m.cbars
            | none => 0
          if h.arrived n then .next ((upd (fun m => { m with passed := m.cbars }) s).advance 4)
          else .next s

/-- LOAN (R118, R243). -/
def execLoan (d a b : Reg) (s : State) : Host.Outcome State Fault Refusal :=
  .next ((s.advance 4).issueLoan (s.src (.loan d a b) d) (s.reg a).toNat (s.reg b).toNat)

/-- LSTAT (R128, R243). -/
def execLstat (d a : Reg) (s : State) : Host.Outcome State Fault Refusal :=
  .next ((s.advance 4).issueLstat (s.src (.lstat d a) d) (s.reg a).toNat)

/-- FENCE (R109, R237): one copy of every byte is kept (R93), so that an access performed at its home is
performed with respect to every party, whatever the scope. -/
def execFence (_scope : Scope) (s : State) : Host.Outcome State Fault Refusal :=
  if s.allPerformed then .next (s.advance 4) else .next s

/-- SPAWN (R244). -/
def execSpawn (d a : Reg) (s : State) : Host.Outcome State Fault Refusal :=
  .next ((s.advance 4).issueSpawn (s.src (.spawn d a) d) (s.reg a).toNat)

/-- ARM (R245). -/
def execArm (d a b : Reg) (s : State) : Host.Outcome State Fault Refusal :=
  .next ((s.advance 4).issueArm (s.src (.arm d a b) d) (s.reg a).toNat (s.reg b))

/-- RLS (R245). -/
def execRls (d a : Reg) (s : State) : Host.Outcome State Fault Refusal :=
  .next ((s.advance 4).issueRls (s.src (.rls d a) d) (s.reg a).toNat)

/-- TSELF (R247). -/
def execTself (d : Reg) (s : State) : Host.Outcome State Fault Refusal :=
  let v := match s.task with
    | some k => BitVec.ofNat 64 k.tcb
    | none => 0
  .next ((s.advance 4).pushDone (s.src (.tself d) d) 0 0 0 v)

/-- TAGE (R247). -/
def execTage (d : Reg) (s : State) : Host.Outcome State Fault Refusal :=
  let v := match s.task with
    | some k => BitVec.ofNat 64 (s.tcbWord5 k)
    | none => 0
  .next ((s.advance 4).pushDone (s.src (.tage d) d) 0 0 0 v)

/-- TLOOK (R41, R248). -/
def execTlook (d a : Reg) (s : State) : Host.Outcome State Fault Refusal :=
  .next ((s.advance 4).issueTag (s.src (.tlook d a) d) .look (s.reg a).toNat)

/-- TINS (R41, R248). -/
def execTins (d a : Reg) (s : State) : Host.Outcome State Fault Refusal :=
  .next ((s.advance 4).issueTag (s.src (.tins d a) d) .ins (s.reg a).toNat)

/-- TDEL (R41, R248). -/
def execTdel (d a : Reg) (s : State) : Host.Outcome State Fault Refusal :=
  .next ((s.advance 4).issueTag (s.src (.tdel d a) d) .del (s.reg a).toNat)

/-- XBANK (R54, R249). -/
def execXbank (a b : Reg) (s : State) : Host.Outcome State Fault Refusal :=
  .next ((s.advance 4).issueXbank (s.src (.xbank a b) 0) (s.reg a) (s.reg b))

end Sys2Proof.Machine
end

