-- ==== Sys2Proof/Machine/Access.lean ====
section
/-! DEFINITION. Accesses performed at their homes: those of the clerk (R93, R116, R200, R230 to R249), those of the
fabric (R37, R49, R110), and the timeouts of R330. -/

namespace Sys2Proof.Machine

/-! ### Which step an access goes on by -/

/-- The step that performs an access at a place: a block of a bank, a tile of a compressed page, or any other
home. -/
def placeStep (r : ReqRef) (pl : Place) : Instr :=
  match pl with
  | .bank _ _ => .bankAccess r
  | .page _ _ _ => .compressedTileAccess r
  | _ => .accessPerform r

/-- The step by which the clerk's `k`-th unfinished instruction goes on. -/
def unfinStep (k : Nat) (u : Unfin) : Option Instr :=
  match u.done with
  | some _ => some (.asyncResultWrite k)
  | none =>
    if u.unchecked then some (.accessPerform (.clerk k))
    else match u.work with
    | .load _ pl => some (placeStep (.clerk k) pl)
    | .loadK pl => some (placeStep (.clerk k) pl)
    | .store _ pl _ => some (placeStep (.clerk k) pl)
    | .atomic _ _ _ _ _ => some (.atomicPerform (.clerk k))
    | .waitw _ _ => some (.accessPerform (.clerk k))
    | .acquire _ _ queued => if queued then none else some (.objectRequest (.own k))
    | .release _ => some (.objectRelease (.own k))
    | .tag .del _ => some (.tdelPerform k)
    | .tag _ _ => some (.accessPerform (.clerk k))
    | .bind _ _ _ => some (.accessPerform (.clerk k))
    | .unbind _ => some (.accessPerform (.clerk k))
    | .xbank _ => some (.bankTransform (.clerk k))
    | .hwait _ => some (.asyncResultWrite k)
    | .spawn _ => some (.accessPerform (.clerk k))
    | .arm _ _ _ => some (.atomicPerform (.clerk k))
    | .rls _ _ => some (.atomicPerform (.clerk k))
    | .join _ .issued => some (.accessPerform (.clerk k))
    | .join _ .waits => none
    | .join _ .refused => some (.asyncResultWrite k)
    | .result _ => some (.asyncResultWrite k)

/-- The step by which a request of the fabric goes on, while it is not performed. -/
def State.reqStep (s : State) (k : Nat) (q : Req) : Option Instr :=
  if q.stage ≠ .waiting then none
  else match q.kind with
    | .xf => some (.bankTransform (.fabric k))
    | .atomic _ => some (.atomicPerform (.fabric k))
    | .const => none
    | .none => none
    | _ => match s.reqPlace q with
      | some pl => some (placeStep (.fabric k) pl)
      | none => some (.accessPerform (.fabric k))

/-! ### Results (R200) -/

def State.unfin (s : State) (k : Nat) : Option Unfin := s.core.clerk.unfin[k]?

/-- A result written and its instruction finished. -/
def State.writeResult (s : State) (k : Nat) (u : Unfin) (v : Qword) : State :=
  s.updClerk fun c => Clerk.complete { c with unfin := c.unfin.eraseIdx k } u v

/-- ASYNC_RESULT_WRITE. A waiting `hwait` makes its claim when its handle is FULL, and returns too when it is
DRAINING (R89, R253). A waiting `join` whose id has formed with another count traps (R140). -/
def execAsyncResultWrite (k : Nat) (s : State) : Host.Outcome State Fault Refusal :=
  match s.unfin k with
  | none => .next s
  | some u =>
    match u.done, u.work with
    | some v, _ => .next (s.writeResult k u v)
    | none, .hwait h =>
      let e := s.handle h
      if s.mayPerform k && (e.st = .full || e.st = .draining) then
        .next ((s.updHandle h fun e => { e with st := .draining }).writeResult k u (e.result.setWidth 128))
      else .next s
    | none, .join _ .refused => .next (s.trapUnfin k ⟨0x08, u.pc.toNat, 0⟩)
    | none, _ => .next s

/-- ASYNC_TRAP. A clerk that has ended its task by FAULTEND takes no trap any more (R347). -/
def execAsyncTrap (s : State) : Host.Outcome State Fault Refusal :=
  .next (if s.task.isSome && !s.clerkGated && !s.endsItself && s.asyncReady then s.takeAsync else s)

/-- WFE_WAKE. -/
def execWfeWake (s : State) : Host.Outcome State Fault Refusal :=
  .next (if s.core.clerk.run = .wfe && s.core.clerk.wfeEvent then
    s.updClerk Clerk.woken
  else s)

/-- DEBUG_INTERFACE_RESUME: the clerk issues again after its `halt`. -/
def execDebugInterfaceResume (s : State) : Host.Outcome State Fault Refusal :=
  .next (if s.core.clerk.run = .halted then s.updClerk fun c => { c with run := .running } else s)

/-! ### The clerk's accesses -/

/-- The window of a sibling's core that an access was let into at its issue has closed (R143). -/
def State.windowShut (s : State) (pl : Place) : Bool :=
  match pl with
  | .bank c _ => c != s.coreId && s.taskMode && !s.cohortOpen c
  | _ => false

/-- An access looks at the sibling's window when it is performed, too (R143), and at V of a compressed page (R45); one that
was waiting for a loan at its issue passes checks 6 to 8 of R232 before it is performed (R120), and one that issued behind a
waiting first touch meets the discipline of R126 then. -/
def State.atHome (s : State) (k : Nat) (u : Unfin) (kind : AccKind) (n : Nat) (pl : Place) (act : State → State) :
    State :=
  if s.windowShut pl then s.trapUnfin k ⟨0x18, u.ea, 0⟩
  else if s.pageShut pl then s.trapUnfin k (reasonFlt u.ea 10 3)
  else match s.touch s.taskMode u.canon n u.ea kind (s.freePlace pl || !u.behind) with
  | .fault f t => t.trapUnfin k f
  | .stall f t => t.trapUnfin k f
  | .wait t => t
  | .ok t =>
    match t.watchHit kind.sel u.canon n with
    | some w => t.trapUnfin k ⟨0x11, u.ea, w⟩
    | none =>
      if kind.writes then
        match t.undoLog [(u.canon, n)] u.ea with
        | .error f => t.trapUnfin k f
        | .ok t => act t
      else act t

/-- What performing an access came to: a fault at the home is reported by R231. -/
def State.homeGot {α : Type} (s : State) (k : Nat) (u : Unfin) (g : Got α) (f : α → State → State) : State :=
  match g with
  | .ok v t => f v t
  | .wait t => t
  | .stall va r l _ => s.trapUnfin k (reasonFlt va r l)
  | .fail c a d t =>
    if c == 5 then s.trapUnfin k (reasonFlt u.ea 10 0)
    else if c == 0x17 then t.trapUnfin k ⟨c, u.ea, 0⟩
    else s.trapUnfin k ⟨c, a, d⟩

/-- One unperformed store of the clerk holds every byte of a load: it needs no home (R233). -/
def State.covered (s : State) (before : List Unfin) (u : Unfin) : Bool :=
  before.any fun e => e.done.isNone && e.work.seen && rangeIn (u.work.range s) (e.work.range s)

/-- A load's bytes given to its instruction, those of the clerk's own unperformed stores among them (R233). -/
def State.loadAtHome (s : State) (k : Nat) (u : Unfin) (pl : Place) (n : Nat) (ext : Nat → Qword) : State :=
  s.atHome k u .load n pl fun s =>
    let before := s.core.clerk.unfin.take k
    let seen (s : State) (v : Nat) : State := s.finishUnfin k (ext (overlay s before (pl.key s) n v))
    match pl with
    | .ctrl off =>
      let r := s.ctrlRead off n
      r.2.finishUnfin k (ext r.1)
    | _ => if s.covered before u then seen s 0 else s.homeGot k u (s.placeRead pl u.ea n) fun v s => seen s v

/-- A store performed: its instruction has finished. -/
def State.storeAtHome (s : State) (k : Nat) (u : Unfin) (pl : Place) (n v : Nat) : State :=
  s.atHome k u .store n pl fun s =>
    match pl with
    | .ctrl off =>
      match (s.dropUnfin k).ctrlWrite off n v (some (BitVec.ofNat 4 (s.corePart s.coreId))) with
      | .ok _ t => t
      | .wait _ => s
      | .stall _ _ _ _ => s
      | .fail c a d _ => s.trapUnfin k ⟨c, a, d⟩
    | _ => s.homeGot k u (s.placeWrite pl u.ea n v) fun _ s => s.dropUnfin k

/-- An atomic's new value on `n` bytes, none where nothing is written, and its flags (R235). -/
def amoValue (op : AtomicOp) (n old b c : Nat) : Option Nat × FFlags :=
  let m := 2 ^ (8 * n)
  let b := b % m
  match op with
  | .add => (some ((old + b) % m), 0)
  | .and => (some (old &&& b), 0)
  | .or => (some (old ||| b), 0)
  | .xor => (some (old ^^^ b), 0)
  | .min => (some (if signedOf (8 * n) b < signedOf (8 * n) old then b else old), 0)
  | .max => (some (if signedOf (8 * n) old < signedOf (8 * n) b then b else old), 0)
  | .minu => (some (min old b), 0)
  | .maxu => (some (max old b), 0)
  | .swap => (some b, 0)
  | .cas => (if old = c % m then some b else none, 0)
  | .fadd =>
    let r := fAdd fp32 .rne old b
    (some r.1, r.2)

/-- A read and a write of one place that nothing comes between (R116): the value found, with the flags above it. -/
def State.amo (s : State) (pl : Place) (va n : Nat) (op : AtomicOp) (b c : Nat) : Got Nat :=
  if pl.plain && s.objProtected (pl.key s) n then .fail 5 va 0 s
  else match s.placeRead pl va n with
    | .ok old t =>
      let r := amoValue op n old b c
      let v := r.2.toNat * 2 ^ 64 + old
      match r.1 with
      | none => .ok v t
      | some x =>
        match t.placeWrite pl va n x with
        | .ok _ t => .ok v t
        | .wait t => .wait t
        | .stall a r l t => .stall a r l t
        | .fail c a d t => .fail c a d t
    | g => g

/-- An atomic at this core's banks that the skid of a watchpoint holds back until the pending 0x11 has been taken: one of
any party (R332). -/
def State.skidWaits (s : State) (pl : Place) : Bool :=
  match pl with
  | .bank c off => c == s.coreId && s.skidHeld (bankOf off)
  | _ => false

def State.atomicAtHome (s : State) (k : Nat) (u : Unfin) (op : AtomicOp) (pl : Place) (b c : Dword) (n : Nat) : State :=
  if s.skidWaits pl then s
  else s.atHome k u .atomic n pl fun s =>
    s.homeGot k u (s.amo pl u.ea n op b.toNat c.toNat) fun v s =>
      (match pl with
        | .bank c off => if c == s.coreId then s.watchAtomic off u.ea n else s
        | _ => s).finishUnfin k (BitVec.ofNat 128 v)

/-- `waitw`: the word is compared when the request arrives; `State.stored` compares it after every store (R241). -/
def State.waitAtHome (s : State) (k : Nat) (u : Unfin) (pl : Place) (v : Word) : State :=
  if s.windowShut pl then s.trapUnfin k ⟨0x18, u.ea, 0⟩
  else s.homeGot k u (s.placeRead pl u.ea 4) fun x t =>
    if x = v.toNat then t.finishUnfin k (v.setWidth 128) else t

/-- `spawn` of a task that held no borrow at its issue: the checks of R148, the result and the launch; one that issued behind
a first touch that waited is deferred where the task holds a borrow now (R127, R244). -/
def State.spawnAtHome (s : State) (k : Nat) (u : Unfin) (tcb : Nat) : State :=
  match s.task with
  | none => s
  | some t =>
    let key : TaskKey := ⟨s.ctx, tcb⟩
    let code := s.launchCode key
    if u.behind && s.borrows t then
      match s.deferSpawn t tcb with
      | .error f => s.trapUnfin k f
      | .ok r => r.2.finishUnfin k (BitVec.ofNat 128 r.1)
    else (if code == 0 then s.launchTask key else s).finishUnfin k (BitVec.ofNat 128 code)

/-- `join` at the desk (R140): a task that is a member already, and one that names another count than the forming cohort's,
trap; one whose id is formed waits for it to dissolve. -/
def State.joinAtDesk (s : State) (k : Nat) (u : Unfin) (id cnt : Nat) : State :=
  match s.task with
  | none => s
  | some t =>
    let refuse := s.trapUnfin k ⟨0x08, u.pc.toNat, 0⟩
    let wait := s.updClerk fun c => { c with unfin := updAt c.unfin k fun u => { u with work := .join id .waits } }
    if (s.cohortOf t).isSome then refuse
    else match s.cohorts.find? fun h => h.ctx = s.taskCtx t && h.id == id with
      | some h =>
        if h.formed then wait
        else if h.count != cnt then refuse
        else wait.joinCohort t s.coreId id cnt true
      | none => wait.joinCohort t s.coreId id cnt true

/-- An operation that answers at once, with its state and value. -/
def State.answer (k : Nat) (r : Dword × State) : State := r.2.finishUnfin k (r.1.setWidth 128)

/-- A clerk's instruction that was to be checked later is checked, in program order: it issues from its entry, in its place. A
trap that it takes carries what stands behind it in the replay queue (R231, R317). -/
def State.checkUnfin (s : State) (k : Nat) (u : Unfin) : State :=
  let c := s.core.clerk
  let after := c.unfin.drop (k + 1)
  if (c.unfin.take k).any Unfin.setsRules || s.walkHeld s.ctx u.ea then s
  else
    let x : Src := { op := u.op, func := u.func, w1 := u.w1, pc := u.pc, kd := u.kd, dest := u.dest, rpc := s.resumePc
                     rest := (after.filter (·.done.isNone)).map (·.entry false) ++ c.redoEntries, kept := none }
    let alone := s.updClerk fun c => { c with
      unfin := c.unfin.take k, redo := none, latches := c.keptLatches, kept := c.kept ++ { c with unfin := after }.underWay none }
    match alone.reissue x u.ea u.b u.c with
    | none => s
    | some t =>
      if t.core.clerk.run = .doubleHalt || (t.core.clerk.frozen && !c.frozen) then
        t.updClerk fun n => after.foldl (fun n e => match e.done with
          | some v => n.complete e v
          | none => n) n
      else t.updClerk fun n => { n with unfin := n.unfin ++ after, redo := c.redo, latches := c.latches, kept := c.kept }

/-- The clerk's `k`-th unfinished access performed. -/
def State.performClerk (s : State) (k : Nat) : State :=
  match s.unfin k with
  | none => s
  | some u =>
    if u.unchecked then s.checkUnfin k u
    else match u.work with
    | .load w pl => s.loadAtHome k u pl w.bytes fun v => (w.extend v).setWidth 128
    | .loadK pl => s.loadAtHome k u pl 16 (BitVec.ofNat 128)
    | .store n pl v => s.storeAtHome k u pl n v
    | .waitw pl v => s.waitAtHome k u pl v
    | .spawn tcb => s.spawnAtHome k u tcb
    | .join id .issued => s.joinAtDesk k u id u.b.toNat
    | .tag .look a => State.answer k (slotWord (s.tagHit a), s)
    | .tag .ins a => State.answer k (s.tagInsert a)
    | .bind obj base len => if s.walkHeld s.ctx obj then s else State.answer k (s.bindOp obj base len)
    | .unbind base => State.answer k (s.unbindOp base)
    | _ => s

/-- An access to a peer has a Span port to go out by, or has gone out by one (R338); so has the read of a peer object's word by
`unbind`. -/
def State.hasPort (s : State) (u : Unfin) : Bool :=
  u.port.isSome || match u.work, u.work.place with
  | .unbind base, _ => (s.binds.filter fun b => b.ctx = s.ctx && b.base == base).all fun b => s.reaches s.ctx b.home b.obj
  | _, some pl => s.reaches s.ctx pl u.ea
  | _, none => true

/-- Whether the clerk's `k`-th unfinished instruction goes on by this step now. -/
def State.goesOn (s : State) (k : Nat) (i : Instr) : Bool :=
  match s.unfin k with
  | some u => unfinStep k u = some i && (u.unchecked || (s.mayPerform k && s.hasPort u))
  | none => false

/-- Whether the fabric's `k`-th request goes on by this step now. -/
def State.reqGoesOn (s : State) (k : Nat) (i : Instr) : Bool :=
  match s.req k with
  | some q => s.reqStep k q = some i
  | none => false

/-- An access performed by the step that its place asks for. -/
def State.performStep (s : State) (r : ReqRef) (i : Instr) : State :=
  match r with
  | .clerk k => if s.goesOn k i then s.performClerk k else s
  | .fabric k => if s.reqGoesOn k i then s.reqPerform k else s

/-- ACCESS_PERFORM. -/
def execAccessPerform (r : ReqRef) (s : State) : Host.Outcome State Fault Refusal :=
  .next (s.performStep r (.accessPerform r))

/-- BANK_ACCESS: an aligned access lies in one 64-byte block of one bank, which takes it whole (R37). -/
def execBankAccess (r : ReqRef) (s : State) : Host.Outcome State Fault Refusal :=
  .next (s.performStep r (.bankAccess r))

/-- COMPRESSED_TILE_ACCESS. -/
def execCompressedTileAccess (r : ReqRef) (s : State) : Host.Outcome State Fault Refusal :=
  .next (s.performStep r (.compressedTileAccess r))

/-! ### Atomics (R116, R235, R245) -/

/-- `arm`: CNT set in a TCB that is IDLE, ENDED, FAULTED or CANCELLED; the old CNT or −1. -/
def State.armAt (s : State) (pa cnt : Nat) : Dword × State :=
  let w := s.tcbRd pa 3
  let st := bitsOf w 10 8
  if 1 ≤ st && st ≤ 4 then (-1, s) else (BitVec.ofNat 64 (bitsOf w 63 48), s.tcbSet pa 3 63 48 cnt)

/-- `rls`: one decrement of R149; CNT after it, or −1. -/
def State.rlsAt (s : State) (key : TaskKey) (pa : Nat) : Dword × State :=
  let cnt := bitsOf (s.tcbRd pa 3) 63 48
  (if cnt == 0 then -1 else BitVec.ofNat 64 (cnt - 1), s.decrementAt key pa)

/-- The atomic of `arm` or `rls` on word 3 of the TCB at its place: one that issued behind a first touch that waited meets the
discipline of R126 where the task holds a borrow now; a held object's word there is not written (R105), and an
uncorrectable word is reported as by a load (R333). -/
def State.tcbAtHome (s : State) (k : Nat) (u : Unfin) (pl : Place) (act : Nat → Dword × State) : State :=
  let pa := pl.key s
  if u.behind && s.borrowing then s.trapUnfin k ⟨0x0B, u.ea, 0⟩
  else if s.objProtected (pa + 24) 8 then s.trapUnfin k (reasonFlt u.ea 10 0)
  else if s.poisoned (pa + 24) 8 then (s.eccHit (pa + 24)).trapUnfin k ⟨0x17, u.ea, 0⟩
  else
    let r := act pa
    r.2.finishUnfin k (r.1.setWidth 128)

/-- ATOMIC_PERFORM. -/
def execAtomicPerform (r : ReqRef) (s : State) : Host.Outcome State Fault Refusal :=
  match r with
  | .clerk k =>
    if !s.goesOn k (.atomicPerform r) then .next s
    else match s.unfin k with
      | none => .next s
      | some u =>
        match u.work with
        | .atomic op pl b c o => .next (s.atomicAtHome k u op pl b c (if o.wide then 8 else 4))
        | .arm pl _ cnt => .next (s.tcbAtHome k u pl fun pa => s.armAt pa cnt)
        | .rls pl tcb => .next (s.tcbAtHome k u pl fun pa => s.rlsAt (s.keyAt s.ctx tcb pa) pa)
        | _ => .next s
  | .fabric k => .next (if s.reqGoesOn k (.atomicPerform r) then s.reqPerform k else s)

/-! ### Transforms (R56, R249) -/

/-- The clerk's transform performed whole at its bank; one that would write a held object's word is refused (R105). -/
def State.xbankAtHome (s : State) (k : Nat) (u : Unfin) (w : Nat) : State :=
  match s.xfLoans s.taskMode w u.ea with
  | .fault f t => t.trapUnfin k f
  | .stall f t => t.trapUnfin k f
  | .wait t => t
  | .ok t =>
    if t.xfProtected w then t.trapUnfin k (reasonFlt u.ea 10 0)
    else if t.xfPoisoned w then (t.eccHit (scratchKey t.coreId (xfOff w))).trapUnfin k ⟨0x17, u.ea, 0⟩
    else match t.xfPerform w with
      | .error c => t.trapUnfin k ⟨0x08, u.ea, c⟩
      | .ok t => t.dropUnfin k

/-- BANK_TRANSFORM. -/
def execBankTransform (r : ReqRef) (s : State) : Host.Outcome State Fault Refusal :=
  match r with
  | .clerk k =>
    if !s.goesOn k (.bankTransform r) then .next s
    else match s.unfin k with
      | none => .next s
      | some u =>
        match u.work with
        | .xbank w => .next (s.xbankAtHome k u w.toNat)
        | _ => .next s
  | .fabric k => .next (if s.reqGoesOn k (.bankTransform r) then s.reqPerform k else s)

/-! ### Compressed pages and the tag table -/

/-- PAGE_LAYOUT_DONE (R50). -/
def execPageLayoutDone (t : BitVec 6) (s : State) : Host.Outcome State Fault Refusal :=
  .next (s.layoutDone t.toNat)

/-- A `tdel` at the table: with no match −1; with its entry's PIN 0, V is cleared (R41). -/
def State.tdelAt (s : State) (k a : Nat) : State :=
  match s.tagHit a with
  | none => s.finishUnfin k ((-1 : Dword).setWidth 128)
  | some i =>
    if (s.tag i).pin == 0 then
      (s.setTag i { s.tag i with v := false }).finishUnfin k (BitVec.ofNat 128 i)
    else s

/-- TDEL_PERFORM. -/
def execTdelPerform (k : Nat) (s : State) : Host.Outcome State Fault Refusal :=
  if !s.goesOn k (.tdelPerform k) then .next s
  else match s.unfin k with
    | none => .next s
    | some u =>
      match u.work with
      | .tag .del a => .next (s.tdelAt k a)
      | _ => .next s

/-! ### Synchronisation objects (R105, R107, R239) -/

/-- A request that its object's word refuses: MODE 11, or HOLD = 16,383 on a shared request (R105). -/
def objRefuses (w : Nat) (excl : Bool) : Bool :=
  objMode w == 3 || (!excl && objHold w == 16383)

/-- The hold list without an object that is only requested. -/
def Clerk.unrequest (c : Clerk) (home : Place) : Clerk :=
  { c with holds := c.holds.filter fun h => !(h.home = home && !h.held) }

/-- The clerk's request at its object's home. -/
def State.requestAtHome (s : State) (k : Nat) (u : Unfin) (home : Place) (excl : Bool) : State :=
  match s.task with
  | none => s
  | some t =>
    let key := home.key s
    if s.windowShut home then (s.updClerk fun c => c.unrequest home).trapUnfin k ⟨0x18, u.ea, 0⟩
    else if s.poisoned key 8 then
      ((s.eccHit key).updClerk fun c => c.unrequest home).trapUnfin k ⟨0x17, u.ea, 0⟩
    else if objRefuses (s.rd key 8) excl then
      (s.updClerk fun c => c.unrequest home).trapUnfin k ⟨0x08, u.ea, 0⟩
    else
      (s.updClerk fun c =>
        { c with unfin := updAt c.unfin k fun u => { u with work := .acquire home excl true } }).objRequest home t excl

/-- The place of an object by its home address. -/
def objHome (key : Nat) : Place :=
  if 2 ^ 52 ≤ key then .peer (key / 2 ^ 52 - 1) (key % 2 ^ 52)
  else if scratchBase ≤ key then .bank ((key - scratchBase) / windowSize) ((key - scratchBase) % windowSize)
  else .mem key

/-- OBJECT_REQUEST. A request of another core's task that its object refuses queues nothing. -/
def execObjectRequest (q : ObjectReq) (s : State) : Host.Outcome State Fault Refusal :=
  match q with
  | .own k =>
    if !s.goesOn k (.objectRequest q) then .next s
    else match s.unfin k with
      | none => .next s
      | some u =>
        match u.work with
        | .acquire home excl _ => .next (s.requestAtHome k u home excl)
        | _ => .next s
  | .other t obj excl =>
    if obj % 8 != 0 || t ∈ s.ownTasks then .next s
    else if s.poisoned obj 8 then .next (s.eccHit obj)
    else if objRefuses (s.rd obj 8) excl then .next s
    else .next (s.objRequest (objHome obj) t excl)

/-- OBJECT_RELEASE. An uncorrectable word is reported as by a load (R333). -/
def execObjectRelease (q : ObjectRel) (s : State) : Host.Outcome State Fault Refusal :=
  match q with
  | .own k =>
    if !s.goesOn k (.objectRelease q) then .next s
    else match s.unfin k with
      | none => .next s
      | some u =>
        match u.work with
        | .release home =>
          if s.poisoned (home.key s) 8 then .next ((s.eccHit (home.key s)).trapUnfin k ⟨0x17, u.ea, 0⟩)
          else .next (((s.objRelease home).updClerk fun c =>
            { c with holds := c.holds.filter fun h => !(h.home = home && h.held) }).dropUnfin k)
        | _ => .next s
  | .other t obj =>
    if obj % 8 != 0 || t ∈ s.ownTasks then .next s
    else if s.poisoned obj 8 then .next (s.eccHit obj)
    else if objMode (s.rd obj 8) == 0 || objHold (s.rd obj 8) == 0 then .next s
    else .next (s.objRelease (objHome obj))

/-! ### Timeouts (R330) -/

/-- An unfinished access that can meet the memory timeout. -/
def Work.timed : Work → Bool
  | .load _ _ => true
  | .loadK _ => true
  | .store _ _ _ => true
  | .atomic _ _ _ _ _ => true
  | .arm _ _ _ => true
  | .rls _ _ => true
  | .release _ => true
  | .xbank _ => true
  | .join _ _ => true
  | .unbind _ => true
  | _ => false

/-- The address that a timeout of an unfinished instruction reports: a `join` names none, and its own PC stands for
it. -/
def Unfin.timeoutAddr (u : Unfin) : Nat := if isJoinHead u.op.toNat u.func.toNat then u.pc.toNat else u.ea

/-- The memory timeout of the instruction at the PC, which holds issue: a `cbar` that has arrived and waits for its
siblings (R145), or an `issuex` whose read of the pool finds no Span port up (R208, R338). -/
def State.holdTimeout (s : State) : State :=
  match s.clerkTurn with
  | .error _ => s
  | .ok (i, t) =>
    match i with
    | .cbar =>
      let waits : Bool := match t.task with
        | some k => match t.cohortOf k with
          | some h => h.members.any fun m => m.key = k && m.passed < m.cbars && !h.arrived m.cbars
          | none => false
        | none => false
      if waits then t.trapInstr .cbar 0 0 0 ⟨0x14, t.core.clerk.pc.toNat, 0⟩ else s
    | .issuex idx =>
      let ea := t.poolEa idx
      match t.checkAccess .load 16 ea with
      | .ok r =>
        if t.reaches t.ctx r.pl ea || t.heldBy t.core.clerk.unfin (t.poolLoad ea r.pl) then s
        else t.trapInstr i 0 ea 0 ⟨0x14, ea, 0⟩
      | .error _ => s
    | _ => s

/-- An access is outstanding that waits for no loan. -/
def State.runsOut {α : Type} (s : State) (g : Got α) : Bool := !(g.isWait && s.anyLoanWaits)

/-- The address of the access that a lane's command has outstanding and that waits for no loan; a lane that is gated, or whose
next token finds no room, has none, but for the record of a `stile`. -/
def State.emitOut (s : State) (p : Nat) (c : LaneCmd) : Option Nat :=
  let record := (s.port p).recordDue.isSome
  if c.claims.isSome || s.stalledAt (.lane p) || !(record || (!s.laneStopped p && s.laneRoom p)) then none
  else match c.cmd with
    | .sreq _ _ _ _ => if (s.reqRead p c).all s.runsOut then s.asks (.lane p) fun s => s.laneMove p c else none
    | i =>
      if Instr.cuttable i && c.out.isEmpty && !c.closing && !((formNext (.lane p) c s).isWait && s.anyLoanWaits) then
        s.asks (.lane p) fun s => s.laneForm p c
      else none

/-- The same of the write that the absorb lane is to make, or of its read of an index. -/
def State.absorbOut (s : State) (p : Nat) (c : LaneCmd) : Option Nat :=
  if s.stalledAt (.absorb p) then none
  else if s.absDue p c then
    if s.runsOut (s.absWrite c) then s.asks (.absorb p) fun s => s.absFlush p c else none
  else match s.absNext p with
    | .token k t => if (s.absIndex p c).any s.runsOut then s.asks (.absorb p) fun s => s.absToken p k c t else none
    | _ => none

/-- The command of an engine that has an access outstanding which waits for no loan, and its address. -/
def State.meOut (s : State) (e : Nat) : Option (EngCmd × Nat) :=
  let m := s.me e
  if s.stalledAt (.me e) || s.anyLoanWaits then none
  else match (m.runnable [] m.queue).bind fun x => (s.asks (.me e) fun s => s.meRun e x.1 x.2).map (x.2, ·) with
    | some r => some r
    | none => m.product.bind fun x => (Instr.product x.2.cmd).bind fun f =>
        (s.asks (.me e) fun s => s.meProduct e x.1 x.2.cmd f).map (x.2, ·)

/-- The same of the TMU. -/
def State.tmuOut (s : State) : Option (EngCmd × Nat) :=
  let t := s.core.tmu
  if s.stalledAt .tmu || s.anyLoanWaits || s.lanesHeld || t.taking.isSome then none
  else match t.queue with
    | c :: _ => if c.begun then none else (s.asks .tmu fun s => s.tmuRun c.cmd).map (c, ·)
    | [] => none

/-- The request of a unit that keeps none in the fabric's list is abandoned: emit lanes 0 to 15, absorb lanes 16 to 31,
then the matrix engines, the TMU and the copy engines. A request that waits for a loan is not (R120). -/
def State.unitTimeout (s : State) (j : Nat) : State :=
  if j < 16 then
    match (s.port j).emitCmd.bind fun c => (s.emitOut j c).map (c, ·) with
    | some x => s.portFault j (Instr.code x.1.cmd) 0x14 0 x.2 0
    | none => s
  else if j < 32 then
    match (s.port (j - 16)).absCmd.bind fun c => (s.absorbOut (j - 16) c).map (c, ·) with
    | some x => s.portFault (j - 16) (Instr.code x.1.cmd) 0x14 0 x.2 0
    | none => s
  else if j < 34 then
    match s.meOut (j - 32) with
    | some x => s.meFault (j - 32) (Instr.code x.1.cmd) 0x14 0 x.2 0
    | none => s
  else if j == 34 then
    match s.tmuOut with
    | some x => s.tmuFault (Instr.code x.1.cmd) 0x14 0 x.2 0
    | none => s
  else if j < 37 then
    s.ceTimeout (j - 35)
  else s

/-- The clerk's `k`-th unfinished access has been sent: it is held back by none before it, or it is a `join` that stands at the
desk, or it was lost with its Span port (R330, R339). -/
def State.unfinSent (s : State) (k : Nat) (u : Unfin) : Bool :=
  u.lost || (u.work.timed && (s.mayPerform k || (match u.work with
    | .join _ .waits => true
    | _ => false)))

/-- MEMORY_TIMEOUT: a request that is still outstanding is abandoned; a `join` and a `cbar` that do not return are among
them (R145). Indices beyond the clerk's unfinished instructions name the one at the PC, and those beyond the fabric's list
of requests the units that keep none in it. Log 111 (DEDUCED). -/
def execMemoryTimeout (r : ReqRef) (s : State) : Host.Outcome State Fault Refusal :=
  match r with
  | .clerk k =>
    match s.unfin k with
    | none => .next s.holdTimeout
    | some u =>
      if u.done.isSome || !s.unfinSent k u || u.waits s then .next s
      else .next (s.trapUnfin k ⟨0x14, u.timeoutAddr, 0⟩)
  | .fabric k =>
    match s.req k with
    | none => .next (s.unitTimeout (k - s.core.fab.reqs.length))
    | some q =>
      match q.stage with
      | .walking => .next (s.reqFail q 0x14 q.va 0)
      | .lost => .next (s.reqFail q 0x14 q.va 0)
      | .waiting => .next (if s.givenUp k q then s else s.reqFail q 0x14 q.va 0)
      | _ => .next s

/-- A unit that keeps its requests in no list of the fabric has one outstanding: a lane, a matrix engine or the TMU. -/
def State.unitsOut (s : State) : Bool :=
  ((List.range 16).any fun p => ((s.port p).emitCmd.bind (s.emitOut p)).isSome || ((s.port p).absCmd.bind (s.absorbOut p)).isSome) ||
    ((List.range 2).any fun e => (s.meOut e).isSome) || s.tmuOut.isSome

/-- No memory request of the core is outstanding: a touch that waits for a loan is one, a `waitw` is none (R120,
R241). -/
def State.noneOutstanding (s : State) : Bool :=
  !s.unitsOut && s.core.fab.reqs.all (·.done) && (List.range 2).all (fun e => !s.ceSent e) && !s.anyLoanWaits &&
    s.core.clerk.unfin.all fun u => u.done.isSome || !u.isAccess || (!u.unchecked && match u.work with
      | .waitw _ _ => true
      | .join _ _ => true
      | .hwait _ => true
      | _ => false)

end Sys2Proof.Machine
end

