-- ==== Sys2Proof/Machine/Branch.lean ====
section
/-! DEFINITION. Branches and jumps (R226 to R228). -/

namespace Sys2Proof.Machine

/-- A conditional branch (R226). -/
def branchOp (taken : Dword → Dword → Bool) (a b : Reg) (off : BitVec 14) (s : State) :
    Host.Outcome State Fault Refusal :=
  if taken (s.reg a) (s.reg b) then .next (s.setPc (s.target off)) else .next (s.advance 4)

/-- `beq` (R226). -/
def execBeq (a b : Reg) (off : BitVec 14) (s : State) : Host.Outcome State Fault Refusal :=
  branchOp (fun x y => x = y) a b off s

/-- `bne` (R226). -/
def execBne (a b : Reg) (off : BitVec 14) (s : State) : Host.Outcome State Fault Refusal :=
  branchOp (fun x y => x ≠ y) a b off s

/-- `blt` (R226). -/
def execBlt (a b : Reg) (off : BitVec 14) (s : State) : Host.Outcome State Fault Refusal :=
  branchOp (fun x y => x.slt y) a b off s

/-- `bge` (R226). -/
def execBge (a b : Reg) (off : BitVec 14) (s : State) : Host.Outcome State Fault Refusal :=
  branchOp (fun x y => !x.slt y) a b off s

/-- `bltu` (R226). -/
def execBltu (a b : Reg) (off : BitVec 14) (s : State) : Host.Outcome State Fault Refusal :=
  branchOp (fun x y => x.ult y) a b off s

/-- `bgeu` (R226). -/
def execBgeu (a b : Reg) (off : BitVec 14) (s : State) : Host.Outcome State Fault Refusal :=
  branchOp (fun x y => !x.ult y) a b off s

/-- `jal` (R227). -/
def execJal (d : Reg) (imm : BitVec 19) (s : State) : Host.Outcome State Fault Refusal :=
  .next ((s.setReg d ((s.core.clerk.pc + 4).setWidth 64)).setPc (s.target imm))

/-- `jalr` (R227): the target is read before the link is written; a bad target traps with the target as the
address and writes nothing. -/
def execJalr (d a : Reg) (imm : BitVec 14) (s : State) : Host.Outcome State Fault Refusal :=
  let t := s.reg a + sx imm
  if t.extractLsb' 0 2 != 0 then .next (s.trapInstr (.jalr d a imm) d t.toNat 0 ⟨0x03, t.toNat, 0⟩)
  else if t.extractLsb' 48 16 != 0 then .next (s.trapInstr (.jalr d a imm) d t.toNat 0 ⟨0x04, t.toNat, 9⟩)
  else .next ((s.setReg d ((s.core.clerk.pc + 4).setWidth 64)).setPc (t.setWidth 48))

end Sys2Proof.Machine
end

