-- ==== Sys2Proof/Machine/Float.lean ====
section
/-! DEFINITION. Scalar floating point (R222 to R225). -/

namespace Sys2Proof.Machine

/-- The FP32 operand in bits 31:0 of a register (R222). -/
def State.fp (s : State) (r : Reg) : Nat := ((s.reg r).setWidth 32).toNat

/-- A form with an FP32 result and flags. -/
def fpOp2 (i : Instr) (f : Rnd → Nat → Nat → Nat × FFlags) (d a b : Reg) (s : State) :
    Host.Outcome State Fault Refusal :=
  let r := f s.rm (s.fp a) (s.fp b)
  .next (s.finishFp i d (s.reg b) (BitVec.ofNat 64 r.1) r.2)

def fpOp1 (i : Instr) (f : Rnd → Nat → Nat × FFlags) (d a : Reg) (s : State) : Host.Outcome State Fault Refusal :=
  let r := f s.rm (s.reg a).toNat
  .next (s.finishFp i d 0 (BitVec.ofNat 64 r.1) r.2)

/-- A compare writes 1 or 0. -/
def fpCmp (i : Instr) (f : Nat → Nat → Bool × FFlags) (d a b : Reg) (s : State) : Host.Outcome State Fault Refusal :=
  let r := f (s.fp a) (s.fp b)
  .next (s.finishFp i d (s.reg b) (if r.1 then 1 else 0) r.2)

/-- `fadd` (R223). -/
def execFadd (d a b : Reg) (s : State) : Host.Outcome State Fault Refusal :=
  fpOp2 (.fadd d a b) (fun m x y => fAdd fp32 m x y) d a b s

/-- `fsub` (R223). -/
def execFsub (d a b : Reg) (s : State) : Host.Outcome State Fault Refusal :=
  fpOp2 (.fsub d a b) (fun m x y => fSub fp32 m x y) d a b s

/-- `fmul` (R223). -/
def execFmul (d a b : Reg) (s : State) : Host.Outcome State Fault Refusal :=
  fpOp2 (.fmul d a b) (fun m x y => fMul fp32 m x y) d a b s

/-- `fdiv` (R223). -/
def execFdiv (d a b : Reg) (s : State) : Host.Outcome State Fault Refusal :=
  fpOp2 (.fdiv d a b) (fun m x y => fDiv fp32 m x y) d a b s

/-- `fmin` (R223). -/
def execFmin (d a b : Reg) (s : State) : Host.Outcome State Fault Refusal :=
  fpOp2 (.fmin d a b) (fun _ x y => fMinMax fp32 false x y) d a b s

/-- `fmax` (R223). -/
def execFmax (d a b : Reg) (s : State) : Host.Outcome State Fault Refusal :=
  fpOp2 (.fmax d a b) (fun _ x y => fMinMax fp32 true x y) d a b s

/-- `feq` (R223). -/
def execFeq (d a b : Reg) (s : State) : Host.Outcome State Fault Refusal :=
  fpCmp (.feq d a b) (fEq fp32) d a b s

/-- `flt` (R223). -/
def execFlt (d a b : Reg) (s : State) : Host.Outcome State Fault Refusal :=
  fpCmp (.flt d a b) (fLt fp32) d a b s

/-- `fle` (R223). -/
def execFle (d a b : Reg) (s : State) : Host.Outcome State Fault Refusal :=
  fpCmp (.fle d a b) (fLe fp32) d a b s

/-- `fma` (R223): c is the old destination; NaN choice by R62. -/
def execFma (d a b : Reg) (s : State) : Host.Outcome State Fault Refusal :=
  let r := fFma fp32 s.rm (s.fp a) (s.fp b) (s.fp d)
  .next (s.finishFp (.fma d a b) d (s.reg b) (BitVec.ofNat 64 r.1) r.2)

/-- `fsqrt` (R223). -/
def execFsqrt (d a : Reg) (s : State) : Host.Outcome State Fault Refusal :=
  fpOp1 (.fsqrt d a) (fun m x => fSqrt fp32 m (x % 2 ^ 32)) d a s

/-- `fcvt.f32.i64` (R224). -/
def execFcvtF32I64 (d a : Reg) (s : State) : Host.Outcome State Fault Refusal :=
  fpOp1 (.fcvtF32I64 d a) (fun m x => intToF fp32 m (signedOf 64 x)) d a s

/-- `fcvt.i64.f32` (R224). -/
def execFcvtI64F32 (d a : Reg) (s : State) : Host.Outcome State Fault Refusal :=
  fpOp1 (.fcvtI64F32 d a) (fun m x => fToInt 64 m true (x % 2 ^ 32)) d a s

/-- `fcvt.bf16.f32` (R224). -/
def execFcvtBf16F32 (d a : Reg) (s : State) : Host.Outcome State Fault Refusal :=
  fpOp1 (.fcvtBf16F32 d a) (fun m x => fConv fp32 bf16 m (x % 2 ^ 32)) d a s

/-- `fcvt.f32.bf16` (R224). -/
def execFcvtF32Bf16 (d a : Reg) (s : State) : Host.Outcome State Fault Refusal :=
  fpOp1 (.fcvtF32Bf16 d a) (fun m x => fConv bf16 fp32 m (x % 2 ^ 16)) d a s

/-- `fclass` (R225); it raises no flag. -/
def execFclass (d a : Reg) (s : State) : Host.Outcome State Fault Refusal :=
  .next (s.finish d (BitVec.ofNat 64 (fClass (s.fp a))) 4)

/-- `fabs` (R223); it raises no flag. -/
def execFabs (d a : Reg) (s : State) : Host.Outcome State Fault Refusal :=
  .next (s.finish d (BitVec.ofNat 64 (s.fp a % 2 ^ 31)) 4)

/-- `fneg` (R223); it raises no flag. -/
def execFneg (d a : Reg) (s : State) : Host.Outcome State Fault Refusal :=
  .next (s.finish d (BitVec.ofNat 64 (fp32.neg (s.fp a))) 4)

end Sys2Proof.Machine
end

