-- ==== Sys2Proof/Machine/Integer.lean ====
section
/-! DEFINITION. Integer register, immediate and literal forms (R216 to R221). -/

namespace Sys2Proof.Machine

/-- A two-source form: the result of the sources' old values goes to the destination (R214). -/
def intOp (f : Dword → Dword → Dword) (d a b : Reg) (s : State) : Host.Outcome State Fault Refusal :=
  .next (s.finish d (f (s.reg a) (s.reg b)) 4)

/-- A one-source form. -/
def intOp1 (f : Dword → Dword) (d a : Reg) (s : State) : Host.Outcome State Fault Refusal :=
  .next (s.finish d (f (s.reg a)) 4)

/-- 1 or 0. -/
def flagDword (b : Bool) : Dword := if b then 1 else 0

/-- A division form: a zero divisor traps with 0x0A (R217). -/
def divOp (i : Instr) (f : Dword → Dword → Dword) (d a b : Reg) (s : State) : Host.Outcome State Fault Refusal :=
  if s.reg b = 0 then .next (s.trapInstr i d 0 0 ⟨0x0A, 0, 0⟩)
  else .next (s.finish d (f (s.reg a) (s.reg b)) 4)

/-- Bits 127:64 of the signed product. -/
def mulhSigned (a b : Dword) : Dword := BitVec.ofInt 64 (a.toInt * b.toInt / 2 ^ 64)

/-- Bits 127:64 of the unsigned product. -/
def mulhUnsigned (a b : Dword) : Dword := BitVec.ofNat 64 (a.toNat * b.toNat / 2 ^ 64)

/-- Zero bits above the highest 1 bit among the low `n` bits; `n` if there is none. -/
def leadingZeros (a : Dword) : Nat → Nat
  | 0 => 0
  | n + 1 => if a.getLsbD n then 0 else leadingZeros a n + 1

/-- Zero bits below the lowest 1 bit, from bit `64 - n` up. -/
def trailingZeros (a : Dword) : Nat → Nat
  | 0 => 0
  | n + 1 => if a.getLsbD (64 - (n + 1)) then 0 else trailingZeros a n + 1

/-- 1 bits among the low `n` bits. -/
def countOnes (a : Dword) : Nat → Nat
  | 0 => 0
  | n + 1 => b2n (a.getLsbD n) + countOnes a n

/-- The eight bytes in reverse order. -/
def byteSwap (a : Dword) : Dword :=
  a.extractLsb' 0 8 ++ a.extractLsb' 8 8 ++ a.extractLsb' 16 8 ++ a.extractLsb' 24 8 ++ a.extractLsb' 32 8 ++
    a.extractLsb' 40 8 ++ a.extractLsb' 48 8 ++ a.extractLsb' 56 8

/-- `add` (R216). -/
def execAdd (d a b : Reg) (s : State) : Host.Outcome State Fault Refusal :=
  intOp (fun x y => x + y) d a b s

/-- `sub` (R216). -/
def execSub (d a b : Reg) (s : State) : Host.Outcome State Fault Refusal :=
  intOp (fun x y => x - y) d a b s

/-- `mul` (R216). -/
def execMul (d a b : Reg) (s : State) : Host.Outcome State Fault Refusal :=
  intOp (fun x y => x * y) d a b s

/-- `mulh` (R216). -/
def execMulh (d a b : Reg) (s : State) : Host.Outcome State Fault Refusal :=
  intOp (fun x y => mulhSigned x y) d a b s

/-- `mulhu` (R216). -/
def execMulhu (d a b : Reg) (s : State) : Host.Outcome State Fault Refusal :=
  intOp (fun x y => mulhUnsigned x y) d a b s

/-- `and` (R216). -/
def execAnd (d a b : Reg) (s : State) : Host.Outcome State Fault Refusal :=
  intOp (fun x y => x &&& y) d a b s

/-- `or` (R216). -/
def execOr (d a b : Reg) (s : State) : Host.Outcome State Fault Refusal :=
  intOp (fun x y => x ||| y) d a b s

/-- `xor` (R216). -/
def execXor (d a b : Reg) (s : State) : Host.Outcome State Fault Refusal :=
  intOp (fun x y => x ^^^ y) d a b s

/-- `andn` (R216). -/
def execAndn (d a b : Reg) (s : State) : Host.Outcome State Fault Refusal :=
  intOp (fun x y => x &&& ~~~y) d a b s

/-- `orn` (R216). -/
def execOrn (d a b : Reg) (s : State) : Host.Outcome State Fault Refusal :=
  intOp (fun x y => x ||| ~~~y) d a b s

/-- `sll` (R216). -/
def execSll (d a b : Reg) (s : State) : Host.Outcome State Fault Refusal :=
  intOp (fun x y => x <<< shamt y) d a b s

/-- `srl` (R216). -/
def execSrl (d a b : Reg) (s : State) : Host.Outcome State Fault Refusal :=
  intOp (fun x y => x >>> shamt y) d a b s

/-- `sra` (R216). -/
def execSra (d a b : Reg) (s : State) : Host.Outcome State Fault Refusal :=
  intOp (fun x y => x.sshiftRight (shamt y)) d a b s

/-- `rol` (R216). -/
def execRol (d a b : Reg) (s : State) : Host.Outcome State Fault Refusal :=
  intOp (fun x y => x.rotateLeft (shamt y)) d a b s

/-- `ror` (R216). -/
def execRor (d a b : Reg) (s : State) : Host.Outcome State Fault Refusal :=
  intOp (fun x y => x.rotateRight (shamt y)) d a b s

/-- `min` (R216). -/
def execMin (d a b : Reg) (s : State) : Host.Outcome State Fault Refusal :=
  intOp (fun x y => if x.slt y then x else y) d a b s

/-- `max` (R216). -/
def execMax (d a b : Reg) (s : State) : Host.Outcome State Fault Refusal :=
  intOp (fun x y => if x.slt y then y else x) d a b s

/-- `minu` (R216). -/
def execMinu (d a b : Reg) (s : State) : Host.Outcome State Fault Refusal :=
  intOp (fun x y => if x.ult y then x else y) d a b s

/-- `maxu` (R216). -/
def execMaxu (d a b : Reg) (s : State) : Host.Outcome State Fault Refusal :=
  intOp (fun x y => if x.ult y then y else x) d a b s

/-- `seq` (R216). -/
def execSeq (d a b : Reg) (s : State) : Host.Outcome State Fault Refusal :=
  intOp (fun x y => flagDword (x = y)) d a b s

/-- `sne` (R216). -/
def execSne (d a b : Reg) (s : State) : Host.Outcome State Fault Refusal :=
  intOp (fun x y => flagDword (x ≠ y)) d a b s

/-- `slt` (R216). -/
def execSlt (d a b : Reg) (s : State) : Host.Outcome State Fault Refusal :=
  intOp (fun x y => flagDword (x.slt y)) d a b s

/-- `sltu` (R216). -/
def execSltu (d a b : Reg) (s : State) : Host.Outcome State Fault Refusal :=
  intOp (fun x y => flagDword (x.ult y)) d a b s

/-- `sle` (R216). -/
def execSle (d a b : Reg) (s : State) : Host.Outcome State Fault Refusal :=
  intOp (fun x y => flagDword (x.sle y)) d a b s

/-- `sleu` (R216). -/
def execSleu (d a b : Reg) (s : State) : Host.Outcome State Fault Refusal :=
  intOp (fun x y => flagDword (x.ule y)) d a b s

/-- `div` (R216, R217). -/
def execDiv (d a b : Reg) (s : State) : Host.Outcome State Fault Refusal :=
  divOp (.div d a b) (fun x y => x.sdiv y) d a b s

/-- `divu` (R216, R217). -/
def execDivu (d a b : Reg) (s : State) : Host.Outcome State Fault Refusal :=
  divOp (.divu d a b) (fun x y => x / y) d a b s

/-- `rem` (R216, R217). -/
def execRem (d a b : Reg) (s : State) : Host.Outcome State Fault Refusal :=
  divOp (.rem d a b) (fun x y => x.srem y) d a b s

/-- `remu` (R216, R217). -/
def execRemu (d a b : Reg) (s : State) : Host.Outcome State Fault Refusal :=
  divOp (.remu d a b) (fun x y => x % y) d a b s

/-- `clz` (R218). -/
def execClz (d a : Reg) (s : State) : Host.Outcome State Fault Refusal :=
  intOp1 (fun x => BitVec.ofNat 64 (leadingZeros x 64)) d a s

/-- `ctz` (R218). -/
def execCtz (d a : Reg) (s : State) : Host.Outcome State Fault Refusal :=
  intOp1 (fun x => BitVec.ofNat 64 (trailingZeros x 64)) d a s

/-- `popc` (R218). -/
def execPopc (d a : Reg) (s : State) : Host.Outcome State Fault Refusal :=
  intOp1 (fun x => BitVec.ofNat 64 (countOnes x 64)) d a s

/-- `sext8` (R218). -/
def execSext8 (d a : Reg) (s : State) : Host.Outcome State Fault Refusal :=
  intOp1 (fun x => (x.setWidth 8).signExtend 64) d a s

/-- `sext16` (R218). -/
def execSext16 (d a : Reg) (s : State) : Host.Outcome State Fault Refusal :=
  intOp1 (fun x => (x.setWidth 16).signExtend 64) d a s

/-- `sext32` (R218). -/
def execSext32 (d a : Reg) (s : State) : Host.Outcome State Fault Refusal :=
  intOp1 (fun x => (x.setWidth 32).signExtend 64) d a s

/-- `zext32` (R218). -/
def execZext32 (d a : Reg) (s : State) : Host.Outcome State Fault Refusal :=
  intOp1 (fun x => (x.setWidth 32).setWidth 64) d a s

/-- `bswap` (R218). -/
def execBswap (d a : Reg) (s : State) : Host.Outcome State Fault Refusal :=
  intOp1 (fun x => byteSwap x) d a s

/-- `addi` (R219). -/
def execAddi (d a : Reg) (imm : BitVec 14) (s : State) : Host.Outcome State Fault Refusal :=
  intOp1 (fun x => x + sx imm) d a s

/-- `andi` (R219). -/
def execAndi (d a : Reg) (imm : BitVec 14) (s : State) : Host.Outcome State Fault Refusal :=
  intOp1 (fun x => x &&& sx imm) d a s

/-- `ori` (R219). -/
def execOri (d a : Reg) (imm : BitVec 14) (s : State) : Host.Outcome State Fault Refusal :=
  intOp1 (fun x => x ||| sx imm) d a s

/-- `xori` (R219). -/
def execXori (d a : Reg) (imm : BitVec 14) (s : State) : Host.Outcome State Fault Refusal :=
  intOp1 (fun x => x ^^^ sx imm) d a s

/-- `slti` (R219). -/
def execSlti (d a : Reg) (imm : BitVec 14) (s : State) : Host.Outcome State Fault Refusal :=
  intOp1 (fun x => flagDword (x.slt (sx imm))) d a s

/-- `sltui` (R219). -/
def execSltui (d a : Reg) (imm : BitVec 14) (s : State) : Host.Outcome State Fault Refusal :=
  intOp1 (fun x => flagDword (x.ult (sx imm))) d a s

/-- `slli` (R219). -/
def execSlli (d a : Reg) (n : BitVec 6) (s : State) : Host.Outcome State Fault Refusal :=
  intOp1 (fun x => x <<< n.toNat) d a s

/-- `srli` (R219). -/
def execSrli (d a : Reg) (n : BitVec 6) (s : State) : Host.Outcome State Fault Refusal :=
  intOp1 (fun x => x >>> n.toNat) d a s

/-- `srai` (R219). -/
def execSrai (d a : Reg) (n : BitVec 6) (s : State) : Host.Outcome State Fault Refusal :=
  intOp1 (fun x => x.sshiftRight n.toNat) d a s

/-- `lui` (R220): sext(IMM19) times 2^13. -/
def execLui (d : Reg) (imm : BitVec 19) (s : State) : Host.Outcome State Fault Refusal :=
  .next (s.finish d (sx imm <<< 13) 4)

/-- `li` (R221). -/
def execLi (d : Reg) (lit : Word) (s : State) : Host.Outcome State Fault Refusal :=
  .next (s.finish d (sx lit) 12)

/-- `lih` (R221): the low half of the destination is kept. -/
def execLih (d : Reg) (lit : Word) (s : State) : Host.Outcome State Fault Refusal :=
  .next (s.finish d (lit ++ (s.reg d).setWidth 32) 12)

/-- `addli` (R221). -/
def execAddli (d a : Reg) (lit : Word) (s : State) : Host.Outcome State Fault Refusal :=
  .next (s.finish d (s.reg a + sx lit) 12)

end Sys2Proof.Machine
end

