-- ==== Sys2Proof/Machine/LoadStore.lean ====
section
/-! DEFINITION. Loads and stores in all their forms, and the command registers (R232 to R234, R250). -/

namespace Sys2Proof.Machine

/-- A load of R233 at the PC. -/
def State.loadAt (s : State) (i : Instr) (w : LoadWidth) (d : Reg) (ea n : Nat) :
    Host.Outcome State Fault Refusal :=
  .next ((s.advance n).issueLoad (s.src i d) w ea)

/-- A store of R233 at the PC. -/
def State.storeAt (s : State) (i : Instr) (w : StoreWidth) (ea : Nat) (v : Dword) (n : Nat) :
    Host.Outcome State Fault Refusal :=
  .next ((s.advance n).issueStore (s.src i 0) w.bytes ea v)

/-- LD8 (R232, R233). -/
def execLd8 (d a : Reg) (imm : BitVec 14) (s : State) : Host.Outcome State Fault Refusal :=
  s.loadAt (.ld8 d a imm) .u8 d (s.ea a imm) 4

/-- LD16 (R232, R233). -/
def execLd16 (d a : Reg) (imm : BitVec 14) (s : State) : Host.Outcome State Fault Refusal :=
  s.loadAt (.ld16 d a imm) .u16 d (s.ea a imm) 4

/-- LD32 (R232, R233). -/
def execLd32 (d a : Reg) (imm : BitVec 14) (s : State) : Host.Outcome State Fault Refusal :=
  s.loadAt (.ld32 d a imm) .u32 d (s.ea a imm) 4

/-- LD64 (R232, R233). -/
def execLd64 (d a : Reg) (imm : BitVec 14) (s : State) : Host.Outcome State Fault Refusal :=
  s.loadAt (.ld64 d a imm) .u64 d (s.ea a imm) 4

/-- LDS8 (R232, R233). -/
def execLds8 (d a : Reg) (imm : BitVec 14) (s : State) : Host.Outcome State Fault Refusal :=
  s.loadAt (.lds8 d a imm) .s8 d (s.ea a imm) 4

/-- LDS16 (R232, R233). -/
def execLds16 (d a : Reg) (imm : BitVec 14) (s : State) : Host.Outcome State Fault Refusal :=
  s.loadAt (.lds16 d a imm) .s16 d (s.ea a imm) 4

/-- LDS32 (R232, R233). -/
def execLds32 (d a : Reg) (imm : BitVec 14) (s : State) : Host.Outcome State Fault Refusal :=
  s.loadAt (.lds32 d a imm) .s32 d (s.ea a imm) 4

/-- ST8 (R232, R233). -/
def execSt8 (a d : Reg) (imm : BitVec 14) (s : State) : Host.Outcome State Fault Refusal :=
  s.storeAt (.st8 a d imm) .b8 (s.ea a imm) (s.reg d) 4

/-- ST16 (R232, R233). -/
def execSt16 (a d : Reg) (imm : BitVec 14) (s : State) : Host.Outcome State Fault Refusal :=
  s.storeAt (.st16 a d imm) .b16 (s.ea a imm) (s.reg d) 4

/-- ST32 (R232, R233). -/
def execSt32 (a d : Reg) (imm : BitVec 14) (s : State) : Host.Outcome State Fault Refusal :=
  s.storeAt (.st32 a d imm) .b32 (s.ea a imm) (s.reg d) 4

/-- ST64 (R232, R233). -/
def execSt64 (a d : Reg) (imm : BitVec 14) (s : State) : Host.Outcome State Fault Refusal :=
  s.storeAt (.st64 a d imm) .b64 (s.ea a imm) (s.reg d) 4

/-- LDL (R204, R234). -/
def execLdl (w : LoadWidth) (d a : Reg) (lit : Word) (s : State) : Host.Outcome State Fault Refusal :=
  s.loadAt (.ldl w d a lit) w d (s.ea a lit) 12

/-- STL (R204, R234). -/
def execStl (w : StoreWidth) (a d : Reg) (lit : Word) (s : State) : Host.Outcome State Fault Refusal :=
  s.storeAt (.stl w a d lit) w (s.ea a lit) (s.reg d) 12

/-- KMOV (R250): sb to bits 127:64, sa to bits 63:0. -/
def execKmov (k : KReg) (a b : Reg) (s : State) : Host.Outcome State Fault Refusal :=
  .next ((s.setKreg k (s.reg b ++ s.reg a)).advance 4)

/-- KLD (R250). -/
def execKld (k : KReg) (a : Reg) (s : State) : Host.Outcome State Fault Refusal :=
  let x : Src := { s.src (.kld k a) (k.setWidth 5) with kd := true }
  .next ((s.advance 4).issueKld x (s.reg a).toNat)

/-- KST (R250). -/
def execKst (k : KReg) (a : Reg) (s : State) : Host.Outcome State Fault Refusal :=
  let v := s.kreg k
  .next ((s.advance 4).issueKst (s.src (.kst k a) 0) (s.reg a).toNat (v.setWidth 64) (v.extractLsb' 64 64))

end Sys2Proof.Machine
end

