-- ==== Sys2Proof/Machine/Outside.lean ====
section
/-! DEFINITION. What happens outside the core and is no row of the opcode table: what tasks of other cores do that this core
can see, the end of such a task among it (R20, R118 to R128, R140 to R143, R148, R246, R332), stores of parties that are no
task (R93, R95), errors of the storage controller (R341), the network interface's send buffer (R331) and memory errors
(R333). The list is filled from outside the machine, as the agenda is, and each of its events is performed whole, in the
order of the list, or not at all. Log 96 (DESIGN CHOICE). -/

namespace Sys2Proof.Machine

/-! ### Tasks of other cores -/

/-- The core on which a task runs, if it is another one. -/
def State.otherCoreOf (s : State) (t : TaskKey) : Option Nat :=
  match s.occ.find? fun o => o.key = t && o.core != s.coreId with
  | some o => some o.core
  | none => none

/-- A `join` of a task of another core: one that R140 refuses joins nothing, and one that waits for a formed cohort is
made again. -/
def State.outsideJoin (s : State) (t : TaskKey) (id count : Nat) : State :=
  match s.otherCoreOf t with
  | none => s
  | some c =>
    if id == 0 || 65535 < id || count == 0 || 160 < count || (s.cohortOf t).isSome then s
    else match s.cohorts.find? fun h => h.ctx = s.taskCtx t && h.id == id with
      | some h => if h.formed || h.count != count then s else s.joinCohort t c id count true
      | none => s.joinCohort t c id count true

/-- A `leave` of a task of another core (R141). -/
def State.outsideLeave (s : State) (t : TaskKey) : State := if (s.otherCoreOf t).isSome then s.leaveCohort t else s

/-- A task of another core issues its next `cbar`, once the one before has completed (R142). -/
def State.outsideCbar (s : State) (t : TaskKey) : State :=
  match s.cohortOf t with
  | some h =>
    let next (m : Member) : Member := { m with passed := m.cbars, cbars := m.cbars + 1 }
    let done : Bool := h.members.any fun m => m.key = t && h.members.all fun x => m.cbars ≤ x.cbars
    if (s.otherCoreOf t).isSome && done then
      s.updCohort h.ctx h.id fun h => { h with members := h.members.map fun m => if m.key = t then next m else m }
    else s
  | none => s

/-- A `loan` of a task of another core: one that R118 refuses declares nothing. The range is in the form of R350. -/
def State.outsideLoan (s : State) (t : TaskKey) (base len : Nat) : State :=
  match s.findRec t with
  | none => s
  | some r =>
    if (s.otherCoreOf t).isNone || base % 64 != 0 || len % 64 != 0 || len < 64 || 2 ^ 22 < len || selfAlias < base + len ||
        8 ≤ r.decls.length || !(declsMet r.decls base len).isEmpty then s
    else s.updRec t fun r => { r with decls := r.decls ++ [Decl.mk base len .declared] }

/-- A touch, in task mode, of declaration `i` of a task of another core: the directories see it as they see this core's own,
and may recall the holder that runs here (R120, R123). One that faults changes nothing. -/
def State.outsideTouch (s : State) (t : TaskKey) (i : Nat) (write : Bool) : State :=
  match s.otherCoreOf t, s.findRec t with
  | some _, some r => match r.decls[i]? with
    | some d => match s.touchDecl t true (if write then .store else .load) i d d.base with
      | .ok s => s
      | .wait s => s
      | _ => s
    | none => s
  | _, _ => s

/-- A `spawn` of a task of another core: launched, or deferred while the task holds a borrow (R127, R244). -/
def State.outsideSpawn (s : State) (t : TaskKey) (tcb : Nat) : State :=
  let key : TaskKey := ⟨s.taskCtx t, tcb⟩
  if (s.otherCoreOf t).isNone || s.launchCode key != 0 then s
  else if !s.borrows t then s.launchTask key
  else if 16 ≤ (s.deferredOf t).length then s
  else s.updRec t fun r => { r with deferred := r.deferred ++ [.spawn tcb] }

/-- The end of a task of another core (R246): its core is free. Chain starts that it deferred are its own core's. -/
def State.outsideTend (s : State) (t : TaskKey) : State :=
  match s.otherCoreOf t with
  | none => s
  | some c =>
    let ops := (s.deferredOf t).filter fun d => match d with
      | .spawn _ => true
      | _ => false
    let s := s.endSteps t c ops
    { s with occ := s.occ.filter fun o => o.core != c }

/-! ### Other parties' writes -/

/-- A byte that parties which are no task of a core may write: in memory, or in the banks of another core. -/
def State.outsideKey (s : State) (key : Nat) : Bool :=
  let c := (key - scratchBase) / windowSize
  inDram key || s.inCxl key || s.inHost key ||
    (scratchBase ≤ key && s.hasCore c && c != s.coreId && (key - scratchBase) % windowSize < bankBytes)

/-- A write of `n` bytes at a home: not to a held object's word (R105), nor to a part of a poisoned unit (R333). -/
def State.outsideWrite (s : State) (key n v : Nat) : State :=
  if s.objProtected key n then s
  else if s.partPoisoned key n then s.eccHit (eccUnit key)
  else s.wr key n v

/-- A write of `n` bytes by a party that is no task of a core performed at its home. -/
def State.outsideStore (s : State) (key n v : Nat) : State :=
  if n == 0 || 64 < n || !s.outsideKey key || !s.outsideKey (key + n - 1) then s
  else s.outsideWrite key n v

/-- The place of an access that a task running on core `c` makes in task mode: translated, or a window of its own core or of
a sibling's on which its cohort's task runs (R20, R143). -/
def State.otherPlace (s : State) (t : TaskKey) (c : Nat) (kind : AccKind) (va n : Nat) : Option Place :=
  match s.region va with
  | .translated =>
    match s.resolve (s.taskCtx t) ⟨.clerk, kind, n, true⟩ va with
    | .ok r => some r.pl
    | .error _ => none
  | .window d off =>
    if selfAlias ≤ va || s.corePart d != s.corePart c || bankBytes ≤ off || (d != c && !s.cohortReach t d) then none
    else some (.bank d off)
  | _ => none

/-- A task's write of `n` bytes in one block, for which a Span port is up where it goes to a peer (R338), passes the loan
checks and is written to its undo log (R120, R122, R126). -/
def State.otherWrite (s : State) (t : TaskKey) (kind : AccKind) (va n : Nat) (act : Place → State → State) : State :=
  match s.otherCoreOf t with
  | none => s
  | some c =>
    if n == 0 || 64 < va % 64 + n then s
    else match s.otherPlace t c kind va n with
      | none => s
      | some pl =>
        if !s.reaches (s.taskCtx t) pl va then s
        else
        let free : Bool := match pl with
          | .bank d _ => d == c
          | _ => false
        match s.touchOf t true va n va kind free with
        | .ok u => match u.undoLogOf t [(va, n)] va with
          | .ok u => act pl u
          | .error _ => u
        | .wait u => u
        | .fault _ u => u
        | .stall _ u => u

/-- A store of a task of another core. A compressed page that is being laid out takes none (R50). -/
def State.outsideTaskStore (s : State) (t : TaskKey) (va n v : Nat) : State :=
  s.otherWrite t .store va n fun pl s =>
    match pl with
    | .page _ _ _ => match s.placeWrite pl va n v with
      | .ok _ s => s
      | .wait s => s
      | .stall _ _ _ s => s
      | .fail _ _ _ s => s
    | pl => s.outsideWrite (pl.key s) n v

/-- An atomic of a task of another core that leaves `v` in `n` bytes: at this core's banks a watchpoint sees it, and the
skid of R332 may hold it back. -/
def State.outsideAtomic (s : State) (t : TaskKey) (va n v : Nat) : State :=
  if !(n == 4 || n == 8) || va % n != 0 then s
  else s.otherWrite t .atomic va n fun pl s =>
    if s.objProtected (pl.key s) n then s
    else if s.poisoned (pl.key s) n then s.eccHit (eccUnit (pl.key s))
    else match pl with
      | .bank c off =>
        if c != s.coreId then s.wr (pl.key s) n v
        else if s.skidHeld (bankOf off) then s
        else (s.wr (pl.key s) n v).watchAtomic off va n
      | _ => s.wr (pl.key s) n v

/-! ### The network interface -/

/-- Bytes of the send buffer. -/
def niBuffer : Nat := 4096

/-- A message is put into the send buffer, where there is room for it; its bytes follow. -/
def State.niPut (s : State) (len : Nat) : State :=
  if len == 0 || 288 < len || niBuffer < (s.niOut.map (·.len)).sum + len then s
  else { s with niOut := s.niOut ++ [⟨len, 0⟩] }

/-- Bytes of a message that have come. -/
def NiMsg.more (n : Nat) (m : NiMsg) : NiMsg := { m with have_ := min m.len (m.have_ + n) }

/-- Bytes of the message that was put last. -/
def State.niBytes (s : State) (n : Nat) : State :=
  { s with niOut := updAt s.niOut (s.niOut.length - 1) (NiMsg.more n) }

/-! ### Memory errors -/

/-- A single-bit error corrected at a wing, counted up to the largest value. -/
def State.corrected (s : State) (w : Nat) : State :=
  s.updWing w fun g => { g with eccCorr := if g.eccCorr = BitVec.allOnes 32 then g.eccCorr else g.eccCorr + 1 }

/-- The protected unit of a key is found uncorrectable. -/
def State.poisonUnit (s : State) (key : Nat) : State :=
  if eccUnit key ∈ s.poison then s else { s with poison := eccUnit key :: s.poison }

/-- An uncorrectable error in the store of a unit of the core, found as the unit reads it: an FE's subgraph is contained, a
port, a matrix engine or the TMU sealed with 0x17. The store has no physical address. Log 97 (DESIGN CHOICE). -/
def State.unitError (s : State) (u : UnitRef) : State :=
  let t := s.eccHit (scratchKey s.coreId (Config.sramAddress s.stepNo % windowSize))
  match u with
  | .fe r c => if (t.fe r c).live then t.contain r c 0x17 0 0 0 else t
  | .lane p => if (t.port p).sealed then t else t.portFault p 0 0x17 0 0 0
  | .absorb p => if (t.port p).sealed then t else t.portFault p 0 0x17 0 0 0
  | .me e => t.meFault e 0 0x17 0 0 0
  | .plane e => t.meFault e 0 0x17 0 0 0
  | .tmu => t.tmuFault 0 0x17 0 0 0
  | .ce _ => s

/-- One of these things happens. A module that stays in reset (R342) takes part in none. -/
def outsideStep (o : Outside) (s : State) : State :=
  if s.modl.bootstat then s
  else match o with
  | .join t id count => s.outsideJoin t id count
  | .leave t => s.outsideLeave t
  | .cbar t => s.outsideCbar t
  | .loan t base len => s.outsideLoan t base len
  | .touch t i write => s.outsideTouch t i write
  | .spawn t tcb => s.outsideSpawn t tcb
  | .tend t => s.outsideTend t
  | .taskStore t va n v => s.outsideTaskStore t va n v
  | .taskAtomic t va n v => s.outsideAtomic t va n v
  | .store key n v => s.outsideStore key n v
  | .nvmeReadError e => s.nvmeReadBad e
  | .niPut len => s.niPut len
  | .niBytes n => s.niBytes n
  | .corrected w => s.corrected w
  | .poison key => s.poisonUnit key
  | .unitError u => s.unitError u

end Sys2Proof.Machine
end

