-- ==== Sys2Proof/Machine/Round.lean ====
section
/-! DEFINITION. Which agents move when the agenda names none: a round of steps that may have something to
do, after which the clerk has its turn (log 8). A step that has nothing to do leaves the state as it is. The watchdog
(R330), which asks whether any token can move. -/

namespace Sys2Proof.Machine

/-- The steps of the clerk's unfinished instructions. -/
def State.clerkRound (s : State) : List Instr :=
  s.core.clerk.unfin.zipIdx.filterMap fun p => unfinStep p.2 p.1

/-- The steps of the fabric's requests and of the page walks. -/
def State.reqRound (s : State) : List Instr :=
  ((List.range s.walks.length).map Instr.pageWalkEnd) ++
    (s.core.fab.reqs.zipIdx.filterMap fun p => s.reqStep p.2 p.1) ++
    s.core.fab.reqs.zipIdx.filterMap fun p => (p.1.reply).map fun _ => .memResponse p.2

/-- The step by which an FE's operator fires, by its operator code (R181). -/
def fireStep (f : Fe) (r c : Nat) : List Instr :=
  match f.code with
  | 0 => [.mapFire r c]
  | 1 => [.sfnFire r c]
  | 2 => [.redFire r c]
  | 3 => [.steerFire r c]
  | 4 => [.mergeFire r c]
  | 5 => [.carryFire r c]
  | 6 => [.genEmit r c]
  | 7 => [.memFire r c]
  | 8 => [.segFire r c]
  | 9 => [.shufFire r c]
  | 10 => [.convFire r c]
  | 11 => [.forkFire r c]
  | _ => []

/-- The hops of tokens out of an FE's switch-box registers. -/
def hopSteps (f : Fe) (r c : Nat) : List Instr :=
  [Dir.n, Dir.e, Dir.s, Dir.w].flatMap fun d => (List.range 4).filterMap fun t =>
    if (f.track.getD (4 * dirIdx d + t) none).isSome then some (.tokenHop r c d (BitVec.ofNat 2 t)) else none

/-- The steps of one listed FE; `next` says that it is the next to go live. -/
def feRound (f : Fe) (r c : Nat) (next : Bool) : List Instr :=
  (if f.waiting.isEmpty then [] else [.feConfigApply r c]) ++
    (if next then [.feGoLive r c] else []) ++
    (if f.live then fireStep f r c ++ [.endTokenAlign r c, .errorEndPass r c, .barrierAlign r c] else []) ++
    hopSteps f r c

def State.gridRound (s : State) : List Instr :=
  (s.core.fab.fes.flatMap fun x => feRound x.2 x.1.1 x.1.2 (s.core.fab.startsNext x.1.1 x.1.2)) ++
    if s.core.fab.image.isSome then [.folioChange] else []

/-- The steps of a port that has something to do; `entry` says that records wait in its entry queue. -/
def portRound (q : Port) (p : BitVec 4) (entry : Bool) : List Instr :=
  if q.queue.isEmpty && q.emitCmd.isNone && q.absCmd.isNone && q.inq.isEmpty && q.sealToks.isEmpty && q.gate.isNone && !entry
  then []
  else [.handleClaim p, .laneEmitToken p, .laneAbsorbToken p, .laneCommandComplete p false, .laneCommandComplete p true]

def State.portsRound (s : State) : List Instr :=
  s.core.ports.zipIdx.flatMap fun x => portRound x.1 (BitVec.ofNat 4 x.2) (s.entryAtPort x.2).isSome

/-- The steps of a matrix engine that has something to do. -/
def meRound (m : Me) (e : BitVec 1) : List Instr :=
  (if m.afifo.all (·.isEmpty) then [] else (List.range 8).map fun c => .meAToken e (BitVec.ofNat 3 c)) ++
    (if m.pfifo.isEmpty then [] else [.mePlaneToken e]) ++
    (if m.queue.isEmpty && m.emitq.isEmpty then [] else [.meProductCommit e, .meCommandComplete e]) ++
    if m.emitq.isEmpty then [] else [.tokenHop (8 * (e.toNat + 1)) 18 .w 0]

def State.mesRound (s : State) : List Instr :=
  s.core.mes.zipIdx.flatMap fun x => meRound x.1 (BitVec.ofNat 1 x.2)

def tmuRound (t : Tmu) (col : Nat) : List Instr :=
  (if t.infifo.isEmpty then [] else [.tmuInToken]) ++
    (if t.queue.isEmpty && t.bars.isEmpty && t.emitting.isEmpty then [] else [.tmuCommandComplete]) ++
    if t.out.isEmpty then [] else [.tokenHop 17 col .n 0]

/-- The steps of a copy channel that has something to do. -/
def ceRound (c : Ce) (e : BitVec 1) (held : Bool) : List Instr :=
  (match c.state with
    | .run => [.copyRecordRead e, .copyRecordComplete e, .copyRecordStop e]
    | .wait => [.copyHandleReady e, .copyRecordStop e]
    | .idleEnd => if c.kick then [.copyRecordRead e] else []
    | _ => []) ++ if held then [.copyBoundaryStop e 0] else []

def State.cesRound (s : State) : List Instr :=
  s.core.ces.zipIdx.flatMap fun x => ceRound x.1 (BitVec.ofNat 1 x.2) (s.ceHalts x.2)

/-- The steps of the desks, the partitions and the module. -/
def State.moduleRound (s : State) : List Instr :=
  (s.recalling.map Instr.recallRollback) ++ (if s.preempting.isSome then [.preemptSave] else []) ++
    (if s.wings.any fun g => !g.ready.isEmpty then
      ((List.range 8).filter s.hasWing).map fun w => .dispatch (BitVec.ofNat 3 w) else []) ++
    (s.occ.map fun o => .quantumPreempt o.core) ++
    (s.modl.partcur.zipIdx.filterMap fun x =>
      if x.1.swap.isSome then some (.partitionSwapDone (BitVec.ofNat 4 x.2)) else none) ++
    (if s.modl.xinvBusy then [.xinvComplete] else []) ++ (if s.modl.killDone then [] else [.ctxkillDone]) ++
    (if s.modl.ownPend != 0 then [.ownershipGrant] else []) ++
    (if s.modl.attBusy then [.attestationReportDone] else []) ++
    (s.wings.zipIdx.filterMap fun x =>
      if x.1.wpwrReq.isSome then some (.clockChangeEffect (BitVec.ofNat 3 x.2)) else none) ++
    s.pages.zipIdx.filterMap fun x => if x.1.lock then some (.pageLayoutDone (BitVec.ofNat 6 x.2)) else none

/-- The round of steps put on the agenda. -/
def State.round (s : State) : List (Option Instr) :=
  (s.clerkRound ++ s.reqRound ++ s.gridRound ++ s.portsRound ++ s.mesRound ++ tmuRound s.core.tmu (s.physCol 2) ++ s.cesRound ++
    s.moduleRound).map some

/-- The agenda filled when it is empty. -/
def State.refill (s : State) : State :=
  match s.agenda with
  | [] => { s with agenda := s.round ++ [none] }
  | _ => s

/-! ### The watchdog (R330) -/

/-- WATCHDOG_EXPIRY: the tree reports not empty, no token moves, and no request is outstanding. -/
def execWatchdogExpiry (s : State) : Host.Outcome State Fault Refusal :=
  .next (if s.task.isSome && !s.quiescent && s.noneOutstanding && !s.tokensMove then s.pendCause 0x15 0 0 else s)

/-- A step that a module in reset takes: what its masters ask, and its firmware check (R342). -/
def Instr.inReset : Instr → Bool
  | .hostRequest _ | .bootFirmwareCheck _ => true
  | _ => false

/-! ### A word placed where the clerk fetches next (log 8) -/

/-- A 1 GiB page of DRAM, readable, writable and executable, at physical `pa`. -/
def openLeaf (pa : Nat) : Dword := BitVec.ofNat 64 (pa + 0x101F)

/-- The state in which a task runs on the core and the next instruction fetched has the bytes `bs`. -/
def State.placeWord (s : State) (bs : List Byte) : State :=
  let k : TaskKey := s.task.getD ⟨0, 0⟩
  let pc : Nat := if s.core.clerk.pc.toNat < 0xE000_0000_0000 then s.core.clerk.pc.toNat else 0
  let base := pc / 2 ^ 30 * 2 ^ 30
  let e0 : Tlb := ⟨k.ctx, base, 2 ^ 30, openLeaf 0⟩
  let e1 : Tlb := ⟨k.ctx, base + 2 ^ 30, 2 ^ 30, openLeaf (2 ^ 30)⟩
  { s with
    task := some k
    mem := memWriteBytes s.mem (pc % 2 ^ 30) bs
    poison := []
    tlb := e0 :: e1 :: s.tlb
    agenda := [none]
    outside := []
    icache := []
    walks := []
    preempting := none
    recalling := s.recalling.filter fun x => !(x = k)
    modl := { s.modl with bootstat := false }
    core := { s.core with
      clerk := { s.core.clerk.setPc (BitVec.ofNat 48 pc) with
        pres := BitVec.allOnes 32, kpres := BitVec.allOnes 8, unfin := [], pend := [], run := .running
        stepped := none, redo := none, latches := [], kept := [] }
      tmu := { s.core.tmu with skip := 0 } } }

/-- A stream command placed in `k0`, and `issue k0` at the PC. -/
def State.placeCommand (s : State) (w : Nat) : State :=
  let s := s.placeWord (toBytes 0x14 12)
  { s with core := { s.core with clerk := s.core.clerk.setKreg 0 (BitVec.ofNat 128 w) } }

end Sys2Proof.Machine
end

