-- ==== Sys2Proof/Machine/Dispatch.lean ====
section
/-! DEFINITION. One arm for every instruction: the direct call of its meaning. -/

namespace Sys2Proof.Machine

def exec (i : Instr) (s : State) : Host.Outcome State Fault Refusal :=
  match i with
  | .add d a b => Sys2Proof.Machine.execAdd d a b s
  | .sub d a b => Sys2Proof.Machine.execSub d a b s
  | .mul d a b => Sys2Proof.Machine.execMul d a b s
  | .mulh d a b => Sys2Proof.Machine.execMulh d a b s
  | .mulhu d a b => Sys2Proof.Machine.execMulhu d a b s
  | .div d a b => Sys2Proof.Machine.execDiv d a b s
  | .divu d a b => Sys2Proof.Machine.execDivu d a b s
  | .rem d a b => Sys2Proof.Machine.execRem d a b s
  | .remu d a b => Sys2Proof.Machine.execRemu d a b s
  | .and d a b => Sys2Proof.Machine.execAnd d a b s
  | .or d a b => Sys2Proof.Machine.execOr d a b s
  | .xor d a b => Sys2Proof.Machine.execXor d a b s
  | .andn d a b => Sys2Proof.Machine.execAndn d a b s
  | .orn d a b => Sys2Proof.Machine.execOrn d a b s
  | .sll d a b => Sys2Proof.Machine.execSll d a b s
  | .srl d a b => Sys2Proof.Machine.execSrl d a b s
  | .sra d a b => Sys2Proof.Machine.execSra d a b s
  | .rol d a b => Sys2Proof.Machine.execRol d a b s
  | .ror d a b => Sys2Proof.Machine.execRor d a b s
  | .min d a b => Sys2Proof.Machine.execMin d a b s
  | .max d a b => Sys2Proof.Machine.execMax d a b s
  | .minu d a b => Sys2Proof.Machine.execMinu d a b s
  | .maxu d a b => Sys2Proof.Machine.execMaxu d a b s
  | .seq d a b => Sys2Proof.Machine.execSeq d a b s
  | .sne d a b => Sys2Proof.Machine.execSne d a b s
  | .slt d a b => Sys2Proof.Machine.execSlt d a b s
  | .sltu d a b => Sys2Proof.Machine.execSltu d a b s
  | .sle d a b => Sys2Proof.Machine.execSle d a b s
  | .sleu d a b => Sys2Proof.Machine.execSleu d a b s
  | .clz d a => Sys2Proof.Machine.execClz d a s
  | .ctz d a => Sys2Proof.Machine.execCtz d a s
  | .popc d a => Sys2Proof.Machine.execPopc d a s
  | .sext8 d a => Sys2Proof.Machine.execSext8 d a s
  | .sext16 d a => Sys2Proof.Machine.execSext16 d a s
  | .sext32 d a => Sys2Proof.Machine.execSext32 d a s
  | .zext32 d a => Sys2Proof.Machine.execZext32 d a s
  | .bswap d a => Sys2Proof.Machine.execBswap d a s
  | .fadd d a b => Sys2Proof.Machine.execFadd d a b s
  | .fsub d a b => Sys2Proof.Machine.execFsub d a b s
  | .fmul d a b => Sys2Proof.Machine.execFmul d a b s
  | .fdiv d a b => Sys2Proof.Machine.execFdiv d a b s
  | .fsqrt d a => Sys2Proof.Machine.execFsqrt d a s
  | .fmin d a b => Sys2Proof.Machine.execFmin d a b s
  | .fmax d a b => Sys2Proof.Machine.execFmax d a b s
  | .feq d a b => Sys2Proof.Machine.execFeq d a b s
  | .flt d a b => Sys2Proof.Machine.execFlt d a b s
  | .fle d a b => Sys2Proof.Machine.execFle d a b s
  | .fma d a b => Sys2Proof.Machine.execFma d a b s
  | .fcvtF32I64 d a => Sys2Proof.Machine.execFcvtF32I64 d a s
  | .fcvtI64F32 d a => Sys2Proof.Machine.execFcvtI64F32 d a s
  | .fcvtBf16F32 d a => Sys2Proof.Machine.execFcvtBf16F32 d a s
  | .fcvtF32Bf16 d a => Sys2Proof.Machine.execFcvtF32Bf16 d a s
  | .fclass d a => Sys2Proof.Machine.execFclass d a s
  | .fabs d a => Sys2Proof.Machine.execFabs d a s
  | .fneg d a => Sys2Proof.Machine.execFneg d a s
  | .acq d a => Sys2Proof.Machine.execAcq d a s
  | .acqs d a => Sys2Proof.Machine.execAcqs d a s
  | .rel a => Sys2Proof.Machine.execRel a s
  | .bind d a b => Sys2Proof.Machine.execBind d a b s
  | .unbind d a => Sys2Proof.Machine.execUnbind d a s
  | .waitw d a b => Sys2Proof.Machine.execWaitw d a b s
  | .join d a b => Sys2Proof.Machine.execJoin d a b s
  | .leave => Sys2Proof.Machine.execLeave s
  | .cbar => Sys2Proof.Machine.execCbar s
  | .loan d a b => Sys2Proof.Machine.execLoan d a b s
  | .lstat d a => Sys2Proof.Machine.execLstat d a s
  | .spawn d a => Sys2Proof.Machine.execSpawn d a s
  | .arm d a b => Sys2Proof.Machine.execArm d a b s
  | .rls d a => Sys2Proof.Machine.execRls d a s
  | .tend => Sys2Proof.Machine.execTend s
  | .tyield => Sys2Proof.Machine.execTyield s
  | .tself d => Sys2Proof.Machine.execTself d s
  | .tage d => Sys2Proof.Machine.execTage d s
  | .tlook d a => Sys2Proof.Machine.execTlook d a s
  | .tins d a => Sys2Proof.Machine.execTins d a s
  | .tdel d a => Sys2Proof.Machine.execTdel d a s
  | .xbank a b => Sys2Proof.Machine.execXbank a b s
  | .issue k => Sys2Proof.Machine.execIssue k s
  | .issuex idx => Sys2Proof.Machine.execIssuex idx s
  | .kmov k a b => Sys2Proof.Machine.execKmov k a b s
  | .kld k a => Sys2Proof.Machine.execKld k a s
  | .kst k a => Sys2Proof.Machine.execKst k a s
  | .cfgld a b => Sys2Proof.Machine.execCfgld a b s
  | .cfgwait => Sys2Proof.Machine.execCfgwait s
  | .wbar a => Sys2Proof.Machine.execWbar a s
  | .hwait d a => Sys2Proof.Machine.execHwait d a s
  | .halloc a => Sys2Proof.Machine.execHalloc a s
  | .hfree a => Sys2Proof.Machine.execHfree a s
  | .mfs d n => Sys2Proof.Machine.execMfs d n s
  | .mts n d => Sys2Proof.Machine.execMts n d s
  | .trap n => Sys2Proof.Machine.execTrap n s
  | .trapret => Sys2Proof.Machine.execTrapret s
  | .tack => Sys2Proof.Machine.execTack s
  | .halt => Sys2Proof.Machine.execHalt s
  | .wfe => Sys2Proof.Machine.execWfe s
  | .nop => Sys2Proof.Machine.execNop s
  | .brk => Sys2Proof.Machine.execBrk s
  | .ifence => Sys2Proof.Machine.execIfence s
  | .fence scope => Sys2Proof.Machine.execFence scope s
  | .addi d a imm => Sys2Proof.Machine.execAddi d a imm s
  | .andi d a imm => Sys2Proof.Machine.execAndi d a imm s
  | .ori d a imm => Sys2Proof.Machine.execOri d a imm s
  | .xori d a imm => Sys2Proof.Machine.execXori d a imm s
  | .slli d a n => Sys2Proof.Machine.execSlli d a n s
  | .srli d a n => Sys2Proof.Machine.execSrli d a n s
  | .srai d a n => Sys2Proof.Machine.execSrai d a n s
  | .slti d a imm => Sys2Proof.Machine.execSlti d a imm s
  | .sltui d a imm => Sys2Proof.Machine.execSltui d a imm s
  | .lui d imm => Sys2Proof.Machine.execLui d imm s
  | .ld8 d a imm => Sys2Proof.Machine.execLd8 d a imm s
  | .ld16 d a imm => Sys2Proof.Machine.execLd16 d a imm s
  | .ld32 d a imm => Sys2Proof.Machine.execLd32 d a imm s
  | .ld64 d a imm => Sys2Proof.Machine.execLd64 d a imm s
  | .lds8 d a imm => Sys2Proof.Machine.execLds8 d a imm s
  | .lds16 d a imm => Sys2Proof.Machine.execLds16 d a imm s
  | .lds32 d a imm => Sys2Proof.Machine.execLds32 d a imm s
  | .st8 a d imm => Sys2Proof.Machine.execSt8 a d imm s
  | .st16 a d imm => Sys2Proof.Machine.execSt16 a d imm s
  | .st32 a d imm => Sys2Proof.Machine.execSt32 a d imm s
  | .st64 a d imm => Sys2Proof.Machine.execSt64 a d imm s
  | .beq a b off => Sys2Proof.Machine.execBeq a b off s
  | .bne a b off => Sys2Proof.Machine.execBne a b off s
  | .blt a b off => Sys2Proof.Machine.execBlt a b off s
  | .bge a b off => Sys2Proof.Machine.execBge a b off s
  | .bltu a b off => Sys2Proof.Machine.execBltu a b off s
  | .bgeu a b off => Sys2Proof.Machine.execBgeu a b off s
  | .jal d imm => Sys2Proof.Machine.execJal d imm s
  | .jalr d a imm => Sys2Proof.Machine.execJalr d a imm s
  | .amoadd d a b imm o => Sys2Proof.Machine.execAmoadd d a b imm o s
  | .amoand d a b imm o => Sys2Proof.Machine.execAmoand d a b imm o s
  | .amoor d a b imm o => Sys2Proof.Machine.execAmoor d a b imm o s
  | .amoxor d a b imm o => Sys2Proof.Machine.execAmoxor d a b imm o s
  | .amomin d a b imm o => Sys2Proof.Machine.execAmomin d a b imm o s
  | .amomax d a b imm o => Sys2Proof.Machine.execAmomax d a b imm o s
  | .amominu d a b imm o => Sys2Proof.Machine.execAmominu d a b imm o s
  | .amomaxu d a b imm o => Sys2Proof.Machine.execAmomaxu d a b imm o s
  | .amoswap d a b imm o => Sys2Proof.Machine.execAmoswap d a b imm o s
  | .amocas d a b c imm o => Sys2Proof.Machine.execAmocas d a b c imm o s
  | .amofadd d a b imm o => Sys2Proof.Machine.execAmofadd d a b imm o s
  | .li d lit => Sys2Proof.Machine.execLi d lit s
  | .lih d lit => Sys2Proof.Machine.execLih d lit s
  | .addli d a lit => Sys2Proof.Machine.execAddli d a lit s
  | .ldl w d a lit => Sys2Proof.Machine.execLdl w d a lit s
  | .stl w a d lit => Sys2Proof.Machine.execStl w a d lit s
  | .sread p f => Sys2Proof.Machine.execSread p f s
  | .swrite p f => Sys2Proof.Machine.execSwrite p f s
  | .sgather p f => Sys2Proof.Machine.execSgather p f s
  | .sscatter p f => Sys2Proof.Machine.execSscatter p f s
  | .stile p f => Sys2Proof.Machine.execStile p f s
  | .ssegt p f => Sys2Proof.Machine.execSsegt p f s
  | .scfg p r1 word => Sys2Proof.Machine.execScfg p r1 word s
  | .sbar p r1 id snap => Sys2Proof.Machine.execSbar p r1 id snap s
  | .send p r1 lvl pay err => Sys2Proof.Machine.execSend p r1 lvl pay err s
  | .sclose p r1 lvl => Sys2Proof.Machine.execSclose p r1 lvl s
  | .sgateSetPlvl p r1 lvl => Sys2Proof.Machine.execSgateSetPlvl p r1 lvl s
  | .sgateGate p r1 lvl => Sys2Proof.Machine.execSgateGate p r1 lvl s
  | .sgateUngate p r1 lvl => Sys2Proof.Machine.execSgateUngate p r1 lvl s
  | .sreq p r1 base sz => Sys2Proof.Machine.execSreq p r1 base sz s
  | .cchain e r1 head => Sys2Proof.Machine.execCchain e r1 head s
  | .cabort e => Sys2Proof.Machine.execCabort e s
  | .mload e f => Sys2Proof.Machine.execMload e f s
  | .mswap e => Sys2Proof.Machine.execMswap e s
  | .mdense e f => Sys2Proof.Machine.execMdense e f s
  | .mseg e r2 kb trec f => Sys2Proof.Machine.execMseg e r2 kb trec f s
  | .mbatch e f => Sys2Proof.Machine.execMbatch e f s
  | .mgather e desc f => Sys2Proof.Machine.execMgather e desc f s
  | .mdrain e f => Sys2Proof.Machine.execMdrain e f s
  | .mzero e r1 n bank => Sys2Proof.Machine.execMzero e r1 n bank s
  | .mbankClaim e => Sys2Proof.Machine.execMbankClaim e s
  | .mbankRelease e => Sys2Proof.Machine.execMbankRelease e s
  | .mspill e addr bank => Sys2Proof.Machine.execMspill e addr bank s
  | .mfill e addr bank => Sys2Proof.Machine.execMfill e addr bank s
  | .mstat e r1 addr clr seq => Sys2Proof.Machine.execMstat e r1 addr clr seq s
  | .tmatch r1 slot desc num => Sys2Proof.Machine.execTmatch r1 slot desc num s
  | .tmerge r1 slot num vf => Sys2Proof.Machine.execTmerge r1 slot num vf s
  | .tlogsz slot b2 => Sys2Proof.Machine.execTlogsz slot b2 s
  | .tunmerge r1 slot num vf => Sys2Proof.Machine.execTunmerge r1 slot num vf s
  | .tcompose slot sla slb => Sys2Proof.Machine.execTcompose slot sla slb s
  | .tsave slot addr => Sys2Proof.Machine.execTsave slot addr s
  | .tload slot addr => Sys2Proof.Machine.execTload slot addr s
  | .tfree slot => Sys2Proof.Machine.execTfree slot s
  | .tstat r1 addr seq => Sys2Proof.Machine.execTstat r1 addr seq s
  | .asyncResultWrite k => Sys2Proof.Machine.execAsyncResultWrite k s
  | .asyncTrap => Sys2Proof.Machine.execAsyncTrap s
  | .wfeWake => Sys2Proof.Machine.execWfeWake s
  | .accessPerform r => Sys2Proof.Machine.execAccessPerform r s
  | .bankAccess r => Sys2Proof.Machine.execBankAccess r s
  | .atomicPerform r => Sys2Proof.Machine.execAtomicPerform r s
  | .bankTransform r => Sys2Proof.Machine.execBankTransform r s
  | .compressedTileAccess r => Sys2Proof.Machine.execCompressedTileAccess r s
  | .pageLayoutDone t => Sys2Proof.Machine.execPageLayoutDone t s
  | .pageWalkEnd k => Sys2Proof.Machine.execPageWalkEnd k s
  | .tdelPerform k => Sys2Proof.Machine.execTdelPerform k s
  | .memoryTimeout r => Sys2Proof.Machine.execMemoryTimeout r s
  | .watchdogExpiry => Sys2Proof.Machine.execWatchdogExpiry s
  | .hostRequest q => Sys2Proof.Machine.execHostRequest q s
  | .objectRequest q => Sys2Proof.Machine.execObjectRequest q s
  | .objectRelease q => Sys2Proof.Machine.execObjectRelease q s
  | .recallRollback t => Sys2Proof.Machine.execRecallRollback t s
  | .launch wing v => Sys2Proof.Machine.execLaunch wing v s
  | .launchstRead wing => Sys2Proof.Machine.execLaunchstRead wing s
  | .deskctlWrite wing v => Sys2Proof.Machine.execDeskctlWrite wing v s
  | .dispatch wing => Sys2Proof.Machine.execDispatch wing s
  | .quantumPreempt core => Sys2Proof.Machine.execQuantumPreempt core s
  | .preemptSave => Sys2Proof.Machine.execPreemptSave s
  | .preemptionTimeout => Sys2Proof.Machine.execPreemptionTimeout s
  | .faultend wing v part => Sys2Proof.Machine.execFaultend wing v part s
  | .partitionSwap p v => Sys2Proof.Machine.execPartitionSwap p v s
  | .partitionSwapDone p => Sys2Proof.Machine.execPartitionSwapDone p s
  | .partcurClearError p => Sys2Proof.Machine.execPartcurClearError p s
  | .corerstDhalt => Sys2Proof.Machine.execCorerstDhalt s
  | .tokenHop row col dir trk => Sys2Proof.Machine.execTokenHop row col dir trk s
  | .mapFire row col => Sys2Proof.Machine.execMapFire row col s
  | .sfnFire row col => Sys2Proof.Machine.execSfnFire row col s
  | .redFire row col => Sys2Proof.Machine.execRedFire row col s
  | .steerFire row col => Sys2Proof.Machine.execSteerFire row col s
  | .mergeFire row col => Sys2Proof.Machine.execMergeFire row col s
  | .carryFire row col => Sys2Proof.Machine.execCarryFire row col s
  | .genEmit row col => Sys2Proof.Machine.execGenEmit row col s
  | .memFire row col => Sys2Proof.Machine.execMemFire row col s
  | .memResponse k => Sys2Proof.Machine.execMemResponse k s
  | .segFire row col => Sys2Proof.Machine.execSegFire row col s
  | .shufFire row col => Sys2Proof.Machine.execShufFire row col s
  | .convFire row col => Sys2Proof.Machine.execConvFire row col s
  | .forkFire row col => Sys2Proof.Machine.execForkFire row col s
  | .endTokenAlign row col => Sys2Proof.Machine.execEndTokenAlign row col s
  | .errorEndPass row col => Sys2Proof.Machine.execErrorEndPass row col s
  | .barrierAlign row col => Sys2Proof.Machine.execBarrierAlign row col s
  | .feConfigApply row col => Sys2Proof.Machine.execFeConfigApply row col s
  | .feGoLive row col => Sys2Proof.Machine.execFeGoLive row col s
  | .folioChange => Sys2Proof.Machine.execFolioChange s
  | .laneEmitToken p => Sys2Proof.Machine.execLaneEmitToken p s
  | .laneAbsorbToken p => Sys2Proof.Machine.execLaneAbsorbToken p s
  | .laneCommandComplete p absorb => Sys2Proof.Machine.execLaneCommandComplete p absorb s
  | .handleClaim p => Sys2Proof.Machine.execHandleClaim p s
  | .spctlUnseal p => Sys2Proof.Machine.execSpctlUnseal p s
  | .meAToken e ch => Sys2Proof.Machine.execMeAToken e ch s
  | .mePlaneToken e => Sys2Proof.Machine.execMePlaneToken e s
  | .meProductCommit e => Sys2Proof.Machine.execMeProductCommit e s
  | .meCommandComplete e => Sys2Proof.Machine.execMeCommandComplete e s
  | .mesealEnd e => Sys2Proof.Machine.execMesealEnd e s
  | .tmuInToken => Sys2Proof.Machine.execTmuInToken s
  | .tmuCommandComplete => Sys2Proof.Machine.execTmuCommandComplete s
  | .tmsealEnd => Sys2Proof.Machine.execTmsealEnd s
  | .ceChainStart e head => Sys2Proof.Machine.execCeChainStart e head s
  | .ceClearError e => Sys2Proof.Machine.execCeClearError e s
  | .ceAbort e => Sys2Proof.Machine.execCeAbort e s
  | .ceResume e => Sys2Proof.Machine.execCeResume e s
  | .ceKick e => Sys2Proof.Machine.execCeKick e s
  | .copyRecordRead e => Sys2Proof.Machine.execCopyRecordRead e s
  | .copyHandleReady e => Sys2Proof.Machine.execCopyHandleReady e s
  | .copyRecordComplete e => Sys2Proof.Machine.execCopyRecordComplete e s
  | .copyRecordStop e => Sys2Proof.Machine.execCopyRecordStop e s
  | .copyBoundaryStop e n => Sys2Proof.Machine.execCopyBoundaryStop e n s
  | .xinvWrite v => Sys2Proof.Machine.execXinvWrite v s
  | .xinvComplete => Sys2Proof.Machine.execXinvComplete s
  | .xinvstatClearError => Sys2Proof.Machine.execXinvstatClearError s
  | .ctxkillGo ctx => Sys2Proof.Machine.execCtxkillGo ctx s
  | .ctxkillDone => Sys2Proof.Machine.execCtxkillDone s
  | .ctxkillClearError => Sys2Proof.Machine.execCtxkillClearError s
  | .tagcfgWrite v => Sys2Proof.Machine.execTagcfgWrite v s
  | .cpdescWrite t v => Sys2Proof.Machine.execCpdescWrite t v s
  | .ownreqRequest m enter => Sys2Proof.Machine.execOwnreqRequest m enter s
  | .ownreqClrerr m => Sys2Proof.Machine.execOwnreqClrerr m s
  | .ownpass m v => Sys2Proof.Machine.execOwnpass m v s
  | .ownershipGrant => Sys2Proof.Machine.execOwnershipGrant s
  | .masterLinkDown m => Sys2Proof.Machine.execMasterLinkDown m s
  | .wpwrWrite wing code => Sys2Proof.Machine.execWpwrWrite wing code s
  | .clockChangeEffect wing => Sys2Proof.Machine.execClockChangeEffect wing s
  | .powerLimitStepDown draw => Sys2Proof.Machine.execPowerLimitStepDown draw s
  | .attestationRequest => Sys2Proof.Machine.execAttestationRequest s
  | .attestationReportDone => Sys2Proof.Machine.execAttestationReportDone s
  | .bootFirmwareCheck good => Sys2Proof.Machine.execBootFirmwareCheck good s
  | .eccstatRead wing => Sys2Proof.Machine.execEccstatRead wing s
  | .spanFlitReceive port good => Sys2Proof.Machine.execSpanFlitReceive port good s
  | .spanPortTrain port lanes8 => Sys2Proof.Machine.execSpanPortTrain port lanes8 s
  | .nvmeWriteComplete e good => Sys2Proof.Machine.execNvmeWriteComplete e good s
  | .niMessageSend => Sys2Proof.Machine.execNiMessageSend s
  | .niMessageDeliver => Sys2Proof.Machine.execNiMessageDeliver s
  | .controlRegisterWrite off wide v => Sys2Proof.Machine.execControlRegisterWrite off wide v s
  | .debugInterfaceResume => Sys2Proof.Machine.execDebugInterfaceResume s

end Sys2Proof.Machine
end

