-- ==== Sys2Proof/Machine/Step.lean ====
section
/-! DEFINITION. One step of the machine: the head of the agenda moves. -/

namespace Sys2Proof.Machine

/-- The clerk's turn: it takes a trap, waits, or performs the instruction at its PC. -/
def clerkStep (s : State) : Host.Outcome State Fault Refusal :=
  match s.clerkTurn with
  | .error t => .next t
  | .ok (i, t) =>
    match exec i (t.prepare i) with
    | .next u => .next (t.settle i u)
    | .fault f => .fault f
    | .refused r => .refused r

/-- Another agent's step. A module that stays in reset answers its masters, and does nothing else (R342). -/
def agentStep (i : Instr) (s : State) : Host.Outcome State Fault Refusal :=
  if !i.isStep then .fault .agendaHoldsInstruction
  else if s.modl.bootstat && !Instr.inReset i then .next s
  else exec i s

/-- The agenda refilled after a step that found it empty. -/
def afterTurn (o : Host.Outcome State Fault Refusal) : Host.Outcome State Fault Refusal :=
  match o with
  | .next s => .next s.refill
  | .fault f => .fault f
  | .refused r => .refused r

/-- One step of the machine's own agents: the head of the agenda moves; with an empty agenda the clerk has its turn and a
round of the other agents follows. -/
def innerStep (s : State) : Host.Outcome State Fault Refusal :=
  match s.agenda with
  | some i :: t => agentStep i { s with agenda := t }.tick
  | none :: t => clerkStep { s with agenda := t }.tick
  | [] => afterTurn (clerkStep s.tick)

/-- One step: time passes, and what the list of outside events names first happens, or an agent of the machine moves. -/
def step (s : State) : Host.Outcome State Fault Refusal :=
  match s.outside with
  | o :: t => .next (outsideStep o { s with outside := t }.tick)
  | [] => innerStep s

/-- `s` with an instruction placed where the next step fetches it; a 128-bit word is a stream command. -/
def State.withFetchWord (s : State) (nbits w : Nat) : State :=
  if nbits == 128 then s.placeCommand (w % 2 ^ 128) else s.placeWord (toBytes (w % 2 ^ nbits) 12)

end Sys2Proof.Machine
end

