-- ==== Sys2Proof/Certificates/Slice0/Obligations.lean ====
section
/-! DEFINITION. The statements for the provers. Each says in its docstring which rules of spec/ it states; the
predicates they share stand first. -/

namespace Sys2Proof.Claims

open Sys2Proof Sys2Proof.Machine

/-- A step that answers a next state. -/
abbrev Result := Host.Outcome State Fault Refusal

/-- Words of class A, of class B and of its J variant, by the fields of the spec's tables (R201, R202). -/
def classA (func : Nat) (b a d : Reg) (major : Nat) : Word :=
  BitVec.ofNat 32 (func * 0x800000 + b.toNat * 0x40000 + a.toNat * 0x2000 + d.toNat * 0x100 + major * 4)

def classB (imm : BitVec 14) (a d : Reg) (major : Nat) : Word :=
  BitVec.ofNat 32 (imm.toNat * 0x40000 + a.toNat * 0x2000 + d.toNat * 0x100 + major * 4 + 1)

def classJ (imm : BitVec 19) (d : Reg) (major : Nat) : Word :=
  BitVec.ofNat 32 (imm.toNat * 0x2000 + d.toNat * 0x100 + major * 4 + 1)

/-- The result is a next state in which scalar register `d` holds `v` (`s0` still reads 0), every other scalar
register holds what it held, the PC has gone on by `n` bytes, and nothing else of the whole state has changed. -/
def WritesReg (s : State) (o : Result) (d : Reg) (v : Dword) (n : Nat) : Prop :=
  ∃ t, o = .next t ∧
    t.reg d = (if d = 0 then 0 else v) ∧ (∀ r, r ≠ d → t.reg r = s.reg r) ∧
    t.core.clerk.pc = s.core.clerk.pc + BitVec.ofNat 48 n ∧
    t = { s with core := { s.core with clerk :=
      { s.core.clerk with regs := t.core.clerk.regs, pc := t.core.clerk.pc } } }

/-- The result is a next state whose PC is `pc` and which differs from `s` in nothing else. -/
def OnlyPc (s : State) (o : Result) (pc : BitVec 48) : Prop :=
  o = .next { s with core := { s.core with clerk := { s.core.clerk with pc := pc } } }

/-- The result is a next state in which a precise cause has been taken from `s`: the clerk is in supervisor mode at
TVEC, the cause and its address stand in CAUSE and FADDRESS, which are frozen, and nothing is left unfinished. Where
nothing was unfinished before, every scalar register keeps its value; and outside the trap area of the own core
every byte of memory reads as before. -/
def Traps (s : State) (o : Result) (cause addr : Nat) : Prop :=
  ∃ t, o = .next t ∧ t.core.clerk.mode = .supervisor ∧ t.core.clerk.frozen = true ∧
    t.core.clerk.pc = s.core.clerk.tvec.setWidth 48 &&& ~~~3 ∧
    t.core.clerk.cause = BitVec.ofNat 64 cause ∧ t.core.clerk.faddress = BitVec.ofNat 64 addr ∧
    t.core.clerk.unfin = [] ∧
    (s.core.clerk.unfin = [] → ∀ r, t.reg r = s.reg r) ∧
    (Memory.wf s.mem = true → ∀ k, k < scratchKey s.coreId trapArea ∨ scratchKey s.coreId (trapArea + 0x240) ≤ k →
      memGet t.mem k = memGet s.mem k)

/-- The result is a next state in which one more instruction has issued and stays unfinished (R200, R230): from
state `b`, which the instruction at the PC of `s` reached by passing its checks, the list of unfinished
instructions has one more entry, with that PC, destination `d`, address `ea` and work `w`; the destination is
empty; registers, PC and memory are those of `b`. -/
def Issued (s b : State) (o : Result) (kd : Bool) (d : Reg) (ea : Nat) (w : Work) (done : Option Qword) : Prop :=
  ∃ t u, o = .next t ∧ t.core.clerk.unfin = b.core.clerk.unfin ++ [u] ∧
    u.work = w ∧ u.done = done ∧ u.pc = s.core.clerk.pc ∧ u.kd = kd ∧ u.dest = d ∧ u.ea = ea ∧
    (if kd then t.core.clerk.kpresent (d.setWidth 3) = false else d ≠ 0 → t.core.clerk.present d = false) ∧
    t.core.clerk.regs = b.core.clerk.regs ∧ t.core.clerk.kregs = b.core.clerk.kregs ∧
    t.core.clerk.pc = b.core.clerk.pc ∧ t.mem = b.mem

/-- The same for an instruction whose value is known at issue: it is written when it finishes. -/
def Answered (s b : State) (o : Result) (d : Reg) (ea : Nat) (v : Dword) : Prop :=
  Issued s b o false d ea (.result v) (some (v.setWidth 128))

/-- An instruction that issues in `s` is checked at its issue (R32, R100, R200; log 123, DEDUCED): the page that it names, if
it names one, has no walk to wait for, and no instruction before it is one that it is checked behind. -/
abbrev ChecksNow (s : State) (page : Option Nat) : Prop :=
  page.any (s.walkHeld s.ctx) = false ∧ s.core.clerk.unfin.any Unfin.setsRules = false

/-- The clerk's `k`-th unfinished instruction is `u`; its checks have been made, it has no value yet, and no instruction before
it holds it back. -/
abbrev Due (s : State) (k : Nat) (u : Unfin) : Prop :=
  s.unfin k = some u ∧ u.done = none ∧ u.unchecked = false ∧ s.mayPerform k = true

/-- A load, store or atomic: what it does, its width, its effective address (R232, R235), its length, whether its
destination is a command register, its destination, and its work at a place. -/
structure Access where
  kind : AccKind
  n : Nat
  ea : Nat
  len : Nat
  kd : Bool
  dest : Reg
  work : Place → Work

def atomicForm (s : State) (op : AtomicOp) (d a b : Reg) (m : BitVec 16) (c : Dword) (o : AmoOrder) : Access :=
  ⟨.atomic, if o.wide then 8 else 4, (s.reg a + m.signExtend 64).toNat, 8, false, d,
    fun pl => .atomic op pl (s.reg b) c o⟩

def loadForm (w : LoadWidth) (d : Reg) (ea len : Nat) : Access :=
  ⟨.load, w.bytes, ea, len, false, d, .load w⟩

def storeForm (s : State) (n : Nat) (d : Reg) (ea len : Nat) : Access :=
  ⟨.store, n, ea, len, false, 0, fun pl => .store n pl ((s.reg d).toNat % 2 ^ (8 * n))⟩

/-- The accesses of R233 to R235 and of `kld` and `kst` (R250). -/
def access (s : State) : Instr → Option Access
  | .ld8 d a m => some (loadForm .u8 d (s.reg a + m.signExtend 64).toNat 4)
  | .ld16 d a m => some (loadForm .u16 d (s.reg a + m.signExtend 64).toNat 4)
  | .ld32 d a m => some (loadForm .u32 d (s.reg a + m.signExtend 64).toNat 4)
  | .ld64 d a m => some (loadForm .u64 d (s.reg a + m.signExtend 64).toNat 4)
  | .lds8 d a m => some (loadForm .s8 d (s.reg a + m.signExtend 64).toNat 4)
  | .lds16 d a m => some (loadForm .s16 d (s.reg a + m.signExtend 64).toNat 4)
  | .lds32 d a m => some (loadForm .s32 d (s.reg a + m.signExtend 64).toNat 4)
  | .ldl w d a l => some (loadForm w d (s.reg a + l.signExtend 64).toNat 12)
  | .st8 a d m => some (storeForm s 1 d (s.reg a + m.signExtend 64).toNat 4)
  | .st16 a d m => some (storeForm s 2 d (s.reg a + m.signExtend 64).toNat 4)
  | .st32 a d m => some (storeForm s 4 d (s.reg a + m.signExtend 64).toNat 4)
  | .st64 a d m => some (storeForm s 8 d (s.reg a + m.signExtend 64).toNat 4)
  | .stl w a d l => some (storeForm s w.bytes d (s.reg a + l.signExtend 64).toNat 12)
  | .amoadd d a b m o => some (atomicForm s .add d a b m 0 o)
  | .amoand d a b m o => some (atomicForm s .and d a b m 0 o)
  | .amoor d a b m o => some (atomicForm s .or d a b m 0 o)
  | .amoxor d a b m o => some (atomicForm s .xor d a b m 0 o)
  | .amomin d a b m o => some (atomicForm s .min d a b m 0 o)
  | .amomax d a b m o => some (atomicForm s .max d a b m 0 o)
  | .amominu d a b m o => some (atomicForm s .minu d a b m 0 o)
  | .amomaxu d a b m o => some (atomicForm s .maxu d a b m 0 o)
  | .amoswap d a b m o => some (atomicForm s .swap d a b m 0 o)
  | .amocas d a b c m o => some (atomicForm s .cas d a b m (s.reg c) o)
  | .amofadd d a b m o => some (atomicForm s .fadd d a b m 0 o)
  | .kld k a => some ⟨.load, 16, (s.reg a).toNat, 4, true, k.setWidth 5, .loadK⟩
  | .kst k a => some ⟨.store, 16, (s.reg a).toNat, 4, false, 0, fun pl => .store 16 pl (s.kreg k).toNat⟩
  | _ => none

/-- A floating-point instruction with destination `d`, result `v` and raised flags `f`: with none of them enabled
the result is written and the flags are ORed into FPSTAT; with one enabled it traps with 0x09, the raised flags ORed into
FPSTAT and given in the detail word, the destination as it was (R66, R222). -/
def FpResult (s : State) (o : Result) (d : Reg) (v : Nat) (f : FFlags) : Prop :=
  let raised := s.updClerk fun c => { c with fpstat := c.fpstat ||| f.setWidth 64 }
  (f &&& s.core.clerk.fpctl.extractLsb' 8 5 = 0 → WritesReg raised o d (BitVec.ofNat 64 v) 4) ∧
  (f &&& s.core.clerk.fpctl.extractLsb' 8 5 ≠ 0 → s.core.clerk.frozen = false → Traps raised o 0x09 0 ∧
    ∃ t, o = .next t ∧ (Memory.wf s.mem = true → t.trapRd 32 8 = f.toNat) ∧
      (s.core.clerk.unfin = [] → t.core.clerk.fpstat = s.core.clerk.fpstat ||| f.setWidth 64))

end Sys2Proof.Claims

open Sys2Proof Sys2Proof.Machine Sys2Proof.Claims

/-! ### Encodings -/

/-- Words written out from the spec's encodings decode to the instructions they stand for (R204, R218, R220, R227,
R234, R236, R250). -/
def Obligations.DecodedWords : Prop :=
  decode 0x050C4404 0 0 = .ok (.fma 4 2 3) ∧
  decode 0x0100001C 0 0 = .ok (.fence .w) ∧
  decode 0x00800314 0 0 = .ok (.issuex 3) ∧
  decode 0x00020518 0 0 = .ok (.mfs 5 0x010) ∧
  decode 0x000CA655 0 0 = .ok (.beq 5 6 3) ∧
  decode 0xFFF8A655 0 0 = .ok (.beq 5 6 (-2)) ∧
  decode 0x00081F6D 0 0 = .ok (.jal 31 64) ∧
  decode 0x001CC502 0x00080017 0 = .ok (.amoadd 5 6 7 8 ⟨.acq, .m, true⟩) ∧
  decode 0x0000A60F 0x00000003 0x00020000 = .ok (.ldl .u64 6 5 0x00020000) ∧
  decode 0x03316A00 0 0 = .ok (.divu 10 11 12) ∧
  decode 0x76542525 0 0 = .ok (.lui 5 0x3B2A1) ∧
  decode 0x00202651 0 0 = .ok (.st64 1 6 8) ∧
  decode 0x0118A114 0 0 = .ok (.kmov 1 5 6) ∧
  decode 0 0 0 = .ok (.add 0 0 0)

/-- Every clerk instruction is read back from its own words, with every operand at every value that its encoding
admits (R197 to R204). -/
def Obligations.ClerkEncodingsRoundTrip : Prop :=
  ∀ i : Instr, i.wf = true → 0 < (encode i).length → (encode i).length ≤ 3 →
    ∀ v l : Word, decode ((encode i).getD 0 0) ((encode i).getD 1 v) ((encode i).getD 2 l) = .ok i

/-- Every stream command is read back from its own four words (R209 to R211). -/
def Obligations.CommandEncodingsRoundTrip : Prop :=
  ∀ i : Instr, i.wf = true → (encode i).length = 4 →
    decodeCommand (BitVec.ofNat 128 (encodeCommand i)) = .ok i

/-- A step of the clerk is `exec` of the instruction that the words at its PC decode to. With no outside event to
happen first (log 96), an agenda (the model's order of steps, log 8) whose head is the clerk's turn, a task on the
core of a module that is not held in reset, nothing that stops the clerk (the store of R347 to FAULTEND among it), no cause
to take, no end that the TMU has still to discard (R313; log 116, DEDUCED), nothing to perform again, no page walk to wait for
and no single step to report: where the words fetched decode to `i` and `i` may issue, `step` is `exec i` from the state after the
fetch, with no more after it than the mark of a single step. Where they decode to none, it traps with 0x01 or 0x02 at
the PC once fewer than 16 instructions are unfinished, and where the fetch fails, with the cause and address of its
failure (R197, R200, R205). -/
def Obligations.StepRunsTheDecodedInstruction : Prop :=
  ∀ (s u t : State) (rest : List (Option Instr)) (ws : List Word),
    s.outside = [] → s.agenda = none :: rest → u = State.tick { s with agenda := rest } →
    u.task.isSome = true → u.clerkGated = false → u.modl.bootstat = false → u.endsItself = false →
    u.core.clerk.run = .running →
    u.core.clerk.steppedNow = none → u.asyncReady = false → u.core.tmu.skip = 0 → u.core.clerk.redo = none → u.fetchHeld = false →
    let read := decode (ws.getD 0 0) (ws.getD 1 0) (ws.getD 2 0)
    (∀ i, u.fetch = .ok (ws, t) → read = .ok i → t.mayIssue i = true → t.core.clerk.stepping = false →
      step s = exec i t) ∧
    (∀ r, u.fetch = .ok (ws, t) → read = .error r → u.core.clerk.unfin.length < 16 →
      t.core.clerk.frozen = false →
      Traps t (step s) (match r with
        | .illegal => 0x01
        | .reserved => 0x02) t.core.clerk.pc.toNat) ∧
    ∀ f, u.fetch = .error f → f.st.core.clerk.frozen = false → f.flt.cause < 256 →
      Traps f.st (step s) f.flt.cause (f.flt.addr % 2 ^ 48)

/-! ### Integer forms -/

/-- Two-source integer forms, with their encodings (R216). With a nonzero divisor the quotients go toward zero and the
remainders take the sign of the dividend. -/
def Obligations.IntegerRegisterForms : Prop :=
  ∀ (d a b : Reg) (v l : Word) (s : State), let x := s.reg a; let y := s.reg b
    (∀ k, k < 29 → some (decode (classA k b a d 0x00) v l) = ([.add d a b, .sub d a b, .mul d a b, .mulh d a b,
      .mulhu d a b, .div d a b, .divu d a b, .rem d a b, .remu d a b, .and d a b, .or d a b, .xor d a b, .andn d a b,
      .orn d a b, .sll d a b, .srl d a b, .sra d a b, .rol d a b, .ror d a b, .min d a b, .max d a b, .minu d a b,
      .maxu d a b, .seq d a b, .sne d a b, .slt d a b, .sltu d a b, .sle d a b, .sleu d a b] : List Instr)[k]?.map
        .ok) ∧
    (y ≠ 0 →
      WritesReg s (exec (.div d a b) s) d (BitVec.ofInt 64 (x.toInt.tdiv y.toInt)) 4 ∧
      WritesReg s (exec (.divu d a b) s) d (BitVec.ofNat 64 (x.toNat / y.toNat)) 4 ∧
      WritesReg s (exec (.rem d a b) s) d (BitVec.ofInt 64 (x.toInt - y.toInt * x.toInt.tdiv y.toInt)) 4 ∧
      WritesReg s (exec (.remu d a b) s) d (BitVec.ofNat 64 (x.toNat - y.toNat * (x.toNat / y.toNat))) 4) ∧
    WritesReg s (exec (.add d a b) s) d (x + y) 4 ∧
    WritesReg s (exec (.sub d a b) s) d (x - y) 4 ∧
    WritesReg s (exec (.mul d a b) s) d (BitVec.ofNat 64 (x.toNat * y.toNat)) 4 ∧
    WritesReg s (exec (.mulh d a b) s) d (BitVec.ofInt 64 (x.toInt * y.toInt / 2 ^ 64)) 4 ∧
    WritesReg s (exec (.mulhu d a b) s) d (BitVec.ofNat 64 (x.toNat * y.toNat / 2 ^ 64)) 4 ∧
    WritesReg s (exec (.and d a b) s) d (x &&& y) 4 ∧
    WritesReg s (exec (.or d a b) s) d (x ||| y) 4 ∧
    WritesReg s (exec (.xor d a b) s) d (x ^^^ y) 4 ∧
    WritesReg s (exec (.andn d a b) s) d (x &&& ~~~y) 4 ∧
    WritesReg s (exec (.orn d a b) s) d (x ||| ~~~y) 4 ∧
    WritesReg s (exec (.sll d a b) s) d (x <<< (y.toNat % 64)) 4 ∧
    WritesReg s (exec (.srl d a b) s) d (x >>> (y.toNat % 64)) 4 ∧
    WritesReg s (exec (.sra d a b) s) d (x.sshiftRight (y.toNat % 64)) 4 ∧
    WritesReg s (exec (.rol d a b) s) d (x <<< (y.toNat % 64) ||| x >>> (64 - y.toNat % 64)) 4 ∧
    WritesReg s (exec (.ror d a b) s) d (x >>> (y.toNat % 64) ||| x <<< (64 - y.toNat % 64)) 4 ∧
    WritesReg s (exec (.min d a b) s) d (if x.toInt ≤ y.toInt then x else y) 4 ∧
    WritesReg s (exec (.max d a b) s) d (if x.toInt ≤ y.toInt then y else x) 4 ∧
    WritesReg s (exec (.minu d a b) s) d (if x.toNat ≤ y.toNat then x else y) 4 ∧
    WritesReg s (exec (.maxu d a b) s) d (if x.toNat ≤ y.toNat then y else x) 4 ∧
    WritesReg s (exec (.seq d a b) s) d (if x = y then 1 else 0) 4 ∧
    WritesReg s (exec (.sne d a b) s) d (if x = y then 0 else 1) 4 ∧
    WritesReg s (exec (.slt d a b) s) d (if x.toInt < y.toInt then 1 else 0) 4 ∧
    WritesReg s (exec (.sltu d a b) s) d (if x.toNat < y.toNat then 1 else 0) 4 ∧
    WritesReg s (exec (.sle d a b) s) d (if x.toInt ≤ y.toInt then 1 else 0) 4 ∧
    WritesReg s (exec (.sleu d a b) s) d (if x.toNat ≤ y.toNat then 1 else 0) 4

/-- Division (R217). A zero divisor traps precisely with 0x0A and address 0, in FADDRESS and in the frame, and no scalar register
is written but by an instruction that had finished before: sd keeps its value, whatever else is unfinished.
−2^63 by −1 gives −2^63 and 0, with no trap. In every other case the identity holds exactly, with a remainder smaller
than the divisor, and the quotients are those of R216. -/
def Obligations.Division : Prop :=
  ∀ (d a b : Reg) (s : State), let x := s.reg a; let y := s.reg b
    (y ≠ 0 →
      WritesReg s (exec (.div d a b) s) d (BitVec.ofInt 64 (x.toInt.tdiv y.toInt)) 4 ∧
      WritesReg s (exec (.divu d a b) s) d (BitVec.ofNat 64 (x.toNat / y.toNat)) 4 ∧
      WritesReg s (exec (.rem d a b) s) d (BitVec.ofInt 64 (x.toInt.tmod y.toInt)) 4 ∧
      WritesReg s (exec (.remu d a b) s) d (BitVec.ofNat 64 (x.toNat % y.toNat)) 4) ∧
    (x = BitVec.ofInt 64 (-2 ^ 63) → y = -1 →
      WritesReg s (exec (.div d a b) s) d x 4 ∧ WritesReg s (exec (.rem d a b) s) d 0 4) ∧
    (y ≠ 0 → ¬ (x = BitVec.ofInt 64 (-2 ^ 63) ∧ y = -1) → ∃ q r : Dword,
      WritesReg s (exec (.div d a b) s) d q 4 ∧ WritesReg s (exec (.rem d a b) s) d r 4 ∧
      x.toInt = y.toInt * q.toInt + r.toInt ∧ r.toInt.natAbs < y.toInt.natAbs) ∧
    (y ≠ 0 → ∃ q r : Dword,
      WritesReg s (exec (.divu d a b) s) d q 4 ∧ WritesReg s (exec (.remu d a b) s) d r 4 ∧
      x.toNat = y.toNat * q.toNat + r.toNat ∧ r.toNat < y.toNat) ∧
    (y = 0 → s.core.clerk.frozen = false →
      Traps s (exec (.div d a b) s) 0x0A 0 ∧ Traps s (exec (.divu d a b) s) 0x0A 0 ∧
      Traps s (exec (.rem d a b) s) 0x0A 0 ∧ Traps s (exec (.remu d a b) s) 0x0A 0 ∧
      ∀ i ∈ ([.div d a b, .divu d a b, .rem d a b, .remu d a b] : List Instr), ∃ t, exec i s = .next t ∧
        (Memory.wf s.mem = true → t.trapRd 8 8 = 0) ∧
        ∀ r, (∀ u ∈ s.core.clerk.unfin, u.kd = true ∨ u.dest ≠ r) → t.reg r = s.reg r)

/-- One-source integer forms, with their encodings, in which a nonzero sb is reserved (R218). -/
def Obligations.OneSourceForms : Prop :=
  ∀ (d a b : Reg) (v l : Word) (s : State), let x := s.reg a
    (∀ k, k < 8 → some (decode (classA (29 + k) 0 a d 0x00) v l) = ([.clz d a, .ctz d a, .popc d a, .sext8 d a,
      .sext16 d a, .sext32 d a, .zext32 d a, .bswap d a] : List Instr)[k]?.map .ok) ∧
    (∀ k, k < 8 → b ≠ 0 → decode (classA (29 + k) b a d 0x00) v l = .error .reserved) ∧
    (∃ n : Nat, WritesReg s (exec (.clz d a) s) d (BitVec.ofNat 64 n) 4 ∧ n ≤ 64 ∧
      (∀ k, 64 - n ≤ k → x.getLsbD k = false) ∧ (n < 64 → x.getLsbD (63 - n) = true)) ∧
    (∃ n : Nat, WritesReg s (exec (.ctz d a) s) d (BitVec.ofNat 64 n) 4 ∧ n ≤ 64 ∧
      (∀ k, k < n → x.getLsbD k = false) ∧ (n < 64 → x.getLsbD n = true)) ∧
    WritesReg s (exec (.popc d a) s) d (BitVec.ofNat 64 ((List.range 64).countP fun k => x.getLsbD k)) 4 ∧
    WritesReg s (exec (.sext8 d a) s) d ((x.setWidth 8).signExtend 64) 4 ∧
    WritesReg s (exec (.sext16 d a) s) d ((x.setWidth 16).signExtend 64) 4 ∧
    WritesReg s (exec (.sext32 d a) s) d ((x.setWidth 32).signExtend 64) 4 ∧
    WritesReg s (exec (.zext32 d a) s) d (BitVec.ofNat 64 (x.toNat % 2 ^ 32)) 4 ∧
    (∃ v : Dword, WritesReg s (exec (.bswap d a) s) d v 4 ∧
      ∀ k, k < 8 → v.extractLsb' (8 * k) 8 = x.extractLsb' (8 * (7 - k)) 8)

/-- Immediate forms, `lui`, `li`, `lih` and `addli`, with their encodings; in a shift the upper bits of the immediate
must be zero, a WID other than 0 is illegal, and a nonzero sa of `li` or `lih` or a nonzero reserved bit is reserved
(R219 to R221). -/
def Obligations.ImmediateForms : Prop :=
  ∀ (d a : Reg) (i : BitVec 14) (n : BitVec 6) (j : BitVec 19) (w l : Word) (s : State),
    let x := s.reg a; let y : Dword := i.signExtend 64; let ni : BitVec 14 := n.setWidth 14
    let long (h : BitVec 14) (m : Nat) : Word :=
      BitVec.ofNat 32 (h.toNat * 0x40000 + a.toNat * 0x2000 + d.toNat * 0x100 + m * 4 + 3)
    decode (classB i a d 0x00) w l = .ok (.addi d a i) ∧ decode (classB i a d 0x01) w l = .ok (.andi d a i) ∧
    decode (classB i a d 0x02) w l = .ok (.ori d a i) ∧ decode (classB i a d 0x03) w l = .ok (.xori d a i) ∧
    decode (classB ni a d 0x04) w l = .ok (.slli d a n) ∧ decode (classB ni a d 0x05) w l = .ok (.srli d a n) ∧
    decode (classB ni a d 0x06) w l = .ok (.srai d a n) ∧ decode (classB i a d 0x07) w l = .ok (.slti d a i) ∧
    decode (classB i a d 0x08) w l = .ok (.sltui d a i) ∧ decode (classJ j d 0x09) w l = .ok (.lui d j) ∧
    (64 ≤ i.toNat → ∀ m, 4 ≤ m → m ≤ 6 → decode (classB i a d m) w l = .error .reserved) ∧
    (a = 0 → decode (long 0 0) 0 l = .ok (.li d l) ∧ decode (long 0 1) 0 l = .ok (.lih d l)) ∧
    decode (long 0 2) 0 l = .ok (.addli d a l) ∧
    (∀ m, m < 3 → (w.toNat % 8 ≠ 0 → decode (long i m) w l = .error .illegal) ∧
      (w.toNat % 8 = 0 → (i ≠ 0 ∨ w ≠ 0 ∨ (m ≠ 2 ∧ a ≠ 0)) → decode (long i m) w l = .error .reserved)) ∧
    WritesReg s (exec (.addi d a i) s) d (x + y) 4 ∧
    WritesReg s (exec (.andi d a i) s) d (x &&& y) 4 ∧
    WritesReg s (exec (.ori d a i) s) d (x ||| y) 4 ∧
    WritesReg s (exec (.xori d a i) s) d (x ^^^ y) 4 ∧
    WritesReg s (exec (.slli d a n) s) d (x <<< n.toNat) 4 ∧
    WritesReg s (exec (.srli d a n) s) d (x >>> n.toNat) 4 ∧
    WritesReg s (exec (.srai d a n) s) d (x.sshiftRight n.toNat) 4 ∧
    WritesReg s (exec (.slti d a i) s) d (if x.toInt < y.toInt then 1 else 0) 4 ∧
    WritesReg s (exec (.sltui d a i) s) d (if x.toNat < y.toNat then 1 else 0) 4 ∧
    WritesReg s (exec (.lui d j) s) d (BitVec.ofInt 64 (j.toInt * 2 ^ 13)) 4 ∧
    WritesReg s (exec (.li d l) s) d (BitVec.ofInt 64 l.toInt) 12 ∧
    WritesReg s (exec (.lih d l) s) d (BitVec.ofNat 64 (l.toNat * 2 ^ 32 + (s.reg d).toNat % 2 ^ 32)) 12 ∧
    WritesReg s (exec (.addli d a l) s) d (x + BitVec.ofInt 64 l.toInt) 12

/-! ### Branches and jumps -/

/-- Conditional branches, with their encodings: taken, the PC is the instruction's own plus four times the signed offset,
modulo 2^48, and else plus 4; nothing else changes (R226). -/
def Obligations.ConditionalBranches : Prop :=
  ∀ (a b : Reg) (off : BitVec 14) (v l : Word) (s : State), s.core.clerk.pc.toNat % 4 = 0 →
    let x := s.reg a; let y := s.reg b
    (∀ k, k < 6 → some (decode (classB off a b (0x15 + k)) v l) = ([.beq a b off, .bne a b off, .blt a b off,
      .bge a b off, .bltu a b off, .bgeu a b off] : List Instr)[k]?.map .ok) ∧
    let goes (c : Prop) [Decidable c] : BitVec 48 :=
      if c then s.core.clerk.pc + BitVec.ofInt 48 (4 * off.toInt) else s.core.clerk.pc + 4
    OnlyPc s (exec (.beq a b off) s) (goes (x = y)) ∧
    OnlyPc s (exec (.bne a b off) s) (goes (x ≠ y)) ∧
    OnlyPc s (exec (.blt a b off) s) (goes (x.toInt < y.toInt)) ∧
    OnlyPc s (exec (.bge a b off) s) (goes (y.toInt ≤ x.toInt)) ∧
    OnlyPc s (exec (.bltu a b off) s) (goes (x.toNat < y.toNat)) ∧
    OnlyPc s (exec (.bgeu a b off) s) (goes (y.toNat ≤ x.toNat))

/-- `jal` and `jalr` with a good target: the link is the PC plus 4, the target of `jalr` is read before the link is
written, and every other register and all else stays (R227). A misaligned target traps with 0x03 and one beyond 48
bits with 0x04. -/
def Obligations.Jumps : Prop :=
  ∀ (d a : Reg) (i : BitVec 19) (k : BitVec 14) (s : State), s.core.clerk.pc.toNat % 4 = 0 → let t := s.reg a + BitVec.signExtend 64 k
    let linked (o : Result) (pc : BitVec 48) : Prop :=
      o = .next ((s.setReg d ((s.core.clerk.pc + 4).setWidth 64)).updClerk fun c => { c with pc := pc })
    linked (exec (.jal d i) s) (s.core.clerk.pc + BitVec.ofInt 48 (4 * i.toInt)) ∧
    (t.toNat % 4 = 0 → t.toNat < 2 ^ 48 → linked (exec (.jalr d a k) s) (t.setWidth 48)) ∧
    (t.toNat % 4 ≠ 0 → s.core.clerk.frozen = false → Traps s (exec (.jalr d a k) s) 0x03 (t.toNat % 2 ^ 48)) ∧
    (t.toNat % 4 = 0 → 2 ^ 48 ≤ t.toNat → s.core.clerk.frozen = false →
      Traps s (exec (.jalr d a k) s) 0x04 (t.toNat % 2 ^ 48))

/-! ### Scalar floating point -/

/-- Scalar floating point (R66, R222 to R225): the operations on FP32 operands, rounded by FPCTL.RM, `fma` with c from
the old destination. With no flag enabled in FPCTL every one of them completes, on any operands: the result is written, the
raised flags are ORed into FPSTAT, and the clerk goes on. With a raised flag enabled they trap with 0x09, the raised flags
in the detail word and ORed into FPSTAT all the same. `fclass` tells an integral
value by its bit 4 (R225). `fabs`, `fneg` and `fclass` write their results and raise no flag, even for a signalling NaN. -/
def Obligations.FloatForms : Prop :=
  ∀ (d a b : Reg) (s : State),
    let w := (s.reg a).setWidth 32
    let x := (s.reg a).toNat % 2 ^ 32; let y := (s.reg b).toNat % 2 ^ 32; let z := (s.reg d).toNat % 2 ^ 32
    let rm := Rnd.ofCode (s.core.clerk.fpctl.toNat % 4)
    let two (o : Result) (r : Nat × FFlags) : Prop := FpResult s o d r.1 r.2
    let cmp (o : Result) (r : Bool × FFlags) : Prop := FpResult s o d (if r.1 then 1 else 0) r.2
    let done (v : Nat) (f : FFlags) : Result :=
      .next ((s.updClerk fun c => { c with fpstat := c.fpstat ||| f.setWidth 64 }).finish d (BitVec.ofNat 64 v) 4)
    let num (r : Nat × FFlags) : Result := done r.1 r.2
    let bit (r : Bool × FFlags) : Result := done (if r.1 then 1 else 0) r.2
    (s.core.clerk.fpctl.extractLsb' 8 5 = 0 →
      exec (.fadd d a b) s = num (fAdd fp32 rm x y) ∧ exec (.fsub d a b) s = num (fSub fp32 rm x y) ∧
      exec (.fmul d a b) s = num (fMul fp32 rm x y) ∧ exec (.fdiv d a b) s = num (fDiv fp32 rm x y) ∧
      exec (.fsqrt d a) s = num (fSqrt fp32 rm x) ∧ exec (.fma d a b) s = num (fFma fp32 rm x y z) ∧
      exec (.fmin d a b) s = num (fMinMax fp32 false x y) ∧ exec (.fmax d a b) s = num (fMinMax fp32 true x y) ∧
      exec (.feq d a b) s = bit (fEq fp32 x y) ∧ exec (.flt d a b) s = bit (fLt fp32 x y) ∧
      exec (.fle d a b) s = bit (fLe fp32 x y) ∧
      exec (.fcvtF32I64 d a) s = num (intToF fp32 rm (s.reg a).toInt) ∧
      exec (.fcvtI64F32 d a) s = num (fToInt 64 rm true x) ∧
      exec (.fcvtBf16F32 d a) s = num (fConv fp32 bf16 rm x) ∧
      exec (.fcvtF32Bf16 d a) s = num (fConv bf16 fp32 rm ((s.reg a).toNat % 2 ^ 16))) ∧
    two (exec (.fadd d a b) s) (fAdd fp32 rm x y) ∧ two (exec (.fsub d a b) s) (fSub fp32 rm x y) ∧
    two (exec (.fmul d a b) s) (fMul fp32 rm x y) ∧ two (exec (.fdiv d a b) s) (fDiv fp32 rm x y) ∧
    two (exec (.fsqrt d a) s) (fSqrt fp32 rm x) ∧ two (exec (.fma d a b) s) (fFma fp32 rm x y z) ∧
    two (exec (.fmin d a b) s) (fMinMax fp32 false x y) ∧ two (exec (.fmax d a b) s) (fMinMax fp32 true x y) ∧
    cmp (exec (.feq d a b) s) (fEq fp32 x y) ∧ cmp (exec (.flt d a b) s) (fLt fp32 x y) ∧
    cmp (exec (.fle d a b) s) (fLe fp32 x y) ∧
    two (exec (.fcvtF32I64 d a) s) (intToF fp32 rm (s.reg a).toInt) ∧
    two (exec (.fcvtI64F32 d a) s) (fToInt 64 rm true x) ∧
    two (exec (.fcvtBf16F32 d a) s) (fConv fp32 bf16 rm x) ∧
    two (exec (.fcvtF32Bf16 d a) s) (fConv bf16 fp32 rm ((s.reg a).toNat % 2 ^ 16)) ∧
    WritesReg s (exec (.fabs d a) s) d ((w &&& 0x7FFFFFFF).setWidth 64) 4 ∧
    WritesReg s (exec (.fneg d a) s) d ((w ^^^ 0x80000000).setWidth 64) 4 ∧
    ∃ v : Dword, WritesReg s (exec (.fclass d a) s) d v 4 ∧
      v >>> 16 = 0 ∧ v.extractLsb' 8 8 = w.extractLsb' 23 8 ∧ v.extractLsb' 5 3 = 0 ∧ v.getLsbD 3 = w.getLsbD 31 ∧
      (let ex := (w.extractLsb' 23 8).toNat; let fr := (w.extractLsb' 0 23).toNat
       v.getLsbD 4 = true ↔ ex ≠ 255 ∧ (if ex = 0 then fr else 2 ^ 23 + fr) * 2 ^ max ex 1 % 2 ^ 150 = 0) ∧
      (v.extractLsb' 0 3).toNat =
        (if w.extractLsb' 23 8 = 0 then (if w.extractLsb' 0 23 = 0 then 0 else 1)
         else if w.extractLsb' 23 8 ≠ 255 then 2
         else if w.extractLsb' 0 23 = 0 then 3 else if w.getLsbD 22 then 4 else 5)

/-! ### Loads, stores and atomics -/

/-- A load, store or atomic that passes the checks of R232 issues and stays unfinished with its access to perform;
the PC goes on by its length (R200, R230 to R236, R250). Where a loan makes it wait, it has issued too and waits at
its home (R120). Where its checks have to wait it has issued too, and they are made later in program order (log 123,
DEDUCED). -/
def Obligations.AccessesIssue : Prop :=
  ∀ (i : Instr) (s t : State) (x : Access) (r : Res), access s i = some x →
    let b := s.advance x.len
    (ChecksNow b (some x.ea) → b.checkAccess x.kind x.n x.ea = .ok r →
      ((b.fillRes r).loanChecks false x.kind x.ea x.n r.pl = .ok t ∨
        (b.fillRes r).loanChecks false x.kind x.ea x.n r.pl = .wait t) →
      Issued s t (exec i s) x.kd x.dest x.ea (x.work r.pl) none) ∧
    (¬ ChecksNow b (some x.ea) →
      Issued s b (exec i s) x.kd x.dest (x.ea % 2 ^ 48) (.result 0) none ∧
      ∀ y, exec i s = .next y → (y.core.clerk.unfin.getLast?.map (·.unchecked)) = some true)

/-- The first two checks of R232: an effective address beyond 48 bits traps with 0x04, and one that is no multiple
of the width with 0x03; FADDRESS is the address, and nothing is loaded or stored. Here the checks are made at issue (O12). -/
def Obligations.AccessAddressTraps : Prop :=
  ∀ (i : Instr) (s : State) (x : Access), access s i = some x → s.core.clerk.frozen = false →
    ChecksNow (s.advance x.len) (some x.ea) →
    (2 ^ 48 ≤ x.ea → Traps s (exec i s) 0x04 (x.ea % 2 ^ 48)) ∧
    (x.ea < 2 ^ 48 → x.ea % x.n ≠ 0 → Traps s (exec i s) 0x03 x.ea)

/-! ### Privilege and system registers -/

/-- What `mfs` reads of each register (R207, R319). -/
def Obligations.SystemRegisterReads : Prop :=
  ∀ (d : Reg) (s : State), let c := s.core.clerk
    WritesReg s (exec (.mfs d 0x000) s) d s.cycle 4 ∧
    WritesReg s (exec (.mfs d 0x001) s) d (BitVec.ofNat 64 s.coreId) 4 ∧
    WritesReg s (exec (.mfs d 0x010) s) d c.fpstat 4 ∧
    WritesReg s (exec (.mfs d 0x011) s) d c.fpctl 4 ∧
    WritesReg s (exec (.mfs d 0x020) s) d c.cmdbase 4 ∧
    (c.mode = .supervisor →
      (∃ v : Dword, WritesReg s (exec (.mfs d 0x100) s) d v 4 ∧ v.getLsbD 0 = true ∧ v.getLsbD 1 = c.frozen ∧
        v.getLsbD 2 = false ∧ v.getLsbD 3 = !c.pend.isEmpty ∧ v.getLsbD 4 = c.sstep ∧ v >>> 5 = 0) ∧
      WritesReg s (exec (.mfs d 0x101) s) d c.tvec 4 ∧ WritesReg s (exec (.mfs d 0x102) s) d c.cause 4 ∧
      WritesReg s (exec (.mfs d 0x103) s) d c.faddress 4 ∧ WritesReg s (exec (.mfs d 0x104) s) d c.causeb 4 ∧
      WritesReg s (exec (.mfs d 0x105) s) d c.addrb 4)

/-- What `mts` writes of each register it may write, and that it changes nothing else but the PC; a reserved field
that is not zero in FPCTL, CMDBASE, STATUS or TVEC, and a register that is read only, trap with 0x02 (R65, R207, R208, R319).
That FPSTAT takes bits 4:0 of any value, its reserved bits dropped, is the model's choice (log 43, DEDUCED; R64), and so is
that TVEC takes bits 1:0 of any value as 0 (log 21, DEDUCED). -/
def Obligations.SystemRegisterWrites : Prop :=
  ∀ (d : Reg) (s : State), let v := s.reg d
    let sets (n : BitVec 10) (f : Clerk → Clerk) : Prop := exec (.mts n d) s = .next ((s.updClerk f).advance 4)
    sets 0x010 (fun c => { c with fpstat := v &&& 0x1F }) ∧
    (v &&& ~~~0x1F03 = 0 → sets 0x011 fun c => { c with fpctl := v }) ∧
    (v >>> 48 = 0 → sets 0x020 fun c => { c with cmdbase := v &&& ~~~0xF }) ∧
    (s.core.clerk.mode = .supervisor → v &&& ~~~0x1B = 0 → sets 0x100 fun c => { c with sstep := v.getLsbD 4 }) ∧
    (s.core.clerk.mode = .supervisor → v >>> 48 = 0 → sets 0x101 fun c => { c with tvec := v &&& ~~~3 }) ∧
    (s.core.clerk.frozen = false →
      (v &&& ~~~0x1F03 ≠ 0 → Traps s (exec (.mts 0x011 d) s) 0x02 s.core.clerk.pc.toNat) ∧
      (v >>> 48 ≠ 0 → Traps s (exec (.mts 0x020 d) s) 0x02 s.core.clerk.pc.toNat) ∧
      (s.core.clerk.mode = .supervisor →
        (v &&& ~~~0x1B ≠ 0 → Traps s (exec (.mts 0x100 d) s) 0x02 s.core.clerk.pc.toNat) ∧
        (v >>> 48 ≠ 0 → Traps s (exec (.mts 0x101 d) s) 0x02 s.core.clerk.pc.toNat) ∧
        (∀ n ∈ ([0x102, 0x103, 0x104, 0x105] : List (BitVec 10)),
          Traps s (exec (.mts n d) s) 0x02 s.core.clerk.pc.toNat)) ∧
      Traps s (exec (.mts 0x000 d) s) 0x02 s.core.clerk.pc.toNat ∧
      Traps s (exec (.mts 0x001 d) s) 0x02 s.core.clerk.pc.toNat)

/-- In task mode `trapret`, `tack`, `halt` and every `mfs` or `mts` of a supervisor register trap with 0x1C (R206). -/
def Obligations.TaskModePrivilege : Prop :=
  ∀ (i : Instr) (s : State), s.core.clerk.mode = .task → s.core.clerk.frozen = false →
    (i = .trapret ∨ i = .tack ∨ i = .halt ∨
      (∃ d n, (i = .mfs d n ∨ i = .mts n d) ∧ n ∈ [0x100, 0x101, 0x102, 0x103, 0x104, 0x105])) →
    Traps s (exec i s) 0x1C s.core.clerk.pc.toNat

/-! ### Exceptions -/

/-- Taking an exception (R316 to R318): with the cause registers not frozen, the frame at the start of the trap area
holds the cause with the former mode and the number of replay entries, the address, the PC of the faulting
instruction, the resume PC and the detail; CAUSE and FADDRESS freeze; the clerk is in supervisor mode at TVEC. The
replay queue holds the instructions that were not finished and the entries not yet performed again, at most 16: which
instructions finish before the frame is written (log 12, DESIGN CHOICE), which entries are performed again (log 20,
DESIGN CHOICE), and that bits 1:0 of TVEC count as 0 (log 21, DEDUCED), is the model's choice. -/
def Obligations.TakingAnException : Prop :=
  ∀ (s : State) (t : Trap) (k : Option Nat) (rest : List (List Nat)),
    Memory.wf s.mem = true → s.core.clerk.frozen = false →
    let u := s.enterTrap t k rest
    let queue := min 16 ((s.core.clerk.unfin.filter fun x => x.done.isNone).length +
      s.core.clerk.redoEntries.length + rest.length)
    u.core.clerk.mode = .supervisor ∧ u.core.clerk.frozen = true ∧
    u.core.clerk.pc = s.core.clerk.tvec.setWidth 48 &&& ~~~3 ∧ u.core.clerk.unfin = [] ∧
    u.core.clerk.cause = BitVec.ofNat 64 ((if t.async then 256 else 0) + t.cause % 256) ∧
    u.core.clerk.faddress = BitVec.ofNat 64 (t.addr % 2 ^ 48) ∧
    u.trapRd 0 8 = queue * 2 ^ 10 + (if s.core.clerk.mode = .supervisor then 512 else 0) +
      (if t.async then 256 else 0) + t.cause % 256 ∧
    u.trapRd 8 8 = t.addr % 2 ^ 48 ∧ u.trapRd 16 8 = t.fpc.toNat ∧ u.trapRd 24 8 = t.rpc.toNat ∧
    u.trapRd 32 8 = t.detail % 2 ^ 64

/-- A second cause while the cause registers are frozen is DOUBLE-HALT (R321): it stands in CAUSEB and ADDRB, no
frame is written, CAUSE and FADDRESS keep what they hold, the clerk stops with what it had not finished, and a task that
ran is FAULTED. That its fault record holds the second cause and address is the model's reading (log 22, DEDUCED). -/
def Obligations.SecondCauseHalts : Prop :=
  ∀ (s : State) (t : Trap) (k : Option Nat) (rest : List (List Nat)), s.core.clerk.frozen = true →
    let h := s.updClerk fun c => { c with
      causeb := BitVec.ofNat 64 (t.cause % 256), addrb := BitVec.ofNat 64 (t.addr % 2 ^ 48), run := .doubleHalt
      pend := [], unfin := [], redo := none, latches := [], kept := [] }
    (s.task = none → s.enterTrap t k rest = h) ∧
    ∀ key, s.task = some key →
      let u := h.faultTask key s.coreId t.cause (t.addr % 2 ^ 48)
      s.enterTrap t k rest = { u with
        task := none
        occ := u.occ.filter fun o => o.core != u.coreId
        nextTask := u.nextTask.filter fun x => x.1 != u.coreId }

/-- `trap n` takes 0x13 with detail n and `brk` 0x12 with detail 0, in no replay entry: where no instruction is
unfinished the queue is empty, and the frame's resume PC is the next instruction (R231, R255). -/
def Obligations.SoftwareTraps : Prop :=
  ∀ (n : BitVec 10) (s : State), Memory.wf s.mem = true → s.core.clerk.frozen = false → s.core.clerk.redo = none →
    (∃ t, exec (.trap n) s = .next t ∧ Traps s (exec (.trap n) s) 0x13 0 ∧ t.trapRd 32 8 = n.toNat ∧
      t.trapRd 16 8 = s.core.clerk.pc.toNat ∧ t.trapRd 24 8 = (s.core.clerk.pc + 4).toNat ∧
      (s.core.clerk.unfin = [] → t.trapRd 0 8 / 2 ^ 10 = 0)) ∧
    ∃ t, exec .brk s = .next t ∧ Traps s (exec .brk s) 0x12 s.core.clerk.pc.toNat ∧ t.trapRd 32 8 = 0 ∧
      t.trapRd 16 8 = s.core.clerk.pc.toNat ∧ t.trapRd 24 8 = (s.core.clerk.pc + 4).toNat ∧
      (s.core.clerk.unfin = [] → t.trapRd 0 8 / 2 ^ 10 = 0)

/-- `trapret` in supervisor mode with every instruction finished and no replay entry: the cause registers unfreeze,
the mode is the one the frame records, and the PC the frame's resume PC; no register changes (R255, R320). That bits 1:0
of the resume PC are taken as 0 is the model's choice (log 21, DEDUCED). -/
def Obligations.ReturnFromException : Prop :=
  ∀ s : State, s.core.clerk.mode = .supervisor → s.core.clerk.unfin = [] → s.trapRd 0 8 / 2 ^ 10 % 2 ^ 5 = 0 →
    ∃ t, exec .trapret s = .next t ∧ t.core.clerk.frozen = false ∧
      t.core.clerk.mode = (if s.trapRd 0 8 / 2 ^ 9 % 2 = 1 then .supervisor else .task) ∧
      t.core.clerk.pc = BitVec.ofNat 48 (s.trapRd 24 8) &&& ~~~3 ∧ t.core.clerk.regs = s.core.clerk.regs ∧
      t.core.clerk.pres = s.core.clerk.pres ∧ t.core.clerk.kregs = s.core.clerk.kregs ∧
      t.core.clerk.fpstat = s.core.clerk.fpstat ∧ t.core.clerk.unfin = []

/-- The other instructions of R250, R255 and R237: `kmov` writes its command register; `nop` does nothing; `fence` of
any scope and `ifence` complete once the earlier accesses (stores) are performed, `ifence` with no word left in the
instruction cache, and otherwise wait; `wfe` waits;
`tack` unfreezes the cause registers; `halt` stops the clerk behind it. -/
def Obligations.SystemInstructions : Prop :=
  ∀ (k : KReg) (a b : Reg) (scope : Scope) (s : State),
    exec (.kmov k a b) s = .next ((s.setKreg k (s.reg b ++ s.reg a)).advance 4) ∧
    exec .nop s = .next (s.advance 4) ∧
    (s.allPerformed = true → exec (.fence scope) s = .next (s.advance 4)) ∧
    (s.allPerformed = false → exec (.fence scope) s = .next s) ∧
    (s.core.clerk.storesOut = false → exec .ifence s = .next (State.advance { s with icache := [] } 4)) ∧
    (s.core.clerk.storesOut = true → exec .ifence s = .next s) ∧
    exec .wfe s = .next (s.updClerk fun c => { c with run := .wfe, wfeEvent := false }) ∧
    (s.core.clerk.mode = .supervisor →
      exec .tack s = .next ((s.updClerk fun c => { c with frozen := false }).advance 4) ∧
      (s.core.clerk.unfin = [] →
        exec .halt s = .next ((s.advance 4).updClerk fun c => { c with run := .halted })))

/-! ### Synchronisation, cohorts and loans -/

/-- `acq` and `acqs` of an object that the task neither holds nor awaits, with room in the hold list: the request
issues, the destination is empty, and the hold list names the object as requested in its mode (R238). One whose
object is held or awaited already, or that meets a full hold list, traps with 0x08. `rel` of an object that the hold
list shows as held issues, and waits to be performed at its home; of one that is not held, it traps with 0x08 (R239). The
hold list is looked at as program order leaves it, without an object whose `rel` has issued and is not yet performed (log
38, DEDUCED; R239 takes it out when the `rel` is performed). Here their checks are made at issue (log 123, DEDUCED). -/
def Obligations.ObjectInstructions : Prop :=
  ∀ (d a : Reg) (s : State) (r : Res), let ea := (s.reg a).toNat; let b := (s.advance 4).fillRes r
    (ChecksNow (s.advance 4) (some ea) → (s.advance 4).objPlace ea = .ok r →
    (b.core.clerk.holdsNow.all (fun h => h.obj != b.canon ea) = true → b.core.clerk.holdsNow.length < 16 →
      (Issued s b (exec (.acq d a) s) false d ea (.acquire r.pl true false) none ∧
        ∀ t, exec (.acq d a) s = .next t → t.core.clerk.holds = b.core.clerk.holds ++ [⟨b.canon ea, r.pl, true, false⟩]) ∧
      (Issued s b (exec (.acqs d a) s) false d ea (.acquire r.pl false false) none ∧
        ∀ t, exec (.acqs d a) s = .next t →
          t.core.clerk.holds = b.core.clerk.holds ++ [⟨b.canon ea, r.pl, false, false⟩])) ∧
    ((b.core.clerk.holdsNow.any (fun h => h.obj == b.canon ea) = true ∨ 16 ≤ b.core.clerk.holdsNow.length) →
      s.core.clerk.frozen = false →
      Traps s (exec (.acq d a) s) 0x08 ea ∧ Traps s (exec (.acqs d a) s) 0x08 ea)) ∧
    let u := s.advance 4
    let found := u.core.clerk.holdsNow.find? fun h => h.obj == u.canon (ea % 2 ^ 48) && h.held && ea < 2 ^ 48
    ChecksNow u none → (∀ h, found = some h → Issued s u (exec (.rel a) s) false 0 ea (.release h.home) none) ∧
    (found = none → s.core.clerk.frozen = false → Traps s (exec (.rel a) s) 0x08 (ea % 2 ^ 48))

/-- `bind` and `unbind` issue and are performed at the module, where each answers by R240 and a refused one changes nothing.
`bind`: −2 for a base or length out of shape; then −3 for a region that is not wholly in translated memory or in one global
window, or an object that R105 does not allow; −4 for one that overlaps a bound region; −5 for one that contains its object or
another bound object (or whose object lies in a bound region, the same of that region: log 118, DEDUCED); −1 with the table
full; and else a free entry, which then binds the region to the object at the place where its address lies: that it is the
lowest is the model's choice (log 144, DESIGN CHOICE). `unbind`: −1 where no binding has its base, −6 where the object is not
free, and else the entry, which is free then; the read of a peer object's word waits for a Span port (R338), and the look at
an object's address for a walk of its page that is in flight (R32). A value beyond 48 bits, which no entry can hold, is
answered at issue. -/
def Obligations.Bindings : Prop :=
  ∀ (d a b : Reg) (s : State),
    let u := s.advance 4
    let obj := (s.reg d).toNat; let base := (s.reg a).toNat; let len := (s.reg b).toNat
    let shape (base len : Nat) : Prop := base % 64 = 0 ∧ len % 64 = 0 ∧ 64 ≤ len ∧ len ≤ 2 ^ 32
    (obj < 2 ^ 48 → Issued s u (exec (.bind d a b) s) false d obj (.bind obj base len) none) ∧
    (2 ^ 48 ≤ obj →
      (¬ shape base len → Answered s u (exec (.bind d a b) s) d (obj % 2 ^ 48) (-2)) ∧
      (shape base len → Answered s u (exec (.bind d a b) s) d (obj % 2 ^ 48) (-3))) ∧
    (base < 2 ^ 48 → Issued s u (exec (.unbind d a) s) false d base (.unbind base) none) ∧
    (2 ^ 48 ≤ base → Answered s u (exec (.unbind d a) s) d (base % 2 ^ 48) (-1)) ∧
    ∀ k e, Due s k e →
      let gives (v : Dword) (t : State) : Prop :=
        exec (.accessPerform (.clerk k)) s = .next (t.finishUnfin k (v.setWidth 128))
      let mine (y : Binding) : Prop := y ∈ s.binds ∧ y.ctx = s.ctx
      (∀ obj base len, e.work = .bind obj base len →
        (s.walkHeld s.ctx obj = true → exec (.accessPerform (.clerk k)) s = .next s) ∧
        (s.walkHeld s.ctx obj = false →
        let translated := base + len ≤ 0xF000_0000_0000
        let window := ∃ c, s.hasCore c = true ∧ globalView + c * windowSize ≤ base ∧ c < 160 ∧
          base + len ≤ globalView + (c + 1) * windowSize
        let allowed (r : Res) : Prop := s.objPlace obj = .ok r
        let overlaps := ∃ y, mine y ∧ y.base < base + len ∧ base < y.base + y.len
        let holds := (base < obj + 8 ∧ obj < base + len) ∨ ∃ y, mine y ∧
          ((base < y.obj + 8 ∧ y.obj < base + len) ∨ (y.base < obj + 8 ∧ obj < y.base + y.len))
        let used (i : Nat) : Prop := ∃ y, mine y ∧ y.idx = i
        (¬ shape base len → gives (-2) s) ∧
        (shape base len →
          (¬ (translated ∨ window) → gives (-3) s) ∧
          (translated ∨ window → ∀ f, s.objPlace obj = .error f → gives (-3) (s.walked obj f)) ∧
          ∀ r, translated ∨ window → allowed r →
            (overlaps → gives (-4) s) ∧
            (¬ overlaps → holds → gives (-5) s) ∧
            (¬ overlaps → ¬ holds → (∀ i, i < 1024 → used i) → gives (-1) s) ∧
            ∀ i, ¬ overlaps → ¬ holds → i < 1024 → ¬ used i → (∀ j, j < i → used j) →
              gives (BitVec.ofNat 64 i)
                { s.fillRes r with binds := s.binds ++ [⟨s.ctx, i, obj, r.pl, base, len⟩] }))) ∧
      ∀ base, e.work = .unbind base →
        (s.hasPort e = false → exec (.accessPerform (.clerk k)) s = .next s) ∧
        (s.hasPort e = true →
        let found := s.binds.find? fun y => y.ctx = s.ctx && y.base == base
        (found = none → gives (-1) s) ∧
        ∀ y, found = some y →
          let busy := objMode (s.rd (y.home.key s) 8) ≠ 0 ∨ s.objQueue y.home ≠ []
          (busy → gives (-6) s) ∧
          (¬ busy → gives (BitVec.ofNat 64 y.idx) { s with binds := s.binds.filter fun z => !(z = y) }))

/-- `waitw` of a word that passes its checks, in translated memory or a scratchpad window, issues and waits for the
word to equal the low half of sb (R241). Here its checks are made at issue (log 123, DEDUCED). -/
def Obligations.WordWaits : Prop :=
  ∀ (d a b : Reg) (s : State) (r : Res), let ea := (s.reg a).toNat
    ChecksNow (s.advance 4) (some ea) → (s.advance 4).checkAccess .load 4 ea = .ok r →
    (∀ off, r.pl ≠ .ctrl off) → (∀ c t off, r.pl ≠ .page c t off) → (∀ m pa, r.pl ≠ .peer m pa) →
    Issued s ((s.advance 4).fillRes r) (exec (.waitw d a b) s) false d ea
      (.waitw r.pl ((s.reg b).setWidth 32)) none

/-- `join` with an id and a count that fit issues, and one with others traps with 0x08 (R140, R242). At the desk, behind
what it releases: a task that is a member already traps with 0x08, and so does one that names another count than the
forming cohort's; one whose id is formed waits on; and else the task joins the cohort of its context with that id, and
waits (R140). `leave` withdraws the member, whose own `join`, if it still waits, never returns (R141; log 110, DESIGN
CHOICE). `cbar` of a member, when its earlier accesses are performed and every other member of its cohort has arrived, goes
on, and the member has passed one more; while another has not arrived, it waits (R142); other cohorts stay. A `leave` or
`cbar` of a task in no cohort traps with 0x08. The entry of a `join` holds its cohort id as EA (log 33, DEDUCED), and
`leave` and `cbar` wait for an earlier `join` to reach the desk. -/
def Obligations.CohortMembership : Prop :=
  ∀ (d a b : Reg) (k : TaskKey) (s : State), s.task = some k →
    let id := (s.reg a).toNat; let n := (s.reg b).toNat
    let fits := 1 ≤ id ∧ id ≤ 65535 ∧ 1 ≤ n ∧ n ≤ 160
    (fits → Issued s (s.advance 4) (exec (.join d a b) s) false d id (.join id .issued) none) ∧
    (¬ fits → s.core.clerk.frozen = false → Traps s (exec (.join d a b) s) 0x08 s.core.clerk.pc.toNat) ∧
    (∀ j u id, Due s j u → u.work = .join id .issued →
      let cnt := u.b.toNat
      let o := exec (.accessPerform (.clerk j)) s
      let waits := s.updClerk fun c => { c with unfin := updAt c.unfin j fun u => { u with work := .join id .waits } }
      let same (h : Cohort) : Prop := h ∈ s.cohorts ∧ h.ctx = s.taskCtx k ∧ h.id = id
      (∀ h, s.cohorts.find? (fun h => h.ctx = s.taskCtx k && h.id == id) = some h → s.cohortOf k = none →
        (h.formed = true → o = .next waits) ∧
        (h.formed = false → h.count ≠ cnt → s.core.clerk.frozen = false → Traps s o 0x08 u.pc.toNat)) ∧
      ((s.cohortOf k).isSome = true → s.core.clerk.frozen = false → Traps s o 0x08 u.pc.toNat) ∧
      (s.cohortOf k = none → (∀ h, same h → h.formed = false ∧ h.count = cnt) →
        o = .next (waits.joinCohort k s.coreId id cnt true))) ∧
    (∀ h, s.cohortOf k = some h → s.core.clerk.joinIssued = false → exec .leave s =
      .next (((s.updClerk fun c => { c with
        unfin := c.unfin.filter fun u => !(u.done.isNone && u.work = .join h.id .waits) }).leaveCohort k).advance 4)) ∧
    (s.cohortOf k = none → s.core.clerk.joinIssued = false → s.core.clerk.frozen = false →
      Traps s (exec .leave s) 0x08 s.core.clerk.pc.toNat ∧ Traps s (exec .cbar s) 0x08 s.core.clerk.pc.toNat) ∧
    (s.core.clerk.joinIssued = true → exec .leave s = .next s ∧ exec .cbar s = .next s) ∧
    ∀ (h : Cohort) (m : Member), s.cohortOf k = some h → (∀ x ∈ s.cohorts, x.ctx = h.ctx → x.id = h.id → x = h) →
      h.members.filter (fun x => x.key = k) = [m] → s.allPerformed = true → s.core.clerk.joinIssued = false →
      let counted (p : Nat) : List Cohort := s.cohorts.map fun y => if y = h then { h with members := h.members.map fun x =>
        if x.key = k then { x with cbars := m.passed + 1, passed := p } else x } else y
      ((∀ x ∈ h.members, x.key ≠ k → m.passed + 1 ≤ x.cbars) →
        exec .cbar s = .next (State.advance { s with cohorts := counted (m.passed + 1) } 4)) ∧
      ((∃ x ∈ h.members, x.key ≠ k ∧ x.cbars < m.passed + 1) →
        exec .cbar s = .next { s with cohorts := counted m.passed })

/-- `loan` of a set that fits and meets no declared set, with room: it answers the number of the new declaration (R118, R243).
One that declares a declared set once more answers that set's number, and one that overlaps another declared set of the task
traps with 0x0C. One whose base or length breaks R118 traps with 0x08; with eight sets declared it answers −1. `lstat` answers
the word of R128: of a declaration that is there, its state, length and base, of one that is not, 0; of 8, the restart count
and the undo entries used; of any other number it traps with 0x02. The entry of an `lstat` holds its number as EA (log 33,
DEDUCED), and a set must end within 48 bits (log 35, DEDUCED). BASE is by the global view for a set declared through the self
alias (log 137, DESIGN CHOICE). Here nothing stands before them that they are checked behind (log 123, DEDUCED). -/
def Obligations.LoanDeclarations : Prop :=
  ∀ (d a b : Reg) (k : TaskKey) (r : TaskRec) (s : State), s.task = some k → s.findRec k = some r →
    let base := (s.reg a).toNat; let len := (s.reg b).toNat
    let u := s.advance 4
    let fits := base % 64 = 0 ∧ len % 64 = 0 ∧ 64 ≤ len ∧ len ≤ 2 ^ 22 ∧ base + len ≤ 2 ^ 48
    let met := declsMet r.decls (s.canon base) len
    ChecksNow u none →
    (fits → ∀ j y, met.head? = some (j, y) →
      ((∀ x ∈ met, x.2.base = s.canon base ∧ x.2.len = len) →
        Answered s u (exec (.loan d a b) s) d (base % 2 ^ 48) (BitVec.ofNat 64 j)) ∧
      ((∃ x ∈ met, x.2.base ≠ s.canon base ∨ x.2.len ≠ len) → s.core.clerk.frozen = false →
        Traps s (exec (.loan d a b) s) 0x0C (base % 2 ^ 48))) ∧
    (fits → met = [] →
      (r.decls.length < 8 →
        Answered s (u.updRec k fun r => { r with decls := r.decls ++ [⟨s.canon base, len, .declared⟩] })
          (exec (.loan d a b) s) d (base % 2 ^ 48) (BitVec.ofNat 64 r.decls.length)) ∧
      (8 ≤ r.decls.length → Answered s u (exec (.loan d a b) s) d (base % 2 ^ 48) (-1))) ∧
    ((base % 64 ≠ 0 ∨ len % 64 ≠ 0 ∨ len < 64 ∨ 2 ^ 22 < len) → s.core.clerk.frozen = false →
      Traps s (exec (.loan d a b) s) 0x08 (base % 2 ^ 48)) ∧
    (∀ (n : Nat) (y : Decl), (s.reg a).toNat = n → n < 8 →
      (r.decls[n]? = some y → Answered s u (exec (.lstat d a) s) d n
        (BitVec.ofNat 64 (y.st.code * 2 ^ 62 + (y.len / 64 - 1) * 2 ^ 42 + y.base / 64 % 2 ^ 42))) ∧
      (r.decls[n]? = none → Answered s u (exec (.lstat d a) s) d n 0)) ∧
    (8 < (s.reg a).toNat → s.core.clerk.frozen = false → Traps s (exec (.lstat d a) s) 0x02 s.core.clerk.pc.toNat) ∧
    ((s.reg a).toNat = 8 → Answered s u (exec (.lstat d a) s) d 8
      (BitVec.ofNat 64 (bitsOf (u.tcbWord5 k) 63 48 * 2 ^ 48 + r.undoUsed % 2 ^ 16)))

/-! ### Tasks -/

/-- `spawn`, `arm` and `rls` issue with the launch, the count or the decrement to perform (R244, R245). The checks of a `spawn`
are made when it is performed, which is the model's choice (log 40, DEDUCED); once its task holds a borrow it makes
them at issue, answers its code, and defers its launch, the seventeenth deferred operation being loan discipline (R127,
R244), but behind an instruction that is not performed it issues and does so in its turn (log 40). That FADDRESS of the
seventeenth is its TCB address is the model's reading (log 65, DEDUCED; R127 gives none). Here nothing stands before them that
they are checked behind (log 123, DEDUCED). `tself` and `tage` answer the TCB address and word 5 of the TCB (R247). -/
def Obligations.TaskInstructions : Prop :=
  ∀ (d a b : Reg) (k : TaskKey) (s : State), s.task = some k →
    let ea := (s.reg a).toNat; let u := s.advance 4
    let code := u.launchCode ⟨u.taskCtx k, ea⟩
    (ChecksNow u none → s.borrows k = false ∨ s.inOrder = false →
      Issued s u (exec (.spawn d a) s) false d (ea % 2 ^ 48) (.spawn ea) none) ∧
    (ChecksNow u none → s.borrows k = true → s.inOrder = true → (code ≠ 0 → Answered s u (exec (.spawn d a) s) d (ea % 2 ^ 48) (BitVec.ofNat 64 code)) ∧
      ∀ r, s.findRec k = some r → code = 0 →
        (r.deferred.length < 16 →
          Answered s (u.updRec k fun r => { r with deferred := r.deferred ++ [.spawn ea] }) (exec (.spawn d a) s) d
            (ea % 2 ^ 48) 0) ∧
        (16 ≤ r.deferred.length → s.core.clerk.frozen = false → Traps s (exec (.spawn d a) s) 0x0B (ea % 2 ^ 48))) ∧
    (∀ pl, ChecksNow u (some ea) → u.tcbCheck false ea (some (s.reg b).toNat) = .ok pl →
      Issued s u (exec (.arm d a b) s) false d (ea % 2 ^ 48) (.arm pl ea (s.reg b).toNat) none) ∧
    (∀ pl, ChecksNow u (some ea) → u.tcbCheck false ea none = .ok pl →
      Issued s u (exec (.rls d a) s) false d (ea % 2 ^ 48) (.rls pl ea) none) ∧
    Answered s u (exec (.tself d) s) d 0 (BitVec.ofNat 64 k.tcb) ∧
    Answered s u (exec (.tage d) s) d 0 (BitVec.ofNat 64 (s.tcbWord5 k))

/-- `tend` waits until the task may end and then ends it: the core is free with an idle clerk. `tyield` with every
earlier instruction finished asks for the task's pre-emption behind it, unless the core's shadow storage is full,
where it completes without yielding (R246, R247, R326). -/
def Obligations.EndingAndYielding : Prop :=
  ∀ (k : TaskKey) (s : State), s.task = some k →
    (s.mayEnd = true → ∃ t, exec .tend s = .next t ∧ t = s.endTask k ∧ t.core.clerk = Clerk.reset) ∧
    (s.mayEnd = false → exec .tend s = .next s) ∧
    (s.core.clerk.unfin = [] →
      (s.shadowFull s.coreId = false → exec .tyield s = .next { s.advance 4 with preempting := some .yield }) ∧
      (s.shadowFull s.coreId = true → exec .tyield s = .next (s.advance 4)))

/-! ### Tag table, transforms and handles -/

/-- `tlook`, `tins` and `tdel` issue and are performed at the table, in their order (R42, R248). `tlook` and `tins` of a tag
that is there answer its slot and change nothing; of one that is not there `tlook` answers −1, and `tins` fills the lowest way
of the set that is not valid, with USER 0, and answers its slot, or, where every way is valid, answers −(2 + w) with the set's
victim w, which moves on (R41). `tdel` is performed by a step of its own. `xbank` with a transform word that passes checks 1
to 6 of R54 issues and is performed at its bank; one that fails a check traps (R249); the address of its entry and of its
faults, OFF in the self alias, is log 34 (DEDUCED), and that a word which fails several checks traps with the lowest code is
log 89 (DESIGN CHOICE; R54 gives no order). A `xbank` that passes is checked against loans at issue here (log 123, DEDUCED).
-/
def Obligations.TagAndTransformInstructions : Prop :=
  ∀ (d a b : Reg) (s v : State), let u := s.advance 4; let ea := (s.reg a).toNat
    let w : Qword := s.reg b ++ s.reg a; let at_ := selfAlias + xfOff w.toNat
    Issued s u (exec (.tlook d a) s) false d (ea % 2 ^ 48) (.tag .look (ea % 2 ^ 48)) none ∧
    Issued s u (exec (.tins d a) s) false d (ea % 2 ^ 48) (.tag .ins (ea % 2 ^ 48)) none ∧
    Issued s u (exec (.tdel d a) s) false d (ea % 2 ^ 48) (.tag .del (ea % 2 ^ 48)) none ∧
    (∀ k e x, Due s k e →
      let gives (v : Dword) (t : State) : Prop :=
        exec (.accessPerform (.clerk k)) s = .next (t.finishUnfin k (v.setWidth 128))
      let ways := (List.range 8).map (8 * s.tagSet x + ·)
      (e.work = .tag .look x ∨ e.work = .tag .ins x → ∀ i, s.tagHit x = some i → gives (BitVec.ofNat 64 i) s) ∧
      (e.work = .tag .look x → s.tagHit x = none → gives (-1) s) ∧
      (e.work = .tag .ins x → s.tagHit x = none →
        (∀ i, ways.find? (fun i => !(s.tag i).v) = some i → gives (BitVec.ofNat 64 i)
          (s.setTag i { s.tag i with user := 0, tag := BitVec.ofNat 36 (x / 2 ^ 12 % 2 ^ 36), v := true })) ∧
        ((∀ i ∈ ways, (s.tag i).v = true) → ∃ t, let y := s.tagVictim.getD (s.tagSet x) 0
          gives (-(BitVec.ofNat 64 (2 + y))) t ∧ t.tags = s.tags ∧ t.mem = s.mem ∧
            t.tagVictim.getD (s.tagSet x) 0 = (y + 1) % 8))) ∧
    (xfCheck w.toNat = 0 → ChecksNow u none → u.xfLoans s.taskMode w.toNat at_ = .ok v ∨ u.xfLoans s.taskMode w.toNat at_ = .wait v →
      Issued s v (exec (.xbank a b) s) false 0 (at_ % 2 ^ 48) (.xbank w) none) ∧
    (xfCheck w.toNat ≠ 0 → s.core.clerk.frozen = false →
      Traps s (exec (.xbank a b) s) (xfTrap (xfCheck w.toNat)) (at_ % 2 ^ 48))

/-- The handle instructions by the state table of R89: `halloc` moves FREE to FILLING, `hfree` FULL or DRAINING to FREE,
behind an earlier `hwait` of the handle; `hwait` issues, and makes its claim on FULL or DRAINING and answers in its turn
behind what it acquires (O37; R100, R101). An event the table does not list for the state traps with 0x0F, and a handle number
above 63 with 0x08 (R253). -/
def Obligations.HandleInstructions : Prop :=
  ∀ (d a : Reg) (s : State), let n := (s.reg a).toNat; let h := s.handle n; let u := s.advance 4
    (n ≤ 63 → h.st = .free →
      exec (.halloc a) s = .next ((s.updHandle n fun _ => { Handle.reset with st := .filling }).advance 4)) ∧
    (n ≤ 63 → h.st = .full ∨ h.st = .draining →
      (s.core.clerk.waitsOn n = false →
        exec (.hfree a) s = .next ((s.updHandle n fun e => { e with st := .free }).advance 4)) ∧
      (s.core.clerk.waitsOn n = true → exec (.hfree a) s = .next s)) ∧
    (n ≤ 63 → h.st ≠ .free → Issued s u (exec (.hwait d a) s) false d n (.hwait n) none) ∧
    (s.core.clerk.frozen = false → n ≤ 63 →
      (h.st ≠ .free → Traps s (exec (.halloc a) s) 0x0F 0) ∧
      (h.st = .free ∨ h.st = .filling → Traps s (exec (.hfree a) s) 0x0F 0) ∧
      (h.st = .free → Traps s (exec (.hwait d a) s) 0x0F 0)) ∧
    (s.core.clerk.frozen = false → 63 < n →
      Traps s (exec (.halloc a) s) 0x08 s.core.clerk.pc.toNat ∧
      Traps s (exec (.hfree a) s) 0x08 s.core.clerk.pc.toNat ∧
      Traps s (exec (.hwait d a) s) 0x08 s.core.clerk.pc.toNat)

/-! ### Stream commands -/

/-- A command that passes everything: its references are present, their values fit (`c` is the command with the
sampled values), no check at issue fails, earlier accesses are performed, and its target's queue has room. -/
def Sys2Proof.Claims.Acceptable (s : State) (i c : Instr) : Prop :=
  (Instr.cmdRefs i).all s.core.clerk.present = true ∧ s.sample i = some c ∧ s.cmdCheck c = none ∧
    s.allPerformed = true ∧ s.cmdRoom c = true

/-- A command of a class that waits in the queue of a stream port (R256). -/
def Sys2Proof.Claims.portQueued : Instr → Option (BitVec 4)
  | .sread p _ | .swrite p _ | .sgather p _ | .sscatter p _ | .stile p _ | .ssegt p _ | .scfg p _ _
  | .send p _ _ _ _ | .sreq p _ _ _ => some p
  | _ => none

/-- Commands accepted by a stream port that is not sealed (R212, R252, R256, R265): `sread`, `swrite`, `sgather`, `sscatter`,
`stile`, `ssegt`, `scfg`, `send` and `sreq` join the end of the port's queue with their sampled values, and `sbar` besides
announces its barrier, which is injected when the lane emits it (R264); `sgate` MODE 0 sets PLVL, MODE 1 asks the emit lane to
stop at its next boundary of the level (of two that wait, the lower), MODE 2 lets it go on, and `sclose` asks for the command
that the emit lane performs, of a class that can be cut and not yet at its end, to be cut. A sealed port discards every
command (R269). The clerk goes on, and nothing else changes. -/
def Obligations.PortCommandsAccepted : Prop :=
  ∀ (i c : Instr) (p : BitVec 4) (r : Reg) (id id' : Byte) (sn : Bool) (l l' : BitVec 3) (s : State),
    Acceptable s i c →
    let n := p.toNat
    let queued := s.updPort n fun q => { q with queue := q.queue ++ [PortItem.cmd c] }
    let goes (t : State) : Prop := exec i s = .next (t.advance 4)
    ((s.port n).sealed = false →
      (portQueued i = some p → goes queued) ∧
      (i = .sbar p r id sn → c = .sbar p r id' sn → goes (queued.announce (.lane n) id')) ∧
      (i = .sgateSetPlvl p r l → c = .sgateSetPlvl p r l' → goes (s.updPort n fun q => { q with plvl := l' })) ∧
      (i = .sgateGate p r l → c = .sgateGate p r l' → goes (s.updPort n fun q =>
        let l := match q.gate with
          | some m => if m.toNat ≤ l'.toNat then m else l'
          | none => l'
        if l.toNat ≤ q.bnd then { q with gated := true, gate := none } else { q with gate := some l })) ∧
      (i = .sgateUngate p r l → c = .sgateUngate p r l' → goes (s.updPort n fun q => { q with gated := false })) ∧
      (i = .sclose p r l → c = .sclose p r l' →
        ((s.port n).emitCmd = none → goes s) ∧
        (∀ x, (s.port n).emitCmd = some x → Instr.cuttable x.cmd = true → x.closing = false ∨ x.out ≠ [] →
          goes (s.updPort n fun q => { q with cut := some (match q.cut with
            | some m => if m.toNat ≤ l'.toNat then m else l'
            | none => l') })))) ∧
    ((s.port n).sealed = true → Instr.portOf i = some p → goes s)

/-- The registers that REF1 and REF2 of a command's word name are present (R209, R212). -/
def Sys2Proof.Claims.refsPresent (s : State) (q : Qword) : Prop :=
  s.core.clerk.present (q.extractLsb' 8 5) = true ∧ s.core.clerk.present (q.extractLsb' 13 5) = true

/-! ### Commands issued, and the engines -/

/-- `issue` of a command that is acceptable performs its acceptance and goes on, and so does `issuex` with the command
read from the pool at CMDBASE + 16 × index, as a load of the clerk under its own stores that are not performed, once its
checks can be made (R32, R100; log 123, DEDUCED); while a
register that the command names is not present, an earlier access is not performed or the target has no room, `issue`
waits and changes nothing (R208, R212, R233, R250). -/
def Obligations.CommandsIssue : Prop :=
  ∀ (k : KReg) (idx : BitVec 15) (i c : Instr) (s t : State),
    (decodeCommand (s.kreg k) = .ok i → refsPresent s (s.kreg k) → Acceptable s i c → s.cmdAccept c = .ok t →
      exec (.issue k) s = .next (t.advance 4) ∧ exec i s = .next (t.advance 4)) ∧
    (¬ refsPresent s (s.kreg k) → exec (.issue k) s = .next s) ∧
    (decodeCommand (s.kreg k) = .ok i → (Instr.cmdRefs i).all s.core.clerk.present = true → s.sample i = some c →
      s.cmdCheck c = none → s.allPerformed = false ∨ s.cmdRoom c = false → exec (.issue k) s = .next s) ∧
    (∀ (r : Res) (u v : State) (x : Nat), let ea := s.core.clerk.cmdbase.toNat + 16 * idx.toNat
      s.core.clerk.redo = none → ChecksNow s (some ea) → s.checkAccess .load 16 ea = .ok r →
      (s.fillRes r).loanChecks false .load ea 16 r.pl = .ok u →
      u.heldBy u.core.clerk.unfin (u.poolLoad ea r.pl) = false → u.reaches u.ctx r.pl ea = true → u.pageShut r.pl = false →
      u.placeRead r.pl ea 16 = .ok x v →
      let q := BitVec.ofNat 128 (overlay v v.core.clerk.unfin (r.pl.key v) 16 x)
      decodeCommand q = .ok i → refsPresent v q → Acceptable v i c → v.cmdAccept c = .ok t →
      exec (.issuex idx) s = .next (t.advance 4)) ∧
    (¬ ChecksNow s (some (s.core.clerk.cmdbase.toNat + 16 * idx.toNat)) → exec (.issuex idx) s = .next s)

/-- Refusals at issue (R213), once the registers that REF1 and REF2 name are present: a command that decodes to none
gives 0x08 with the reason that decoding names, a supplied value that does not fit (also that of an `sgate` of MODE 3) 0x08
with reason 0x34, a limit of the command's description 0x08 with reason 0x35,
and a shape of a matrix command 0x1B with the command's code. FADDRESS is the PC (0 for 0x1B), the detail word holds
the reason, and no command is accepted. -/
def Obligations.CommandRefusals : Prop :=
  ∀ (k : KReg) (s : State), Memory.wf s.mem = true → s.core.clerk.frozen = false →
    let o := exec (.issue k) s
    let refused (cause addr det : Nat) : Prop :=
      Traps s o cause addr ∧ ∃ t, o = .next t ∧ t.trapRd 32 8 = det ∧ t.core.ports = s.core.ports ∧
        t.core.mes = s.core.mes ∧ t.core.tmu = s.core.tmu ∧ t.core.ces = s.core.ces
    refsPresent s (s.kreg k) →
    (∀ r, decodeCommand (s.kreg k) = .error r →
      refused 0x08 s.core.clerk.pc.toNat
        (if r = 0x35 ∧ s.supply ((s.kreg k).extractLsb' 8 5) 0 (0 : BitVec 3) = none then 0x34 else r)) ∧
    ∀ i, decodeCommand (s.kreg k) = .ok i → (Instr.cmdRefs i).all s.core.clerk.present = true →
      (s.sample i = none → refused 0x08 s.core.clerk.pc.toNat 0x34) ∧
      ∀ c, s.sample i = some c →
        (Instr.shapeOk c = true → s.limitsOk c = false → refused 0x08 s.core.clerk.pc.toNat 0x35) ∧
        (Instr.shapeOk c = false → refused 0x1B 0 (Instr.code c))

/-- The commands of a matrix engine, and those of the TMU (R210). -/
def Sys2Proof.Claims.engineOf : Instr → Option (BitVec 1)
  | .mload e _ | .mswap e | .mdense e _ | .mseg e _ _ _ _ | .mbatch e _ | .mgather e _ _ | .mdrain e _
  | .mzero e _ _ _ | .mbankClaim e | .mbankRelease e | .mspill e _ _ | .mfill e _ _ | .mstat e _ _ _ _ => some e
  | _ => none

def Sys2Proof.Claims.ofTmu : Instr → Bool
  | .tmatch _ _ _ _ | .tmerge _ _ _ _ | .tunmerge _ _ _ _ | .tsave _ _ | .tload _ _ | .tcompose _ _ _
  | .tlogsz _ _ | .tfree _ | .tstat _ _ _ => true
  | _ => false

/-- The slots of the TMU whose issued state a command changes at acceptance (R305). -/
def Sys2Proof.Claims.issuedSlots (c : Instr) (l : List Slot) : List Slot :=
  let put (n : Nat) (st : SlotState) : List Slot := updAt l n fun x => { x with st }
  match c with
  | .tmatch _ n _ _ => put n.toNat .ready
  | .tload n _ => put n.toNat .ready
  | .tcompose n _ _ => put n.toNat .ready
  | .tfree n => put n.toNat .free
  | _ => l

/-- A command accepted by a matrix engine (`mload`, `mswap`, `mdense`, `mseg`, `mbatch`, `mgather`, `mdrain`, `mzero`,
`mbankClaim`, `mbankRelease`, `mspill`, `mfill`, `mstat`) or the TMU (`tmatch`, `tmerge`, `tunmerge`, `tsave`, `tload`,
`tcompose`, `tlogsz`, `tfree`, `tstat`) that is not sealed joins the end of its queue (with an N of 0
that stands for 512 in `mbatch` and `mzero` written out), and `mdrain` with BV announces its barrier; the TMU's issued
slot states change as R305 says. A sealed engine discards every command. The clerk goes on, and nothing else changes
(R212, R274, R296, R299, R305, R312). That a command which a sealed TMU discards leaves the issued states alone, where the
table of R305 names acceptance only, is the model's reading (log 80, DEDUCED). -/
def Obligations.EngineCommandsAccepted : Prop :=
  ∀ (i c : Instr) (s : State), Acceptable s i c →
    (∀ b, engineOf i = some b →
      let e := b.toNat
      let queued := s.updMe e fun m => { m with queue := m.queue ++ [EngCmd.mk (Instr.full c) false 0 false] }
      ((s.me e).sealed = false →
        (∀ x f, c = .mdrain x f → f.bv = true → exec i s = .next ((queued.announce (.me e) f.bar).advance 4)) ∧
        ((∀ x f, c = .mdrain x f → f.bv = false) → exec i s = .next (queued.advance 4))) ∧
      ((s.me e).sealed = true → exec i s = .next (s.advance 4))) ∧
    (ofTmu i = true →
      (s.core.tmu.sealed = false → exec i s = .next ((s.updTmu fun t => { t with
        queue := t.queue ++ [EngCmd.mk c false 0 false], accepted := t.accepted + 1
        slots := issuedSlots c t.slots }).advance 4)) ∧
      (s.core.tmu.sealed = true → exec i s = .next (s.advance 4)))

/-- A copy channel started, aborted, resumed and kicked (R80, R81, R83, R90, R127, R268). Outside a borrow, a start of an
aligned chain in STATE 0, 1 or 4 begins on its head in the context of the task, one of a context that is being killed is
discarded (R90, item 4), and one in STATE 2 or 3 or of a misaligned head sets ERR and does nothing else; within a borrow the
start is deferred. ABORT stops a running channel with status 0x0A, which word 0 of the record gets first (at once, unless that
write must wait), but not one whose record a kill ends (R90), and does nothing to another; RESUME goes on from status 0x01 or
0x0C, and else sets ERR; KICK in STATE 2 or 3 is latched, in STATE 0 reads the record at CEHEAD again, in STATE 1 reads word 7
of the record at CEHEAD and starts on what stands there, if anything, and in STATE 4 does nothing; nor does it in STATE 1
where no chain has run since reset or a kill, which is the model's choice (log 126). `cchain` and `cabort` act as they are
accepted: log 29 (DEDUCED; R268 has them act at the head of the channel's queue). That bits 63:48 of a written CEHEAD are
dropped, and that an abandoned record only lowers PEND of its handle, is the model's choice (log 107, DESIGN CHOICE), and so
is what becomes of a status that cannot be written or must wait (log 105, DESIGN CHOICE). The chain counts as started by the
task (log 132, DESIGN CHOICE). -/
def Obligations.CopyChannelControl : Prop :=
  ∀ (e : BitVec 1) (r : Reg) (h h' : BitVec 48) (v : Dword) (s : State),
    let n := e.toNat
    let c := s.ce n
    let running := c.state = .run ∨ c.state = .wait
    let onHead (u : State) (head : Nat) : State := (u.updCe n fun y => { y with
      head, state := .run, rcd := [], counted := false, bytes := 0, outPos := 0, held := [], scan := none, out := []
      formed := none, stage := .payload, stop := none, progRows := 0, progElems := 0, nvme := false, chain := true }).wake
    let freed := if c.state = .stopped ∧ c.counted = true then
      s.updHandle (recHandle c.rcd) fun y => { y with pend := y.pend - 1 } else s
    let started (head : Nat) : State :=
      onHead (freed.updCe n fun y => { y with ctx := s.ctx, owner := s.task, status := 0 }) head
    let misused := s.updCe n fun y => { y with err := true }
    let stopped (t : State) : Prop := (t.ce n).state = .stopped ∧ (t.ce n).status = 0x0A ∧ (t.ce n).erra = c.head
    let killing := s.modl.killDone = false ∧ s.modl.killCtx = s.ctx
    ((∀ k, s.task = some k → s.borrows k = false) →
      (¬ running → v.toNat % 64 = 0 → killing → exec (.ceChainStart e v) s = .next s) ∧
      (¬ running → v.toNat % 64 = 0 → ¬ killing → exec (.ceChainStart e v) s = .next (started (v.toNat % 2 ^ 48))) ∧
      (running ∨ v.toNat % 64 ≠ 0 → exec (.ceChainStart e v) s = .next misused) ∧
      (Acceptable s (.cchain e r h) (.cchain e r h') →
        (¬ running → h'.toNat % 64 = 0 → ¬ killing → exec (.cchain e r h) s = .next ((started h'.toNat).advance 4)) ∧
        (running ∨ h'.toNat % 64 ≠ 0 → exec (.cchain e r h) s = .next (misused.advance 4)))) ∧
    (∀ k q, s.task = some k → s.borrows k = true → s.findRec k = some q → q.deferred.length < 16 →
      exec (.ceChainStart e v) s =
        .next (s.updRec k fun y => { y with deferred := y.deferred ++ [.chain e v.toNat] })) ∧
    exec (.ceClearError e) s = .next (s.updCe n fun y => { y with err := false }) ∧
    (running → c.stop = none → s.ceKilled n = false → n < s.core.ces.length →
      ((s.ceMark n 0x0A).isSome = true → (∃ t, exec (.ceAbort e) s = .next t ∧ stopped t) ∧
        (Acceptable s (.cabort e) (.cabort e) → ∃ t, exec (.cabort e) s = .next t ∧ stopped t ∧
          t.core.clerk.pc = s.core.clerk.pc + 4)) ∧
      (s.ceMark n 0x0A = none →
        exec (.ceAbort e) s = .next (s.updCe n fun y => { y with stop := some (0x0A, c.head), nvme := false }))) ∧
    (running → s.ceKilled n = true → exec (.ceAbort e) s = .next s) ∧
    (¬ running → exec (.ceAbort e) s = .next s ∧
      (Acceptable s (.cabort e) (.cabort e) → exec (.cabort e) s = .next (s.advance 4))) ∧
    (c.state = .stopped → c.status = 0x01 ∨ c.status = 0x0C →
      (c.scan = none → exec (.ceResume e) s = .next (s.updCe n fun y => { y with status := 0, state := .run, held := [] }).wake) ∧
      (c.scan.isSome = true → exec (.ceResume e) s = .next (s.updCe n fun y => Ce.scanFrom { y with
        status := 0, state := .run, held := y.held.filter fun p => !(p.fail.any fun f => f.1 == 0x01 || f.1 == 0x0C) } 0).wake)) ∧
    (¬ (c.state = .stopped ∧ (c.status = 0x01 ∨ c.status = 0x0C)) → exec (.ceResume e) s = .next misused) ∧
    (running → exec (.ceKick e) s = .next (s.updCe n fun y => { y with kick := true })) ∧
    (c.state = .idleOwn → exec (.ceKick e) s = .next (onHead s c.head)) ∧
    (c.state = .idleEnd → c.kick = false → c.chain = true → ∀ b u, s.ceRead c.ctx (addrPlus c.head 56) 8 = .ok (b, u) →
      let v := u.updCe n fun y => { y with kick := false }
      (ofBytes b = 0 → exec (.ceKick e) s = .next v) ∧
      (ofBytes b ≠ 0 → ofBytes b < 2 ^ 48 → ofBytes b % 64 = 0 → exec (.ceKick e) s = .next (onHead v (ofBytes b)))) ∧
    (c.state = .stopped → exec (.ceKick e) s = .next s) ∧
    (c.state = .idleEnd → c.kick = false → c.chain = false →
      ∃ t, exec (.ceKick e) s = .next t ∧ (t.ce n).state = .idleEnd ∧ t.mem = s.mem ∧ t.core.clerk = s.core.clerk)

/-- `cfgld`, `cfgwait` and `wbar` (R166, R168, R251, R252). `cfgld` of an image and folio that pass their checks, while
no earlier configuration is being sent, makes the folio resident and puts each row's words into the queue of the row's
port, in order; of the entry folio before any other has been sent, it sends nothing. An image beyond 48 bits traps
with 0x04 and a misaligned one with 0x03. `cfgwait` goes on when every word sent has been applied, `wbar` when the
barrier has reached every sink and no acquire or release point of the clerk before it is unperformed (R101), and each waits
until then; an id above 255 traps with 0x08. -/
def Obligations.ConfigurationInstructions : Prop :=
  ∀ (a b : Reg) (s : State),
    let image := (s.reg a).toNat; let folio := (s.reg b).toNat; let o := exec (.cfgld a b) s
    (image < 2 ^ 48 → image % 64 = 0 → s.cfgSending = true → o = .next s) ∧
    (∀ (ws : List Nat) (qs : List EntryQ) (u : State), image < 2 ^ 48 → image % 64 = 0 → s.cfgSending = false →
      s.fetchFolio ⟨.fabric, .load, 8, s.taskMode⟩ image folio = .ok (ws, qs, u) →
      let again := u.core.fab.image = some image ∧ u.core.fab.entryPending = some folio
      (again → o = .next ((u.updFab fun f => { f with folio := some folio }).advance 4)) ∧
      (¬ again → ∃ t, o = .next t ∧ t.core.clerk.pc = u.core.clerk.pc + 4 ∧ t.mem = u.mem ∧
        t.core.fab.image = some image ∧ t.core.fab.folio = some folio ∧ t.core.fab.entryPending = none ∧
        (u.core.ports.length = 16 → ∀ p, p < 16 →
          let mine := ws.filter fun w => cfgRow w = p + 1
          (t.port p).queue = (u.port p).queue ++
            (if mine = [] then [] else [PortItem.cfg t.core.fab.loadId (mine.map (BitVec.ofNat 64))])))) ∧
    (s.core.clerk.frozen = false →
      (2 ^ 48 ≤ image → Traps s o 0x04 (image % 2 ^ 48)) ∧
      (image < 2 ^ 48 → image % 64 ≠ 0 → Traps s o 0x03 image)) ∧
    (s.core.fab.configured = true → exec .cfgwait s = .next (s.advance 4)) ∧
    (s.core.fab.configured = false → exec .cfgwait s = .next s) ∧
    (s.reg a >>> 8 = 0 →
      (s.barrierDone ((s.reg a).setWidth 8) = true → s.pointsDone = true → exec (.wbar a) s = .next (s.advance 4)) ∧
      (s.barrierDone ((s.reg a).setWidth 8) = false ∨ s.pointsDone = false → exec (.wbar a) s = .next s)) ∧
    (s.reg a >>> 8 ≠ 0 → s.core.clerk.frozen = false → Traps s (exec (.wbar a) s) 0x08 s.core.clerk.pc.toNat)

/-! ### The clerk's other events -/

/-- A result returns (R200): the destination register gets its value and its presence bit, the instruction leaves the list of
the unfinished ones, and the PC, memory and every other register stay. `hwait`, once nothing before it holds it back, makes
its claim when its handle is FULL or DRAINING, and answers BYTES, ERR and STATE 3 (R89, R101, R253). A `join` that waited and
is refused, its id having formed with another count, traps with 0x08 at its own PC (R140). -/
def Obligations.ResultsReturn : Prop :=
  ∀ (k : Nat) (u : Unfin) (s : State), s.unfin k = some u →
    (∀ v : Qword, u.done = some v → ∃ t, exec (.asyncResultWrite k) s = .next t ∧
      t.core.clerk.unfin = s.core.clerk.unfin.eraseIdx k ∧ t.mem = s.mem ∧ t.core.clerk.pc = s.core.clerk.pc ∧
      (∀ r, r ≠ u.dest → t.reg r = s.reg r ∧ t.core.clerk.present r = s.core.clerk.present r) ∧
      ((∃ w pl, u.work = .load w pl) ∨ (∃ op pl b c o, u.work = .atomic op pl b c o) ∨ (∃ x, u.work = .result x) ∨
          (∃ o e q, u.work = .acquire o e q) → u.kd = false →
        t.reg u.dest = (if u.dest = 0 then 0 else v.setWidth 64) ∧ t.core.clerk.present u.dest = true ∧
        t.core.clerk.kregs = s.core.clerk.kregs) ∧
      (∀ pl, u.work = .loadK pl → u.kd = true → t.kreg (u.dest.setWidth 3) = v ∧
        t.core.clerk.kpresent (u.dest.setWidth 3) = true ∧ t.core.clerk.regs = s.core.clerk.regs)) ∧
    (∀ h, u.done = none → u.work = .hwait h → u.kd = false →
      let x := s.handle h
      (s.mayPerform k = false → exec (.asyncResultWrite k) s = .next s) ∧
      (s.mayPerform k = true → x.st = .full ∨ x.st = .draining → h < s.core.handles.length →
        ∃ t, exec (.asyncResultWrite k) s = .next t ∧ (t.handle h).st = .draining ∧
          t.core.clerk.present u.dest = true ∧
          t.reg u.dest = (if u.dest = 0 then 0 else
            BitVec.ofNat 64 (x.bytes.toNat * 2 ^ 32 + x.err.toNat * 2 ^ 16 + 3))) ∧
      (x.st = .free ∨ x.st = .filling → exec (.asyncResultWrite k) s = .next s)) ∧
    ∀ i, u.done = none → u.work = .join i .refused → s.core.clerk.frozen = false →
      Traps s (exec (.asyncResultWrite k) s) 0x08 u.pc.toNat

/-- The pending causes stand in strictly ascending order of their codes. -/
def Sys2Proof.Claims.PendAscending (l : List Pend) : Prop := l.Pairwise fun p q => p.code < q.code

/-- With the pending causes in strictly ascending order, which making another pending keeps, a pending asynchronous cause is
taken before the next instruction issues, but by no clerk that has ended its task by FAULTEND (R347): the one with the least
code, with bit 8 of the cause set, and the others stay pending (R318). A `wfe` whose event has come ends at the next
instruction (R255), as a completed instruction where SSTEP watches it (R319). The debug interface lets a halted clerk go on
(R255). The watchdog's cause 0x15 becomes pending when the tree is not empty, no token can move and no request is outstanding,
and a memory request of the clerk that has been sent and is abandoned traps with 0x14 at its address (R330), but not one that
waits for a loan (R120), nor one that is still held back; a `join` among them, which has no address, at its own PC (R145; log
111, DEDUCED), and a request of an FE is contained with 0x14. -/
def Obligations.ClerkEvents : Prop :=
  ∀ (s : State),
    (PendAscending s.core.clerk.pend → ∀ code faddr detail, code < 256 →
      PendAscending (s.pendCause code faddr detail).core.clerk.pend) ∧
    (PendAscending s.core.clerk.pend → s.task.isSome = true → s.clerkGated = false → s.asyncReady = true →
      s.endsItself = false → ∃ p t, p ∈ s.core.clerk.pend ∧ (∀ q ∈ s.core.clerk.pend, q ≠ p → p.code < q.code) ∧
        exec .asyncTrap s = .next t ∧ Traps s (exec .asyncTrap s) (256 + p.code.toNat) (p.faddr % 2 ^ 48) ∧
        (∀ q, q ∈ t.core.clerk.pend ↔ q ∈ s.core.clerk.pend ∧ q ≠ p) ∧ PendAscending t.core.clerk.pend) ∧
    (s.core.clerk.run = .wfe → s.core.clerk.wfeEvent = true → s.core.clerk.pc.toNat % 4 = 0 →
      exec .wfeWake s = .next (s.updClerk fun c => { c with
        pc := c.pc + 4, run := .running, wfeEvent := false
        stepping := c.stepping && c.mode = .supervisor
        stepped := if c.stepping = true ∧ c.mode = .task then some c.pc else c.stepped })) ∧
    (s.core.clerk.wfeEvent = false → exec .wfeWake s = .next s) ∧
    (s.core.clerk.run = .halted →
      exec .debugInterfaceResume s = .next (s.updClerk fun c => { c with run := .running })) ∧
    (s.task.isSome = true → s.quiescent = false → s.noneOutstanding = true → s.tokensMove = false →
      s.core.clerk.run ≠ .doubleHalt →
      ∃ t, exec .watchdogExpiry s = .next t ∧ (∃ p ∈ t.core.clerk.pend, p.code = 0x15) ∧
        t.core.clerk.pc = s.core.clerk.pc ∧ t.core.clerk.regs = s.core.clerk.regs ∧ t.mem = s.mem) ∧
    (∀ k u, s.unfin k = some u → u.done = none → s.unfinSent k u = false →
      exec (.memoryTimeout (.clerk k)) s = .next s) ∧
    (∀ k u, s.unfin k = some u → u.done = none → s.unfinSent k u = true →
      (u.waits s = true → exec (.memoryTimeout (.clerk k)) s = .next s) ∧
      (u.waits s = false → s.core.clerk.frozen = false →
        Traps s (exec (.memoryTimeout (.clerk k)) s) 0x14
          (if isJoinHead u.op.toNat u.func.toNat = true then u.pc.toNat else u.ea % 2 ^ 48))) ∧
    ∀ k q r c, s.req k = some q → q.stage = .waiting → s.givenUp k q = false → q.who = .fe r c →
      exec (.memoryTimeout (.fabric k)) s = .next (s.reqFail q 0x14 q.va 0)

/-! ### Accesses at their homes -/

/-- What an access passes at its home, from `s` to `t`: a sibling's window is still open (R143), a compressed page still has
V = 1 (R45), a peer can be reached (R338), and checks 6 to 8 of R232 (R120, R122, R332). -/
def Sys2Proof.Claims.PassesHome (s t : State) (u : Unfin) (kind : AccKind) (n : Nat) (pl : Place) : Prop :=
  s.windowShut pl = false ∧ s.pageShut pl = false ∧ s.hasPort u = true ∧
  ∃ a, s.touch s.taskMode u.canon n u.ea kind (s.freePlace pl || !u.behind) = .ok a ∧ a.watchHit kind.sel u.canon n = none ∧
    (if kind = .load then t = a else a.undoLog [(u.canon, n)] u.ea = .ok t)

/-- A place whose bytes memory holds: DRAM, CXL and host memory, a peer module, a bank block. -/
def Sys2Proof.Claims.ByteHome (pl : Place) : Prop :=
  (∃ pa, pl = .mem pa) ∨ (∃ m pa, pl = .peer m pa) ∨ ∃ c off, pl = .bank c off

/-- The `n` bytes at a place hold `v`, with no uncorrectable error among them: in memory, in a tile of a compressed page
that is not locked, or in a register of the own resource area. -/
def Sys2Proof.Claims.PlaceHolds (s : State) (pl : Place) (n v : Nat) : Prop :=
  s.placePoison pl n = none ∧
    ((ByteHome pl ∧ v = memRead s.mem (pl.key s) n) ∨
      (∃ c t off, pl = .page c t off ∧ (s.pageAt c t).lock = false ∧ s.pageRead c t off n = some v) ∨
      ∃ off, pl = .own off ∧ v = s.ownRead off n)

/-- The step by which an access goes on at a place. -/
def Sys2Proof.Claims.stepAt (k : Nat) : Place → Instr
  | .bank _ _ => .bankAccess (.clerk k)
  | .page _ _ _ => .compressedTileAccess (.clerk k)
  | _ => .accessPerform (.clerk k)

/-- A load or store that no earlier one holds back is performed at its home by one step (R7, R37, R49, R93, R233,
R234): a load gets the little-endian value of its bytes, extended by its width, those of the clerk's own unperformed
stores before it among them, and changes no memory; a store writes
the low bytes of its value, little-endian, and every other byte of memory reads as before. In both, every register
and the PC stay. That is so of DRAM, CXL, host memory, peer modules and bank blocks (`bankAccess`); a compressed page
goes by its tile, and the own resource area and (for a load) control registers by their registers. That a store to a compressed
page finishes where the write of its tile starts a growth or sets LOCK is the model's choice (log 87, DESIGN CHOICE). -/
def Obligations.AccessesPerformed : Prop :=
  ∀ (k : Nat) (u : Unfin) (s t : State), Due s k u →
    let before := t.core.clerk.unfin.take k
    let found (pl : Place) (n v : Nat) : Nat := overlay t before (pl.key t) n v
    (∀ w pl, u.work = .load w pl → PassesHome s t u .load w.bytes pl →
      let gives (v : Nat) : Prop := exec (stepAt k pl) s = .next (t.finishUnfin k ((w.extend v).setWidth 128))
      (∀ v, PlaceHolds t pl w.bytes v → t.covered before u = false →
        gives (found pl w.bytes v) ∧
        (ByteHome pl → (∀ e ∈ before, e.work.seen = false) → gives (memRead t.mem (pl.key t) w.bytes))) ∧
      (t.covered before u = true → (∀ off, pl ≠ .ctrl off) → gives (found pl w.bytes 0)) ∧
      (∀ off, pl = .ctrl off → exec (stepAt k pl) s =
        .next ((t.ctrlRead off w.bytes).2.finishUnfin k ((w.extend (t.ctrlRead off w.bytes).1).setWidth 128)))) ∧
    (∀ pl v, u.work = .loadK pl → PassesHome s t u .load 16 pl → PlaceHolds t pl 16 v → t.covered before u = false →
      exec (stepAt k pl) s = .next (t.finishUnfin k (BitVec.ofNat 128 (found pl 16 v)))) ∧
    (∀ n pl v, u.work = .store n pl v → PassesHome s t u .store n pl →
      (ByteHome pl → t.objProtected (pl.key t) n = false → t.partPoisoned (pl.key t) n = false →
        Memory.wf t.mem = true →
        ∃ x, exec (stepAt k pl) s = .next x ∧ memRead x.mem (pl.key t) n = v % 2 ^ (8 * n) ∧
          (∀ a, a < pl.key t ∨ pl.key t + n ≤ a → memGet x.mem a = memGet t.mem a) ∧
          x.core.clerk.regs = t.core.clerk.regs ∧ x.core.clerk.kregs = t.core.clerk.kregs ∧
          x.core.clerk.pc = t.core.clerk.pc ∧
          x.core.clerk.unfin.length = (t.core.clerk.unfin.eraseIdx k).length) ∧
      (∀ c p off bs y, pl = .page c p off → n < 1024 → (t.pageAt c p).lock = false → t.placePoison pl 1 = none →
        t.tileRead c p (off / 1024) = some bs →
        t.tileWrite c p (off / 1024) (patch bs (off % 1024) n v) = some y →
        exec (stepAt k pl) s = .next (y.dropUnfin k)) ∧
      (∀ off, pl = .own off → t.ownStoreRefused off = false → t.partPoisoned (pl.key t) n = false →
        exec (stepAt k pl) s = .next ((t.ownWrite off n v).dropUnfin k)))

/-- An atomic at its home reads and writes its place with nothing between (R116, R235): the old value, of the form's
width, is its result, and the place holds the new value of its operation; `amocas` writes only where the old value
equals its comparand, and `amofadd` adds in FP32 with round to nearest even. Every other byte of memory, every
register and the PC stay. One at this core's banks waits while the skid of a watchpoint holds it back (R332). -/
def Obligations.AtomicsPerformed : Prop :=
  ∀ (k : Nat) (u : Unfin) (op : AtomicOp) (pl : Place) (b c : Dword) (o : AmoOrder) (s t : State),
    Due s k u → u.work = .atomic op pl b c o →
    (s.skidWaits pl = true → exec (.atomicPerform (.clerk k)) s = .next s) ∧
    (s.skidWaits pl = false →
    let n := if o.wide then 8 else 4
    PassesHome s t u .atomic n pl → ByteHome pl → (t.unfin k).isSome = true →
    t.objProtected (pl.key t) n = false → t.placePoison pl n = none → t.partPoisoned (pl.key t) n = false →
    Memory.wf t.mem = true →
    let old := memRead t.mem (pl.key t) n
    let m := 2 ^ (8 * n)
    let y := b.toNat % m
    let new : Nat := match op with
      | .add => (old + y) % m
      | .and => old &&& y
      | .or => old ||| y
      | .xor => old ^^^ y
      | .min => if signedOf (8 * n) y < signedOf (8 * n) old then y else old
      | .max => if signedOf (8 * n) old < signedOf (8 * n) y then y else old
      | .minu => min old y
      | .maxu => max old y
      | .swap => y
      | .cas => if old = c.toNat % m then y else old
      | .fadd => (fAdd fp32 .rne old y).1 % m
    ∃ x v, exec (.atomicPerform (.clerk k)) s = .next x ∧ x.unfin k = some v ∧
      (∃ d, v.done = some d ∧ d.setWidth 64 = BitVec.ofNat 64 old) ∧
      memRead x.mem (pl.key t) n = new ∧
      (∀ a, a < pl.key t ∨ pl.key t + n ≤ a → memGet x.mem a = memGet t.mem a) ∧
      x.core.clerk.regs = t.core.clerk.regs ∧ x.core.clerk.pc = t.core.clerk.pc)

/-- A transform is performed whole at its bank (R56), a layout of a compressed page completes with LOCK cleared (R50),
a `tdel` clears V of an entry that no request pins (R41), and a walk that ends well fills both TLBs, and its requests go
on (R32), those to a peer by a Span port where one is up (R338): here the only ones that walk, so that no other walk starts. -/
def Obligations.BankAndTableSteps : Prop :=
  ∀ (k : Nat) (u : Unfin) (s t x : State) (p : BitVec 6),
    (Due s k u →
      (∀ w, u.work = .xbank w → s.xfLoans s.taskMode w.toNat u.ea = .ok t → t.xfProtected w.toNat = false →
        t.xfPoisoned w.toNat = false →
        t.xfPerform w.toNat = .ok x → exec (.bankTransform (.clerk k)) s = .next (x.dropUnfin k)) ∧
      (∀ a, u.work = .tag .del a →
        (s.tagHit a = none → exec (.tdelPerform k) s = .next (s.finishUnfin k ((-1 : Dword).setWidth 128))) ∧
        (∀ i, s.tagHit a = some i → (s.tag i).pin = 0 →
          exec (.tdelPerform k) s = .next ((s.setTag i { s.tag i with v := false }).finishUnfin k (BitVec.ofNat 128 i))) ∧
        (∀ i, s.tagHit a = some i → (s.tag i).pin ≠ 0 → exec (.tdelPerform k) s = .next s))) ∧
    (∀ g, (s.page p.toNat).grow = some g → p.toNat < s.pages.length →
      ∃ y, exec (.pageLayoutDone p) s = .next y ∧ (y.page p.toNat).lock = false ∧ (y.page p.toNat).grow = none) ∧
    ∀ w e, s.walks[k]? = some w → s.walk w.ctx (w.page * 2 ^ 16) = .ok e →
      w.ctx = s.ctx → (∀ q ∈ s.core.fab.reqs, q.stage = .walking → q.va / 2 ^ 16 = w.page) →
      exec (.pageWalkEnd k) s = .next ((State.fill { s with walks := s.walks.eraseIdx k } e).updFab fun f => { f with
        reqs := f.reqs.map fun q => if q.stage = .walking then { q with stage := .waiting } else q }).sendReqs

/-! ### Synchronisation objects at their homes -/

/-- Requests and releases at an object's home (R105, R107, R239). An exclusive request of a free object with an empty
queue is granted at once: MODE 2, HOLD 1, WAIT 0, GEN one more; a shared one sets MODE 1 and HOLD 1 and leaves GEN, and of an
object that is shared already, with none queued, adds one to HOLD. A request of an object held exclusively joins the end of
its queue, and so does an exclusive one of a shared object, and any behind an exclusive one that is queued. One of a word whose
MODE is 11, or a shared one where HOLD is 16,383, traps with 0x08. A release lowers HOLD by one. That of the last hold of an
object with an empty queue frees it and leaves GEN; with a queue its head is served: an exclusive request alone, and shared
requests together up to the first exclusive one. -/
def Obligations.ObjectsAtHome : Prop :=
  ∀ (k : Nat) (u : Unfin) (q : TaskKey) (s : State), Due s k u →
    s.task = some q → Memory.wf s.mem = true →
    (∀ home excl, u.work = .acquire home excl false → s.windowShut home = false → s.hasPort u = true →
      s.poisoned (home.key s) 8 = false →
      let w := s.rd (home.key s) 8
      let o := exec (.objectRequest (.own k)) s
      (objMode w = 0 → objHold w = 0 → s.objQueue home = [] → ∃ t, o = .next t ∧ t.objQueue home = [] ∧
        t.rd (home.key s) 8 = (if excl then 2 * 2 ^ 62 + 2 ^ 48 + (objGen w + 1) % 2 ^ 32
          else 2 ^ 62 + 2 ^ 48 + objGen w)) ∧
      (objMode w = 1 → objHold w < 16383 → s.objQueue home = [] → excl = false → ∃ t, o = .next t ∧ t.objQueue home = [] ∧
        t.rd (home.key s) 8 = 2 ^ 62 + (objHold w + 1) * 2 ^ 48 + objGen w) ∧
      (objMode w = 2 ∨ (objMode w = 1 ∧ ((s.objQueue home = [] ∧ excl = true) ∨
          ∃ x rest, s.objQueue home = x :: rest ∧ x.excl = true)) → excl = true ∨ objHold w ≠ 16383 →
        ∃ t, o = .next t ∧ t.objQueue home = s.objQueue home ++ [ObjWait.mk q excl] ∧
          objMode (t.rd (home.key s) 8) = objMode w ∧ objHold (t.rd (home.key s) 8) = objHold w ∧
          objGen (t.rd (home.key s) 8) = objGen w) ∧
      (objMode w = 3 ∨ (excl = false ∧ objHold w = 16383) → s.core.clerk.frozen = false → Traps s o 0x08 (u.ea % 2 ^ 48))) ∧
    ∀ home, u.work = .release home → s.hasPort u = true → s.poisoned (home.key s) 8 = false →
      let w := s.rd (home.key s) 8
      let queue := s.objQueue home
      let shared := (queue.takeWhile fun x => !x.excl).length
      ∃ t, exec (.objectRelease (.own k)) s = .next t ∧ t.core.clerk.unfin.length + 1 = s.core.clerk.unfin.length ∧
        (1 < objHold w → t.objQueue home = queue ∧ objMode (t.rd (home.key s) 8) = objMode w ∧
          objHold (t.rd (home.key s) 8) = objHold w - 1 ∧ objGen (t.rd (home.key s) 8) = objGen w) ∧
        (objHold w = 1 → queue = [] → t.rd (home.key s) 8 = objGen w) ∧
        (objHold w = 1 → ∀ x rest, queue = x :: rest →
          (x.excl = true → t.objQueue home = rest ∧
            t.rd (home.key s) 8 = 2 * 2 ^ 62 + 2 ^ 48 + min rest.length 65535 * 2 ^ 32 + (objGen w + 1) % 2 ^ 32) ∧
          (x.excl = false → shared ≤ 16383 → t.objQueue home = queue.drop shared ∧
            t.rd (home.key s) 8 =
              2 ^ 62 + shared * 2 ^ 48 + min (queue.length - shared) 65535 * 2 ^ 32 + objGen w))

/-! ### The host, and control registers -/

/-- Requests of the host and the owner's register writes (R21, R22, R103, R335). A read of a control register returns its
value; a write by the owning master is the register write, and one by another master does nothing; a memory read of an aligned
place that resolves returns its bytes, and a refused one leaves no answer (log 63, DEDUCED), once no page walk holds it back.
While the firmware check has failed, the module answers reads of control registers, which are always allowed (R335), and acts
on nothing else (log 62, DEDUCED; R342 says that it stays in reset). A read of LAUNCHST and of ECCSTAT returns the register
and clears it (R151, R333). -/
def Obligations.HostRequests : Prop :=
  ∀ (m : BitVec 2) (off : Nat) (wide : Bool) (v : Dword) (ctx : BitVec 12) (va n : Nat) (w : BitVec 3) (q : HostReq)
      (s : State),
    let size := if wide then 8 else 4
    exec (.hostRequest (.readCtrl m off wide)) s = .next { (s.ctrlRead off size).2 with
      hostRead := some (BitVec.ofNat 64 (s.ctrlRead off size).1) } ∧
    (s.modl.bootstat = true → (∀ m off wide, q ≠ .readCtrl m off wide) → exec (.hostRequest q) s = .next s) ∧
    (s.modl.bootstat = false →
      (off % size = 0 → off / 8 * 8 ≠ 0x140 → off / 8 * 8 ≠ 0x148 →
        (s.modl.owner = some m →
          exec (.hostRequest (.writeCtrl m off wide v)) s = exec (.controlRegisterWrite off wide v) s) ∧
        (s.modl.owner ≠ some m → exec (.hostRequest (.writeCtrl m off wide v)) s = .next s)) ∧
      (s.walkHeld ctx va = true → va % n = 0 → exec (.hostRequest (.readMem ctx va n)) s = .next s ∧
        exec (.hostRequest (.writeMem ctx va n v)) s = .next s) ∧
      (s.walkHeld ctx va = false → va % n = 0 →
      (∀ r x t, s.resolve ctx ⟨.fabric, .load, n, false⟩ va = .ok r → s.reaches ctx r.pl va = true →
        s.placeRead r.pl va n = .ok x t →
        exec (.hostRequest (.readMem ctx va n)) s = .next { t with hostRead := some (BitVec.ofNat 64 x) }) ∧
      (∀ f, s.resolve ctx ⟨.fabric, .load, n, false⟩ va = .error f →
        exec (.hostRequest (.readMem ctx va n)) s = .next { s with hostRead := none }) ∧
      (∀ r t, s.resolve ctx ⟨.fabric, .store, n, false⟩ va = .ok r → s.reaches ctx r.pl va = true →
        s.placeWrite r.pl va n (v.toNat % 2 ^ (8 * n)) = .ok () t →
        exec (.hostRequest (.writeMem ctx va n v)) s = .next t))) ∧
    exec (.launchstRead w) s = .next { s.updWing w.toNat (fun g => { g with launchst := 0 }) with
      hostRead := some (s.wing w.toNat).launchst } ∧
    exec (.eccstatRead w) s = .next { s.updWing w.toNat (fun g => { g with eccCorr := 0, eccUnc := 0 }) with
      hostRead := some ((s.wing w.toNat).eccUnc ++ (s.wing w.toNat).eccCorr) }

/-- Writes to control registers by the owner: the stored fields of CTXTAB, SAVETAB and PTIMEOUT (R31, R325, R329), and
the registers whose write is an event of its own: LAUNCH, DESKCTL, FAULTEND, XINV, PARTCUR, CPDESC and the seal bits of the
ports, the engines and the TMU (R33, R43, R147, R151, R154, R269, R296, R312, R328). A write to an unimplemented offset
of the module block does nothing (R22). That CTXTAB and SAVETAB take their fields of any value, its reserved bits dropped,
is the model's reading (log 59, DEDUCED). -/
def Obligations.ControlRegisterWrites : Prop :=
  ∀ (v : Dword) (w : BitVec 3) (p : BitVec 4) (e : BitVec 1) (t : BitVec 6) (s : State),
    let put (off : Nat) : Result := exec (.controlRegisterWrite off true v) s
    let x := v.toNat
    put 0x000 = .next (s.updMod fun m => { m with ctxtab := BitVec.ofNat 64 (x / 2 ^ 16 % 2 ^ 36 * 2 ^ 16) }) ∧
    put 0x118 = .next (s.updMod fun m => { m with savetab := BitVec.ofNat 64 (x / 2 ^ 11 % 2 ^ 41 * 2 ^ 11) }) ∧
    put 0x100 = exec (.xinvWrite v) s ∧
    put 0x0F8 = .next s ∧
    put (0x200 + 8 * p.toNat) = exec (.partitionSwap p v) s ∧
    (s.hasWing w.toNat = true →
      put (wingBlock w.toNat) = exec (.launch w v) s ∧
      put (wingBlock w.toNat + 0x10) = exec (.deskctlWrite w v) s ∧
      (0 < x → x < 2 ^ 16 → put (wingBlock w.toNat + 0x18) =
        .next (s.updWing w.toNat fun g => { g with ptimeout := BitVec.ofNat 16 x })) ∧
      put (wingBlock w.toNat + 0x30) = exec (.faultend w v none) s) ∧
    (s.coreId < 160 →
      (v = 1 → put (coreBlock s.coreId + 0x818 + 0x20 * p.toNat) = exec (.spctlUnseal p) s ∧
        put (coreBlock s.coreId + 0xA00 + 8 * e.toNat) = exec (.mesealEnd e) s ∧
        put (coreBlock s.coreId + 0xA10) = exec .tmsealEnd s) ∧
      put (coreBlock s.coreId + 0x1000 + 8 * t.toNat) = exec (.cpdescWrite t v) s)

/-! ### Desks, dispatch, pre-emption and recall -/

/-- `LAUNCH`, `DESKCTL` and `FAULTEND` (R148, R151, R154). A launch whose checks fail leaves its code and the TCB address
in LAUNCHST and changes nothing else; one that passes stamps the TCB with the module's age, counts the age on, and makes
a task with a nonzero count ARMED. DESKCTL takes a quantum and a period in range and ignores any other write. A FAULTEND that
names no task of the wing gives code 6; one that names the core's own task frees the core. -/
def Obligations.DeskRegisters : Prop :=
  ∀ (w : BitVec 3) (v : Dword) (s : State),
    let k : TaskKey := ⟨v.extractLsb' 52 12, v.toNat % 2 ^ 48⟩
    let x := v.toNat
    (s.launchCode k ≠ 0 → exec (.launch w v) s = .next (s.updWing w.toNat fun g =>
      { g with launchst := BitVec.ofNat 64 (s.launchCode k * 2 ^ 56 + x % 2 ^ 48) })) ∧
    (∀ pa, s.launchCode k = 0 → s.tcbPa k.ctx k.tcb = some pa → 2 ^ 48 ≤ s.tcbRd pa 3 → Memory.wf s.mem = true →
      s.modl.age < 2 ^ 48 →
      ∃ t, exec (.launch w v) s = .next t ∧ t.modl.age = (s.modl.age + 1) % 2 ^ 48 ∧ t.tcbRd pa 5 = s.modl.age ∧
        t.tcbRd pa 12 = 0 ∧ t.tcbRd pa 3 / 2 ^ 8 % 2 ^ 3 = 1 ∧ (∃ r ∈ t.recs, r.key = k ∧ r.age = s.modl.age) ∧
        t.wings = s.wings ∧ t.core.clerk.regs = s.core.clerk.regs) ∧
    (x / 2 ^ 48 = 0 → x / 2 ^ 14 % 2 ^ 18 = 0 → 64 ≤ x % 2 ^ 14 → x % 2 ^ 14 ≤ 16000 →
      exec (.deskctlWrite w v) s = .next (s.updWing w.toNat fun g =>
        { g with quantum := BitVec.ofNat 16 (x / 2 ^ 32 % 2 ^ 16), period := BitVec.ofNat 14 (x % 2 ^ 14) })) ∧
    (x / 2 ^ 48 ≠ 0 ∨ x / 2 ^ 14 % 2 ^ 18 ≠ 0 ∨ x % 2 ^ 14 < 64 ∨ 16000 < x % 2 ^ 14 →
      exec (.deskctlWrite w v) s = .next s) ∧
    ∀ part, (s.faultPick (s.faultMatches w.toNat (x % 2 ^ 48) part) = none →
        exec (.faultend w v part) s = .next (s.updWing w.toNat fun g =>
          { g with launchst := BitVec.ofNat 64 (6 * 2 ^ 56 + x % 2 ^ 48) })) ∧
      ∀ y c z, s.faultPick (s.faultMatches w.toNat (x % 2 ^ 48) part) = some (y, c, z) → s.task = some y →
        ∃ t, exec (.faultend w v part) s = .next t ∧ t.task = none ∧ t.core.clerk = Clerk.reset ∧ t.preempting = none

/-- Dispatch of a task to its first entry (R11, R152, R208, R319). Where one task is ready in the wing and none in another,
and the lowest free core for which it is eligible is the modelled one, it runs there: the PC is ENTRY, `s1` ARG and `s2` the
TCB address, every other register 0 and present, the mode task, TVEC that of the partition, CMDBASE ENTRY with bits 20:0
clear, the cause registers not frozen, nothing pending or unfinished, and no image resident (its TCB names none). No core is
kept for a task that pre-empts, and the start need not wait for a page walk or a load of the image. With no free core nothing
changes. That bits 1:0 of ENTRY count as 0 is the model's choice (log 21, DEDUCED). -/
def Obligations.TaskEntry : Prop :=
  ∀ (w : BitVec 3) (r : Ready) (pa : Nat) (s : State),
    let free (c : Nat) : Bool := s.freeCoreAt (20 * w.toNat + c) && s.eligible r (20 * w.toNat + c)
    ((∀ c, s.freeCoreAt c = false) → exec (.dispatch w) s = .next s) ∧
    (s.nextTask = [] → s.startWaits r s.coreId = false → s.order w.toNat = [r] → (∀ x, x ≠ w.toNat → s.order x = []) →
      (List.range 20).find? free = some (s.coreId % 20) → 20 * w.toNat + s.coreId % 20 = s.coreId →
      s.tcbPa r.key.ctx r.key.tcb = some pa → s.shadow.find? (fun e => e.1 = r.key) = none →
      s.tcbRd pa 2 % 2 ^ 48 = 0 → Memory.wf s.mem = true →
      ∃ t, exec (.dispatch w) s = .next t ∧ t.task = some r.key ∧ t.preempting = none ∧
        t.core.clerk.pc = BitVec.ofNat 48 (s.tcbRd pa 0) &&& ~~~3 ∧
        t.reg 1 = BitVec.ofNat 64 (s.tcbRd pa 1 % 2 ^ 48) ∧ t.reg 2 = BitVec.ofNat 64 r.key.tcb ∧
        (∀ d, d ≠ 1 → d ≠ 2 → t.reg d = 0) ∧ (∀ d, t.core.clerk.present d = true) ∧
        t.core.clerk.mode = .task ∧ t.core.clerk.run = .running ∧ t.core.clerk.frozen = false ∧
        t.core.clerk.tvec = s.modl.ptvec.getD r.part.toNat 0 ∧
        t.core.clerk.cmdbase = BitVec.ofNat 64 (s.tcbRd pa 0 % 2 ^ 48 / 2 ^ 21 * 2 ^ 21) ∧
        t.core.clerk.pend = [] ∧ t.core.clerk.unfin = [] ∧ t.core.clerk.holds = [] ∧
        t.core.ports = List.replicate 16 Port.reset ∧ t.core.tmu = Tmu.reset ∧ t.core.fab.image = none ∧
        (∃ o ∈ t.occ, o.core = s.coreId ∧ o.key = r.key))

/-- Pre-emption, recall and the cores' resets (R123, R321, R325, R326, R328, R330, R347). A quantum pre-emption of the core's
task begins where a waiting task, of the core's wing or of another (R152), qualifies for the core. A save moves the whole
state of the task to shadow storage, with the instructions that have no value standing for the replay queue, and frees the
core; it waits until it may save. A core that is pre-empted for a task is kept for it. A pre-emption that times out is
abandoned with cause 0x15. A recall rolls its holder back, one that runs here once it has drained, and does nothing to a task
that is not recalled. A partition swap waits for the partition's cores: while the modelled one runs a task of it, the task is
pre-empted and the swap goes on; it ends with the new context when no task runs there. ERR is set by a write while a swap
runs, and by one that finds a core of the partition with full shadow storage, which starts no swap. A write of 1 to DHALT
clears the core, also one that is not halted (log 55, DEDUCED). What a save leaves in the core for the next task is log 37
(DEDUCED), with the channels that run for another context log 132 (DESIGN CHOICE), which requests a recalled core need not
drain is log 56 (DEDUCED), and when it need not drain its tokens log 133 (DESIGN CHOICE). -/
def Obligations.LeavingTheCore : Prop :=
  ∀ (k : TaskKey) (p : BitVec 4) (v : Dword) (s : State),
    let c := s.partcur p.toNat
    let ctx : BitVec 12 := v.setWidth 12
    (∀ r, s.task = some k → s.preempting = none → s.takerOf s.coreId = some r →
      exec (.quantumPreempt s.coreId) s = .next { s with
        preempting := some .quantum
        nextTask := s.nextTask.filter (fun x => x.1 != s.coreId) ++ [(s.coreId, r.2.key)] }) ∧
    (s.task = some k → s.recalled = false →
      (s.maySave = true → ∃ t, exec .preemptSave s = .next t ∧ t.task = none ∧ t.preempting = none ∧
        t.shadow = s.shadow ++ [(k, s.killedCore (s.core.saved s.ctx))] ∧ t.core = s.core.left s.ctx ∧ ∀ o ∈ t.occ, o.core ≠ s.coreId) ∧
      (s.maySave = false → exec .preemptSave s = .next s)) ∧
    (s.preempting.isSome = true →
      exec .preemptionTimeout s = .next (State.pendCause { s with
        preempting := none, nextTask := s.nextTask.filter fun x => x.1 != s.coreId } 0x15 0 1)) ∧
    (k ∉ s.recalling → exec (.recallRollback k) s = .next s) ∧
    (k ∈ s.recalling → s.task ≠ some k → ∃ t, exec (.recallRollback k) s = .next t ∧ k ∉ t.recalling ∧
      (∀ o ∈ t.occ, o.key ≠ k)) ∧
    (k ∈ s.recalling → s.task = some k →
      (s.recallDrained = false → exec (.recallRollback k) s = .next s) ∧
      (s.recallDrained = true → ∃ t, exec (.recallRollback k) s = .next t ∧ t.task = none ∧ k ∉ t.recalling ∧
        t.preempting = none ∧ t.core.clerk = Clerk.reset ∧ t.core.ports = List.replicate 16 Port.reset)) ∧
    (v.getLsbD 63 = true → v.getLsbD 61 = false → ¬ (c.v = true ∧ c.ctx = ctx) →
      (c.swap = none → (∀ x, x < 160 → s.hasCore x = true → s.corePart x = p.toNat → s.shadowFull x = false) →
        s.partRunning p.toNat = [] →
        exec (.partitionSwap p v) s = .next (s.updPartcur p.toNat fun y => { y with swap := some ctx })) ∧
      (c.swap.isSome = true ∨ (∃ x, x < 160 ∧ s.hasCore x = true ∧ s.corePart x = p.toNat ∧ s.shadowFull x = true) →
        exec (.partitionSwap p v) s = .next (s.updPartcur p.toNat fun y => { y with err := true }))) ∧
    (∀ x, c.swap = some x → s.partRunning p.toNat = [s.coreId] → s.task.isSome = true →
      (s.preempting = none → exec (.partitionSwapDone p) s = .next { s with preempting := some .swap }) ∧
      (s.preempting.isSome = true → exec (.partitionSwapDone p) s = .next s)) ∧
    (c.swap = none → exec (.partitionSwapDone p) s = .next s) ∧
    (∀ x, c.swap = some x → s.partRunning p.toNat = [] →
      exec (.partitionSwapDone p) s = .next (s.updPartcur p.toNat fun y => { y with v := true, ctx := x, swap := none })) ∧
    exec (.partcurClearError p) s = .next (s.updPartcur p.toNat fun y => { y with err := false }) ∧
    ∃ t, exec .corerstDhalt s = .next t ∧ t.task = none ∧ t.preempting = none ∧ t.core.clerk = Clerk.reset ∧
      t.core.fab = Fabric.reset ∧ t.core.ports = List.replicate 16 Port.reset ∧ t.core.tmu = Tmu.reset ∧ t.mem = s.mem

/-! ### Copy records and the module -/

/-- The next record of a channel can be read: its state is RUN with no record in it, nothing that stops it, no watchpoint
match pending (R332), and the 64 bytes at CEHEAD are `bs`, read in state `u`. -/
def Sys2Proof.Claims.ReadsRecord (s u : State) (k : Nat) (bs : List Byte) : Prop :=
  let c := s.ce k
  c.state = .run ∧ c.rcd = [] ∧ c.stop = none ∧ c.stage ≠ .next ∧ s.ceFree k = true ∧ k < s.core.ces.length ∧
    (∀ p ∈ s.core.clerk.pend, p.code ≠ 0x11) ∧ s.ceRead c.ctx c.head 64 = .ok (bs, u)

/-- Transfer records (R82, R83, R86, R87, R89, R341). A record whose OWN is 0 leaves the channel idle in STATE 0. One whose
OWN is 1 and that passes its checks runs, counted in PEND of its handle where HV names one that is FILLING, and waits in STATE
3 where the handle is not; one that breaks a limit of R82 stops with status 0x03 and the record's address. One in STATE 3
starts when its handle is FILLING. A payload goes on by one access at a time (log 10); after its last row come the completion
word, the handle, and word 0 with OWN and STATUS 0, and the channel goes on to NEXT, or to STATE 1 after the last (here with
no KICK latched); an access that meets an error stops the record in STATE 4 with the error's status and address, once word 0
has the status. A record to an NVMe namespace that has read its source waits for the controller, whose failure stops it with
status 0x02, and whose success performs what it writes (R341). A pre-empted channel at a 128-byte boundary stays as it is, one
of a task that is recalled ends with status 0x0B, and the channel of a killed context becomes idle with CEHEAD 0. Where a
status must wait for its write to word 0, the record stops later. That the boundaries are those of the bytes written is the
model's reading (log 109, DEDUCED), what becomes of a status or completion word that cannot be written its choice (log 105,
DESIGN CHOICE), and the order in which a record's checks are made its reading (log 28, DEDUCED). -/
def Obligations.CopyRecords : Prop :=
  ∀ (e : BitVec 1) (s u : State) (bs : List Byte),
    let k := e.toNat
    let c := s.ce k
    let r := c.rcd
    let stage (t : State) (x : CeStage) : State := t.updCe k fun y => { y with stage := x }
    let read := exec (.copyRecordRead e) s
    let goes := exec (.copyRecordComplete e) s
    let stops (o : Result) (st a : Nat) : Prop := ∃ t, o = .next t ∧ (t.ce k).state = .stopped ∧
      (t.ce k).status = BitVec.ofNat 8 st ∧ (t.ce k).erra = a
    (ReadsRecord s u k bs → ofBytes (bs.take 8) / 2 ^ 63 % 2 = 0 → c.kick = false →
      ∃ t, read = .next t ∧ (t.ce k).state = .idleOwn ∧ (t.ce k).kick = false ∧ t.mem = s.mem) ∧
    (ReadsRecord s u k bs → ofBytes (bs.take 8) / 2 ^ 63 % 2 = 1 →
      let words : List Dword := (List.range 8).map fun i => BitVec.ofNat 64 (ofBytes ((bs.drop (8 * i)).take 8))
      let v := u.updCe k fun y => { y with rcd := words }
      (∀ x, recOk words = true → v.nvmeBad k = none → v.recOverlap c.ctx words = .ok (none, x) →
        x.nvmeDest k = false → ∃ t, read = .next t ∧ (t.ce k).rcd = words ∧ (t.ce k).head = c.head ∧ t.mem = x.mem ∧
          (recHv words = false → (t.ce k).state = .run ∧ t.core.handles = x.core.handles) ∧
          (recHv words = true → (x.handle (recHandle words)).st = .filling → recHandle words < x.core.handles.length →
            (t.ce k).state = .run ∧ (t.ce k).counted = true ∧
            (t.handle (recHandle words)).pend = (x.handle (recHandle words)).pend + 1) ∧
          (recHv words = true → (x.handle (recHandle words)).st ≠ .filling →
            (t.ce k).state = .wait ∧ t.core.handles = x.core.handles)) ∧
      (recOk words = false → (v.ceMark k 0x03).isSome = true → stops read 0x03 c.head)) ∧
    (c.state = .wait → c.stop = none → s.ceFree k = true → k < s.core.ces.length →
      (s.handle (recHandle r)).st = .filling →
      ∃ t, exec (.copyHandleReady e) s = .next t ∧ (t.ce k).state = .run ∧ (t.ce k).counted = true ∧ t.mem = s.mem) ∧
    (s.ceRunning k = true → k < s.core.ces.length →
      (c.progRows.toNat < recRows r → s.nvmeBad k = none →
        (s.nvmeDest k = true → (∃ i, c.scan = some i ∧ recRows r * recElems r ≤ i) →
          goes = .next (s.updCe k fun y => { y with nvme := true })) ∧
        (s.nvmeDest k = false → s.cePay k (s.ceHalts k) = .ok u → goes = .next u)) ∧
      (recRows r ≤ c.progRows.toNat →
        (c.stage = .payload → goes = .next (stage s .completion)) ∧
        (c.stage = .completion →
          (recW r 0 / 2 ^ 62 % 2 = 0 → goes = .next (stage s .handle)) ∧
          (recW r 0 / 2 ^ 62 % 2 = 1 → let a := recW r 6 % 2 ^ 48
            s.ceWrite k c.ctx a (toBytes (recW r 3 / 2 ^ 32) 4) (a, a + 4) = .ok u → goes = .next (stage u .handle))) ∧
        (c.stage = .handle → ∃ t, goes = .next t ∧ (t.ce k).stage = .word0 ∧ (t.ce k).counted = false ∧ t.mem = s.mem ∧
          (c.counted = false → t.core.handles = s.core.handles) ∧
          (c.counted = true → recHandle r < s.core.handles.length → let h := s.handle (recHandle r)
            let h' := t.handle (recHandle r)
            h'.pend = h.pend - 1 ∧ h'.bytes = h.bytes + BitVec.ofNat 32 c.bytes ∧
            (h'.st = .full ↔ h.st = .full ∨ ((h.fseen = true ∨ recW r 0 / 2 ^ 60 % 2 = 1) ∧ h.pend - 1 = 0)))) ∧
        (c.stage = .word0 → s.ceWord0 k (setBits (setBits (recW r 0) 63 63 0) 55 48 0) = .ok u →
          (u.ce k).kick = false → k < u.core.ces.length → ∃ t, goes = .next t ∧ t.mem = u.mem ∧
            (t.ce k).rcd = [] ∧ (recW r 7 % 2 ^ 48 = 0 → (t.ce k).state = .idleEnd) ∧
            (recW r 7 % 2 ^ 48 ≠ 0 → (t.ce k).state = .run ∧ (t.ce k).head = recW r 7 % 2 ^ 48))) ∧
      ∀ st a, s.ceStep k = .error (.stop st a, u) → st ≠ 0x0B → u.ceKilled k = false → k < u.core.ces.length →
        (u.ceMark k st).isSome = true → stops (exec (.copyRecordStop e) s) st a) ∧
    (c.state = .run → s.ceHalts k = true → c.nvme = false → c.stop = none → c.bytes % 128 = 0 →
      (s.ceKilled k = false → s.ceRecalled k = false → ∀ n, exec (.copyBoundaryStop e n) s = .next s) ∧
      (s.ceKilled k = false → s.ceRecalled k = true → k < s.core.ces.length → ∀ n, ∃ t,
        exec (.copyBoundaryStop e n) s = .next t ∧ (t.ce k).state = .stopped ∧ (t.ce k).status = 0x0B ∧
          (c.counted = true → recHandle c.rcd < s.core.handles.length → t.handle (recHandle c.rcd) = Handle.reset)) ∧
      (s.ceKilled k = true → k < s.core.ces.length → ∀ n, ∃ t, exec (.copyBoundaryStop e n) s = .next t ∧
        (t.ce k).state = .idleEnd ∧ (t.ce k).head = 0 ∧ (t.ce k).rcd = [])) ∧
    (c.state = .run → c.nvme = true → s.ceKilled k = false →
      ((s.ceMark k 0x02).isSome = true → k < s.core.ces.length →
        stops (exec (.nvmeWriteComplete e false) s) 0x02 (recDst r)) ∧
      (payAll k (recRows r * recElems r) s = .ok u → u.ceKilled k = false →
        exec (.nvmeWriteComplete e true) s = .next (u.updCe k fun y => { y with nvme := false }))) ∧
    ∀ good, c.nvme = false → exec (.nvmeWriteComplete e good) s = .next s

/-- Invalidation, the end of a context, and the tables of a core (R33, R38, R43, R44, R90). XINV drops the entries it names
from both TLBs and is busy until no translated access of the clerk is unperformed (log 61, DEDUCED; R33 waits for every access
translated by a cleared entry, also of the fabric); a write while it is busy, of a reserved SCOPE or with a reserved bit sets
ERR and drops nothing. CTXKILL GO makes every idle channel of the context idle with CEHEAD 0 and discards its deferred starts;
DONE comes when no engine runs a record of it; a GO before DONE sets ERR. A write of TAGCFG in range sets the register and
clears V of every entry, and one out of range changes nothing; a write to CPDESC waits while LOCK is 1, and a refused one
changes nothing. -/
def Obligations.InvalidationAndTables : Prop :=
  ∀ (v : Dword) (ctx : BitVec 12) (t : BitVec 6) (s : State),
    let x := v.toNat
    (s.modl.xinvBusy = false → x / 2 ^ 2 % 2 ^ 14 = 0 → x / 2 ^ 48 % 2 ^ 4 = 0 → x % 4 ≠ 3 →
      exec (.xinvWrite v) s = .next (State.updMod { s with
        tlb := s.tlb.filter fun y => !xinvClears x y, l2tlb := s.l2tlb.filter fun y => !xinvClears x y }
          fun m => { m with xinvBusy := true })) ∧
    (s.modl.xinvBusy = true ∨ x % 4 = 3 ∨ x / 2 ^ 2 % 2 ^ 14 ≠ 0 ∨ x / 2 ^ 48 % 2 ^ 4 ≠ 0 →
      exec (.xinvWrite v) s = .next (s.updMod fun m => { m with xinvErr := true })) ∧
    (s.core.clerk.unfin.any Unfin.translated = false →
      exec .xinvComplete s = .next (s.updMod fun m => { m with xinvBusy := false })) ∧
    (s.core.clerk.unfin.any Unfin.translated = true → exec .xinvComplete s = .next s) ∧
    exec .xinvstatClearError s = .next (s.updMod fun m => { m with xinvErr := false }) ∧
    (s.modl.killDone = true → ∃ y, exec (.ctxkillGo ctx) s = .next y ∧ y.modl.killCtx = ctx ∧ y.modl.killDone = false ∧
      y.mem = s.mem ∧ (∀ c ∈ y.core.ces, c.ctx = ctx → c.state = .run ∨ c.state = .wait ∨
        (c.state = .idleEnd ∧ c.head = 0)) ∧
      ∀ r ∈ y.recs, r.ctx = ctx → ∀ e h, Deferred.chain e h ∉ r.deferred) ∧
    (s.modl.killDone = false → exec (.ctxkillGo ctx) s = .next (s.updMod fun m => { m with killErr := true })) ∧
    ((∀ c ∈ s.core.ces, c.ctx = s.modl.killCtx → c.state ≠ .run ∧ c.state ≠ .wait) →
      exec .ctxkillDone s = .next (s.updMod fun m => { m with killDone := true })) ∧
    ((∃ c ∈ s.core.ces, c.ctx = s.modl.killCtx ∧ c.state = .run) → exec .ctxkillDone s = .next s) ∧
    exec .ctxkillClearError s = .next (s.updMod fun m => { m with killErr := false }) ∧
    let fits := x % 2 ^ 4 ≤ 9 ∧ x / 2 ^ 25 = 0 ∧ x / 2 ^ 4 % 2 ^ 8 = 0 ∧
      (x / 2 ^ 12 % 2 ^ 13 + 8 * 2 ^ (x % 2 ^ 4)) * 0x1000 ≤ 0x180_0000
    (fits → ∃ y, exec (.tagcfgWrite v) s = .next y ∧ y.tagcfg = v ∧ (∀ e ∈ y.tags, e.2.v = false) ∧ y.mem = s.mem ∧
      y.core = s.core) ∧
    (¬ fits → exec (.tagcfgWrite v) s = .next s) ∧
    ((s.page t.toNat).lock = true → exec (.cpdescWrite t v) s = .next s) ∧
    ((s.page t.toNat).lock = false →
      (∀ y, s.cpdescWrite s.coreId t.toNat x = some y → exec (.cpdescWrite t v) s = .next y) ∧
      (s.cpdescWrite s.coreId t.toNat x = none → exec (.cpdescWrite t v) s = .next s))

/-- Ownership, power, attestation and boot (R335, R336, R342, R343), and links (R331, R337, R339). The lowest master with a
request becomes the owner when there is none; only the owner passes ownership on; a wing's clock changes when its request
takes effect, and every wing steps down when the draw is above the limit; a request for a report clears the done flag (log
119, DESIGN CHOICE), and the report ends it and sets the flag; a firmware image that fails its check leaves the module in
reset with BOOTSTAT set, the state being that of reset but for memory, what the module is made of, and what its masters and
the outside have yet to ask (log 62, DEDUCED). A flit that fails is replayed and counted; after 16 failed replays its port
goes down, and a good flit ends the count of failures. A port that is present trains in 8 or 4 lanes, and the requests that
found no port up go out (R338). A network message goes when the whole of it stands in its buffer, and is delivered when the
whole of it has come; what stands in the buffers comes from outside the machine (log 64, DESIGN CHOICE). -/
def Obligations.ModuleAgents : Prop :=
  ∀ (m : BitVec 2) (on : Bool) (o : BitVec 4) (w : BitVec 3) (code : BitVec 2) (draw : Nat) (p : BitVec 5) (lanes8 : Bool)
      (s : State),
    let pend (x : BitVec 4) (j : BitVec 2) (b : Bool) : BitVec 4 := putBit x j.toNat b
    exec (.ownreqRequest m on) s = .next (s.updMod fun x => { x with ownPend := pend x.ownPend m on }) ∧
    exec (.ownreqClrerr m) s = .next (s.updMod fun x => { x with ownErr := false }) ∧
    (s.modl.owner = some m → exec (.ownpass m 15) s = .next (s.updMod fun x => { x with owner := none }) ∧
      (o.toNat < 4 → exec (.ownpass m o) s = .next (s.updMod fun x => { x with
        owner := some (o.setWidth 2), ownPend := pend x.ownPend (o.setWidth 2) false }))) ∧
    (s.modl.owner ≠ some m ∨ (4 ≤ o.toNat ∧ o ≠ 15) →
      exec (.ownpass m o) s = .next (s.updMod fun x => { x with ownErr := true })) ∧
    (s.modl.owner = none → s.modl.ownPend.getLsbD m.toNat = true →
      (∀ j, j < m.toNat → s.modl.ownPend.getLsbD j = false) →
      exec .ownershipGrant s = .next (s.updMod fun x => { x with owner := some m, ownPend := pend x.ownPend m false })) ∧
    (s.modl.owner.isSome = true ∨ s.modl.ownPend = 0 → exec .ownershipGrant s = .next s) ∧
    (s.modl.owner = some m → exec (.masterLinkDown m) s = .next (s.updMod fun x => { x with owner := none })) ∧
    (s.modl.owner ≠ some m → exec (.masterLinkDown m) s = .next s) ∧
    exec (.wpwrWrite w code) s = .next (s.updWing w.toNat fun g => { g with wpwrReq := some code }) ∧
    (∀ c, (s.wing w.toNat).wpwrReq = some c → w.toNat < s.wings.length →
      exec (.clockChangeEffect w) s = .next (s.updWing w.toNat fun g => { g with wpwr := c, wpwrReq := none })) ∧
    (draw ≤ s.modl.pwrlim.toNat → exec (.powerLimitStepDown draw) s = .next s) ∧
    (s.modl.pwrlim.toNat < draw → exec (.powerLimitStepDown draw) s = .next { s with
      wings := s.wings.map fun (g : Wing) => { g with wpwr := BitVec.ofNat 2 (min 3 (g.wpwr.toNat + 1)) } }) ∧
    exec .attestationRequest s = .next (s.updMod fun x => { x with attBusy := true, attDone := 0 }) ∧
    (s.modl.attBusy = true → ∃ t, exec .attestationReportDone s = .next t ∧ t.modl.attBusy = false ∧
      t.modl.attDone = 1 ∧ t.core.clerk.regs = s.core.clerk.regs) ∧
    (s.modl.attBusy = false → exec .attestationReportDone s = .next s) ∧
    exec (.bootFirmwareCheck true) s = .next s ∧
    (∃ t, exec (.bootFirmwareCheck false) s = .next t ∧ t.modl.bootstat = true ∧ t.task = none ∧ t.core = Core.reset ∧
      t.mem = s.mem ∧ t.agenda = s.agenda ∧ t.modl.modcfg = s.modl.modcfg) ∧
    let i := p.toNat % 4
    let z := p.toNat / 4
    let g := s.wing z
    exec (.spanFlitReceive p true) s = .next (s.updWing z fun g =>
      { g with spanFails := updAt g.spanFails i fun _ => 0 }) ∧
    (g.spanUp.getD i false = true → z < s.wings.length →
      (g.spanFails.getD i 0 < 16 → exec (.spanFlitReceive p false) s = .next (s.updWing z fun g => { g with
        spanReplay := updAt g.spanReplay i fun x => if x = BitVec.allOnes 32 then x else x + 1
        spanFails := updAt g.spanFails i (· + 1) })) ∧
      (16 ≤ g.spanFails.getD i 0 → ∃ t, exec (.spanFlitReceive p false) s = .next t ∧
        (t.wing z).spanUp.getD i false = false)) ∧
    ((s.modl.modcfg.getD 8 0).getLsbD p.toNat = true →
      let up := s.updWing z fun g => { g with
        spanUp := updAt g.spanUp i fun _ => true, spanLanes := updAt g.spanLanes i fun _ => if lanes8 then 8 else 4
        spanFails := updAt g.spanFails i fun _ => 0 }
      exec (.spanPortTrain p lanes8) s = .next (up.updClerk fun c => { c with
        unfin := c.unfin.map fun u => if u.done = none then up.sent u else u }).sendReqs) ∧
    ((s.modl.modcfg.getD 8 0).getLsbD p.toNat = false → exec (.spanPortTrain p lanes8) s = .next s) ∧
    (∀ m rest, s.niOut = m :: rest →
      (m.len ≤ m.have_ → m.len ≤ 288 →
        exec .niMessageSend s = .next { s with niOut := rest, niFlight := s.niFlight ++ [m] }) ∧
      (m.have_ < m.len → exec .niMessageSend s = .next s)) ∧
    ∀ m rest, s.niFlight = m :: rest →
      (m.len ≤ m.have_ →
        exec .niMessageDeliver s = .next { s with niFlight := rest, niIn := s.niIn ++ [m], niGot := s.niGot + 1 }) ∧
      (m.have_ < m.len → exec .niMessageDeliver s = .next s)

/-! ### The grid -/

/-- Tokens, words and folios move (R136, R137, R157, R166, R167, R273). A token hops when every place it goes to is free, and
else stays; one at a drain port from which no path leads on is discarded, and a barrier that leaves a drain port is injected
there (R161, R293). A quiet FE applies its waiting words in order; one that is not quiet applies none. A START of a folio whose
words are all applied makes its FE live. With no resident image or no folio waiting no folio changes; else, once the
resident folio is drained, the folio chosen by R137 is read and sent. -/
def Obligations.GridSteps : Prop :=
  ∀ (r c : Nat) (d : Dir) (trk : BitVec 2) (s : State),
    let ds := s.dests r c (dirIdx d) trk.toNat
    (∀ x, s.hopHead r c (dirIdx d) trk.toNat = some x →
      let took := if c = 18 ∧ x.isBar = true then (s.hopTake r c (dirIdx d) trk.toNat).inject (.me (r / 8 - 1)) x.barId
        else s.hopTake r c (dirIdx d) trk.toNat
      (ds ≠ [] → (∀ y ∈ ds, s.destFree y = true) → exec (.tokenHop r c d trk) s =
        .next (ds.foldl (fun u y => u.deliver x y) took)) ∧
      (ds = [] → exec (.tokenHop r c d trk) s = .next (if c = 18 then took else s)) ∧
      ((∃ y ∈ ds, s.destFree y = false) → exec (.tokenHop r c d trk) s = .next s)) ∧
    (s.hopHead r c (dirIdx d) trk.toNat = none → exec (.tokenHop r c d trk) s = .next s) ∧
    (∀ (w : Dword) (id : Option Nat) (k : Nat) (h : k < 8), (s.fe r c).waiting = [(w, id)] → cfgReg w.toNat = k →
      s.feQuiet r c = true → ∃ t, exec (.feConfigApply r c) s = .next t ∧ (t.fe r c).waiting = [] ∧
        (t.fe r c).p = (s.fe r c).p.set k (w.setWidth 32) h ∧ (t.fe r c).kind = (s.fe r c).kind ∧ t.mem = s.mem ∧
        t.core.clerk = s.core.clerk) ∧
    (s.feQuiet r c = false → exec (.feConfigApply r c) s = .next s) ∧
    (∀ l, s.core.fab.loads = [l] → l.left = [] → l.starts.head? = some (r, c) → (s.fe r c).startPending = true →
      ∃ t, exec (.feGoLive r c) s = .next t ∧ (t.fe r c).live = true ∧ (t.fe r c).startPending = false ∧
        (t.fe r c).op = (s.fe r c).opInit ∧ t.core.clerk = s.core.clerk) ∧
    (s.core.fab.image = none ∨ s.core.fab.choose = none → exec .folioChange s = .next s) ∧
    (∀ image g, s.core.fab.image = some image → s.core.fab.choose = some g →
      (s.drained = false → exec .folioChange s = .next s) ∧
      (s.task.isSome = true → s.drained = true → s.cfgSending = false → s.lanesHeld = false →
        ∀ ws qs t, s.fetchFolio ⟨.fabric, .load, 8, true⟩ image g = .ok (ws, qs, t) →
          exec .folioChange s =
            .next ((t.updFab fun f => { f.passOver g with entryPending := none }).sendFolio image g ws qs)))

/-- End tokens, error ends and barriers at an operator that holds no stream of its own (MAP, SFN, STEER, GEN, FORK
`copy`, or MERGE): shown at every routed input with an equal level or id, with room and no request outstanding, the
token is taken from each and goes to every routed output (R159, R160). An error end shown at one input goes to every
output, and the other inputs discard up to their next end (R159). -/
def Obligations.TokensAligned : Prop :=
  ∀ (r c : Nat) (s : State), s.feActive r c = true → let f := s.fe r c
    f.code ∈ [0, 1, 3, 4, 6] ∨ (f.code = 11 ∧ f.sub = 0) →
    f.op.outq = [] → s.noReqs (.fe r c) = true → f.roomAll 1 = true → f.slots ≠ [] →
    let t := (f.head (f.slots.getD 0 0)).getD voidTok
    let taken (g : Fe) : Fe := g.slots.foldl (fun g i => g.take i 1) g
    (t.isEnd = true → (∀ i ∈ f.slots, f.endAt i = t.kind.toNat) → f.endReason = 0 →
      ∃ x, exec (.endTokenAlign r c) s = .next x ∧ x.fe r c = (taken f).sendAll [t] ∧ x.mem = s.mem ∧
        x.core.clerk = s.core.clerk) ∧
    (t.isBar = true → (∀ i ∈ f.slots, f.barAt i = some t.barId) → f.outs ≠ [] →
      (∀ i ∈ f.slots, f.shortOf Token.isBar i = false) →
      ∃ x, exec (.barrierAlign r c) s = .next x ∧ x.mem = s.mem ∧ x.core.clerk = s.core.clerk ∧
        (x.fe r c).emit = ((taken f).sendAll [t]).emit ∧ (x.fe r c).track = ((taken f).sendAll [t]).track ∧
        (x.fe r c).op.lastBar = some t.barId) ∧
    ∀ i e, f.slots.find? (fun i => f.headIs Token.isErr i || f.shortOf Token.isErr i) = some i →
      f.head i = some e → e.isErr = true →
      let g := f.abandon.take i 1
      exec (.errorEndPass r c) s = .next (s.updFe r c fun _ => (Fe.purgeAll { g with
        discard := (List.range 3).map fun j => f.discard.getD j false || (j != i && f.slots.contains j) }).sendAll [e])

/-- An FE's operator fires: it is live, not sealed and no copy's place, of this kind, with no reserved token at a head. -/
def Sys2Proof.Claims.Fires (s : State) (r c code : Nat) : Prop :=
  s.feActive r c = true ∧ (s.fe r c).code = code ∧ (s.fe r c).badHead = 0

/-- The outcome of a firing: the FE is `f`, the flags `fl` are ORed into FPSTAT, and nothing else has changed. -/
def Sys2Proof.Claims.Fired (s : State) (r c : Nat) (o : Result) (f : Fe) (fl : FFlags) : Prop :=
  o = .next ((s.updFe r c fun _ => f).updClerk fun k => { k with fpstat := k.fpstat ||| fl.setWidth 64 })

/-- Firings of the operators at rate 1 (R158, R181 to R186, R194 to R196): with a datum `t` alone in its group on IN0 and room
at its outputs, an operator takes it and emits what its rule says. MAP and SFN: the result of R182 and R184, or void for a
void operand; RED: nothing, the datum folded into its copy's partial; STEER: the datum on OUT1 where the test holds, else on
OUT0 (that the flags of its comparison go to FPSTAT is the model's choice: log 124, DESIGN CHOICE); SHUF `perm` of one token
and FORK `copy`: the datum; CONV `cvt`: the converted elements. -/
def Obligations.OperatorFirings : Prop :=
  ∀ (r c : Nat) (t : Token) (s : State), let f := s.fe r c
    let x := t.payload.toNat
    f.group 0 = [t] → t.isData = true → f.op.outq = [] → f.readyAll = true → f.slots = [0] → f.need 0 = 1 →
    f.rateOut 0 = 1 → f.roomRate = true →
    (Fires s r c 0 → f.param 2 % 4 = 0 →
      let v := mapCalc (f.sub % 64) (f.sub / 64) f.rnd f.sat x (f.param 0) (f.param 1)
      (t.isVoid = false → Fired s r c (exec (.mapFire r c) s) ((f.takeAll.send 0 [dataTok v.1]).nextElem) v.2) ∧
      (t.isVoid = true → Fired s r c (exec (.mapFire r c) s) ((f.takeAll.send 0 [voidTok]).nextElem) 0)) ∧
    (Fires s r c 1 →
      (t.isVoid = false →
        Fired s r c (exec (.sfnFire r c) s) ((f.takeAll.send 0 [dataTok (sfn f.sub x).1]).nextElem) (sfn f.sub x).2) ∧
      (t.isVoid = true → Fired s r c (exec (.sfnFire r c) s) ((f.takeAll.send 0 [voidTok]).nextElem) 0)) ∧
    (Fires s r c 2 → ∀ p, f.op.partials.getD f.copyOf none = some p → t.isVoid = false →
      let v := redOp f.sub f.rnd f.sat p.toNat (if f.sub = 9 then 1 else x)
      let g := f.takeAll.nextElem
      Fired s r c (exec (.redFire r c) s)
        { g with op := { g.op with partials := updAt f.op.partials f.copyOf fun _ => some (BitVec.ofNat 32 v.1) } } v.2) ∧
    (Fires s r c 3 → f.emitRoom 0 ≠ 0 → f.emitRoom 1 ≠ 0 → f.outs = [0, 1] → f.rateOut 1 = 1 →
      let b := steerTest f t voidTok
      Fired s r c (exec (.steerFire r c) s)
        ((f.takeAll.send 0 (if b.1 then [] else [t])).send 1 (if b.1 then [t] else [])) b.2) ∧
    (Fires s r c 9 → f.sub = 1 → f.param 2 % 16 = 1 → f.param 0 % 16 = 0 → f.emitRoom 0 ≠ 0 →
      Fired s r c (exec (.shufFire r c) s) ((f.takeAll.send 0 [t]).nextElem) 0) ∧
    (Fires s r c 10 → f.sub = 0 →
      Fired s r c (exec (.convFire r c) s) ((f.takeAll.send 0 (convGroup f [t]).1).nextElem) (convGroup f [t]).2) ∧
    (Fires s r c 11 → f.sub = 0 → f.outs = [0] →
      Fired s r c (exec (.forkFire r c) s) (f.takeAll.send 0 [t]) 0)

/-- Firings of the operators with streams of their own (R187 to R189, R191 to R193). MERGE `arrv` takes from the one input
that holds a firing's tokens, of two from the one it did not take from last, and notes which it took from. A CARRY that is not
busy with a fixed count n > 0 takes the datum of IN0 and puts it on OUT0 as the first of n iterations. GEN emits the sweep's
next token and counts it. SEG gathers a token of a block that is not whole. A MEM load of a void token answers PAD with no
access; a load of an aligned address sends one request, and the operator's first reply goes to OUT0 in stream order. -/
def Obligations.StreamOperators : Prop :=
  ∀ (r c : Nat) (t : Token) (s : State), let f := s.fe r c
    (Fires s r c 4 → f.sub = 1 → ∀ i, i < 2 → f.ready i = true → (f.ready (1 - i) = true → f.op.last = (i == 0)) →
      max (f.rateOut 0) (f.need i) ≤ f.emitRoom 0 →
      let g := (f.take i (f.need i)).send 0 (f.group i)
      exec (.mergeFire r c) s = .next (s.updFe r c fun _ => { g with op := { g.op with last := i == 1 } })) ∧
    (Fires s r c 5 → f.sub = 0 → f.op.busy = false → f.side 2 = none → f.ready 0 = true → 0 < f.param 0 →
      f.roomRate = true → f.need 0 ≤ f.emitRoom 0 →
      let g := (f.take 0 (f.need 0)).send 0 (f.group 0)
      exec (.carryFire r c) s = .next (s.updFe r c fun _ =>
        { g with op := { g.op with busy := true, iter := 1, limit := f.param 0 } })) ∧
    (Fires s r c 6 → f.emitRoom 0 ≠ 0 → f.roomRate = true → f.op.outq = [] → f.op.fin = false → f.lim = 0 →
      ∃ x, exec (.genEmit r c) s = .next x ∧ (x.fe r c).emit = (f.send 0 [f.genToken f.op.idx]).emit ∧
        (x.fe r c).track = (f.send 0 [f.genToken f.op.idx]).track ∧ (x.fe r c).op.count = f.op.count + 1 ∧
        (x.fe r c).op.idx = (f.genNext f.op.idx).1 ∧ x.mem = s.mem) ∧
    (Fires s r c 8 → f.op.outq = [] → f.readyAll = true → f.roomRate = true → f.group 0 = [t] →
      let b := f.op.bufs.getD f.copyOf [] ++ [t]
      b.length * (if f.sub = 1 then 2 else 4) < 64 →
      let g := f.takeAll
      exec (.segFire r c) s = .next (s.updFe r c fun _ =>
        { g with op := { g.op with bufs := updAt g.op.bufs f.copyOf fun _ => b, elem := g.op.elem + 1 } })) ∧
    (Fires s r c 7 → f.sub = 4 → f.readyAll = true → f.roomRate = true → f.group 0 = [t] → t.isData = true → s.reqCount r c < 15 →
      let a := (((f.memBase : Int) + signedOf 32 t.payload.toNat) % (2 ^ 48 : Int)).toNat
      (t.isVoid = true → ∃ x, exec (.memFire r c) s = .next x ∧
        x.core.fab.reqs = s.core.fab.reqs ++ [memAnswer r c f.copyOf .const (f.param 4)]) ∧
      (t.isVoid = false → a % 4 = 0 → ∃ x, exec (.memFire r c) s = .next x ∧
        x.core.fab.reqs = s.core.fab.reqs ++ [s.sentReq (memReq r c f.copyOf (.load 4 false) a 0 0)] ∧ x.mem = s.mem)) ∧
    ∀ k q y, s.req k = some q → q.who = .fe r c → q.reply = some y → f.replyTo = none → f.routed 0 = true →
      1 ≤ f.emitRoom 0 →
      ((∀ e ∈ s.core.fab.reqs.take k, e.who ≠ .fe r c) → exec (.memResponse k) s =
        .next ((s.updFab fun b => { b with reqs := b.reqs.eraseIdx k }).updFe r c fun f => f.send 0 [y])) ∧
      ((∃ e ∈ s.core.fab.reqs.take k, e.who = .fe r c) → exec (.memResponse k) s = .next s)

/-! ### Lanes, matrix engines and the token-merge unit -/

/-- The lanes of a stream port (R256, R257, R259, R261, R265, R269, R270). A sealed port's emit lane first sends the error
ends it owes; a free emit lane that is not within a record of an entry queue takes its oldest command; one with tokens formed
sends the next to every place it goes to, and counts it, when all are free, and else waits. A `stile` that the lane has taken
reads its record whatever else holds the lane (R262). A void token of `swrite` is counted and takes its place in the block at
hand, which is written in one access once it is full, and where it holds void tokens alone writes nothing (that a block of 64
bytes is written so, word by word in one step, is the model's reading: log 74, DEDUCED); the last end ends the command. A
completed emitting command is counted and its lane is free. A claim makes a FULL or DRAINING handle DRAINING and waits on any
other. The seal of a port ends by its register. -/
def Obligations.LaneSteps : Prop :=
  ∀ (p : BitVec 4) (s : State), let n := p.toNat; let q := s.port n
    n < s.core.ports.length →
    (∀ w rest, q.sealToks = w :: rest → s.laneRoom n = true →
      exec (.laneEmitToken p) s =
        .next ((s.laneSend n ⟨9, w⟩).updPort n fun x => { x with sealToks := rest, bnd := 8 })) ∧
    (q.sealToks = [] → q.recordDue = none → s.laneStopped n = true → exec (.laneEmitToken p) s = .next s) ∧
    (∀ c d u, q.sealToks = [] → q.recordDue = some c → s.stalledAt (.lane n) = false → formNext (.lane n) c s = .ok d u →
      exec (.laneEmitToken p) s = .next ((u.unhold (.lane n)).updPort n fun x => { x with emitCmd := some d })) ∧
    (q.sealToks = [] → s.laneStopped n = false →
      (∀ i rest, q.emitCmd = none → s.midEntry n = false → q.queue = .cmd i :: rest → Instr.emits i = true → Instr.paired i = false →
        exec (.laneEmitToken p) s = .next (s.updPort n fun x =>
          { x with queue := rest, emitCmd := some (LaneCmd.start i), posE := 0 })) ∧
      (∀ c f t rest, q.emitCmd = some c → c.cmd = .sread p f → c.out = t :: rest → q.cut = none →
        (s.laneRoom n = true → exec (.laneEmitToken p) s = .next ((s.laneSend n t).updPort n fun x =>
          { x with emitCmd := some { c with out := rest } }.emitted t)) ∧
        (s.laneRoom n = false → exec (.laneEmitToken p) s = .next s))) ∧
    (∀ c f, q.absCmd = some c → c.cmd = .swrite p f → s.stalledAt (.absorb n) = false →
      (∀ t, c.closing = false → c.out = [] → q.inq = [(0, t)] →
        (t.isVoid = true → c.n ≠ max f.rows.toNat 1 * (f.len.toNat / 4) → exec (.laneAbsorbToken p) s =
          .next (s.updPort n fun x => { x with
            inq := [], absCmd := some { c with n := c.n + 1, out := [t] }, posA := x.posA + 1 })) ∧
        (t.kind = 7 → exec (.laneAbsorbToken p) s = .next (s.updPort n fun x => { x with
          inq := [], absCmd := some { c with closing := true }, posA := x.posA + 1 }))) ∧
      (c.blockFull = true →
        let d : LaneCmd := { c with out := [], hdr := if c.n % (f.len.toNat / 4) = 0 then [] else c.hdr }
        ((∀ t ∈ c.out, t.isVoid = true) →
          exec (.laneAbsorbToken p) s = .next (s.updPort n fun x => { x with absCmd := some d })) ∧
        ∀ u, (∃ t ∈ c.out, t.isVoid = false) → s.absWrite c = .ok () u →
          exec (.laneAbsorbToken p) s = .next (u.updPort n fun x => { x with absCmd := some d }))) ∧
    (∀ c, q.emitCmd = some c → q.absCmd = none → c.closing = true → c.out = [] → q.cut = none → q.queue = [] →
      ∃ t, exec (.laneCommandComplete p false) s = .next t ∧ (t.port n).emitCmd = none ∧
        (t.port n).serialE = q.serialE + 1 ∧ t.mem = s.mem ∧ t.core.clerk = s.core.clerk) ∧
    (∀ c, q.emitCmd = none → q.absCmd = some c → c.closing = true → c.out = [] → q.queue = [] →
      ∃ t, exec (.laneCommandComplete p true) s = .next t ∧ (t.port n).absCmd = none ∧
        (t.port n).serialA = q.serialA + 1 ∧ t.mem = s.mem ∧ t.core.clerk = s.core.clerk) ∧
    (∀ c h, q.emitCmd = some c → c.claims = some h → h < s.core.handles.length →
      ((s.handle h).st = .full ∨ (s.handle h).st = .draining →
        ∃ t d, exec (.handleClaim p) s = .next t ∧ (t.handle h).st = .draining ∧ (t.port n).emitCmd = some d ∧
          d.claimed = true ∧ ((s.handle h).err ≠ 0 → d.out = [errTok (s.handle h).err.toNat] ∧ d.closing = true)) ∧
      ((s.handle h).st = .filling ∨ (s.handle h).st = .free → exec (.handleClaim p) s = .next s)) ∧
    exec (.spctlUnseal p) s = .next (s.updPort n fun x => { x with sealed := false })

/-- The matrix engines (R274, R276, R277, R280, R283, R284, R296). A data token of a product's row is taken from its
channel; an end token of a row that is whole ends the row. A dense product whose 64 rows are there
commits: with ACC 0 and INT8 rows every column below N is INT with the plane's exponent, and
its cells hold the exact sums modulo 2^64. `mswap` exchanges the planes, `mzero`
empties the columns below N, and a finished command leaves the queue and is counted. The head of a burst begins it. -/
def Obligations.MatrixEngineSteps : Prop :=
  ∀ (e : BitVec 1) (ch : BitVec 3) (s : State), let n := e.toNat; let m := s.me n
    n < s.core.mes.length → m.sealed = false →
    (∀ f j t rest, m.product = some (j, ⟨.mdense e f, false, 0, false⟩) → m.afifo[ch.toNat]? = some (t :: rest) →
      m.adiscard.getD ch.toNat false = false → ch.toNat ≤ f.ach.toNat →
      (m.arows.getD ch.toNat []).length < rowsOn (f.ach.toNat + 1) ch.toNat → m.productReason (.mdense e f) f = 0 →
      (t.isData = true → exec (.meAToken e ch) s = .next (s.updMe n fun x => { x with
        afifo := updAt x.afifo ch.toNat (·.drop 1), apos := x.apos + 1
        apart := updAt x.apart ch.toNat (· ++ [t]) })) ∧
      (t.kind = 1 → (m.apart.getD ch.toNat []).length = (if f.afmt then 32 else 16) →
        exec (.meAToken e ch) s = .next (s.updMe n fun x => { x with
          afifo := updAt x.afifo ch.toNat (·.drop 1), apos := x.apos + 1
          apart := updAt x.apart ch.toNat fun _ => []
          arows := updAt x.arows ch.toNat (· ++ [m.apart.getD ch.toNat []]) }))) ∧
    (∀ f j rows, m.product = some (j, ⟨.mdense e f, false, 0, false⟩) → s.stalledAt (.me n) = false →
      m.productReason (.mdense e f) f = 0 → m.rows (f.ach.toNat + 1) = some rows → f.afmt = false → f.acc = 0 →
      ∃ t, exec (.meProductCommit e) s = .next t ∧ t.mem = s.mem ∧ t.core.clerk = s.core.clerk ∧
        ∀ i k, i < 64 → k < f.n.toNat →
          let b := (t.me n).bank ((t.me n).named f.bank)
          b.kind k = .int ∧ b.exp k = m.active.expOf k % 256 ∧
            b.cell i k = BitVec.ofInt 64 (denseInt m.active k (rows.getD i []))) ∧
    (m.queue = [⟨.mswap e, false, 0, false⟩] → s.stalledAt (.me n) = false →
      exec (.meCommandComplete e) s = .next (s.updMe n fun x => { x with
        active := x.shadow, shadow := x.active, queue := [], done := x.done + 1 })) ∧
    (∀ r k, m.queue = [⟨.mzero e r k false, false, 0, false⟩] → 0 < k.toNat → s.stalledAt (.me n) = false →
      ∃ t, exec (.meCommandComplete e) s = .next t ∧ (t.me n).queue = [] ∧ (t.me n).done = m.done + 1 ∧
        ∀ i < k.toNat, ((t.me n).bank m.prim).kind i = .empty) ∧
    (∀ i, m.queue = [⟨i, true, 0, true⟩] → exec (.meCommandComplete e) s =
      .next (s.updMe n fun x => { x with queue := [], done := x.done + 1 })) ∧
    (∀ t rest j f, m.pfifo = t :: rest → m.tile = [] → t.kind = 10 → m.loading = some (j, f) →
      exec (.mePlaneToken e) s = .next (s.updMe n fun x => { x with pfifo := rest, tile := [t] })) ∧
    exec (.mesealEnd e) s = .next (s.updMe n fun x => { x with sealed := false })

/-- The token-merge unit (R298, R299, R305, R308 to R310, R312). A data token of a row is taken and counted; with no
command that takes input it waits. At the head of the queue `tlogsz` forms the logarithm of each output size and an end
of level 7; `tcompose` commits the composed concordance, where the sizes agree, and `tfree` frees its slot, and each is
counted; a command whose tokens have left completes. The seal ends by its register. -/
def Obligations.MergeUnitSteps : Prop :=
  ∀ (s : State), let t := s.core.tmu
    (∀ x rest i, t.infifo = x :: rest → t.sealed = false → s.lanesHeld = false → t.skip = 0 → t.taking = some i →
      x.isData = true → exec .tmuInToken s = .next (s.updTmu fun u => { u with
        infifo := rest, inpos := u.inpos + 1, part := u.part ++ [if x.isVoid then 0 else x.payload] })) ∧
    (∀ x rest, t.infifo = x :: rest → t.sealed = false → s.lanesHeld = false → t.skip = 0 → t.taking = none →
      x.isData = true → exec .tmuInToken s = .next s) ∧
    (s.lanesHeld = false → t.bars = [] → s.stalledAt .tmu = false →
      (∀ slot two c rest, t.queue = ⟨.tlogsz slot two, false, 0, false⟩ :: rest → t.conc slot.toNat = some c →
        ∃ x, exec .tmuCommandComplete s = .next x ∧ x.core.tmu.emitting =
          (c.outsize.map fun k => dataTok (sfnLog two k 0).1) ++ [endTok 7 c.m] ∧ x.mem = s.mem) ∧
      (∀ slot a b x y rest, t.queue = ⟨.tcompose slot a b, false, 0, false⟩ :: rest → t.conc a.toNat = some x →
        t.conc b.toNat = some y → x.m = y.n → slot.toNat < t.slots.length →
        ∃ u, exec .tmuCommandComplete s = .next u ∧ u.core.tmu.queue = rest ∧ u.core.tmu.done = t.done + 1 ∧
          u.core.tmu.conc slot.toNat = some (x.compose y) ∧ (x.compose y).n = x.n ∧ (x.compose y).m = y.m ∧
          (x.compose y).dst = (x.dst.map fun i => y.dst.getD i 0)) ∧
      (∀ slot rest, t.queue = ⟨.tfree slot, false, 0, false⟩ :: rest →
        ∃ u, exec .tmuCommandComplete s = .next u ∧ u.core.tmu.queue = rest ∧ u.core.tmu.done = t.done + 1 ∧
          u.core.tmu.conc slot.toNat = none) ∧
      (∀ i rest, t.queue = ⟨i, true, 0, false⟩ :: rest → t.emitting = [] →
        exec .tmuCommandComplete s = .next (s.updTmu fun u => { u.retire with done := u.done + 1 }))) ∧
    exec .tmsealEnd s = .next (s.updTmu fun u => { u with sealed := false })

/-! ### The whole machine -/

/-- The machine after reset (R11, R43, R80, R88, R147, R151, R325, R330, R343): no task runs and none is ready, no TLB
entry, binding, object queue or cohort stands, the timeouts and limits have their stated values, every channel is in
STATE 1 and every handle FREE; memory is in canonical form and the PC aligned. (The clerk's registers before a task enters
are the model's choice, log 3, and no part of this.) -/
def Obligations.ResetState : Prop :=
  let s := State.reset
  s.task = none ∧ s.tlb = [] ∧ s.l2tlb = [] ∧ s.binds = [] ∧ s.objs = [] ∧ s.cohorts = [] ∧ s.recs = [] ∧
    (∀ g ∈ s.wings, g.ready = [] ∧ g.quantum = 0 ∧ g.period = 1000 ∧ g.ptimeout = 50 ∧ g.faultlog = 0 ∧
      g.launchst = 0 ∧ g.wpwr = 0) ∧
    s.core.mto = 26 ∧ s.core.wdg = 24 ∧ s.modl.pwrlim = 3000 ∧ s.modl.owner = none ∧ s.modl.bootstat = false ∧
    (∀ c ∈ s.core.ces, c.state = .idleEnd ∧ c.head = 0 ∧ c.err = false) ∧
    (∀ h ∈ s.core.handles, h.st = .free) ∧ (∀ p ∈ s.pages, p.v = false ∧ p.lock = false) ∧
    Memory.wf s.mem = true ∧ s.core.clerk.pc.toNat % 4 = 0

/-- Every step keeps memory in its canonical form: addresses strictly rising, and no byte listed that an unlisted one
reads as. -/
def Obligations.MemoryCanonicalKept : Prop :=
  ∀ s t : State, Memory.wf s.mem = true → step s = .next t → Memory.wf t.mem = true

/-- The PC of every clerk, the core's and those saved in shadow storage, is a multiple of 4. -/
def Sys2Proof.Claims.PcsAligned (s : State) : Prop :=
  s.core.clerk.pc.toNat % 4 = 0 ∧ ∀ e ∈ s.shadow, e.2.clerk.pc.toNat % 4 = 0

/-- Every step keeps every PC a multiple of 4 (R197). -/
def Obligations.PcAlignedKept : Prop :=
  ∀ s t : State, PcsAligned s → step s = .next t → PcsAligned t
end

