-- ==== Sys2Proof/Laws/State.lean ====
section
/-! SUPPORT. For every update of the state, what each field holds after it: one lemma a field. -/

namespace Sys2Proof.Machine


/-! ### Clerk.setReg -/

@[simp] theorem Clerk.setReg_pres (c : Clerk) (r : Reg) (v : Dword) :
    (c.setReg r v).pres = c.pres := by unfold Clerk.setReg; split <;> rfl
@[simp] theorem Clerk.setReg_kregs (c : Clerk) (r : Reg) (v : Dword) :
    (c.setReg r v).kregs = c.kregs := by unfold Clerk.setReg; split <;> rfl
@[simp] theorem Clerk.setReg_kpres (c : Clerk) (r : Reg) (v : Dword) :
    (c.setReg r v).kpres = c.kpres := by unfold Clerk.setReg; split <;> rfl
@[simp] theorem Clerk.setReg_pc (c : Clerk) (r : Reg) (v : Dword) :
    (c.setReg r v).pc = c.pc := by unfold Clerk.setReg; split <;> rfl
@[simp] theorem Clerk.setReg_mode (c : Clerk) (r : Reg) (v : Dword) :
    (c.setReg r v).mode = c.mode := by unfold Clerk.setReg; split <;> rfl
@[simp] theorem Clerk.setReg_sstep (c : Clerk) (r : Reg) (v : Dword) :
    (c.setReg r v).sstep = c.sstep := by unfold Clerk.setReg; split <;> rfl
@[simp] theorem Clerk.setReg_frozen (c : Clerk) (r : Reg) (v : Dword) :
    (c.setReg r v).frozen = c.frozen := by unfold Clerk.setReg; split <;> rfl
@[simp] theorem Clerk.setReg_stepping (c : Clerk) (r : Reg) (v : Dword) :
    (c.setReg r v).stepping = c.stepping := by unfold Clerk.setReg; split <;> rfl
@[simp] theorem Clerk.setReg_stepped (c : Clerk) (r : Reg) (v : Dword) :
    (c.setReg r v).stepped = c.stepped := by unfold Clerk.setReg; split <;> rfl
@[simp] theorem Clerk.setReg_pend (c : Clerk) (r : Reg) (v : Dword) :
    (c.setReg r v).pend = c.pend := by unfold Clerk.setReg; split <;> rfl
@[simp] theorem Clerk.setReg_tvec (c : Clerk) (r : Reg) (v : Dword) :
    (c.setReg r v).tvec = c.tvec := by unfold Clerk.setReg; split <;> rfl
@[simp] theorem Clerk.setReg_cause (c : Clerk) (r : Reg) (v : Dword) :
    (c.setReg r v).cause = c.cause := by unfold Clerk.setReg; split <;> rfl
@[simp] theorem Clerk.setReg_faddress (c : Clerk) (r : Reg) (v : Dword) :
    (c.setReg r v).faddress = c.faddress := by unfold Clerk.setReg; split <;> rfl
@[simp] theorem Clerk.setReg_causeb (c : Clerk) (r : Reg) (v : Dword) :
    (c.setReg r v).causeb = c.causeb := by unfold Clerk.setReg; split <;> rfl
@[simp] theorem Clerk.setReg_addrb (c : Clerk) (r : Reg) (v : Dword) :
    (c.setReg r v).addrb = c.addrb := by unfold Clerk.setReg; split <;> rfl
@[simp] theorem Clerk.setReg_fpstat (c : Clerk) (r : Reg) (v : Dword) :
    (c.setReg r v).fpstat = c.fpstat := by unfold Clerk.setReg; split <;> rfl
@[simp] theorem Clerk.setReg_fpctl (c : Clerk) (r : Reg) (v : Dword) :
    (c.setReg r v).fpctl = c.fpctl := by unfold Clerk.setReg; split <;> rfl
@[simp] theorem Clerk.setReg_cmdbase (c : Clerk) (r : Reg) (v : Dword) :
    (c.setReg r v).cmdbase = c.cmdbase := by unfold Clerk.setReg; split <;> rfl
@[simp] theorem Clerk.setReg_holds (c : Clerk) (r : Reg) (v : Dword) :
    (c.setReg r v).holds = c.holds := by unfold Clerk.setReg; split <;> rfl
@[simp] theorem Clerk.setReg_unfin (c : Clerk) (r : Reg) (v : Dword) :
    (c.setReg r v).unfin = c.unfin := by unfold Clerk.setReg; split <;> rfl
@[simp] theorem Clerk.setReg_run (c : Clerk) (r : Reg) (v : Dword) :
    (c.setReg r v).run = c.run := by unfold Clerk.setReg; split <;> rfl
@[simp] theorem Clerk.setReg_wfeEvent (c : Clerk) (r : Reg) (v : Dword) :
    (c.setReg r v).wfeEvent = c.wfeEvent := by unfold Clerk.setReg; split <;> rfl
@[simp] theorem Clerk.setReg_redo (c : Clerk) (r : Reg) (v : Dword) :
    (c.setReg r v).redo = c.redo := by unfold Clerk.setReg; split <;> rfl
@[simp] theorem Clerk.setReg_latches (c : Clerk) (r : Reg) (v : Dword) :
    (c.setReg r v).latches = c.latches := by unfold Clerk.setReg; split <;> rfl
@[simp] theorem Clerk.setReg_kept (c : Clerk) (r : Reg) (v : Dword) :
    (c.setReg r v).kept = c.kept := by unfold Clerk.setReg; split <;> rfl
@[simp] theorem Clerk.setReg_joinQueued (c : Clerk) (r : Reg) (v : Dword) :
    (c.setReg r v).joinQueued = c.joinQueued := by unfold Clerk.setReg; split <;> rfl

/-! ### Clerk.setKreg -/

@[simp] theorem Clerk.setKreg_regs (c : Clerk) (k : KReg) (v : Qword) :
    (c.setKreg k v).regs = c.regs := rfl
@[simp] theorem Clerk.setKreg_pres (c : Clerk) (k : KReg) (v : Qword) :
    (c.setKreg k v).pres = c.pres := rfl
@[simp] theorem Clerk.setKreg_kpres (c : Clerk) (k : KReg) (v : Qword) :
    (c.setKreg k v).kpres = c.kpres := rfl
@[simp] theorem Clerk.setKreg_pc (c : Clerk) (k : KReg) (v : Qword) :
    (c.setKreg k v).pc = c.pc := rfl
@[simp] theorem Clerk.setKreg_mode (c : Clerk) (k : KReg) (v : Qword) :
    (c.setKreg k v).mode = c.mode := rfl
@[simp] theorem Clerk.setKreg_sstep (c : Clerk) (k : KReg) (v : Qword) :
    (c.setKreg k v).sstep = c.sstep := rfl
@[simp] theorem Clerk.setKreg_frozen (c : Clerk) (k : KReg) (v : Qword) :
    (c.setKreg k v).frozen = c.frozen := rfl
@[simp] theorem Clerk.setKreg_stepping (c : Clerk) (k : KReg) (v : Qword) :
    (c.setKreg k v).stepping = c.stepping := rfl
@[simp] theorem Clerk.setKreg_stepped (c : Clerk) (k : KReg) (v : Qword) :
    (c.setKreg k v).stepped = c.stepped := rfl
@[simp] theorem Clerk.setKreg_pend (c : Clerk) (k : KReg) (v : Qword) :
    (c.setKreg k v).pend = c.pend := rfl
@[simp] theorem Clerk.setKreg_tvec (c : Clerk) (k : KReg) (v : Qword) :
    (c.setKreg k v).tvec = c.tvec := rfl
@[simp] theorem Clerk.setKreg_cause (c : Clerk) (k : KReg) (v : Qword) :
    (c.setKreg k v).cause = c.cause := rfl
@[simp] theorem Clerk.setKreg_faddress (c : Clerk) (k : KReg) (v : Qword) :
    (c.setKreg k v).faddress = c.faddress := rfl
@[simp] theorem Clerk.setKreg_causeb (c : Clerk) (k : KReg) (v : Qword) :
    (c.setKreg k v).causeb = c.causeb := rfl
@[simp] theorem Clerk.setKreg_addrb (c : Clerk) (k : KReg) (v : Qword) :
    (c.setKreg k v).addrb = c.addrb := rfl
@[simp] theorem Clerk.setKreg_fpstat (c : Clerk) (k : KReg) (v : Qword) :
    (c.setKreg k v).fpstat = c.fpstat := rfl
@[simp] theorem Clerk.setKreg_fpctl (c : Clerk) (k : KReg) (v : Qword) :
    (c.setKreg k v).fpctl = c.fpctl := rfl
@[simp] theorem Clerk.setKreg_cmdbase (c : Clerk) (k : KReg) (v : Qword) :
    (c.setKreg k v).cmdbase = c.cmdbase := rfl
@[simp] theorem Clerk.setKreg_holds (c : Clerk) (k : KReg) (v : Qword) :
    (c.setKreg k v).holds = c.holds := rfl
@[simp] theorem Clerk.setKreg_unfin (c : Clerk) (k : KReg) (v : Qword) :
    (c.setKreg k v).unfin = c.unfin := rfl
@[simp] theorem Clerk.setKreg_run (c : Clerk) (k : KReg) (v : Qword) :
    (c.setKreg k v).run = c.run := rfl
@[simp] theorem Clerk.setKreg_wfeEvent (c : Clerk) (k : KReg) (v : Qword) :
    (c.setKreg k v).wfeEvent = c.wfeEvent := rfl
@[simp] theorem Clerk.setKreg_redo (c : Clerk) (k : KReg) (v : Qword) :
    (c.setKreg k v).redo = c.redo := rfl
@[simp] theorem Clerk.setKreg_latches (c : Clerk) (k : KReg) (v : Qword) :
    (c.setKreg k v).latches = c.latches := rfl
@[simp] theorem Clerk.setKreg_kept (c : Clerk) (k : KReg) (v : Qword) :
    (c.setKreg k v).kept = c.kept := rfl
@[simp] theorem Clerk.setKreg_joinQueued (c : Clerk) (k : KReg) (v : Qword) :
    (c.setKreg k v).joinQueued = c.joinQueued := rfl

/-! ### Clerk.setPresent -/

@[simp] theorem Clerk.setPresent_regs (c : Clerk) (r : Reg) (b : Bool) :
    (c.setPresent r b).regs = c.regs := by unfold Clerk.setPresent; split <;> rfl
@[simp] theorem Clerk.setPresent_kregs (c : Clerk) (r : Reg) (b : Bool) :
    (c.setPresent r b).kregs = c.kregs := by unfold Clerk.setPresent; split <;> rfl
@[simp] theorem Clerk.setPresent_kpres (c : Clerk) (r : Reg) (b : Bool) :
    (c.setPresent r b).kpres = c.kpres := by unfold Clerk.setPresent; split <;> rfl
@[simp] theorem Clerk.setPresent_pc (c : Clerk) (r : Reg) (b : Bool) :
    (c.setPresent r b).pc = c.pc := by unfold Clerk.setPresent; split <;> rfl
@[simp] theorem Clerk.setPresent_mode (c : Clerk) (r : Reg) (b : Bool) :
    (c.setPresent r b).mode = c.mode := by unfold Clerk.setPresent; split <;> rfl
@[simp] theorem Clerk.setPresent_sstep (c : Clerk) (r : Reg) (b : Bool) :
    (c.setPresent r b).sstep = c.sstep := by unfold Clerk.setPresent; split <;> rfl
@[simp] theorem Clerk.setPresent_frozen (c : Clerk) (r : Reg) (b : Bool) :
    (c.setPresent r b).frozen = c.frozen := by unfold Clerk.setPresent; split <;> rfl
@[simp] theorem Clerk.setPresent_stepping (c : Clerk) (r : Reg) (b : Bool) :
    (c.setPresent r b).stepping = c.stepping := by unfold Clerk.setPresent; split <;> rfl
@[simp] theorem Clerk.setPresent_stepped (c : Clerk) (r : Reg) (b : Bool) :
    (c.setPresent r b).stepped = c.stepped := by unfold Clerk.setPresent; split <;> rfl
@[simp] theorem Clerk.setPresent_pend (c : Clerk) (r : Reg) (b : Bool) :
    (c.setPresent r b).pend = c.pend := by unfold Clerk.setPresent; split <;> rfl
@[simp] theorem Clerk.setPresent_tvec (c : Clerk) (r : Reg) (b : Bool) :
    (c.setPresent r b).tvec = c.tvec := by unfold Clerk.setPresent; split <;> rfl
@[simp] theorem Clerk.setPresent_cause (c : Clerk) (r : Reg) (b : Bool) :
    (c.setPresent r b).cause = c.cause := by unfold Clerk.setPresent; split <;> rfl
@[simp] theorem Clerk.setPresent_faddress (c : Clerk) (r : Reg) (b : Bool) :
    (c.setPresent r b).faddress = c.faddress := by unfold Clerk.setPresent; split <;> rfl
@[simp] theorem Clerk.setPresent_causeb (c : Clerk) (r : Reg) (b : Bool) :
    (c.setPresent r b).causeb = c.causeb := by unfold Clerk.setPresent; split <;> rfl
@[simp] theorem Clerk.setPresent_addrb (c : Clerk) (r : Reg) (b : Bool) :
    (c.setPresent r b).addrb = c.addrb := by unfold Clerk.setPresent; split <;> rfl
@[simp] theorem Clerk.setPresent_fpstat (c : Clerk) (r : Reg) (b : Bool) :
    (c.setPresent r b).fpstat = c.fpstat := by unfold Clerk.setPresent; split <;> rfl
@[simp] theorem Clerk.setPresent_fpctl (c : Clerk) (r : Reg) (b : Bool) :
    (c.setPresent r b).fpctl = c.fpctl := by unfold Clerk.setPresent; split <;> rfl
@[simp] theorem Clerk.setPresent_cmdbase (c : Clerk) (r : Reg) (b : Bool) :
    (c.setPresent r b).cmdbase = c.cmdbase := by unfold Clerk.setPresent; split <;> rfl
@[simp] theorem Clerk.setPresent_holds (c : Clerk) (r : Reg) (b : Bool) :
    (c.setPresent r b).holds = c.holds := by unfold Clerk.setPresent; split <;> rfl
@[simp] theorem Clerk.setPresent_unfin (c : Clerk) (r : Reg) (b : Bool) :
    (c.setPresent r b).unfin = c.unfin := by unfold Clerk.setPresent; split <;> rfl
@[simp] theorem Clerk.setPresent_run (c : Clerk) (r : Reg) (b : Bool) :
    (c.setPresent r b).run = c.run := by unfold Clerk.setPresent; split <;> rfl
@[simp] theorem Clerk.setPresent_wfeEvent (c : Clerk) (r : Reg) (b : Bool) :
    (c.setPresent r b).wfeEvent = c.wfeEvent := by unfold Clerk.setPresent; split <;> rfl
@[simp] theorem Clerk.setPresent_redo (c : Clerk) (r : Reg) (b : Bool) :
    (c.setPresent r b).redo = c.redo := by unfold Clerk.setPresent; split <;> rfl
@[simp] theorem Clerk.setPresent_latches (c : Clerk) (r : Reg) (b : Bool) :
    (c.setPresent r b).latches = c.latches := by unfold Clerk.setPresent; split <;> rfl
@[simp] theorem Clerk.setPresent_kept (c : Clerk) (r : Reg) (b : Bool) :
    (c.setPresent r b).kept = c.kept := by unfold Clerk.setPresent; split <;> rfl
@[simp] theorem Clerk.setPresent_joinQueued (c : Clerk) (r : Reg) (b : Bool) :
    (c.setPresent r b).joinQueued = c.joinQueued := by unfold Clerk.setPresent; split <;> rfl

/-! ### Clerk.setKpresent -/

@[simp] theorem Clerk.setKpresent_regs (c : Clerk) (k : KReg) (b : Bool) :
    (c.setKpresent k b).regs = c.regs := rfl
@[simp] theorem Clerk.setKpresent_pres (c : Clerk) (k : KReg) (b : Bool) :
    (c.setKpresent k b).pres = c.pres := rfl
@[simp] theorem Clerk.setKpresent_kregs (c : Clerk) (k : KReg) (b : Bool) :
    (c.setKpresent k b).kregs = c.kregs := rfl
@[simp] theorem Clerk.setKpresent_pc (c : Clerk) (k : KReg) (b : Bool) :
    (c.setKpresent k b).pc = c.pc := rfl
@[simp] theorem Clerk.setKpresent_mode (c : Clerk) (k : KReg) (b : Bool) :
    (c.setKpresent k b).mode = c.mode := rfl
@[simp] theorem Clerk.setKpresent_sstep (c : Clerk) (k : KReg) (b : Bool) :
    (c.setKpresent k b).sstep = c.sstep := rfl
@[simp] theorem Clerk.setKpresent_frozen (c : Clerk) (k : KReg) (b : Bool) :
    (c.setKpresent k b).frozen = c.frozen := rfl
@[simp] theorem Clerk.setKpresent_stepping (c : Clerk) (k : KReg) (b : Bool) :
    (c.setKpresent k b).stepping = c.stepping := rfl
@[simp] theorem Clerk.setKpresent_stepped (c : Clerk) (k : KReg) (b : Bool) :
    (c.setKpresent k b).stepped = c.stepped := rfl
@[simp] theorem Clerk.setKpresent_pend (c : Clerk) (k : KReg) (b : Bool) :
    (c.setKpresent k b).pend = c.pend := rfl
@[simp] theorem Clerk.setKpresent_tvec (c : Clerk) (k : KReg) (b : Bool) :
    (c.setKpresent k b).tvec = c.tvec := rfl
@[simp] theorem Clerk.setKpresent_cause (c : Clerk) (k : KReg) (b : Bool) :
    (c.setKpresent k b).cause = c.cause := rfl
@[simp] theorem Clerk.setKpresent_faddress (c : Clerk) (k : KReg) (b : Bool) :
    (c.setKpresent k b).faddress = c.faddress := rfl
@[simp] theorem Clerk.setKpresent_causeb (c : Clerk) (k : KReg) (b : Bool) :
    (c.setKpresent k b).causeb = c.causeb := rfl
@[simp] theorem Clerk.setKpresent_addrb (c : Clerk) (k : KReg) (b : Bool) :
    (c.setKpresent k b).addrb = c.addrb := rfl
@[simp] theorem Clerk.setKpresent_fpstat (c : Clerk) (k : KReg) (b : Bool) :
    (c.setKpresent k b).fpstat = c.fpstat := rfl
@[simp] theorem Clerk.setKpresent_fpctl (c : Clerk) (k : KReg) (b : Bool) :
    (c.setKpresent k b).fpctl = c.fpctl := rfl
@[simp] theorem Clerk.setKpresent_cmdbase (c : Clerk) (k : KReg) (b : Bool) :
    (c.setKpresent k b).cmdbase = c.cmdbase := rfl
@[simp] theorem Clerk.setKpresent_holds (c : Clerk) (k : KReg) (b : Bool) :
    (c.setKpresent k b).holds = c.holds := rfl
@[simp] theorem Clerk.setKpresent_unfin (c : Clerk) (k : KReg) (b : Bool) :
    (c.setKpresent k b).unfin = c.unfin := rfl
@[simp] theorem Clerk.setKpresent_run (c : Clerk) (k : KReg) (b : Bool) :
    (c.setKpresent k b).run = c.run := rfl
@[simp] theorem Clerk.setKpresent_wfeEvent (c : Clerk) (k : KReg) (b : Bool) :
    (c.setKpresent k b).wfeEvent = c.wfeEvent := rfl
@[simp] theorem Clerk.setKpresent_redo (c : Clerk) (k : KReg) (b : Bool) :
    (c.setKpresent k b).redo = c.redo := rfl
@[simp] theorem Clerk.setKpresent_latches (c : Clerk) (k : KReg) (b : Bool) :
    (c.setKpresent k b).latches = c.latches := rfl
@[simp] theorem Clerk.setKpresent_kept (c : Clerk) (k : KReg) (b : Bool) :
    (c.setKpresent k b).kept = c.kept := rfl
@[simp] theorem Clerk.setKpresent_joinQueued (c : Clerk) (k : KReg) (b : Bool) :
    (c.setKpresent k b).joinQueued = c.joinQueued := rfl

/-! ### Clerk.setPc -/

@[simp] theorem Clerk.setPc_regs (c : Clerk) (v : BitVec 48) :
    (c.setPc v).regs = c.regs := rfl
@[simp] theorem Clerk.setPc_pres (c : Clerk) (v : BitVec 48) :
    (c.setPc v).pres = c.pres := rfl
@[simp] theorem Clerk.setPc_kregs (c : Clerk) (v : BitVec 48) :
    (c.setPc v).kregs = c.kregs := rfl
@[simp] theorem Clerk.setPc_kpres (c : Clerk) (v : BitVec 48) :
    (c.setPc v).kpres = c.kpres := rfl
@[simp] theorem Clerk.setPc_mode (c : Clerk) (v : BitVec 48) :
    (c.setPc v).mode = c.mode := rfl
@[simp] theorem Clerk.setPc_sstep (c : Clerk) (v : BitVec 48) :
    (c.setPc v).sstep = c.sstep := rfl
@[simp] theorem Clerk.setPc_frozen (c : Clerk) (v : BitVec 48) :
    (c.setPc v).frozen = c.frozen := rfl
@[simp] theorem Clerk.setPc_stepping (c : Clerk) (v : BitVec 48) :
    (c.setPc v).stepping = c.stepping := rfl
@[simp] theorem Clerk.setPc_stepped (c : Clerk) (v : BitVec 48) :
    (c.setPc v).stepped = c.stepped := rfl
@[simp] theorem Clerk.setPc_pend (c : Clerk) (v : BitVec 48) :
    (c.setPc v).pend = c.pend := rfl
@[simp] theorem Clerk.setPc_tvec (c : Clerk) (v : BitVec 48) :
    (c.setPc v).tvec = c.tvec := rfl
@[simp] theorem Clerk.setPc_cause (c : Clerk) (v : BitVec 48) :
    (c.setPc v).cause = c.cause := rfl
@[simp] theorem Clerk.setPc_faddress (c : Clerk) (v : BitVec 48) :
    (c.setPc v).faddress = c.faddress := rfl
@[simp] theorem Clerk.setPc_causeb (c : Clerk) (v : BitVec 48) :
    (c.setPc v).causeb = c.causeb := rfl
@[simp] theorem Clerk.setPc_addrb (c : Clerk) (v : BitVec 48) :
    (c.setPc v).addrb = c.addrb := rfl
@[simp] theorem Clerk.setPc_fpstat (c : Clerk) (v : BitVec 48) :
    (c.setPc v).fpstat = c.fpstat := rfl
@[simp] theorem Clerk.setPc_fpctl (c : Clerk) (v : BitVec 48) :
    (c.setPc v).fpctl = c.fpctl := rfl
@[simp] theorem Clerk.setPc_cmdbase (c : Clerk) (v : BitVec 48) :
    (c.setPc v).cmdbase = c.cmdbase := rfl
@[simp] theorem Clerk.setPc_holds (c : Clerk) (v : BitVec 48) :
    (c.setPc v).holds = c.holds := rfl
@[simp] theorem Clerk.setPc_unfin (c : Clerk) (v : BitVec 48) :
    (c.setPc v).unfin = c.unfin := rfl
@[simp] theorem Clerk.setPc_run (c : Clerk) (v : BitVec 48) :
    (c.setPc v).run = c.run := rfl
@[simp] theorem Clerk.setPc_wfeEvent (c : Clerk) (v : BitVec 48) :
    (c.setPc v).wfeEvent = c.wfeEvent := rfl
@[simp] theorem Clerk.setPc_redo (c : Clerk) (v : BitVec 48) :
    (c.setPc v).redo = c.redo := rfl
@[simp] theorem Clerk.setPc_latches (c : Clerk) (v : BitVec 48) :
    (c.setPc v).latches = c.latches := rfl
@[simp] theorem Clerk.setPc_kept (c : Clerk) (v : BitVec 48) :
    (c.setPc v).kept = c.kept := rfl
@[simp] theorem Clerk.setPc_joinQueued (c : Clerk) (v : BitVec 48) :
    (c.setPc v).joinQueued = c.joinQueued := rfl

/-! ### Clerk.wake -/

@[simp] theorem Clerk.wake_regs (c : Clerk)  :
    (c.wake).regs = c.regs := rfl
@[simp] theorem Clerk.wake_pres (c : Clerk)  :
    (c.wake).pres = c.pres := rfl
@[simp] theorem Clerk.wake_kregs (c : Clerk)  :
    (c.wake).kregs = c.kregs := rfl
@[simp] theorem Clerk.wake_kpres (c : Clerk)  :
    (c.wake).kpres = c.kpres := rfl
@[simp] theorem Clerk.wake_pc (c : Clerk)  :
    (c.wake).pc = c.pc := rfl
@[simp] theorem Clerk.wake_mode (c : Clerk)  :
    (c.wake).mode = c.mode := rfl
@[simp] theorem Clerk.wake_sstep (c : Clerk)  :
    (c.wake).sstep = c.sstep := rfl
@[simp] theorem Clerk.wake_frozen (c : Clerk)  :
    (c.wake).frozen = c.frozen := rfl
@[simp] theorem Clerk.wake_stepping (c : Clerk)  :
    (c.wake).stepping = c.stepping := rfl
@[simp] theorem Clerk.wake_stepped (c : Clerk)  :
    (c.wake).stepped = c.stepped := rfl
@[simp] theorem Clerk.wake_pend (c : Clerk)  :
    (c.wake).pend = c.pend := rfl
@[simp] theorem Clerk.wake_tvec (c : Clerk)  :
    (c.wake).tvec = c.tvec := rfl
@[simp] theorem Clerk.wake_cause (c : Clerk)  :
    (c.wake).cause = c.cause := rfl
@[simp] theorem Clerk.wake_faddress (c : Clerk)  :
    (c.wake).faddress = c.faddress := rfl
@[simp] theorem Clerk.wake_causeb (c : Clerk)  :
    (c.wake).causeb = c.causeb := rfl
@[simp] theorem Clerk.wake_addrb (c : Clerk)  :
    (c.wake).addrb = c.addrb := rfl
@[simp] theorem Clerk.wake_fpstat (c : Clerk)  :
    (c.wake).fpstat = c.fpstat := rfl
@[simp] theorem Clerk.wake_fpctl (c : Clerk)  :
    (c.wake).fpctl = c.fpctl := rfl
@[simp] theorem Clerk.wake_cmdbase (c : Clerk)  :
    (c.wake).cmdbase = c.cmdbase := rfl
@[simp] theorem Clerk.wake_holds (c : Clerk)  :
    (c.wake).holds = c.holds := rfl
@[simp] theorem Clerk.wake_unfin (c : Clerk)  :
    (c.wake).unfin = c.unfin := rfl
@[simp] theorem Clerk.wake_run (c : Clerk)  :
    (c.wake).run = c.run := rfl
@[simp] theorem Clerk.wake_redo (c : Clerk)  :
    (c.wake).redo = c.redo := rfl
@[simp] theorem Clerk.wake_latches (c : Clerk)  :
    (c.wake).latches = c.latches := rfl
@[simp] theorem Clerk.wake_kept (c : Clerk)  :
    (c.wake).kept = c.kept := rfl
@[simp] theorem Clerk.wake_joinQueued (c : Clerk)  :
    (c.wake).joinQueued = c.joinQueued := rfl

@[simp] theorem Clerk.setPc_pc (c : Clerk) (v : BitVec 48) : (c.setPc v).pc = v &&& ~~~3 := rfl
@[simp] theorem Clerk.wake_wfeEvent (c : Clerk) : c.wake.wfeEvent = true := rfl


/-! ### State.updClerk -/

@[simp] theorem State.updClerk_coreId (s : State) (f : Clerk → Clerk) :
    (s.updClerk f).coreId = s.coreId := rfl
@[simp] theorem State.updClerk_gridmap (s : State) (f : Clerk → Clerk) :
    (s.updClerk f).gridmap = s.gridmap := rfl
@[simp] theorem State.updClerk_cycle (s : State) (f : Clerk → Clerk) :
    (s.updClerk f).cycle = s.cycle := rfl
@[simp] theorem State.updClerk_timer (s : State) (f : Clerk → Clerk) :
    (s.updClerk f).timer = s.timer := rfl
@[simp] theorem State.updClerk_stepNo (s : State) (f : Clerk → Clerk) :
    (s.updClerk f).stepNo = s.stepNo := rfl
@[simp] theorem State.updClerk_mem (s : State) (f : Clerk → Clerk) :
    (s.updClerk f).mem = s.mem := rfl
@[simp] theorem State.updClerk_poison (s : State) (f : Clerk → Clerk) :
    (s.updClerk f).poison = s.poison := rfl
@[simp] theorem State.updClerk_task (s : State) (f : Clerk → Clerk) :
    (s.updClerk f).task = s.task := rfl
@[simp] theorem State.updClerk_shadow (s : State) (f : Clerk → Clerk) :
    (s.updClerk f).shadow = s.shadow := rfl
@[simp] theorem State.updClerk_recs (s : State) (f : Clerk → Clerk) :
    (s.updClerk f).recs = s.recs := rfl
@[simp] theorem State.updClerk_cohorts (s : State) (f : Clerk → Clerk) :
    (s.updClerk f).cohorts = s.cohorts := rfl
@[simp] theorem State.updClerk_objs (s : State) (f : Clerk → Clerk) :
    (s.updClerk f).objs = s.objs := rfl
@[simp] theorem State.updClerk_binds (s : State) (f : Clerk → Clerk) :
    (s.updClerk f).binds = s.binds := rfl
@[simp] theorem State.updClerk_dir (s : State) (f : Clerk → Clerk) :
    (s.updClerk f).dir = s.dir := rfl
@[simp] theorem State.updClerk_occ (s : State) (f : Clerk → Clerk) :
    (s.updClerk f).occ = s.occ := rfl
@[simp] theorem State.updClerk_recent (s : State) (f : Clerk → Clerk) :
    (s.updClerk f).recent = s.recent := rfl
@[simp] theorem State.updClerk_preempting (s : State) (f : Clerk → Clerk) :
    (s.updClerk f).preempting = s.preempting := rfl
@[simp] theorem State.updClerk_recalling (s : State) (f : Clerk → Clerk) :
    (s.updClerk f).recalling = s.recalling := rfl
@[simp] theorem State.updClerk_tagcfg (s : State) (f : Clerk → Clerk) :
    (s.updClerk f).tagcfg = s.tagcfg := rfl
@[simp] theorem State.updClerk_tagVictim (s : State) (f : Clerk → Clerk) :
    (s.updClerk f).tagVictim = s.tagVictim := rfl
@[simp] theorem State.updClerk_tags (s : State) (f : Clerk → Clerk) :
    (s.updClerk f).tags = s.tags := rfl
@[simp] theorem State.updClerk_pages (s : State) (f : Clerk → Clerk) :
    (s.updClerk f).pages = s.pages := rfl
@[simp] theorem State.updClerk_farPages (s : State) (f : Clerk → Clerk) :
    (s.updClerk f).farPages = s.farPages := rfl
@[simp] theorem State.updClerk_farCores (s : State) (f : Clerk → Clerk) :
    (s.updClerk f).farCores = s.farCores := rfl
@[simp] theorem State.updClerk_farSaved (s : State) (f : Clerk → Clerk) :
    (s.updClerk f).farSaved = s.farSaved := rfl
@[simp] theorem State.updClerk_icache (s : State) (f : Clerk → Clerk) :
    (s.updClerk f).icache = s.icache := rfl
@[simp] theorem State.updClerk_tlb (s : State) (f : Clerk → Clerk) :
    (s.updClerk f).tlb = s.tlb := rfl
@[simp] theorem State.updClerk_l2tlb (s : State) (f : Clerk → Clerk) :
    (s.updClerk f).l2tlb = s.l2tlb := rfl
@[simp] theorem State.updClerk_walks (s : State) (f : Clerk → Clerk) :
    (s.updClerk f).walks = s.walks := rfl
@[simp] theorem State.updClerk_wings (s : State) (f : Clerk → Clerk) :
    (s.updClerk f).wings = s.wings := rfl
@[simp] theorem State.updClerk_modl (s : State) (f : Clerk → Clerk) :
    (s.updClerk f).modl = s.modl := rfl
@[simp] theorem State.updClerk_hostMem (s : State) (f : Clerk → Clerk) :
    (s.updClerk f).hostMem = s.hostMem := rfl
@[simp] theorem State.updClerk_hostRead (s : State) (f : Clerk → Clerk) :
    (s.updClerk f).hostRead = s.hostRead := rfl
@[simp] theorem State.updClerk_niOut (s : State) (f : Clerk → Clerk) :
    (s.updClerk f).niOut = s.niOut := rfl
@[simp] theorem State.updClerk_niFlight (s : State) (f : Clerk → Clerk) :
    (s.updClerk f).niFlight = s.niFlight := rfl
@[simp] theorem State.updClerk_niIn (s : State) (f : Clerk → Clerk) :
    (s.updClerk f).niIn = s.niIn := rfl
@[simp] theorem State.updClerk_niGot (s : State) (f : Clerk → Clerk) :
    (s.updClerk f).niGot = s.niGot := rfl
@[simp] theorem State.updClerk_skid (s : State) (f : Clerk → Clerk) :
    (s.updClerk f).skid = s.skid := rfl
@[simp] theorem State.updClerk_nextTask (s : State) (f : Clerk → Clerk) :
    (s.updClerk f).nextTask = s.nextTask := rfl
@[simp] theorem State.updClerk_nvmeWin (s : State) (f : Clerk → Clerk) :
    (s.updClerk f).nvmeWin = s.nvmeWin := rfl
@[simp] theorem State.updClerk_outside (s : State) (f : Clerk → Clerk) :
    (s.updClerk f).outside = s.outside := rfl
@[simp] theorem State.updClerk_agenda (s : State) (f : Clerk → Clerk) :
    (s.updClerk f).agenda = s.agenda := rfl
@[simp] theorem State.updClerk_clerk (s : State) (f : Clerk → Clerk) :
    (s.updClerk f).core.clerk = f s.core.clerk := rfl
@[simp] theorem State.updClerk_fab (s : State) (f : Clerk → Clerk) :
    (s.updClerk f).core.fab = s.core.fab := rfl
@[simp] theorem State.updClerk_ports (s : State) (f : Clerk → Clerk) :
    (s.updClerk f).core.ports = s.core.ports := rfl
@[simp] theorem State.updClerk_mes (s : State) (f : Clerk → Clerk) :
    (s.updClerk f).core.mes = s.core.mes := rfl
@[simp] theorem State.updClerk_tmu (s : State) (f : Clerk → Clerk) :
    (s.updClerk f).core.tmu = s.core.tmu := rfl
@[simp] theorem State.updClerk_ces (s : State) (f : Clerk → Clerk) :
    (s.updClerk f).core.ces = s.core.ces := rfl
@[simp] theorem State.updClerk_handles (s : State) (f : Clerk → Clerk) :
    (s.updClerk f).core.handles = s.core.handles := rfl
@[simp] theorem State.updClerk_watches (s : State) (f : Clerk → Clerk) :
    (s.updClerk f).core.watches = s.core.watches := rfl
@[simp] theorem State.updClerk_mto (s : State) (f : Clerk → Clerk) :
    (s.updClerk f).core.mto = s.core.mto := rfl
@[simp] theorem State.updClerk_wdg (s : State) (f : Clerk → Clerk) :
    (s.updClerk f).core.wdg = s.core.wdg := rfl

/-! ### State.updFab -/

@[simp] theorem State.updFab_coreId (s : State) (f : Fabric → Fabric) :
    (s.updFab f).coreId = s.coreId := rfl
@[simp] theorem State.updFab_gridmap (s : State) (f : Fabric → Fabric) :
    (s.updFab f).gridmap = s.gridmap := rfl
@[simp] theorem State.updFab_cycle (s : State) (f : Fabric → Fabric) :
    (s.updFab f).cycle = s.cycle := rfl
@[simp] theorem State.updFab_timer (s : State) (f : Fabric → Fabric) :
    (s.updFab f).timer = s.timer := rfl
@[simp] theorem State.updFab_stepNo (s : State) (f : Fabric → Fabric) :
    (s.updFab f).stepNo = s.stepNo := rfl
@[simp] theorem State.updFab_mem (s : State) (f : Fabric → Fabric) :
    (s.updFab f).mem = s.mem := rfl
@[simp] theorem State.updFab_poison (s : State) (f : Fabric → Fabric) :
    (s.updFab f).poison = s.poison := rfl
@[simp] theorem State.updFab_task (s : State) (f : Fabric → Fabric) :
    (s.updFab f).task = s.task := rfl
@[simp] theorem State.updFab_shadow (s : State) (f : Fabric → Fabric) :
    (s.updFab f).shadow = s.shadow := rfl
@[simp] theorem State.updFab_recs (s : State) (f : Fabric → Fabric) :
    (s.updFab f).recs = s.recs := rfl
@[simp] theorem State.updFab_cohorts (s : State) (f : Fabric → Fabric) :
    (s.updFab f).cohorts = s.cohorts := rfl
@[simp] theorem State.updFab_objs (s : State) (f : Fabric → Fabric) :
    (s.updFab f).objs = s.objs := rfl
@[simp] theorem State.updFab_binds (s : State) (f : Fabric → Fabric) :
    (s.updFab f).binds = s.binds := rfl
@[simp] theorem State.updFab_dir (s : State) (f : Fabric → Fabric) :
    (s.updFab f).dir = s.dir := rfl
@[simp] theorem State.updFab_occ (s : State) (f : Fabric → Fabric) :
    (s.updFab f).occ = s.occ := rfl
@[simp] theorem State.updFab_recent (s : State) (f : Fabric → Fabric) :
    (s.updFab f).recent = s.recent := rfl
@[simp] theorem State.updFab_preempting (s : State) (f : Fabric → Fabric) :
    (s.updFab f).preempting = s.preempting := rfl
@[simp] theorem State.updFab_recalling (s : State) (f : Fabric → Fabric) :
    (s.updFab f).recalling = s.recalling := rfl
@[simp] theorem State.updFab_tagcfg (s : State) (f : Fabric → Fabric) :
    (s.updFab f).tagcfg = s.tagcfg := rfl
@[simp] theorem State.updFab_tagVictim (s : State) (f : Fabric → Fabric) :
    (s.updFab f).tagVictim = s.tagVictim := rfl
@[simp] theorem State.updFab_tags (s : State) (f : Fabric → Fabric) :
    (s.updFab f).tags = s.tags := rfl
@[simp] theorem State.updFab_pages (s : State) (f : Fabric → Fabric) :
    (s.updFab f).pages = s.pages := rfl
@[simp] theorem State.updFab_farPages (s : State) (f : Fabric → Fabric) :
    (s.updFab f).farPages = s.farPages := rfl
@[simp] theorem State.updFab_farCores (s : State) (f : Fabric → Fabric) :
    (s.updFab f).farCores = s.farCores := rfl
@[simp] theorem State.updFab_farSaved (s : State) (f : Fabric → Fabric) :
    (s.updFab f).farSaved = s.farSaved := rfl
@[simp] theorem State.updFab_icache (s : State) (f : Fabric → Fabric) :
    (s.updFab f).icache = s.icache := rfl
@[simp] theorem State.updFab_tlb (s : State) (f : Fabric → Fabric) :
    (s.updFab f).tlb = s.tlb := rfl
@[simp] theorem State.updFab_l2tlb (s : State) (f : Fabric → Fabric) :
    (s.updFab f).l2tlb = s.l2tlb := rfl
@[simp] theorem State.updFab_walks (s : State) (f : Fabric → Fabric) :
    (s.updFab f).walks = s.walks := rfl
@[simp] theorem State.updFab_wings (s : State) (f : Fabric → Fabric) :
    (s.updFab f).wings = s.wings := rfl
@[simp] theorem State.updFab_modl (s : State) (f : Fabric → Fabric) :
    (s.updFab f).modl = s.modl := rfl
@[simp] theorem State.updFab_hostMem (s : State) (f : Fabric → Fabric) :
    (s.updFab f).hostMem = s.hostMem := rfl
@[simp] theorem State.updFab_hostRead (s : State) (f : Fabric → Fabric) :
    (s.updFab f).hostRead = s.hostRead := rfl
@[simp] theorem State.updFab_niOut (s : State) (f : Fabric → Fabric) :
    (s.updFab f).niOut = s.niOut := rfl
@[simp] theorem State.updFab_niFlight (s : State) (f : Fabric → Fabric) :
    (s.updFab f).niFlight = s.niFlight := rfl
@[simp] theorem State.updFab_niIn (s : State) (f : Fabric → Fabric) :
    (s.updFab f).niIn = s.niIn := rfl
@[simp] theorem State.updFab_niGot (s : State) (f : Fabric → Fabric) :
    (s.updFab f).niGot = s.niGot := rfl
@[simp] theorem State.updFab_skid (s : State) (f : Fabric → Fabric) :
    (s.updFab f).skid = s.skid := rfl
@[simp] theorem State.updFab_nextTask (s : State) (f : Fabric → Fabric) :
    (s.updFab f).nextTask = s.nextTask := rfl
@[simp] theorem State.updFab_nvmeWin (s : State) (f : Fabric → Fabric) :
    (s.updFab f).nvmeWin = s.nvmeWin := rfl
@[simp] theorem State.updFab_outside (s : State) (f : Fabric → Fabric) :
    (s.updFab f).outside = s.outside := rfl
@[simp] theorem State.updFab_agenda (s : State) (f : Fabric → Fabric) :
    (s.updFab f).agenda = s.agenda := rfl
@[simp] theorem State.updFab_clerk (s : State) (f : Fabric → Fabric) :
    (s.updFab f).core.clerk = s.core.clerk := rfl
@[simp] theorem State.updFab_fab (s : State) (f : Fabric → Fabric) :
    (s.updFab f).core.fab = f s.core.fab := rfl
@[simp] theorem State.updFab_ports (s : State) (f : Fabric → Fabric) :
    (s.updFab f).core.ports = s.core.ports := rfl
@[simp] theorem State.updFab_mes (s : State) (f : Fabric → Fabric) :
    (s.updFab f).core.mes = s.core.mes := rfl
@[simp] theorem State.updFab_tmu (s : State) (f : Fabric → Fabric) :
    (s.updFab f).core.tmu = s.core.tmu := rfl
@[simp] theorem State.updFab_ces (s : State) (f : Fabric → Fabric) :
    (s.updFab f).core.ces = s.core.ces := rfl
@[simp] theorem State.updFab_handles (s : State) (f : Fabric → Fabric) :
    (s.updFab f).core.handles = s.core.handles := rfl
@[simp] theorem State.updFab_watches (s : State) (f : Fabric → Fabric) :
    (s.updFab f).core.watches = s.core.watches := rfl
@[simp] theorem State.updFab_mto (s : State) (f : Fabric → Fabric) :
    (s.updFab f).core.mto = s.core.mto := rfl
@[simp] theorem State.updFab_wdg (s : State) (f : Fabric → Fabric) :
    (s.updFab f).core.wdg = s.core.wdg := rfl

/-! ### State.updTmu -/

@[simp] theorem State.updTmu_coreId (s : State) (f : Tmu → Tmu) :
    (s.updTmu f).coreId = s.coreId := rfl
@[simp] theorem State.updTmu_gridmap (s : State) (f : Tmu → Tmu) :
    (s.updTmu f).gridmap = s.gridmap := rfl
@[simp] theorem State.updTmu_cycle (s : State) (f : Tmu → Tmu) :
    (s.updTmu f).cycle = s.cycle := rfl
@[simp] theorem State.updTmu_timer (s : State) (f : Tmu → Tmu) :
    (s.updTmu f).timer = s.timer := rfl
@[simp] theorem State.updTmu_stepNo (s : State) (f : Tmu → Tmu) :
    (s.updTmu f).stepNo = s.stepNo := rfl
@[simp] theorem State.updTmu_mem (s : State) (f : Tmu → Tmu) :
    (s.updTmu f).mem = s.mem := rfl
@[simp] theorem State.updTmu_poison (s : State) (f : Tmu → Tmu) :
    (s.updTmu f).poison = s.poison := rfl
@[simp] theorem State.updTmu_task (s : State) (f : Tmu → Tmu) :
    (s.updTmu f).task = s.task := rfl
@[simp] theorem State.updTmu_shadow (s : State) (f : Tmu → Tmu) :
    (s.updTmu f).shadow = s.shadow := rfl
@[simp] theorem State.updTmu_recs (s : State) (f : Tmu → Tmu) :
    (s.updTmu f).recs = s.recs := rfl
@[simp] theorem State.updTmu_cohorts (s : State) (f : Tmu → Tmu) :
    (s.updTmu f).cohorts = s.cohorts := rfl
@[simp] theorem State.updTmu_objs (s : State) (f : Tmu → Tmu) :
    (s.updTmu f).objs = s.objs := rfl
@[simp] theorem State.updTmu_binds (s : State) (f : Tmu → Tmu) :
    (s.updTmu f).binds = s.binds := rfl
@[simp] theorem State.updTmu_dir (s : State) (f : Tmu → Tmu) :
    (s.updTmu f).dir = s.dir := rfl
@[simp] theorem State.updTmu_occ (s : State) (f : Tmu → Tmu) :
    (s.updTmu f).occ = s.occ := rfl
@[simp] theorem State.updTmu_recent (s : State) (f : Tmu → Tmu) :
    (s.updTmu f).recent = s.recent := rfl
@[simp] theorem State.updTmu_preempting (s : State) (f : Tmu → Tmu) :
    (s.updTmu f).preempting = s.preempting := rfl
@[simp] theorem State.updTmu_recalling (s : State) (f : Tmu → Tmu) :
    (s.updTmu f).recalling = s.recalling := rfl
@[simp] theorem State.updTmu_tagcfg (s : State) (f : Tmu → Tmu) :
    (s.updTmu f).tagcfg = s.tagcfg := rfl
@[simp] theorem State.updTmu_tagVictim (s : State) (f : Tmu → Tmu) :
    (s.updTmu f).tagVictim = s.tagVictim := rfl
@[simp] theorem State.updTmu_tags (s : State) (f : Tmu → Tmu) :
    (s.updTmu f).tags = s.tags := rfl
@[simp] theorem State.updTmu_pages (s : State) (f : Tmu → Tmu) :
    (s.updTmu f).pages = s.pages := rfl
@[simp] theorem State.updTmu_farPages (s : State) (f : Tmu → Tmu) :
    (s.updTmu f).farPages = s.farPages := rfl
@[simp] theorem State.updTmu_farCores (s : State) (f : Tmu → Tmu) :
    (s.updTmu f).farCores = s.farCores := rfl
@[simp] theorem State.updTmu_farSaved (s : State) (f : Tmu → Tmu) :
    (s.updTmu f).farSaved = s.farSaved := rfl
@[simp] theorem State.updTmu_icache (s : State) (f : Tmu → Tmu) :
    (s.updTmu f).icache = s.icache := rfl
@[simp] theorem State.updTmu_tlb (s : State) (f : Tmu → Tmu) :
    (s.updTmu f).tlb = s.tlb := rfl
@[simp] theorem State.updTmu_l2tlb (s : State) (f : Tmu → Tmu) :
    (s.updTmu f).l2tlb = s.l2tlb := rfl
@[simp] theorem State.updTmu_walks (s : State) (f : Tmu → Tmu) :
    (s.updTmu f).walks = s.walks := rfl
@[simp] theorem State.updTmu_wings (s : State) (f : Tmu → Tmu) :
    (s.updTmu f).wings = s.wings := rfl
@[simp] theorem State.updTmu_modl (s : State) (f : Tmu → Tmu) :
    (s.updTmu f).modl = s.modl := rfl
@[simp] theorem State.updTmu_hostMem (s : State) (f : Tmu → Tmu) :
    (s.updTmu f).hostMem = s.hostMem := rfl
@[simp] theorem State.updTmu_hostRead (s : State) (f : Tmu → Tmu) :
    (s.updTmu f).hostRead = s.hostRead := rfl
@[simp] theorem State.updTmu_niOut (s : State) (f : Tmu → Tmu) :
    (s.updTmu f).niOut = s.niOut := rfl
@[simp] theorem State.updTmu_niFlight (s : State) (f : Tmu → Tmu) :
    (s.updTmu f).niFlight = s.niFlight := rfl
@[simp] theorem State.updTmu_niIn (s : State) (f : Tmu → Tmu) :
    (s.updTmu f).niIn = s.niIn := rfl
@[simp] theorem State.updTmu_niGot (s : State) (f : Tmu → Tmu) :
    (s.updTmu f).niGot = s.niGot := rfl
@[simp] theorem State.updTmu_skid (s : State) (f : Tmu → Tmu) :
    (s.updTmu f).skid = s.skid := rfl
@[simp] theorem State.updTmu_nextTask (s : State) (f : Tmu → Tmu) :
    (s.updTmu f).nextTask = s.nextTask := rfl
@[simp] theorem State.updTmu_nvmeWin (s : State) (f : Tmu → Tmu) :
    (s.updTmu f).nvmeWin = s.nvmeWin := rfl
@[simp] theorem State.updTmu_outside (s : State) (f : Tmu → Tmu) :
    (s.updTmu f).outside = s.outside := rfl
@[simp] theorem State.updTmu_agenda (s : State) (f : Tmu → Tmu) :
    (s.updTmu f).agenda = s.agenda := rfl
@[simp] theorem State.updTmu_clerk (s : State) (f : Tmu → Tmu) :
    (s.updTmu f).core.clerk = s.core.clerk := rfl
@[simp] theorem State.updTmu_fab (s : State) (f : Tmu → Tmu) :
    (s.updTmu f).core.fab = s.core.fab := rfl
@[simp] theorem State.updTmu_ports (s : State) (f : Tmu → Tmu) :
    (s.updTmu f).core.ports = s.core.ports := rfl
@[simp] theorem State.updTmu_mes (s : State) (f : Tmu → Tmu) :
    (s.updTmu f).core.mes = s.core.mes := rfl
@[simp] theorem State.updTmu_tmu (s : State) (f : Tmu → Tmu) :
    (s.updTmu f).core.tmu = f s.core.tmu := rfl
@[simp] theorem State.updTmu_ces (s : State) (f : Tmu → Tmu) :
    (s.updTmu f).core.ces = s.core.ces := rfl
@[simp] theorem State.updTmu_handles (s : State) (f : Tmu → Tmu) :
    (s.updTmu f).core.handles = s.core.handles := rfl
@[simp] theorem State.updTmu_watches (s : State) (f : Tmu → Tmu) :
    (s.updTmu f).core.watches = s.core.watches := rfl
@[simp] theorem State.updTmu_mto (s : State) (f : Tmu → Tmu) :
    (s.updTmu f).core.mto = s.core.mto := rfl
@[simp] theorem State.updTmu_wdg (s : State) (f : Tmu → Tmu) :
    (s.updTmu f).core.wdg = s.core.wdg := rfl

/-! ### State.updMe -/

@[simp] theorem State.updMe_coreId (s : State) (e : Nat) (f : Me → Me) :
    (s.updMe e f).coreId = s.coreId := rfl
@[simp] theorem State.updMe_gridmap (s : State) (e : Nat) (f : Me → Me) :
    (s.updMe e f).gridmap = s.gridmap := rfl
@[simp] theorem State.updMe_cycle (s : State) (e : Nat) (f : Me → Me) :
    (s.updMe e f).cycle = s.cycle := rfl
@[simp] theorem State.updMe_timer (s : State) (e : Nat) (f : Me → Me) :
    (s.updMe e f).timer = s.timer := rfl
@[simp] theorem State.updMe_stepNo (s : State) (e : Nat) (f : Me → Me) :
    (s.updMe e f).stepNo = s.stepNo := rfl
@[simp] theorem State.updMe_mem (s : State) (e : Nat) (f : Me → Me) :
    (s.updMe e f).mem = s.mem := rfl
@[simp] theorem State.updMe_poison (s : State) (e : Nat) (f : Me → Me) :
    (s.updMe e f).poison = s.poison := rfl
@[simp] theorem State.updMe_task (s : State) (e : Nat) (f : Me → Me) :
    (s.updMe e f).task = s.task := rfl
@[simp] theorem State.updMe_shadow (s : State) (e : Nat) (f : Me → Me) :
    (s.updMe e f).shadow = s.shadow := rfl
@[simp] theorem State.updMe_recs (s : State) (e : Nat) (f : Me → Me) :
    (s.updMe e f).recs = s.recs := rfl
@[simp] theorem State.updMe_cohorts (s : State) (e : Nat) (f : Me → Me) :
    (s.updMe e f).cohorts = s.cohorts := rfl
@[simp] theorem State.updMe_objs (s : State) (e : Nat) (f : Me → Me) :
    (s.updMe e f).objs = s.objs := rfl
@[simp] theorem State.updMe_binds (s : State) (e : Nat) (f : Me → Me) :
    (s.updMe e f).binds = s.binds := rfl
@[simp] theorem State.updMe_dir (s : State) (e : Nat) (f : Me → Me) :
    (s.updMe e f).dir = s.dir := rfl
@[simp] theorem State.updMe_occ (s : State) (e : Nat) (f : Me → Me) :
    (s.updMe e f).occ = s.occ := rfl
@[simp] theorem State.updMe_recent (s : State) (e : Nat) (f : Me → Me) :
    (s.updMe e f).recent = s.recent := rfl
@[simp] theorem State.updMe_preempting (s : State) (e : Nat) (f : Me → Me) :
    (s.updMe e f).preempting = s.preempting := rfl
@[simp] theorem State.updMe_recalling (s : State) (e : Nat) (f : Me → Me) :
    (s.updMe e f).recalling = s.recalling := rfl
@[simp] theorem State.updMe_tagcfg (s : State) (e : Nat) (f : Me → Me) :
    (s.updMe e f).tagcfg = s.tagcfg := rfl
@[simp] theorem State.updMe_tagVictim (s : State) (e : Nat) (f : Me → Me) :
    (s.updMe e f).tagVictim = s.tagVictim := rfl
@[simp] theorem State.updMe_tags (s : State) (e : Nat) (f : Me → Me) :
    (s.updMe e f).tags = s.tags := rfl
@[simp] theorem State.updMe_pages (s : State) (e : Nat) (f : Me → Me) :
    (s.updMe e f).pages = s.pages := rfl
@[simp] theorem State.updMe_farPages (s : State) (e : Nat) (f : Me → Me) :
    (s.updMe e f).farPages = s.farPages := rfl
@[simp] theorem State.updMe_farCores (s : State) (e : Nat) (f : Me → Me) :
    (s.updMe e f).farCores = s.farCores := rfl
@[simp] theorem State.updMe_farSaved (s : State) (e : Nat) (f : Me → Me) :
    (s.updMe e f).farSaved = s.farSaved := rfl
@[simp] theorem State.updMe_icache (s : State) (e : Nat) (f : Me → Me) :
    (s.updMe e f).icache = s.icache := rfl
@[simp] theorem State.updMe_tlb (s : State) (e : Nat) (f : Me → Me) :
    (s.updMe e f).tlb = s.tlb := rfl
@[simp] theorem State.updMe_l2tlb (s : State) (e : Nat) (f : Me → Me) :
    (s.updMe e f).l2tlb = s.l2tlb := rfl
@[simp] theorem State.updMe_walks (s : State) (e : Nat) (f : Me → Me) :
    (s.updMe e f).walks = s.walks := rfl
@[simp] theorem State.updMe_wings (s : State) (e : Nat) (f : Me → Me) :
    (s.updMe e f).wings = s.wings := rfl
@[simp] theorem State.updMe_modl (s : State) (e : Nat) (f : Me → Me) :
    (s.updMe e f).modl = s.modl := rfl
@[simp] theorem State.updMe_hostMem (s : State) (e : Nat) (f : Me → Me) :
    (s.updMe e f).hostMem = s.hostMem := rfl
@[simp] theorem State.updMe_hostRead (s : State) (e : Nat) (f : Me → Me) :
    (s.updMe e f).hostRead = s.hostRead := rfl
@[simp] theorem State.updMe_niOut (s : State) (e : Nat) (f : Me → Me) :
    (s.updMe e f).niOut = s.niOut := rfl
@[simp] theorem State.updMe_niFlight (s : State) (e : Nat) (f : Me → Me) :
    (s.updMe e f).niFlight = s.niFlight := rfl
@[simp] theorem State.updMe_niIn (s : State) (e : Nat) (f : Me → Me) :
    (s.updMe e f).niIn = s.niIn := rfl
@[simp] theorem State.updMe_niGot (s : State) (e : Nat) (f : Me → Me) :
    (s.updMe e f).niGot = s.niGot := rfl
@[simp] theorem State.updMe_skid (s : State) (e : Nat) (f : Me → Me) :
    (s.updMe e f).skid = s.skid := rfl
@[simp] theorem State.updMe_nextTask (s : State) (e : Nat) (f : Me → Me) :
    (s.updMe e f).nextTask = s.nextTask := rfl
@[simp] theorem State.updMe_nvmeWin (s : State) (e : Nat) (f : Me → Me) :
    (s.updMe e f).nvmeWin = s.nvmeWin := rfl
@[simp] theorem State.updMe_outside (s : State) (e : Nat) (f : Me → Me) :
    (s.updMe e f).outside = s.outside := rfl
@[simp] theorem State.updMe_agenda (s : State) (e : Nat) (f : Me → Me) :
    (s.updMe e f).agenda = s.agenda := rfl
@[simp] theorem State.updMe_clerk (s : State) (e : Nat) (f : Me → Me) :
    (s.updMe e f).core.clerk = s.core.clerk := rfl
@[simp] theorem State.updMe_fab (s : State) (e : Nat) (f : Me → Me) :
    (s.updMe e f).core.fab = s.core.fab := rfl
@[simp] theorem State.updMe_ports (s : State) (e : Nat) (f : Me → Me) :
    (s.updMe e f).core.ports = s.core.ports := rfl
@[simp] theorem State.updMe_mes (s : State) (e : Nat) (f : Me → Me) :
    (s.updMe e f).core.mes = updAt s.core.mes e f := rfl
@[simp] theorem State.updMe_tmu (s : State) (e : Nat) (f : Me → Me) :
    (s.updMe e f).core.tmu = s.core.tmu := rfl
@[simp] theorem State.updMe_ces (s : State) (e : Nat) (f : Me → Me) :
    (s.updMe e f).core.ces = s.core.ces := rfl
@[simp] theorem State.updMe_handles (s : State) (e : Nat) (f : Me → Me) :
    (s.updMe e f).core.handles = s.core.handles := rfl
@[simp] theorem State.updMe_watches (s : State) (e : Nat) (f : Me → Me) :
    (s.updMe e f).core.watches = s.core.watches := rfl
@[simp] theorem State.updMe_mto (s : State) (e : Nat) (f : Me → Me) :
    (s.updMe e f).core.mto = s.core.mto := rfl
@[simp] theorem State.updMe_wdg (s : State) (e : Nat) (f : Me → Me) :
    (s.updMe e f).core.wdg = s.core.wdg := rfl

/-! ### State.updPort -/

@[simp] theorem State.updPort_coreId (s : State) (p : Nat) (f : Port → Port) :
    (s.updPort p f).coreId = s.coreId := rfl
@[simp] theorem State.updPort_gridmap (s : State) (p : Nat) (f : Port → Port) :
    (s.updPort p f).gridmap = s.gridmap := rfl
@[simp] theorem State.updPort_cycle (s : State) (p : Nat) (f : Port → Port) :
    (s.updPort p f).cycle = s.cycle := rfl
@[simp] theorem State.updPort_timer (s : State) (p : Nat) (f : Port → Port) :
    (s.updPort p f).timer = s.timer := rfl
@[simp] theorem State.updPort_stepNo (s : State) (p : Nat) (f : Port → Port) :
    (s.updPort p f).stepNo = s.stepNo := rfl
@[simp] theorem State.updPort_mem (s : State) (p : Nat) (f : Port → Port) :
    (s.updPort p f).mem = s.mem := rfl
@[simp] theorem State.updPort_poison (s : State) (p : Nat) (f : Port → Port) :
    (s.updPort p f).poison = s.poison := rfl
@[simp] theorem State.updPort_task (s : State) (p : Nat) (f : Port → Port) :
    (s.updPort p f).task = s.task := rfl
@[simp] theorem State.updPort_shadow (s : State) (p : Nat) (f : Port → Port) :
    (s.updPort p f).shadow = s.shadow := rfl
@[simp] theorem State.updPort_recs (s : State) (p : Nat) (f : Port → Port) :
    (s.updPort p f).recs = s.recs := rfl
@[simp] theorem State.updPort_cohorts (s : State) (p : Nat) (f : Port → Port) :
    (s.updPort p f).cohorts = s.cohorts := rfl
@[simp] theorem State.updPort_objs (s : State) (p : Nat) (f : Port → Port) :
    (s.updPort p f).objs = s.objs := rfl
@[simp] theorem State.updPort_binds (s : State) (p : Nat) (f : Port → Port) :
    (s.updPort p f).binds = s.binds := rfl
@[simp] theorem State.updPort_dir (s : State) (p : Nat) (f : Port → Port) :
    (s.updPort p f).dir = s.dir := rfl
@[simp] theorem State.updPort_occ (s : State) (p : Nat) (f : Port → Port) :
    (s.updPort p f).occ = s.occ := rfl
@[simp] theorem State.updPort_recent (s : State) (p : Nat) (f : Port → Port) :
    (s.updPort p f).recent = s.recent := rfl
@[simp] theorem State.updPort_preempting (s : State) (p : Nat) (f : Port → Port) :
    (s.updPort p f).preempting = s.preempting := rfl
@[simp] theorem State.updPort_recalling (s : State) (p : Nat) (f : Port → Port) :
    (s.updPort p f).recalling = s.recalling := rfl
@[simp] theorem State.updPort_tagcfg (s : State) (p : Nat) (f : Port → Port) :
    (s.updPort p f).tagcfg = s.tagcfg := rfl
@[simp] theorem State.updPort_tagVictim (s : State) (p : Nat) (f : Port → Port) :
    (s.updPort p f).tagVictim = s.tagVictim := rfl
@[simp] theorem State.updPort_tags (s : State) (p : Nat) (f : Port → Port) :
    (s.updPort p f).tags = s.tags := rfl
@[simp] theorem State.updPort_pages (s : State) (p : Nat) (f : Port → Port) :
    (s.updPort p f).pages = s.pages := rfl
@[simp] theorem State.updPort_farPages (s : State) (p : Nat) (f : Port → Port) :
    (s.updPort p f).farPages = s.farPages := rfl
@[simp] theorem State.updPort_farCores (s : State) (p : Nat) (f : Port → Port) :
    (s.updPort p f).farCores = s.farCores := rfl
@[simp] theorem State.updPort_farSaved (s : State) (p : Nat) (f : Port → Port) :
    (s.updPort p f).farSaved = s.farSaved := rfl
@[simp] theorem State.updPort_icache (s : State) (p : Nat) (f : Port → Port) :
    (s.updPort p f).icache = s.icache := rfl
@[simp] theorem State.updPort_tlb (s : State) (p : Nat) (f : Port → Port) :
    (s.updPort p f).tlb = s.tlb := rfl
@[simp] theorem State.updPort_l2tlb (s : State) (p : Nat) (f : Port → Port) :
    (s.updPort p f).l2tlb = s.l2tlb := rfl
@[simp] theorem State.updPort_walks (s : State) (p : Nat) (f : Port → Port) :
    (s.updPort p f).walks = s.walks := rfl
@[simp] theorem State.updPort_wings (s : State) (p : Nat) (f : Port → Port) :
    (s.updPort p f).wings = s.wings := rfl
@[simp] theorem State.updPort_modl (s : State) (p : Nat) (f : Port → Port) :
    (s.updPort p f).modl = s.modl := rfl
@[simp] theorem State.updPort_hostMem (s : State) (p : Nat) (f : Port → Port) :
    (s.updPort p f).hostMem = s.hostMem := rfl
@[simp] theorem State.updPort_hostRead (s : State) (p : Nat) (f : Port → Port) :
    (s.updPort p f).hostRead = s.hostRead := rfl
@[simp] theorem State.updPort_niOut (s : State) (p : Nat) (f : Port → Port) :
    (s.updPort p f).niOut = s.niOut := rfl
@[simp] theorem State.updPort_niFlight (s : State) (p : Nat) (f : Port → Port) :
    (s.updPort p f).niFlight = s.niFlight := rfl
@[simp] theorem State.updPort_niIn (s : State) (p : Nat) (f : Port → Port) :
    (s.updPort p f).niIn = s.niIn := rfl
@[simp] theorem State.updPort_niGot (s : State) (p : Nat) (f : Port → Port) :
    (s.updPort p f).niGot = s.niGot := rfl
@[simp] theorem State.updPort_skid (s : State) (p : Nat) (f : Port → Port) :
    (s.updPort p f).skid = s.skid := rfl
@[simp] theorem State.updPort_nextTask (s : State) (p : Nat) (f : Port → Port) :
    (s.updPort p f).nextTask = s.nextTask := rfl
@[simp] theorem State.updPort_nvmeWin (s : State) (p : Nat) (f : Port → Port) :
    (s.updPort p f).nvmeWin = s.nvmeWin := rfl
@[simp] theorem State.updPort_outside (s : State) (p : Nat) (f : Port → Port) :
    (s.updPort p f).outside = s.outside := rfl
@[simp] theorem State.updPort_agenda (s : State) (p : Nat) (f : Port → Port) :
    (s.updPort p f).agenda = s.agenda := rfl
@[simp] theorem State.updPort_clerk (s : State) (p : Nat) (f : Port → Port) :
    (s.updPort p f).core.clerk = s.core.clerk := rfl
@[simp] theorem State.updPort_fab (s : State) (p : Nat) (f : Port → Port) :
    (s.updPort p f).core.fab = s.core.fab := rfl
@[simp] theorem State.updPort_ports (s : State) (p : Nat) (f : Port → Port) :
    (s.updPort p f).core.ports = updAt s.core.ports p f := rfl
@[simp] theorem State.updPort_mes (s : State) (p : Nat) (f : Port → Port) :
    (s.updPort p f).core.mes = s.core.mes := rfl
@[simp] theorem State.updPort_tmu (s : State) (p : Nat) (f : Port → Port) :
    (s.updPort p f).core.tmu = s.core.tmu := rfl
@[simp] theorem State.updPort_ces (s : State) (p : Nat) (f : Port → Port) :
    (s.updPort p f).core.ces = s.core.ces := rfl
@[simp] theorem State.updPort_handles (s : State) (p : Nat) (f : Port → Port) :
    (s.updPort p f).core.handles = s.core.handles := rfl
@[simp] theorem State.updPort_watches (s : State) (p : Nat) (f : Port → Port) :
    (s.updPort p f).core.watches = s.core.watches := rfl
@[simp] theorem State.updPort_mto (s : State) (p : Nat) (f : Port → Port) :
    (s.updPort p f).core.mto = s.core.mto := rfl
@[simp] theorem State.updPort_wdg (s : State) (p : Nat) (f : Port → Port) :
    (s.updPort p f).core.wdg = s.core.wdg := rfl

/-! ### State.updCe -/

@[simp] theorem State.updCe_coreId (s : State) (e : Nat) (f : Ce → Ce) :
    (s.updCe e f).coreId = s.coreId := rfl
@[simp] theorem State.updCe_gridmap (s : State) (e : Nat) (f : Ce → Ce) :
    (s.updCe e f).gridmap = s.gridmap := rfl
@[simp] theorem State.updCe_cycle (s : State) (e : Nat) (f : Ce → Ce) :
    (s.updCe e f).cycle = s.cycle := rfl
@[simp] theorem State.updCe_timer (s : State) (e : Nat) (f : Ce → Ce) :
    (s.updCe e f).timer = s.timer := rfl
@[simp] theorem State.updCe_stepNo (s : State) (e : Nat) (f : Ce → Ce) :
    (s.updCe e f).stepNo = s.stepNo := rfl
@[simp] theorem State.updCe_mem (s : State) (e : Nat) (f : Ce → Ce) :
    (s.updCe e f).mem = s.mem := rfl
@[simp] theorem State.updCe_poison (s : State) (e : Nat) (f : Ce → Ce) :
    (s.updCe e f).poison = s.poison := rfl
@[simp] theorem State.updCe_task (s : State) (e : Nat) (f : Ce → Ce) :
    (s.updCe e f).task = s.task := rfl
@[simp] theorem State.updCe_shadow (s : State) (e : Nat) (f : Ce → Ce) :
    (s.updCe e f).shadow = s.shadow := rfl
@[simp] theorem State.updCe_recs (s : State) (e : Nat) (f : Ce → Ce) :
    (s.updCe e f).recs = s.recs := rfl
@[simp] theorem State.updCe_cohorts (s : State) (e : Nat) (f : Ce → Ce) :
    (s.updCe e f).cohorts = s.cohorts := rfl
@[simp] theorem State.updCe_objs (s : State) (e : Nat) (f : Ce → Ce) :
    (s.updCe e f).objs = s.objs := rfl
@[simp] theorem State.updCe_binds (s : State) (e : Nat) (f : Ce → Ce) :
    (s.updCe e f).binds = s.binds := rfl
@[simp] theorem State.updCe_dir (s : State) (e : Nat) (f : Ce → Ce) :
    (s.updCe e f).dir = s.dir := rfl
@[simp] theorem State.updCe_occ (s : State) (e : Nat) (f : Ce → Ce) :
    (s.updCe e f).occ = s.occ := rfl
@[simp] theorem State.updCe_recent (s : State) (e : Nat) (f : Ce → Ce) :
    (s.updCe e f).recent = s.recent := rfl
@[simp] theorem State.updCe_preempting (s : State) (e : Nat) (f : Ce → Ce) :
    (s.updCe e f).preempting = s.preempting := rfl
@[simp] theorem State.updCe_recalling (s : State) (e : Nat) (f : Ce → Ce) :
    (s.updCe e f).recalling = s.recalling := rfl
@[simp] theorem State.updCe_tagcfg (s : State) (e : Nat) (f : Ce → Ce) :
    (s.updCe e f).tagcfg = s.tagcfg := rfl
@[simp] theorem State.updCe_tagVictim (s : State) (e : Nat) (f : Ce → Ce) :
    (s.updCe e f).tagVictim = s.tagVictim := rfl
@[simp] theorem State.updCe_tags (s : State) (e : Nat) (f : Ce → Ce) :
    (s.updCe e f).tags = s.tags := rfl
@[simp] theorem State.updCe_pages (s : State) (e : Nat) (f : Ce → Ce) :
    (s.updCe e f).pages = s.pages := rfl
@[simp] theorem State.updCe_farPages (s : State) (e : Nat) (f : Ce → Ce) :
    (s.updCe e f).farPages = s.farPages := rfl
@[simp] theorem State.updCe_farCores (s : State) (e : Nat) (f : Ce → Ce) :
    (s.updCe e f).farCores = s.farCores := rfl
@[simp] theorem State.updCe_farSaved (s : State) (e : Nat) (f : Ce → Ce) :
    (s.updCe e f).farSaved = s.farSaved := rfl
@[simp] theorem State.updCe_icache (s : State) (e : Nat) (f : Ce → Ce) :
    (s.updCe e f).icache = s.icache := rfl
@[simp] theorem State.updCe_tlb (s : State) (e : Nat) (f : Ce → Ce) :
    (s.updCe e f).tlb = s.tlb := rfl
@[simp] theorem State.updCe_l2tlb (s : State) (e : Nat) (f : Ce → Ce) :
    (s.updCe e f).l2tlb = s.l2tlb := rfl
@[simp] theorem State.updCe_walks (s : State) (e : Nat) (f : Ce → Ce) :
    (s.updCe e f).walks = s.walks := rfl
@[simp] theorem State.updCe_wings (s : State) (e : Nat) (f : Ce → Ce) :
    (s.updCe e f).wings = s.wings := rfl
@[simp] theorem State.updCe_modl (s : State) (e : Nat) (f : Ce → Ce) :
    (s.updCe e f).modl = s.modl := rfl
@[simp] theorem State.updCe_hostMem (s : State) (e : Nat) (f : Ce → Ce) :
    (s.updCe e f).hostMem = s.hostMem := rfl
@[simp] theorem State.updCe_hostRead (s : State) (e : Nat) (f : Ce → Ce) :
    (s.updCe e f).hostRead = s.hostRead := rfl
@[simp] theorem State.updCe_niOut (s : State) (e : Nat) (f : Ce → Ce) :
    (s.updCe e f).niOut = s.niOut := rfl
@[simp] theorem State.updCe_niFlight (s : State) (e : Nat) (f : Ce → Ce) :
    (s.updCe e f).niFlight = s.niFlight := rfl
@[simp] theorem State.updCe_niIn (s : State) (e : Nat) (f : Ce → Ce) :
    (s.updCe e f).niIn = s.niIn := rfl
@[simp] theorem State.updCe_niGot (s : State) (e : Nat) (f : Ce → Ce) :
    (s.updCe e f).niGot = s.niGot := rfl
@[simp] theorem State.updCe_skid (s : State) (e : Nat) (f : Ce → Ce) :
    (s.updCe e f).skid = s.skid := rfl
@[simp] theorem State.updCe_nextTask (s : State) (e : Nat) (f : Ce → Ce) :
    (s.updCe e f).nextTask = s.nextTask := rfl
@[simp] theorem State.updCe_nvmeWin (s : State) (e : Nat) (f : Ce → Ce) :
    (s.updCe e f).nvmeWin = s.nvmeWin := rfl
@[simp] theorem State.updCe_outside (s : State) (e : Nat) (f : Ce → Ce) :
    (s.updCe e f).outside = s.outside := rfl
@[simp] theorem State.updCe_agenda (s : State) (e : Nat) (f : Ce → Ce) :
    (s.updCe e f).agenda = s.agenda := rfl
@[simp] theorem State.updCe_clerk (s : State) (e : Nat) (f : Ce → Ce) :
    (s.updCe e f).core.clerk = s.core.clerk := rfl
@[simp] theorem State.updCe_fab (s : State) (e : Nat) (f : Ce → Ce) :
    (s.updCe e f).core.fab = s.core.fab := rfl
@[simp] theorem State.updCe_ports (s : State) (e : Nat) (f : Ce → Ce) :
    (s.updCe e f).core.ports = s.core.ports := rfl
@[simp] theorem State.updCe_mes (s : State) (e : Nat) (f : Ce → Ce) :
    (s.updCe e f).core.mes = s.core.mes := rfl
@[simp] theorem State.updCe_tmu (s : State) (e : Nat) (f : Ce → Ce) :
    (s.updCe e f).core.tmu = s.core.tmu := rfl
@[simp] theorem State.updCe_ces (s : State) (e : Nat) (f : Ce → Ce) :
    (s.updCe e f).core.ces = updAt s.core.ces e f := rfl
@[simp] theorem State.updCe_handles (s : State) (e : Nat) (f : Ce → Ce) :
    (s.updCe e f).core.handles = s.core.handles := rfl
@[simp] theorem State.updCe_watches (s : State) (e : Nat) (f : Ce → Ce) :
    (s.updCe e f).core.watches = s.core.watches := rfl
@[simp] theorem State.updCe_mto (s : State) (e : Nat) (f : Ce → Ce) :
    (s.updCe e f).core.mto = s.core.mto := rfl
@[simp] theorem State.updCe_wdg (s : State) (e : Nat) (f : Ce → Ce) :
    (s.updCe e f).core.wdg = s.core.wdg := rfl

/-! ### State.updWing -/

@[simp] theorem State.updWing_coreId (s : State) (w : Nat) (f : Wing → Wing) :
    (s.updWing w f).coreId = s.coreId := rfl
@[simp] theorem State.updWing_gridmap (s : State) (w : Nat) (f : Wing → Wing) :
    (s.updWing w f).gridmap = s.gridmap := rfl
@[simp] theorem State.updWing_cycle (s : State) (w : Nat) (f : Wing → Wing) :
    (s.updWing w f).cycle = s.cycle := rfl
@[simp] theorem State.updWing_timer (s : State) (w : Nat) (f : Wing → Wing) :
    (s.updWing w f).timer = s.timer := rfl
@[simp] theorem State.updWing_stepNo (s : State) (w : Nat) (f : Wing → Wing) :
    (s.updWing w f).stepNo = s.stepNo := rfl
@[simp] theorem State.updWing_mem (s : State) (w : Nat) (f : Wing → Wing) :
    (s.updWing w f).mem = s.mem := rfl
@[simp] theorem State.updWing_poison (s : State) (w : Nat) (f : Wing → Wing) :
    (s.updWing w f).poison = s.poison := rfl
@[simp] theorem State.updWing_core (s : State) (w : Nat) (f : Wing → Wing) :
    (s.updWing w f).core = s.core := rfl
@[simp] theorem State.updWing_task (s : State) (w : Nat) (f : Wing → Wing) :
    (s.updWing w f).task = s.task := rfl
@[simp] theorem State.updWing_shadow (s : State) (w : Nat) (f : Wing → Wing) :
    (s.updWing w f).shadow = s.shadow := rfl
@[simp] theorem State.updWing_recs (s : State) (w : Nat) (f : Wing → Wing) :
    (s.updWing w f).recs = s.recs := rfl
@[simp] theorem State.updWing_cohorts (s : State) (w : Nat) (f : Wing → Wing) :
    (s.updWing w f).cohorts = s.cohorts := rfl
@[simp] theorem State.updWing_objs (s : State) (w : Nat) (f : Wing → Wing) :
    (s.updWing w f).objs = s.objs := rfl
@[simp] theorem State.updWing_binds (s : State) (w : Nat) (f : Wing → Wing) :
    (s.updWing w f).binds = s.binds := rfl
@[simp] theorem State.updWing_dir (s : State) (w : Nat) (f : Wing → Wing) :
    (s.updWing w f).dir = s.dir := rfl
@[simp] theorem State.updWing_occ (s : State) (w : Nat) (f : Wing → Wing) :
    (s.updWing w f).occ = s.occ := rfl
@[simp] theorem State.updWing_recent (s : State) (w : Nat) (f : Wing → Wing) :
    (s.updWing w f).recent = s.recent := rfl
@[simp] theorem State.updWing_preempting (s : State) (w : Nat) (f : Wing → Wing) :
    (s.updWing w f).preempting = s.preempting := rfl
@[simp] theorem State.updWing_recalling (s : State) (w : Nat) (f : Wing → Wing) :
    (s.updWing w f).recalling = s.recalling := rfl
@[simp] theorem State.updWing_tagcfg (s : State) (w : Nat) (f : Wing → Wing) :
    (s.updWing w f).tagcfg = s.tagcfg := rfl
@[simp] theorem State.updWing_tagVictim (s : State) (w : Nat) (f : Wing → Wing) :
    (s.updWing w f).tagVictim = s.tagVictim := rfl
@[simp] theorem State.updWing_tags (s : State) (w : Nat) (f : Wing → Wing) :
    (s.updWing w f).tags = s.tags := rfl
@[simp] theorem State.updWing_pages (s : State) (w : Nat) (f : Wing → Wing) :
    (s.updWing w f).pages = s.pages := rfl
@[simp] theorem State.updWing_farPages (s : State) (w : Nat) (f : Wing → Wing) :
    (s.updWing w f).farPages = s.farPages := rfl
@[simp] theorem State.updWing_farCores (s : State) (w : Nat) (f : Wing → Wing) :
    (s.updWing w f).farCores = s.farCores := rfl
@[simp] theorem State.updWing_farSaved (s : State) (w : Nat) (f : Wing → Wing) :
    (s.updWing w f).farSaved = s.farSaved := rfl
@[simp] theorem State.updWing_icache (s : State) (w : Nat) (f : Wing → Wing) :
    (s.updWing w f).icache = s.icache := rfl
@[simp] theorem State.updWing_tlb (s : State) (w : Nat) (f : Wing → Wing) :
    (s.updWing w f).tlb = s.tlb := rfl
@[simp] theorem State.updWing_l2tlb (s : State) (w : Nat) (f : Wing → Wing) :
    (s.updWing w f).l2tlb = s.l2tlb := rfl
@[simp] theorem State.updWing_walks (s : State) (w : Nat) (f : Wing → Wing) :
    (s.updWing w f).walks = s.walks := rfl
@[simp] theorem State.updWing_modl (s : State) (w : Nat) (f : Wing → Wing) :
    (s.updWing w f).modl = s.modl := rfl
@[simp] theorem State.updWing_hostMem (s : State) (w : Nat) (f : Wing → Wing) :
    (s.updWing w f).hostMem = s.hostMem := rfl
@[simp] theorem State.updWing_hostRead (s : State) (w : Nat) (f : Wing → Wing) :
    (s.updWing w f).hostRead = s.hostRead := rfl
@[simp] theorem State.updWing_niOut (s : State) (w : Nat) (f : Wing → Wing) :
    (s.updWing w f).niOut = s.niOut := rfl
@[simp] theorem State.updWing_niFlight (s : State) (w : Nat) (f : Wing → Wing) :
    (s.updWing w f).niFlight = s.niFlight := rfl
@[simp] theorem State.updWing_niIn (s : State) (w : Nat) (f : Wing → Wing) :
    (s.updWing w f).niIn = s.niIn := rfl
@[simp] theorem State.updWing_niGot (s : State) (w : Nat) (f : Wing → Wing) :
    (s.updWing w f).niGot = s.niGot := rfl
@[simp] theorem State.updWing_skid (s : State) (w : Nat) (f : Wing → Wing) :
    (s.updWing w f).skid = s.skid := rfl
@[simp] theorem State.updWing_nextTask (s : State) (w : Nat) (f : Wing → Wing) :
    (s.updWing w f).nextTask = s.nextTask := rfl
@[simp] theorem State.updWing_nvmeWin (s : State) (w : Nat) (f : Wing → Wing) :
    (s.updWing w f).nvmeWin = s.nvmeWin := rfl
@[simp] theorem State.updWing_outside (s : State) (w : Nat) (f : Wing → Wing) :
    (s.updWing w f).outside = s.outside := rfl
@[simp] theorem State.updWing_agenda (s : State) (w : Nat) (f : Wing → Wing) :
    (s.updWing w f).agenda = s.agenda := rfl
@[simp] theorem State.updWing_wings (s : State) (w : Nat) (f : Wing → Wing) :
    (s.updWing w f).wings = updAt s.wings w f := rfl

/-! ### State.updMod -/

@[simp] theorem State.updMod_coreId (s : State) (f : Module → Module) :
    (s.updMod f).coreId = s.coreId := rfl
@[simp] theorem State.updMod_gridmap (s : State) (f : Module → Module) :
    (s.updMod f).gridmap = s.gridmap := rfl
@[simp] theorem State.updMod_cycle (s : State) (f : Module → Module) :
    (s.updMod f).cycle = s.cycle := rfl
@[simp] theorem State.updMod_timer (s : State) (f : Module → Module) :
    (s.updMod f).timer = s.timer := rfl
@[simp] theorem State.updMod_stepNo (s : State) (f : Module → Module) :
    (s.updMod f).stepNo = s.stepNo := rfl
@[simp] theorem State.updMod_mem (s : State) (f : Module → Module) :
    (s.updMod f).mem = s.mem := rfl
@[simp] theorem State.updMod_poison (s : State) (f : Module → Module) :
    (s.updMod f).poison = s.poison := rfl
@[simp] theorem State.updMod_core (s : State) (f : Module → Module) :
    (s.updMod f).core = s.core := rfl
@[simp] theorem State.updMod_task (s : State) (f : Module → Module) :
    (s.updMod f).task = s.task := rfl
@[simp] theorem State.updMod_shadow (s : State) (f : Module → Module) :
    (s.updMod f).shadow = s.shadow := rfl
@[simp] theorem State.updMod_recs (s : State) (f : Module → Module) :
    (s.updMod f).recs = s.recs := rfl
@[simp] theorem State.updMod_cohorts (s : State) (f : Module → Module) :
    (s.updMod f).cohorts = s.cohorts := rfl
@[simp] theorem State.updMod_objs (s : State) (f : Module → Module) :
    (s.updMod f).objs = s.objs := rfl
@[simp] theorem State.updMod_binds (s : State) (f : Module → Module) :
    (s.updMod f).binds = s.binds := rfl
@[simp] theorem State.updMod_dir (s : State) (f : Module → Module) :
    (s.updMod f).dir = s.dir := rfl
@[simp] theorem State.updMod_occ (s : State) (f : Module → Module) :
    (s.updMod f).occ = s.occ := rfl
@[simp] theorem State.updMod_recent (s : State) (f : Module → Module) :
    (s.updMod f).recent = s.recent := rfl
@[simp] theorem State.updMod_preempting (s : State) (f : Module → Module) :
    (s.updMod f).preempting = s.preempting := rfl
@[simp] theorem State.updMod_recalling (s : State) (f : Module → Module) :
    (s.updMod f).recalling = s.recalling := rfl
@[simp] theorem State.updMod_tagcfg (s : State) (f : Module → Module) :
    (s.updMod f).tagcfg = s.tagcfg := rfl
@[simp] theorem State.updMod_tagVictim (s : State) (f : Module → Module) :
    (s.updMod f).tagVictim = s.tagVictim := rfl
@[simp] theorem State.updMod_tags (s : State) (f : Module → Module) :
    (s.updMod f).tags = s.tags := rfl
@[simp] theorem State.updMod_pages (s : State) (f : Module → Module) :
    (s.updMod f).pages = s.pages := rfl
@[simp] theorem State.updMod_farPages (s : State) (f : Module → Module) :
    (s.updMod f).farPages = s.farPages := rfl
@[simp] theorem State.updMod_farCores (s : State) (f : Module → Module) :
    (s.updMod f).farCores = s.farCores := rfl
@[simp] theorem State.updMod_farSaved (s : State) (f : Module → Module) :
    (s.updMod f).farSaved = s.farSaved := rfl
@[simp] theorem State.updMod_icache (s : State) (f : Module → Module) :
    (s.updMod f).icache = s.icache := rfl
@[simp] theorem State.updMod_tlb (s : State) (f : Module → Module) :
    (s.updMod f).tlb = s.tlb := rfl
@[simp] theorem State.updMod_l2tlb (s : State) (f : Module → Module) :
    (s.updMod f).l2tlb = s.l2tlb := rfl
@[simp] theorem State.updMod_walks (s : State) (f : Module → Module) :
    (s.updMod f).walks = s.walks := rfl
@[simp] theorem State.updMod_wings (s : State) (f : Module → Module) :
    (s.updMod f).wings = s.wings := rfl
@[simp] theorem State.updMod_hostMem (s : State) (f : Module → Module) :
    (s.updMod f).hostMem = s.hostMem := rfl
@[simp] theorem State.updMod_hostRead (s : State) (f : Module → Module) :
    (s.updMod f).hostRead = s.hostRead := rfl
@[simp] theorem State.updMod_niOut (s : State) (f : Module → Module) :
    (s.updMod f).niOut = s.niOut := rfl
@[simp] theorem State.updMod_niFlight (s : State) (f : Module → Module) :
    (s.updMod f).niFlight = s.niFlight := rfl
@[simp] theorem State.updMod_niIn (s : State) (f : Module → Module) :
    (s.updMod f).niIn = s.niIn := rfl
@[simp] theorem State.updMod_niGot (s : State) (f : Module → Module) :
    (s.updMod f).niGot = s.niGot := rfl
@[simp] theorem State.updMod_skid (s : State) (f : Module → Module) :
    (s.updMod f).skid = s.skid := rfl
@[simp] theorem State.updMod_nextTask (s : State) (f : Module → Module) :
    (s.updMod f).nextTask = s.nextTask := rfl
@[simp] theorem State.updMod_nvmeWin (s : State) (f : Module → Module) :
    (s.updMod f).nvmeWin = s.nvmeWin := rfl
@[simp] theorem State.updMod_outside (s : State) (f : Module → Module) :
    (s.updMod f).outside = s.outside := rfl
@[simp] theorem State.updMod_agenda (s : State) (f : Module → Module) :
    (s.updMod f).agenda = s.agenda := rfl
@[simp] theorem State.updMod_modl (s : State) (f : Module → Module) :
    (s.updMod f).modl = f s.modl := rfl

/-! ### State.updPage -/

@[simp] theorem State.updPage_coreId (s : State) (c t : Nat) (f : CPage → CPage) :
    (s.updPage c t f).coreId = s.coreId := by unfold State.updPage; split <;> rfl
@[simp] theorem State.updPage_gridmap (s : State) (c t : Nat) (f : CPage → CPage) :
    (s.updPage c t f).gridmap = s.gridmap := by unfold State.updPage; split <;> rfl
@[simp] theorem State.updPage_cycle (s : State) (c t : Nat) (f : CPage → CPage) :
    (s.updPage c t f).cycle = s.cycle := by unfold State.updPage; split <;> rfl
@[simp] theorem State.updPage_timer (s : State) (c t : Nat) (f : CPage → CPage) :
    (s.updPage c t f).timer = s.timer := by unfold State.updPage; split <;> rfl
@[simp] theorem State.updPage_stepNo (s : State) (c t : Nat) (f : CPage → CPage) :
    (s.updPage c t f).stepNo = s.stepNo := by unfold State.updPage; split <;> rfl
@[simp] theorem State.updPage_mem (s : State) (c t : Nat) (f : CPage → CPage) :
    (s.updPage c t f).mem = s.mem := by unfold State.updPage; split <;> rfl
@[simp] theorem State.updPage_poison (s : State) (c t : Nat) (f : CPage → CPage) :
    (s.updPage c t f).poison = s.poison := by unfold State.updPage; split <;> rfl
@[simp] theorem State.updPage_core (s : State) (c t : Nat) (f : CPage → CPage) :
    (s.updPage c t f).core = s.core := by unfold State.updPage; split <;> rfl
@[simp] theorem State.updPage_task (s : State) (c t : Nat) (f : CPage → CPage) :
    (s.updPage c t f).task = s.task := by unfold State.updPage; split <;> rfl
@[simp] theorem State.updPage_shadow (s : State) (c t : Nat) (f : CPage → CPage) :
    (s.updPage c t f).shadow = s.shadow := by unfold State.updPage; split <;> rfl
@[simp] theorem State.updPage_recs (s : State) (c t : Nat) (f : CPage → CPage) :
    (s.updPage c t f).recs = s.recs := by unfold State.updPage; split <;> rfl
@[simp] theorem State.updPage_cohorts (s : State) (c t : Nat) (f : CPage → CPage) :
    (s.updPage c t f).cohorts = s.cohorts := by unfold State.updPage; split <;> rfl
@[simp] theorem State.updPage_objs (s : State) (c t : Nat) (f : CPage → CPage) :
    (s.updPage c t f).objs = s.objs := by unfold State.updPage; split <;> rfl
@[simp] theorem State.updPage_binds (s : State) (c t : Nat) (f : CPage → CPage) :
    (s.updPage c t f).binds = s.binds := by unfold State.updPage; split <;> rfl
@[simp] theorem State.updPage_dir (s : State) (c t : Nat) (f : CPage → CPage) :
    (s.updPage c t f).dir = s.dir := by unfold State.updPage; split <;> rfl
@[simp] theorem State.updPage_occ (s : State) (c t : Nat) (f : CPage → CPage) :
    (s.updPage c t f).occ = s.occ := by unfold State.updPage; split <;> rfl
@[simp] theorem State.updPage_recent (s : State) (c t : Nat) (f : CPage → CPage) :
    (s.updPage c t f).recent = s.recent := by unfold State.updPage; split <;> rfl
@[simp] theorem State.updPage_preempting (s : State) (c t : Nat) (f : CPage → CPage) :
    (s.updPage c t f).preempting = s.preempting := by unfold State.updPage; split <;> rfl
@[simp] theorem State.updPage_recalling (s : State) (c t : Nat) (f : CPage → CPage) :
    (s.updPage c t f).recalling = s.recalling := by unfold State.updPage; split <;> rfl
@[simp] theorem State.updPage_tagcfg (s : State) (c t : Nat) (f : CPage → CPage) :
    (s.updPage c t f).tagcfg = s.tagcfg := by unfold State.updPage; split <;> rfl
@[simp] theorem State.updPage_tagVictim (s : State) (c t : Nat) (f : CPage → CPage) :
    (s.updPage c t f).tagVictim = s.tagVictim := by unfold State.updPage; split <;> rfl
@[simp] theorem State.updPage_tags (s : State) (c t : Nat) (f : CPage → CPage) :
    (s.updPage c t f).tags = s.tags := by unfold State.updPage; split <;> rfl
@[simp] theorem State.updPage_farCores (s : State) (c t : Nat) (f : CPage → CPage) :
    (s.updPage c t f).farCores = s.farCores := by unfold State.updPage; split <;> rfl
@[simp] theorem State.updPage_farSaved (s : State) (c t : Nat) (f : CPage → CPage) :
    (s.updPage c t f).farSaved = s.farSaved := by unfold State.updPage; split <;> rfl
@[simp] theorem State.updPage_icache (s : State) (c t : Nat) (f : CPage → CPage) :
    (s.updPage c t f).icache = s.icache := by unfold State.updPage; split <;> rfl
@[simp] theorem State.updPage_tlb (s : State) (c t : Nat) (f : CPage → CPage) :
    (s.updPage c t f).tlb = s.tlb := by unfold State.updPage; split <;> rfl
@[simp] theorem State.updPage_l2tlb (s : State) (c t : Nat) (f : CPage → CPage) :
    (s.updPage c t f).l2tlb = s.l2tlb := by unfold State.updPage; split <;> rfl
@[simp] theorem State.updPage_walks (s : State) (c t : Nat) (f : CPage → CPage) :
    (s.updPage c t f).walks = s.walks := by unfold State.updPage; split <;> rfl
@[simp] theorem State.updPage_wings (s : State) (c t : Nat) (f : CPage → CPage) :
    (s.updPage c t f).wings = s.wings := by unfold State.updPage; split <;> rfl
@[simp] theorem State.updPage_modl (s : State) (c t : Nat) (f : CPage → CPage) :
    (s.updPage c t f).modl = s.modl := by unfold State.updPage; split <;> rfl
@[simp] theorem State.updPage_hostMem (s : State) (c t : Nat) (f : CPage → CPage) :
    (s.updPage c t f).hostMem = s.hostMem := by unfold State.updPage; split <;> rfl
@[simp] theorem State.updPage_hostRead (s : State) (c t : Nat) (f : CPage → CPage) :
    (s.updPage c t f).hostRead = s.hostRead := by unfold State.updPage; split <;> rfl
@[simp] theorem State.updPage_niOut (s : State) (c t : Nat) (f : CPage → CPage) :
    (s.updPage c t f).niOut = s.niOut := by unfold State.updPage; split <;> rfl
@[simp] theorem State.updPage_niFlight (s : State) (c t : Nat) (f : CPage → CPage) :
    (s.updPage c t f).niFlight = s.niFlight := by unfold State.updPage; split <;> rfl
@[simp] theorem State.updPage_niIn (s : State) (c t : Nat) (f : CPage → CPage) :
    (s.updPage c t f).niIn = s.niIn := by unfold State.updPage; split <;> rfl
@[simp] theorem State.updPage_niGot (s : State) (c t : Nat) (f : CPage → CPage) :
    (s.updPage c t f).niGot = s.niGot := by unfold State.updPage; split <;> rfl
@[simp] theorem State.updPage_skid (s : State) (c t : Nat) (f : CPage → CPage) :
    (s.updPage c t f).skid = s.skid := by unfold State.updPage; split <;> rfl
@[simp] theorem State.updPage_nextTask (s : State) (c t : Nat) (f : CPage → CPage) :
    (s.updPage c t f).nextTask = s.nextTask := by unfold State.updPage; split <;> rfl
@[simp] theorem State.updPage_nvmeWin (s : State) (c t : Nat) (f : CPage → CPage) :
    (s.updPage c t f).nvmeWin = s.nvmeWin := by unfold State.updPage; split <;> rfl
@[simp] theorem State.updPage_outside (s : State) (c t : Nat) (f : CPage → CPage) :
    (s.updPage c t f).outside = s.outside := by unfold State.updPage; split <;> rfl
@[simp] theorem State.updPage_agenda (s : State) (c t : Nat) (f : CPage → CPage) :
    (s.updPage c t f).agenda = s.agenda := by unfold State.updPage; split <;> rfl
@[simp] theorem State.updPage_pages (s : State) (t : Nat) (f : CPage → CPage) :
    (s.updPage s.coreId t f).pages = updAt s.pages t f := by simp [State.updPage]

/-! ### State.setReg -/

@[simp] theorem State.setReg_coreId (s : State) (r : Reg) (v : Dword) :
    (s.setReg r v).coreId = s.coreId := rfl
@[simp] theorem State.setReg_gridmap (s : State) (r : Reg) (v : Dword) :
    (s.setReg r v).gridmap = s.gridmap := rfl
@[simp] theorem State.setReg_cycle (s : State) (r : Reg) (v : Dword) :
    (s.setReg r v).cycle = s.cycle := rfl
@[simp] theorem State.setReg_timer (s : State) (r : Reg) (v : Dword) :
    (s.setReg r v).timer = s.timer := rfl
@[simp] theorem State.setReg_stepNo (s : State) (r : Reg) (v : Dword) :
    (s.setReg r v).stepNo = s.stepNo := rfl
@[simp] theorem State.setReg_mem (s : State) (r : Reg) (v : Dword) :
    (s.setReg r v).mem = s.mem := rfl
@[simp] theorem State.setReg_poison (s : State) (r : Reg) (v : Dword) :
    (s.setReg r v).poison = s.poison := rfl
@[simp] theorem State.setReg_task (s : State) (r : Reg) (v : Dword) :
    (s.setReg r v).task = s.task := rfl
@[simp] theorem State.setReg_shadow (s : State) (r : Reg) (v : Dword) :
    (s.setReg r v).shadow = s.shadow := rfl
@[simp] theorem State.setReg_recs (s : State) (r : Reg) (v : Dword) :
    (s.setReg r v).recs = s.recs := rfl
@[simp] theorem State.setReg_cohorts (s : State) (r : Reg) (v : Dword) :
    (s.setReg r v).cohorts = s.cohorts := rfl
@[simp] theorem State.setReg_objs (s : State) (r : Reg) (v : Dword) :
    (s.setReg r v).objs = s.objs := rfl
@[simp] theorem State.setReg_binds (s : State) (r : Reg) (v : Dword) :
    (s.setReg r v).binds = s.binds := rfl
@[simp] theorem State.setReg_dir (s : State) (r : Reg) (v : Dword) :
    (s.setReg r v).dir = s.dir := rfl
@[simp] theorem State.setReg_occ (s : State) (r : Reg) (v : Dword) :
    (s.setReg r v).occ = s.occ := rfl
@[simp] theorem State.setReg_recent (s : State) (r : Reg) (v : Dword) :
    (s.setReg r v).recent = s.recent := rfl
@[simp] theorem State.setReg_preempting (s : State) (r : Reg) (v : Dword) :
    (s.setReg r v).preempting = s.preempting := rfl
@[simp] theorem State.setReg_recalling (s : State) (r : Reg) (v : Dword) :
    (s.setReg r v).recalling = s.recalling := rfl
@[simp] theorem State.setReg_tagcfg (s : State) (r : Reg) (v : Dword) :
    (s.setReg r v).tagcfg = s.tagcfg := rfl
@[simp] theorem State.setReg_tagVictim (s : State) (r : Reg) (v : Dword) :
    (s.setReg r v).tagVictim = s.tagVictim := rfl
@[simp] theorem State.setReg_tags (s : State) (r : Reg) (v : Dword) :
    (s.setReg r v).tags = s.tags := rfl
@[simp] theorem State.setReg_pages (s : State) (r : Reg) (v : Dword) :
    (s.setReg r v).pages = s.pages := rfl
@[simp] theorem State.setReg_farPages (s : State) (r : Reg) (v : Dword) :
    (s.setReg r v).farPages = s.farPages := rfl
@[simp] theorem State.setReg_farCores (s : State) (r : Reg) (v : Dword) :
    (s.setReg r v).farCores = s.farCores := rfl
@[simp] theorem State.setReg_farSaved (s : State) (r : Reg) (v : Dword) :
    (s.setReg r v).farSaved = s.farSaved := rfl
@[simp] theorem State.setReg_icache (s : State) (r : Reg) (v : Dword) :
    (s.setReg r v).icache = s.icache := rfl
@[simp] theorem State.setReg_tlb (s : State) (r : Reg) (v : Dword) :
    (s.setReg r v).tlb = s.tlb := rfl
@[simp] theorem State.setReg_l2tlb (s : State) (r : Reg) (v : Dword) :
    (s.setReg r v).l2tlb = s.l2tlb := rfl
@[simp] theorem State.setReg_walks (s : State) (r : Reg) (v : Dword) :
    (s.setReg r v).walks = s.walks := rfl
@[simp] theorem State.setReg_wings (s : State) (r : Reg) (v : Dword) :
    (s.setReg r v).wings = s.wings := rfl
@[simp] theorem State.setReg_modl (s : State) (r : Reg) (v : Dword) :
    (s.setReg r v).modl = s.modl := rfl
@[simp] theorem State.setReg_hostMem (s : State) (r : Reg) (v : Dword) :
    (s.setReg r v).hostMem = s.hostMem := rfl
@[simp] theorem State.setReg_hostRead (s : State) (r : Reg) (v : Dword) :
    (s.setReg r v).hostRead = s.hostRead := rfl
@[simp] theorem State.setReg_niOut (s : State) (r : Reg) (v : Dword) :
    (s.setReg r v).niOut = s.niOut := rfl
@[simp] theorem State.setReg_niFlight (s : State) (r : Reg) (v : Dword) :
    (s.setReg r v).niFlight = s.niFlight := rfl
@[simp] theorem State.setReg_niIn (s : State) (r : Reg) (v : Dword) :
    (s.setReg r v).niIn = s.niIn := rfl
@[simp] theorem State.setReg_niGot (s : State) (r : Reg) (v : Dword) :
    (s.setReg r v).niGot = s.niGot := rfl
@[simp] theorem State.setReg_skid (s : State) (r : Reg) (v : Dword) :
    (s.setReg r v).skid = s.skid := rfl
@[simp] theorem State.setReg_nextTask (s : State) (r : Reg) (v : Dword) :
    (s.setReg r v).nextTask = s.nextTask := rfl
@[simp] theorem State.setReg_nvmeWin (s : State) (r : Reg) (v : Dword) :
    (s.setReg r v).nvmeWin = s.nvmeWin := rfl
@[simp] theorem State.setReg_outside (s : State) (r : Reg) (v : Dword) :
    (s.setReg r v).outside = s.outside := rfl
@[simp] theorem State.setReg_agenda (s : State) (r : Reg) (v : Dword) :
    (s.setReg r v).agenda = s.agenda := rfl
@[simp] theorem State.setReg_clerk (s : State) (r : Reg) (v : Dword) :
    (s.setReg r v).core.clerk = s.core.clerk.setReg r v := rfl
@[simp] theorem State.setReg_fab (s : State) (r : Reg) (v : Dword) :
    (s.setReg r v).core.fab = s.core.fab := rfl
@[simp] theorem State.setReg_ports (s : State) (r : Reg) (v : Dword) :
    (s.setReg r v).core.ports = s.core.ports := rfl
@[simp] theorem State.setReg_mes (s : State) (r : Reg) (v : Dword) :
    (s.setReg r v).core.mes = s.core.mes := rfl
@[simp] theorem State.setReg_tmu (s : State) (r : Reg) (v : Dword) :
    (s.setReg r v).core.tmu = s.core.tmu := rfl
@[simp] theorem State.setReg_ces (s : State) (r : Reg) (v : Dword) :
    (s.setReg r v).core.ces = s.core.ces := rfl
@[simp] theorem State.setReg_handles (s : State) (r : Reg) (v : Dword) :
    (s.setReg r v).core.handles = s.core.handles := rfl
@[simp] theorem State.setReg_watches (s : State) (r : Reg) (v : Dword) :
    (s.setReg r v).core.watches = s.core.watches := rfl
@[simp] theorem State.setReg_mto (s : State) (r : Reg) (v : Dword) :
    (s.setReg r v).core.mto = s.core.mto := rfl
@[simp] theorem State.setReg_wdg (s : State) (r : Reg) (v : Dword) :
    (s.setReg r v).core.wdg = s.core.wdg := rfl

/-! ### State.setKreg -/

@[simp] theorem State.setKreg_coreId (s : State) (k : KReg) (v : Qword) :
    (s.setKreg k v).coreId = s.coreId := rfl
@[simp] theorem State.setKreg_gridmap (s : State) (k : KReg) (v : Qword) :
    (s.setKreg k v).gridmap = s.gridmap := rfl
@[simp] theorem State.setKreg_cycle (s : State) (k : KReg) (v : Qword) :
    (s.setKreg k v).cycle = s.cycle := rfl
@[simp] theorem State.setKreg_timer (s : State) (k : KReg) (v : Qword) :
    (s.setKreg k v).timer = s.timer := rfl
@[simp] theorem State.setKreg_stepNo (s : State) (k : KReg) (v : Qword) :
    (s.setKreg k v).stepNo = s.stepNo := rfl
@[simp] theorem State.setKreg_mem (s : State) (k : KReg) (v : Qword) :
    (s.setKreg k v).mem = s.mem := rfl
@[simp] theorem State.setKreg_poison (s : State) (k : KReg) (v : Qword) :
    (s.setKreg k v).poison = s.poison := rfl
@[simp] theorem State.setKreg_task (s : State) (k : KReg) (v : Qword) :
    (s.setKreg k v).task = s.task := rfl
@[simp] theorem State.setKreg_shadow (s : State) (k : KReg) (v : Qword) :
    (s.setKreg k v).shadow = s.shadow := rfl
@[simp] theorem State.setKreg_recs (s : State) (k : KReg) (v : Qword) :
    (s.setKreg k v).recs = s.recs := rfl
@[simp] theorem State.setKreg_cohorts (s : State) (k : KReg) (v : Qword) :
    (s.setKreg k v).cohorts = s.cohorts := rfl
@[simp] theorem State.setKreg_objs (s : State) (k : KReg) (v : Qword) :
    (s.setKreg k v).objs = s.objs := rfl
@[simp] theorem State.setKreg_binds (s : State) (k : KReg) (v : Qword) :
    (s.setKreg k v).binds = s.binds := rfl
@[simp] theorem State.setKreg_dir (s : State) (k : KReg) (v : Qword) :
    (s.setKreg k v).dir = s.dir := rfl
@[simp] theorem State.setKreg_occ (s : State) (k : KReg) (v : Qword) :
    (s.setKreg k v).occ = s.occ := rfl
@[simp] theorem State.setKreg_recent (s : State) (k : KReg) (v : Qword) :
    (s.setKreg k v).recent = s.recent := rfl
@[simp] theorem State.setKreg_preempting (s : State) (k : KReg) (v : Qword) :
    (s.setKreg k v).preempting = s.preempting := rfl
@[simp] theorem State.setKreg_recalling (s : State) (k : KReg) (v : Qword) :
    (s.setKreg k v).recalling = s.recalling := rfl
@[simp] theorem State.setKreg_tagcfg (s : State) (k : KReg) (v : Qword) :
    (s.setKreg k v).tagcfg = s.tagcfg := rfl
@[simp] theorem State.setKreg_tagVictim (s : State) (k : KReg) (v : Qword) :
    (s.setKreg k v).tagVictim = s.tagVictim := rfl
@[simp] theorem State.setKreg_tags (s : State) (k : KReg) (v : Qword) :
    (s.setKreg k v).tags = s.tags := rfl
@[simp] theorem State.setKreg_pages (s : State) (k : KReg) (v : Qword) :
    (s.setKreg k v).pages = s.pages := rfl
@[simp] theorem State.setKreg_farPages (s : State) (k : KReg) (v : Qword) :
    (s.setKreg k v).farPages = s.farPages := rfl
@[simp] theorem State.setKreg_farCores (s : State) (k : KReg) (v : Qword) :
    (s.setKreg k v).farCores = s.farCores := rfl
@[simp] theorem State.setKreg_farSaved (s : State) (k : KReg) (v : Qword) :
    (s.setKreg k v).farSaved = s.farSaved := rfl
@[simp] theorem State.setKreg_icache (s : State) (k : KReg) (v : Qword) :
    (s.setKreg k v).icache = s.icache := rfl
@[simp] theorem State.setKreg_tlb (s : State) (k : KReg) (v : Qword) :
    (s.setKreg k v).tlb = s.tlb := rfl
@[simp] theorem State.setKreg_l2tlb (s : State) (k : KReg) (v : Qword) :
    (s.setKreg k v).l2tlb = s.l2tlb := rfl
@[simp] theorem State.setKreg_walks (s : State) (k : KReg) (v : Qword) :
    (s.setKreg k v).walks = s.walks := rfl
@[simp] theorem State.setKreg_wings (s : State) (k : KReg) (v : Qword) :
    (s.setKreg k v).wings = s.wings := rfl
@[simp] theorem State.setKreg_modl (s : State) (k : KReg) (v : Qword) :
    (s.setKreg k v).modl = s.modl := rfl
@[simp] theorem State.setKreg_hostMem (s : State) (k : KReg) (v : Qword) :
    (s.setKreg k v).hostMem = s.hostMem := rfl
@[simp] theorem State.setKreg_hostRead (s : State) (k : KReg) (v : Qword) :
    (s.setKreg k v).hostRead = s.hostRead := rfl
@[simp] theorem State.setKreg_niOut (s : State) (k : KReg) (v : Qword) :
    (s.setKreg k v).niOut = s.niOut := rfl
@[simp] theorem State.setKreg_niFlight (s : State) (k : KReg) (v : Qword) :
    (s.setKreg k v).niFlight = s.niFlight := rfl
@[simp] theorem State.setKreg_niIn (s : State) (k : KReg) (v : Qword) :
    (s.setKreg k v).niIn = s.niIn := rfl
@[simp] theorem State.setKreg_niGot (s : State) (k : KReg) (v : Qword) :
    (s.setKreg k v).niGot = s.niGot := rfl
@[simp] theorem State.setKreg_skid (s : State) (k : KReg) (v : Qword) :
    (s.setKreg k v).skid = s.skid := rfl
@[simp] theorem State.setKreg_nextTask (s : State) (k : KReg) (v : Qword) :
    (s.setKreg k v).nextTask = s.nextTask := rfl
@[simp] theorem State.setKreg_nvmeWin (s : State) (k : KReg) (v : Qword) :
    (s.setKreg k v).nvmeWin = s.nvmeWin := rfl
@[simp] theorem State.setKreg_outside (s : State) (k : KReg) (v : Qword) :
    (s.setKreg k v).outside = s.outside := rfl
@[simp] theorem State.setKreg_agenda (s : State) (k : KReg) (v : Qword) :
    (s.setKreg k v).agenda = s.agenda := rfl
@[simp] theorem State.setKreg_clerk (s : State) (k : KReg) (v : Qword) :
    (s.setKreg k v).core.clerk = s.core.clerk.setKreg k v := rfl
@[simp] theorem State.setKreg_fab (s : State) (k : KReg) (v : Qword) :
    (s.setKreg k v).core.fab = s.core.fab := rfl
@[simp] theorem State.setKreg_ports (s : State) (k : KReg) (v : Qword) :
    (s.setKreg k v).core.ports = s.core.ports := rfl
@[simp] theorem State.setKreg_mes (s : State) (k : KReg) (v : Qword) :
    (s.setKreg k v).core.mes = s.core.mes := rfl
@[simp] theorem State.setKreg_tmu (s : State) (k : KReg) (v : Qword) :
    (s.setKreg k v).core.tmu = s.core.tmu := rfl
@[simp] theorem State.setKreg_ces (s : State) (k : KReg) (v : Qword) :
    (s.setKreg k v).core.ces = s.core.ces := rfl
@[simp] theorem State.setKreg_handles (s : State) (k : KReg) (v : Qword) :
    (s.setKreg k v).core.handles = s.core.handles := rfl
@[simp] theorem State.setKreg_watches (s : State) (k : KReg) (v : Qword) :
    (s.setKreg k v).core.watches = s.core.watches := rfl
@[simp] theorem State.setKreg_mto (s : State) (k : KReg) (v : Qword) :
    (s.setKreg k v).core.mto = s.core.mto := rfl
@[simp] theorem State.setKreg_wdg (s : State) (k : KReg) (v : Qword) :
    (s.setKreg k v).core.wdg = s.core.wdg := rfl

/-! ### State.setPc -/

@[simp] theorem State.setPc_coreId (s : State) (v : BitVec 48) :
    (s.setPc v).coreId = s.coreId := rfl
@[simp] theorem State.setPc_gridmap (s : State) (v : BitVec 48) :
    (s.setPc v).gridmap = s.gridmap := rfl
@[simp] theorem State.setPc_cycle (s : State) (v : BitVec 48) :
    (s.setPc v).cycle = s.cycle := rfl
@[simp] theorem State.setPc_timer (s : State) (v : BitVec 48) :
    (s.setPc v).timer = s.timer := rfl
@[simp] theorem State.setPc_stepNo (s : State) (v : BitVec 48) :
    (s.setPc v).stepNo = s.stepNo := rfl
@[simp] theorem State.setPc_mem (s : State) (v : BitVec 48) :
    (s.setPc v).mem = s.mem := rfl
@[simp] theorem State.setPc_poison (s : State) (v : BitVec 48) :
    (s.setPc v).poison = s.poison := rfl
@[simp] theorem State.setPc_task (s : State) (v : BitVec 48) :
    (s.setPc v).task = s.task := rfl
@[simp] theorem State.setPc_shadow (s : State) (v : BitVec 48) :
    (s.setPc v).shadow = s.shadow := rfl
@[simp] theorem State.setPc_recs (s : State) (v : BitVec 48) :
    (s.setPc v).recs = s.recs := rfl
@[simp] theorem State.setPc_cohorts (s : State) (v : BitVec 48) :
    (s.setPc v).cohorts = s.cohorts := rfl
@[simp] theorem State.setPc_objs (s : State) (v : BitVec 48) :
    (s.setPc v).objs = s.objs := rfl
@[simp] theorem State.setPc_binds (s : State) (v : BitVec 48) :
    (s.setPc v).binds = s.binds := rfl
@[simp] theorem State.setPc_dir (s : State) (v : BitVec 48) :
    (s.setPc v).dir = s.dir := rfl
@[simp] theorem State.setPc_occ (s : State) (v : BitVec 48) :
    (s.setPc v).occ = s.occ := rfl
@[simp] theorem State.setPc_recent (s : State) (v : BitVec 48) :
    (s.setPc v).recent = s.recent := rfl
@[simp] theorem State.setPc_preempting (s : State) (v : BitVec 48) :
    (s.setPc v).preempting = s.preempting := rfl
@[simp] theorem State.setPc_recalling (s : State) (v : BitVec 48) :
    (s.setPc v).recalling = s.recalling := rfl
@[simp] theorem State.setPc_tagcfg (s : State) (v : BitVec 48) :
    (s.setPc v).tagcfg = s.tagcfg := rfl
@[simp] theorem State.setPc_tagVictim (s : State) (v : BitVec 48) :
    (s.setPc v).tagVictim = s.tagVictim := rfl
@[simp] theorem State.setPc_tags (s : State) (v : BitVec 48) :
    (s.setPc v).tags = s.tags := rfl
@[simp] theorem State.setPc_pages (s : State) (v : BitVec 48) :
    (s.setPc v).pages = s.pages := rfl
@[simp] theorem State.setPc_farPages (s : State) (v : BitVec 48) :
    (s.setPc v).farPages = s.farPages := rfl
@[simp] theorem State.setPc_farCores (s : State) (v : BitVec 48) :
    (s.setPc v).farCores = s.farCores := rfl
@[simp] theorem State.setPc_farSaved (s : State) (v : BitVec 48) :
    (s.setPc v).farSaved = s.farSaved := rfl
@[simp] theorem State.setPc_icache (s : State) (v : BitVec 48) :
    (s.setPc v).icache = s.icache := rfl
@[simp] theorem State.setPc_tlb (s : State) (v : BitVec 48) :
    (s.setPc v).tlb = s.tlb := rfl
@[simp] theorem State.setPc_l2tlb (s : State) (v : BitVec 48) :
    (s.setPc v).l2tlb = s.l2tlb := rfl
@[simp] theorem State.setPc_walks (s : State) (v : BitVec 48) :
    (s.setPc v).walks = s.walks := rfl
@[simp] theorem State.setPc_wings (s : State) (v : BitVec 48) :
    (s.setPc v).wings = s.wings := rfl
@[simp] theorem State.setPc_modl (s : State) (v : BitVec 48) :
    (s.setPc v).modl = s.modl := rfl
@[simp] theorem State.setPc_hostMem (s : State) (v : BitVec 48) :
    (s.setPc v).hostMem = s.hostMem := rfl
@[simp] theorem State.setPc_hostRead (s : State) (v : BitVec 48) :
    (s.setPc v).hostRead = s.hostRead := rfl
@[simp] theorem State.setPc_niOut (s : State) (v : BitVec 48) :
    (s.setPc v).niOut = s.niOut := rfl
@[simp] theorem State.setPc_niFlight (s : State) (v : BitVec 48) :
    (s.setPc v).niFlight = s.niFlight := rfl
@[simp] theorem State.setPc_niIn (s : State) (v : BitVec 48) :
    (s.setPc v).niIn = s.niIn := rfl
@[simp] theorem State.setPc_niGot (s : State) (v : BitVec 48) :
    (s.setPc v).niGot = s.niGot := rfl
@[simp] theorem State.setPc_skid (s : State) (v : BitVec 48) :
    (s.setPc v).skid = s.skid := rfl
@[simp] theorem State.setPc_nextTask (s : State) (v : BitVec 48) :
    (s.setPc v).nextTask = s.nextTask := rfl
@[simp] theorem State.setPc_nvmeWin (s : State) (v : BitVec 48) :
    (s.setPc v).nvmeWin = s.nvmeWin := rfl
@[simp] theorem State.setPc_outside (s : State) (v : BitVec 48) :
    (s.setPc v).outside = s.outside := rfl
@[simp] theorem State.setPc_agenda (s : State) (v : BitVec 48) :
    (s.setPc v).agenda = s.agenda := rfl
@[simp] theorem State.setPc_clerk (s : State) (v : BitVec 48) :
    (s.setPc v).core.clerk = s.core.clerk.setPc v := rfl
@[simp] theorem State.setPc_fab (s : State) (v : BitVec 48) :
    (s.setPc v).core.fab = s.core.fab := rfl
@[simp] theorem State.setPc_ports (s : State) (v : BitVec 48) :
    (s.setPc v).core.ports = s.core.ports := rfl
@[simp] theorem State.setPc_mes (s : State) (v : BitVec 48) :
    (s.setPc v).core.mes = s.core.mes := rfl
@[simp] theorem State.setPc_tmu (s : State) (v : BitVec 48) :
    (s.setPc v).core.tmu = s.core.tmu := rfl
@[simp] theorem State.setPc_ces (s : State) (v : BitVec 48) :
    (s.setPc v).core.ces = s.core.ces := rfl
@[simp] theorem State.setPc_handles (s : State) (v : BitVec 48) :
    (s.setPc v).core.handles = s.core.handles := rfl
@[simp] theorem State.setPc_watches (s : State) (v : BitVec 48) :
    (s.setPc v).core.watches = s.core.watches := rfl
@[simp] theorem State.setPc_mto (s : State) (v : BitVec 48) :
    (s.setPc v).core.mto = s.core.mto := rfl
@[simp] theorem State.setPc_wdg (s : State) (v : BitVec 48) :
    (s.setPc v).core.wdg = s.core.wdg := rfl

/-! ### State.wake -/

@[simp] theorem State.wake_coreId (s : State)  :
    (s.wake).coreId = s.coreId := rfl
@[simp] theorem State.wake_gridmap (s : State)  :
    (s.wake).gridmap = s.gridmap := rfl
@[simp] theorem State.wake_cycle (s : State)  :
    (s.wake).cycle = s.cycle := rfl
@[simp] theorem State.wake_timer (s : State)  :
    (s.wake).timer = s.timer := rfl
@[simp] theorem State.wake_stepNo (s : State)  :
    (s.wake).stepNo = s.stepNo := rfl
@[simp] theorem State.wake_mem (s : State)  :
    (s.wake).mem = s.mem := rfl
@[simp] theorem State.wake_poison (s : State)  :
    (s.wake).poison = s.poison := rfl
@[simp] theorem State.wake_task (s : State)  :
    (s.wake).task = s.task := rfl
@[simp] theorem State.wake_shadow (s : State)  :
    (s.wake).shadow = s.shadow := rfl
@[simp] theorem State.wake_recs (s : State)  :
    (s.wake).recs = s.recs := rfl
@[simp] theorem State.wake_cohorts (s : State)  :
    (s.wake).cohorts = s.cohorts := rfl
@[simp] theorem State.wake_objs (s : State)  :
    (s.wake).objs = s.objs := rfl
@[simp] theorem State.wake_binds (s : State)  :
    (s.wake).binds = s.binds := rfl
@[simp] theorem State.wake_dir (s : State)  :
    (s.wake).dir = s.dir := rfl
@[simp] theorem State.wake_occ (s : State)  :
    (s.wake).occ = s.occ := rfl
@[simp] theorem State.wake_recent (s : State)  :
    (s.wake).recent = s.recent := rfl
@[simp] theorem State.wake_preempting (s : State)  :
    (s.wake).preempting = s.preempting := rfl
@[simp] theorem State.wake_recalling (s : State)  :
    (s.wake).recalling = s.recalling := rfl
@[simp] theorem State.wake_tagcfg (s : State)  :
    (s.wake).tagcfg = s.tagcfg := rfl
@[simp] theorem State.wake_tagVictim (s : State)  :
    (s.wake).tagVictim = s.tagVictim := rfl
@[simp] theorem State.wake_tags (s : State)  :
    (s.wake).tags = s.tags := rfl
@[simp] theorem State.wake_pages (s : State)  :
    (s.wake).pages = s.pages := rfl
@[simp] theorem State.wake_farPages (s : State)  :
    (s.wake).farPages = s.farPages := rfl
@[simp] theorem State.wake_farCores (s : State)  :
    (s.wake).farCores = s.farCores := rfl
@[simp] theorem State.wake_farSaved (s : State)  :
    (s.wake).farSaved = s.farSaved := rfl
@[simp] theorem State.wake_icache (s : State)  :
    (s.wake).icache = s.icache := rfl
@[simp] theorem State.wake_tlb (s : State)  :
    (s.wake).tlb = s.tlb := rfl
@[simp] theorem State.wake_l2tlb (s : State)  :
    (s.wake).l2tlb = s.l2tlb := rfl
@[simp] theorem State.wake_walks (s : State)  :
    (s.wake).walks = s.walks := rfl
@[simp] theorem State.wake_wings (s : State)  :
    (s.wake).wings = s.wings := rfl
@[simp] theorem State.wake_modl (s : State)  :
    (s.wake).modl = s.modl := rfl
@[simp] theorem State.wake_hostMem (s : State)  :
    (s.wake).hostMem = s.hostMem := rfl
@[simp] theorem State.wake_hostRead (s : State)  :
    (s.wake).hostRead = s.hostRead := rfl
@[simp] theorem State.wake_niOut (s : State)  :
    (s.wake).niOut = s.niOut := rfl
@[simp] theorem State.wake_niFlight (s : State)  :
    (s.wake).niFlight = s.niFlight := rfl
@[simp] theorem State.wake_niIn (s : State)  :
    (s.wake).niIn = s.niIn := rfl
@[simp] theorem State.wake_niGot (s : State)  :
    (s.wake).niGot = s.niGot := rfl
@[simp] theorem State.wake_skid (s : State)  :
    (s.wake).skid = s.skid := rfl
@[simp] theorem State.wake_nextTask (s : State)  :
    (s.wake).nextTask = s.nextTask := rfl
@[simp] theorem State.wake_nvmeWin (s : State)  :
    (s.wake).nvmeWin = s.nvmeWin := rfl
@[simp] theorem State.wake_outside (s : State)  :
    (s.wake).outside = s.outside := rfl
@[simp] theorem State.wake_agenda (s : State)  :
    (s.wake).agenda = s.agenda := rfl
@[simp] theorem State.wake_clerk (s : State)  :
    (s.wake).core.clerk = s.core.clerk.wake := rfl
@[simp] theorem State.wake_fab (s : State)  :
    (s.wake).core.fab = s.core.fab := rfl
@[simp] theorem State.wake_ports (s : State)  :
    (s.wake).core.ports = s.core.ports := rfl
@[simp] theorem State.wake_mes (s : State)  :
    (s.wake).core.mes = s.core.mes := rfl
@[simp] theorem State.wake_tmu (s : State)  :
    (s.wake).core.tmu = s.core.tmu := rfl
@[simp] theorem State.wake_ces (s : State)  :
    (s.wake).core.ces = s.core.ces := rfl
@[simp] theorem State.wake_handles (s : State)  :
    (s.wake).core.handles = s.core.handles := rfl
@[simp] theorem State.wake_watches (s : State)  :
    (s.wake).core.watches = s.core.watches := rfl
@[simp] theorem State.wake_mto (s : State)  :
    (s.wake).core.mto = s.core.mto := rfl
@[simp] theorem State.wake_wdg (s : State)  :
    (s.wake).core.wdg = s.core.wdg := rfl

/-! ### State.advance -/

@[simp] theorem State.advance_coreId (s : State) (n : Nat) :
    (s.advance n).coreId = s.coreId := rfl
@[simp] theorem State.advance_gridmap (s : State) (n : Nat) :
    (s.advance n).gridmap = s.gridmap := rfl
@[simp] theorem State.advance_cycle (s : State) (n : Nat) :
    (s.advance n).cycle = s.cycle := rfl
@[simp] theorem State.advance_timer (s : State) (n : Nat) :
    (s.advance n).timer = s.timer := rfl
@[simp] theorem State.advance_stepNo (s : State) (n : Nat) :
    (s.advance n).stepNo = s.stepNo := rfl
@[simp] theorem State.advance_mem (s : State) (n : Nat) :
    (s.advance n).mem = s.mem := rfl
@[simp] theorem State.advance_poison (s : State) (n : Nat) :
    (s.advance n).poison = s.poison := rfl
@[simp] theorem State.advance_task (s : State) (n : Nat) :
    (s.advance n).task = s.task := rfl
@[simp] theorem State.advance_shadow (s : State) (n : Nat) :
    (s.advance n).shadow = s.shadow := rfl
@[simp] theorem State.advance_recs (s : State) (n : Nat) :
    (s.advance n).recs = s.recs := rfl
@[simp] theorem State.advance_cohorts (s : State) (n : Nat) :
    (s.advance n).cohorts = s.cohorts := rfl
@[simp] theorem State.advance_objs (s : State) (n : Nat) :
    (s.advance n).objs = s.objs := rfl
@[simp] theorem State.advance_binds (s : State) (n : Nat) :
    (s.advance n).binds = s.binds := rfl
@[simp] theorem State.advance_dir (s : State) (n : Nat) :
    (s.advance n).dir = s.dir := rfl
@[simp] theorem State.advance_occ (s : State) (n : Nat) :
    (s.advance n).occ = s.occ := rfl
@[simp] theorem State.advance_recent (s : State) (n : Nat) :
    (s.advance n).recent = s.recent := rfl
@[simp] theorem State.advance_preempting (s : State) (n : Nat) :
    (s.advance n).preempting = s.preempting := rfl
@[simp] theorem State.advance_recalling (s : State) (n : Nat) :
    (s.advance n).recalling = s.recalling := rfl
@[simp] theorem State.advance_tagcfg (s : State) (n : Nat) :
    (s.advance n).tagcfg = s.tagcfg := rfl
@[simp] theorem State.advance_tagVictim (s : State) (n : Nat) :
    (s.advance n).tagVictim = s.tagVictim := rfl
@[simp] theorem State.advance_tags (s : State) (n : Nat) :
    (s.advance n).tags = s.tags := rfl
@[simp] theorem State.advance_pages (s : State) (n : Nat) :
    (s.advance n).pages = s.pages := rfl
@[simp] theorem State.advance_farPages (s : State) (n : Nat) :
    (s.advance n).farPages = s.farPages := rfl
@[simp] theorem State.advance_farCores (s : State) (n : Nat) :
    (s.advance n).farCores = s.farCores := rfl
@[simp] theorem State.advance_farSaved (s : State) (n : Nat) :
    (s.advance n).farSaved = s.farSaved := rfl
@[simp] theorem State.advance_icache (s : State) (n : Nat) :
    (s.advance n).icache = s.icache := rfl
@[simp] theorem State.advance_tlb (s : State) (n : Nat) :
    (s.advance n).tlb = s.tlb := rfl
@[simp] theorem State.advance_l2tlb (s : State) (n : Nat) :
    (s.advance n).l2tlb = s.l2tlb := rfl
@[simp] theorem State.advance_walks (s : State) (n : Nat) :
    (s.advance n).walks = s.walks := rfl
@[simp] theorem State.advance_wings (s : State) (n : Nat) :
    (s.advance n).wings = s.wings := rfl
@[simp] theorem State.advance_modl (s : State) (n : Nat) :
    (s.advance n).modl = s.modl := rfl
@[simp] theorem State.advance_hostMem (s : State) (n : Nat) :
    (s.advance n).hostMem = s.hostMem := rfl
@[simp] theorem State.advance_hostRead (s : State) (n : Nat) :
    (s.advance n).hostRead = s.hostRead := rfl
@[simp] theorem State.advance_niOut (s : State) (n : Nat) :
    (s.advance n).niOut = s.niOut := rfl
@[simp] theorem State.advance_niFlight (s : State) (n : Nat) :
    (s.advance n).niFlight = s.niFlight := rfl
@[simp] theorem State.advance_niIn (s : State) (n : Nat) :
    (s.advance n).niIn = s.niIn := rfl
@[simp] theorem State.advance_niGot (s : State) (n : Nat) :
    (s.advance n).niGot = s.niGot := rfl
@[simp] theorem State.advance_skid (s : State) (n : Nat) :
    (s.advance n).skid = s.skid := rfl
@[simp] theorem State.advance_nextTask (s : State) (n : Nat) :
    (s.advance n).nextTask = s.nextTask := rfl
@[simp] theorem State.advance_nvmeWin (s : State) (n : Nat) :
    (s.advance n).nvmeWin = s.nvmeWin := rfl
@[simp] theorem State.advance_outside (s : State) (n : Nat) :
    (s.advance n).outside = s.outside := rfl
@[simp] theorem State.advance_agenda (s : State) (n : Nat) :
    (s.advance n).agenda = s.agenda := rfl
@[simp] theorem State.advance_clerk (s : State) (n : Nat) :
    (s.advance n).core.clerk = { s.core.clerk with pc := s.core.clerk.pc + BitVec.ofNat 48 n } := rfl
@[simp] theorem State.advance_fab (s : State) (n : Nat) :
    (s.advance n).core.fab = s.core.fab := rfl
@[simp] theorem State.advance_ports (s : State) (n : Nat) :
    (s.advance n).core.ports = s.core.ports := rfl
@[simp] theorem State.advance_mes (s : State) (n : Nat) :
    (s.advance n).core.mes = s.core.mes := rfl
@[simp] theorem State.advance_tmu (s : State) (n : Nat) :
    (s.advance n).core.tmu = s.core.tmu := rfl
@[simp] theorem State.advance_ces (s : State) (n : Nat) :
    (s.advance n).core.ces = s.core.ces := rfl
@[simp] theorem State.advance_handles (s : State) (n : Nat) :
    (s.advance n).core.handles = s.core.handles := rfl
@[simp] theorem State.advance_watches (s : State) (n : Nat) :
    (s.advance n).core.watches = s.core.watches := rfl
@[simp] theorem State.advance_mto (s : State) (n : Nat) :
    (s.advance n).core.mto = s.core.mto := rfl
@[simp] theorem State.advance_wdg (s : State) (n : Nat) :
    (s.advance n).core.wdg = s.core.wdg := rfl

/-! ### State.finish -/

@[simp] theorem State.finish_coreId (s : State) (d : Reg) (v : Dword) (n : Nat) :
    (s.finish d v n).coreId = s.coreId := rfl
@[simp] theorem State.finish_gridmap (s : State) (d : Reg) (v : Dword) (n : Nat) :
    (s.finish d v n).gridmap = s.gridmap := rfl
@[simp] theorem State.finish_cycle (s : State) (d : Reg) (v : Dword) (n : Nat) :
    (s.finish d v n).cycle = s.cycle := rfl
@[simp] theorem State.finish_timer (s : State) (d : Reg) (v : Dword) (n : Nat) :
    (s.finish d v n).timer = s.timer := rfl
@[simp] theorem State.finish_stepNo (s : State) (d : Reg) (v : Dword) (n : Nat) :
    (s.finish d v n).stepNo = s.stepNo := rfl
@[simp] theorem State.finish_mem (s : State) (d : Reg) (v : Dword) (n : Nat) :
    (s.finish d v n).mem = s.mem := rfl
@[simp] theorem State.finish_poison (s : State) (d : Reg) (v : Dword) (n : Nat) :
    (s.finish d v n).poison = s.poison := rfl
@[simp] theorem State.finish_task (s : State) (d : Reg) (v : Dword) (n : Nat) :
    (s.finish d v n).task = s.task := rfl
@[simp] theorem State.finish_shadow (s : State) (d : Reg) (v : Dword) (n : Nat) :
    (s.finish d v n).shadow = s.shadow := rfl
@[simp] theorem State.finish_recs (s : State) (d : Reg) (v : Dword) (n : Nat) :
    (s.finish d v n).recs = s.recs := rfl
@[simp] theorem State.finish_cohorts (s : State) (d : Reg) (v : Dword) (n : Nat) :
    (s.finish d v n).cohorts = s.cohorts := rfl
@[simp] theorem State.finish_objs (s : State) (d : Reg) (v : Dword) (n : Nat) :
    (s.finish d v n).objs = s.objs := rfl
@[simp] theorem State.finish_binds (s : State) (d : Reg) (v : Dword) (n : Nat) :
    (s.finish d v n).binds = s.binds := rfl
@[simp] theorem State.finish_dir (s : State) (d : Reg) (v : Dword) (n : Nat) :
    (s.finish d v n).dir = s.dir := rfl
@[simp] theorem State.finish_occ (s : State) (d : Reg) (v : Dword) (n : Nat) :
    (s.finish d v n).occ = s.occ := rfl
@[simp] theorem State.finish_recent (s : State) (d : Reg) (v : Dword) (n : Nat) :
    (s.finish d v n).recent = s.recent := rfl
@[simp] theorem State.finish_preempting (s : State) (d : Reg) (v : Dword) (n : Nat) :
    (s.finish d v n).preempting = s.preempting := rfl
@[simp] theorem State.finish_recalling (s : State) (d : Reg) (v : Dword) (n : Nat) :
    (s.finish d v n).recalling = s.recalling := rfl
@[simp] theorem State.finish_tagcfg (s : State) (d : Reg) (v : Dword) (n : Nat) :
    (s.finish d v n).tagcfg = s.tagcfg := rfl
@[simp] theorem State.finish_tagVictim (s : State) (d : Reg) (v : Dword) (n : Nat) :
    (s.finish d v n).tagVictim = s.tagVictim := rfl
@[simp] theorem State.finish_tags (s : State) (d : Reg) (v : Dword) (n : Nat) :
    (s.finish d v n).tags = s.tags := rfl
@[simp] theorem State.finish_pages (s : State) (d : Reg) (v : Dword) (n : Nat) :
    (s.finish d v n).pages = s.pages := rfl
@[simp] theorem State.finish_farPages (s : State) (d : Reg) (v : Dword) (n : Nat) :
    (s.finish d v n).farPages = s.farPages := rfl
@[simp] theorem State.finish_farCores (s : State) (d : Reg) (v : Dword) (n : Nat) :
    (s.finish d v n).farCores = s.farCores := rfl
@[simp] theorem State.finish_farSaved (s : State) (d : Reg) (v : Dword) (n : Nat) :
    (s.finish d v n).farSaved = s.farSaved := rfl
@[simp] theorem State.finish_icache (s : State) (d : Reg) (v : Dword) (n : Nat) :
    (s.finish d v n).icache = s.icache := rfl
@[simp] theorem State.finish_tlb (s : State) (d : Reg) (v : Dword) (n : Nat) :
    (s.finish d v n).tlb = s.tlb := rfl
@[simp] theorem State.finish_l2tlb (s : State) (d : Reg) (v : Dword) (n : Nat) :
    (s.finish d v n).l2tlb = s.l2tlb := rfl
@[simp] theorem State.finish_walks (s : State) (d : Reg) (v : Dword) (n : Nat) :
    (s.finish d v n).walks = s.walks := rfl
@[simp] theorem State.finish_wings (s : State) (d : Reg) (v : Dword) (n : Nat) :
    (s.finish d v n).wings = s.wings := rfl
@[simp] theorem State.finish_modl (s : State) (d : Reg) (v : Dword) (n : Nat) :
    (s.finish d v n).modl = s.modl := rfl
@[simp] theorem State.finish_hostMem (s : State) (d : Reg) (v : Dword) (n : Nat) :
    (s.finish d v n).hostMem = s.hostMem := rfl
@[simp] theorem State.finish_hostRead (s : State) (d : Reg) (v : Dword) (n : Nat) :
    (s.finish d v n).hostRead = s.hostRead := rfl
@[simp] theorem State.finish_niOut (s : State) (d : Reg) (v : Dword) (n : Nat) :
    (s.finish d v n).niOut = s.niOut := rfl
@[simp] theorem State.finish_niFlight (s : State) (d : Reg) (v : Dword) (n : Nat) :
    (s.finish d v n).niFlight = s.niFlight := rfl
@[simp] theorem State.finish_niIn (s : State) (d : Reg) (v : Dword) (n : Nat) :
    (s.finish d v n).niIn = s.niIn := rfl
@[simp] theorem State.finish_niGot (s : State) (d : Reg) (v : Dword) (n : Nat) :
    (s.finish d v n).niGot = s.niGot := rfl
@[simp] theorem State.finish_skid (s : State) (d : Reg) (v : Dword) (n : Nat) :
    (s.finish d v n).skid = s.skid := rfl
@[simp] theorem State.finish_nextTask (s : State) (d : Reg) (v : Dword) (n : Nat) :
    (s.finish d v n).nextTask = s.nextTask := rfl
@[simp] theorem State.finish_nvmeWin (s : State) (d : Reg) (v : Dword) (n : Nat) :
    (s.finish d v n).nvmeWin = s.nvmeWin := rfl
@[simp] theorem State.finish_outside (s : State) (d : Reg) (v : Dword) (n : Nat) :
    (s.finish d v n).outside = s.outside := rfl
@[simp] theorem State.finish_agenda (s : State) (d : Reg) (v : Dword) (n : Nat) :
    (s.finish d v n).agenda = s.agenda := rfl
@[simp] theorem State.finish_clerk (s : State) (d : Reg) (v : Dword) (n : Nat) :
    (s.finish d v n).core.clerk = { s.core.clerk.setReg d v with pc := (s.core.clerk.setReg d v).pc + BitVec.ofNat 48 n } := rfl
@[simp] theorem State.finish_fab (s : State) (d : Reg) (v : Dword) (n : Nat) :
    (s.finish d v n).core.fab = s.core.fab := rfl
@[simp] theorem State.finish_ports (s : State) (d : Reg) (v : Dword) (n : Nat) :
    (s.finish d v n).core.ports = s.core.ports := rfl
@[simp] theorem State.finish_mes (s : State) (d : Reg) (v : Dword) (n : Nat) :
    (s.finish d v n).core.mes = s.core.mes := rfl
@[simp] theorem State.finish_tmu (s : State) (d : Reg) (v : Dword) (n : Nat) :
    (s.finish d v n).core.tmu = s.core.tmu := rfl
@[simp] theorem State.finish_ces (s : State) (d : Reg) (v : Dword) (n : Nat) :
    (s.finish d v n).core.ces = s.core.ces := rfl
@[simp] theorem State.finish_handles (s : State) (d : Reg) (v : Dword) (n : Nat) :
    (s.finish d v n).core.handles = s.core.handles := rfl
@[simp] theorem State.finish_watches (s : State) (d : Reg) (v : Dword) (n : Nat) :
    (s.finish d v n).core.watches = s.core.watches := rfl
@[simp] theorem State.finish_mto (s : State) (d : Reg) (v : Dword) (n : Nat) :
    (s.finish d v n).core.mto = s.core.mto := rfl
@[simp] theorem State.finish_wdg (s : State) (d : Reg) (v : Dword) (n : Nat) :
    (s.finish d v n).core.wdg = s.core.wdg := rfl

/-! ### State.stored -/

@[simp] theorem State.stored_coreId (s : State) (m : Mem) (key n : Nat) :
    (s.stored m key n).coreId = s.coreId := rfl
@[simp] theorem State.stored_gridmap (s : State) (m : Mem) (key n : Nat) :
    (s.stored m key n).gridmap = s.gridmap := rfl
@[simp] theorem State.stored_cycle (s : State) (m : Mem) (key n : Nat) :
    (s.stored m key n).cycle = s.cycle := rfl
@[simp] theorem State.stored_timer (s : State) (m : Mem) (key n : Nat) :
    (s.stored m key n).timer = s.timer := rfl
@[simp] theorem State.stored_stepNo (s : State) (m : Mem) (key n : Nat) :
    (s.stored m key n).stepNo = s.stepNo := rfl
@[simp] theorem State.stored_task (s : State) (m : Mem) (key n : Nat) :
    (s.stored m key n).task = s.task := rfl
@[simp] theorem State.stored_shadow (s : State) (m : Mem) (key n : Nat) :
    (s.stored m key n).shadow = s.shadow := rfl
@[simp] theorem State.stored_recs (s : State) (m : Mem) (key n : Nat) :
    (s.stored m key n).recs = s.recs := rfl
@[simp] theorem State.stored_cohorts (s : State) (m : Mem) (key n : Nat) :
    (s.stored m key n).cohorts = s.cohorts := rfl
@[simp] theorem State.stored_objs (s : State) (m : Mem) (key n : Nat) :
    (s.stored m key n).objs = s.objs := rfl
@[simp] theorem State.stored_binds (s : State) (m : Mem) (key n : Nat) :
    (s.stored m key n).binds = s.binds := rfl
@[simp] theorem State.stored_dir (s : State) (m : Mem) (key n : Nat) :
    (s.stored m key n).dir = s.dir := rfl
@[simp] theorem State.stored_occ (s : State) (m : Mem) (key n : Nat) :
    (s.stored m key n).occ = s.occ := rfl
@[simp] theorem State.stored_recent (s : State) (m : Mem) (key n : Nat) :
    (s.stored m key n).recent = s.recent := rfl
@[simp] theorem State.stored_preempting (s : State) (m : Mem) (key n : Nat) :
    (s.stored m key n).preempting = s.preempting := rfl
@[simp] theorem State.stored_recalling (s : State) (m : Mem) (key n : Nat) :
    (s.stored m key n).recalling = s.recalling := rfl
@[simp] theorem State.stored_tagcfg (s : State) (m : Mem) (key n : Nat) :
    (s.stored m key n).tagcfg = s.tagcfg := rfl
@[simp] theorem State.stored_tagVictim (s : State) (m : Mem) (key n : Nat) :
    (s.stored m key n).tagVictim = s.tagVictim := rfl
@[simp] theorem State.stored_tags (s : State) (m : Mem) (key n : Nat) :
    (s.stored m key n).tags = s.tags := rfl
@[simp] theorem State.stored_pages (s : State) (m : Mem) (key n : Nat) :
    (s.stored m key n).pages = s.pages := rfl
@[simp] theorem State.stored_farPages (s : State) (m : Mem) (key n : Nat) :
    (s.stored m key n).farPages = s.farPages := rfl
@[simp] theorem State.stored_farCores (s : State) (m : Mem) (key n : Nat) :
    (s.stored m key n).farCores = s.farCores := rfl
@[simp] theorem State.stored_farSaved (s : State) (m : Mem) (key n : Nat) :
    (s.stored m key n).farSaved = s.farSaved := rfl
@[simp] theorem State.stored_icache (s : State) (m : Mem) (key n : Nat) :
    (s.stored m key n).icache = s.icache := rfl
@[simp] theorem State.stored_tlb (s : State) (m : Mem) (key n : Nat) :
    (s.stored m key n).tlb = s.tlb := rfl
@[simp] theorem State.stored_l2tlb (s : State) (m : Mem) (key n : Nat) :
    (s.stored m key n).l2tlb = s.l2tlb := rfl
@[simp] theorem State.stored_walks (s : State) (m : Mem) (key n : Nat) :
    (s.stored m key n).walks = s.walks := rfl
@[simp] theorem State.stored_wings (s : State) (m : Mem) (key n : Nat) :
    (s.stored m key n).wings = s.wings := rfl
@[simp] theorem State.stored_modl (s : State) (m : Mem) (key n : Nat) :
    (s.stored m key n).modl = s.modl := rfl
@[simp] theorem State.stored_hostMem (s : State) (m : Mem) (key n : Nat) :
    (s.stored m key n).hostMem = s.hostMem := rfl
@[simp] theorem State.stored_hostRead (s : State) (m : Mem) (key n : Nat) :
    (s.stored m key n).hostRead = s.hostRead := rfl
@[simp] theorem State.stored_niOut (s : State) (m : Mem) (key n : Nat) :
    (s.stored m key n).niOut = s.niOut := rfl
@[simp] theorem State.stored_niFlight (s : State) (m : Mem) (key n : Nat) :
    (s.stored m key n).niFlight = s.niFlight := rfl
@[simp] theorem State.stored_niIn (s : State) (m : Mem) (key n : Nat) :
    (s.stored m key n).niIn = s.niIn := rfl
@[simp] theorem State.stored_niGot (s : State) (m : Mem) (key n : Nat) :
    (s.stored m key n).niGot = s.niGot := rfl
@[simp] theorem State.stored_skid (s : State) (m : Mem) (key n : Nat) :
    (s.stored m key n).skid = s.skid := rfl
@[simp] theorem State.stored_nextTask (s : State) (m : Mem) (key n : Nat) :
    (s.stored m key n).nextTask = s.nextTask := rfl
@[simp] theorem State.stored_nvmeWin (s : State) (m : Mem) (key n : Nat) :
    (s.stored m key n).nvmeWin = s.nvmeWin := rfl
@[simp] theorem State.stored_outside (s : State) (m : Mem) (key n : Nat) :
    (s.stored m key n).outside = s.outside := rfl
@[simp] theorem State.stored_agenda (s : State) (m : Mem) (key n : Nat) :
    (s.stored m key n).agenda = s.agenda := rfl
@[simp] theorem State.stored_fab (s : State) (m : Mem) (key n : Nat) :
    (s.stored m key n).core.fab = s.core.fab := rfl
@[simp] theorem State.stored_ports (s : State) (m : Mem) (key n : Nat) :
    (s.stored m key n).core.ports = s.core.ports := rfl
@[simp] theorem State.stored_mes (s : State) (m : Mem) (key n : Nat) :
    (s.stored m key n).core.mes = s.core.mes := rfl
@[simp] theorem State.stored_tmu (s : State) (m : Mem) (key n : Nat) :
    (s.stored m key n).core.tmu = s.core.tmu := rfl
@[simp] theorem State.stored_ces (s : State) (m : Mem) (key n : Nat) :
    (s.stored m key n).core.ces = s.core.ces := rfl
@[simp] theorem State.stored_handles (s : State) (m : Mem) (key n : Nat) :
    (s.stored m key n).core.handles = s.core.handles := rfl
@[simp] theorem State.stored_watches (s : State) (m : Mem) (key n : Nat) :
    (s.stored m key n).core.watches = s.core.watches := rfl
@[simp] theorem State.stored_mto (s : State) (m : Mem) (key n : Nat) :
    (s.stored m key n).core.mto = s.core.mto := rfl
@[simp] theorem State.stored_wdg (s : State) (m : Mem) (key n : Nat) :
    (s.stored m key n).core.wdg = s.core.wdg := rfl
@[simp] theorem State.stored_mem (s : State) (m : Mem) (key n : Nat) :
    (s.stored m key n).mem = m := rfl

/-! ### State.wr -/

@[simp] theorem State.wr_coreId (s : State) (key n v : Nat) :
    (s.wr key n v).coreId = s.coreId := rfl
@[simp] theorem State.wr_gridmap (s : State) (key n v : Nat) :
    (s.wr key n v).gridmap = s.gridmap := rfl
@[simp] theorem State.wr_cycle (s : State) (key n v : Nat) :
    (s.wr key n v).cycle = s.cycle := rfl
@[simp] theorem State.wr_timer (s : State) (key n v : Nat) :
    (s.wr key n v).timer = s.timer := rfl
@[simp] theorem State.wr_stepNo (s : State) (key n v : Nat) :
    (s.wr key n v).stepNo = s.stepNo := rfl
@[simp] theorem State.wr_task (s : State) (key n v : Nat) :
    (s.wr key n v).task = s.task := rfl
@[simp] theorem State.wr_shadow (s : State) (key n v : Nat) :
    (s.wr key n v).shadow = s.shadow := rfl
@[simp] theorem State.wr_recs (s : State) (key n v : Nat) :
    (s.wr key n v).recs = s.recs := rfl
@[simp] theorem State.wr_cohorts (s : State) (key n v : Nat) :
    (s.wr key n v).cohorts = s.cohorts := rfl
@[simp] theorem State.wr_objs (s : State) (key n v : Nat) :
    (s.wr key n v).objs = s.objs := rfl
@[simp] theorem State.wr_binds (s : State) (key n v : Nat) :
    (s.wr key n v).binds = s.binds := rfl
@[simp] theorem State.wr_dir (s : State) (key n v : Nat) :
    (s.wr key n v).dir = s.dir := rfl
@[simp] theorem State.wr_occ (s : State) (key n v : Nat) :
    (s.wr key n v).occ = s.occ := rfl
@[simp] theorem State.wr_recent (s : State) (key n v : Nat) :
    (s.wr key n v).recent = s.recent := rfl
@[simp] theorem State.wr_preempting (s : State) (key n v : Nat) :
    (s.wr key n v).preempting = s.preempting := rfl
@[simp] theorem State.wr_recalling (s : State) (key n v : Nat) :
    (s.wr key n v).recalling = s.recalling := rfl
@[simp] theorem State.wr_tagcfg (s : State) (key n v : Nat) :
    (s.wr key n v).tagcfg = s.tagcfg := rfl
@[simp] theorem State.wr_tagVictim (s : State) (key n v : Nat) :
    (s.wr key n v).tagVictim = s.tagVictim := rfl
@[simp] theorem State.wr_tags (s : State) (key n v : Nat) :
    (s.wr key n v).tags = s.tags := rfl
@[simp] theorem State.wr_pages (s : State) (key n v : Nat) :
    (s.wr key n v).pages = s.pages := rfl
@[simp] theorem State.wr_farPages (s : State) (key n v : Nat) :
    (s.wr key n v).farPages = s.farPages := rfl
@[simp] theorem State.wr_farCores (s : State) (key n v : Nat) :
    (s.wr key n v).farCores = s.farCores := rfl
@[simp] theorem State.wr_farSaved (s : State) (key n v : Nat) :
    (s.wr key n v).farSaved = s.farSaved := rfl
@[simp] theorem State.wr_icache (s : State) (key n v : Nat) :
    (s.wr key n v).icache = s.icache := rfl
@[simp] theorem State.wr_tlb (s : State) (key n v : Nat) :
    (s.wr key n v).tlb = s.tlb := rfl
@[simp] theorem State.wr_l2tlb (s : State) (key n v : Nat) :
    (s.wr key n v).l2tlb = s.l2tlb := rfl
@[simp] theorem State.wr_walks (s : State) (key n v : Nat) :
    (s.wr key n v).walks = s.walks := rfl
@[simp] theorem State.wr_wings (s : State) (key n v : Nat) :
    (s.wr key n v).wings = s.wings := rfl
@[simp] theorem State.wr_modl (s : State) (key n v : Nat) :
    (s.wr key n v).modl = s.modl := rfl
@[simp] theorem State.wr_hostMem (s : State) (key n v : Nat) :
    (s.wr key n v).hostMem = s.hostMem := rfl
@[simp] theorem State.wr_hostRead (s : State) (key n v : Nat) :
    (s.wr key n v).hostRead = s.hostRead := rfl
@[simp] theorem State.wr_niOut (s : State) (key n v : Nat) :
    (s.wr key n v).niOut = s.niOut := rfl
@[simp] theorem State.wr_niFlight (s : State) (key n v : Nat) :
    (s.wr key n v).niFlight = s.niFlight := rfl
@[simp] theorem State.wr_niIn (s : State) (key n v : Nat) :
    (s.wr key n v).niIn = s.niIn := rfl
@[simp] theorem State.wr_niGot (s : State) (key n v : Nat) :
    (s.wr key n v).niGot = s.niGot := rfl
@[simp] theorem State.wr_skid (s : State) (key n v : Nat) :
    (s.wr key n v).skid = s.skid := rfl
@[simp] theorem State.wr_nextTask (s : State) (key n v : Nat) :
    (s.wr key n v).nextTask = s.nextTask := rfl
@[simp] theorem State.wr_nvmeWin (s : State) (key n v : Nat) :
    (s.wr key n v).nvmeWin = s.nvmeWin := rfl
@[simp] theorem State.wr_outside (s : State) (key n v : Nat) :
    (s.wr key n v).outside = s.outside := rfl
@[simp] theorem State.wr_agenda (s : State) (key n v : Nat) :
    (s.wr key n v).agenda = s.agenda := rfl
@[simp] theorem State.wr_fab (s : State) (key n v : Nat) :
    (s.wr key n v).core.fab = s.core.fab := rfl
@[simp] theorem State.wr_ports (s : State) (key n v : Nat) :
    (s.wr key n v).core.ports = s.core.ports := rfl
@[simp] theorem State.wr_mes (s : State) (key n v : Nat) :
    (s.wr key n v).core.mes = s.core.mes := rfl
@[simp] theorem State.wr_tmu (s : State) (key n v : Nat) :
    (s.wr key n v).core.tmu = s.core.tmu := rfl
@[simp] theorem State.wr_ces (s : State) (key n v : Nat) :
    (s.wr key n v).core.ces = s.core.ces := rfl
@[simp] theorem State.wr_handles (s : State) (key n v : Nat) :
    (s.wr key n v).core.handles = s.core.handles := rfl
@[simp] theorem State.wr_watches (s : State) (key n v : Nat) :
    (s.wr key n v).core.watches = s.core.watches := rfl
@[simp] theorem State.wr_mto (s : State) (key n v : Nat) :
    (s.wr key n v).core.mto = s.core.mto := rfl
@[simp] theorem State.wr_wdg (s : State) (key n v : Nat) :
    (s.wr key n v).core.wdg = s.core.wdg := rfl
@[simp] theorem State.wr_mem (s : State) (key n v : Nat) :
    (s.wr key n v).mem = memWrite s.mem key n v := rfl

/-! ### State.wrBytes -/

@[simp] theorem State.wrBytes_coreId (s : State) (key : Nat) (bs : List Byte) :
    (s.wrBytes key bs).coreId = s.coreId := rfl
@[simp] theorem State.wrBytes_gridmap (s : State) (key : Nat) (bs : List Byte) :
    (s.wrBytes key bs).gridmap = s.gridmap := rfl
@[simp] theorem State.wrBytes_cycle (s : State) (key : Nat) (bs : List Byte) :
    (s.wrBytes key bs).cycle = s.cycle := rfl
@[simp] theorem State.wrBytes_timer (s : State) (key : Nat) (bs : List Byte) :
    (s.wrBytes key bs).timer = s.timer := rfl
@[simp] theorem State.wrBytes_stepNo (s : State) (key : Nat) (bs : List Byte) :
    (s.wrBytes key bs).stepNo = s.stepNo := rfl
@[simp] theorem State.wrBytes_task (s : State) (key : Nat) (bs : List Byte) :
    (s.wrBytes key bs).task = s.task := rfl
@[simp] theorem State.wrBytes_shadow (s : State) (key : Nat) (bs : List Byte) :
    (s.wrBytes key bs).shadow = s.shadow := rfl
@[simp] theorem State.wrBytes_recs (s : State) (key : Nat) (bs : List Byte) :
    (s.wrBytes key bs).recs = s.recs := rfl
@[simp] theorem State.wrBytes_cohorts (s : State) (key : Nat) (bs : List Byte) :
    (s.wrBytes key bs).cohorts = s.cohorts := rfl
@[simp] theorem State.wrBytes_objs (s : State) (key : Nat) (bs : List Byte) :
    (s.wrBytes key bs).objs = s.objs := rfl
@[simp] theorem State.wrBytes_binds (s : State) (key : Nat) (bs : List Byte) :
    (s.wrBytes key bs).binds = s.binds := rfl
@[simp] theorem State.wrBytes_dir (s : State) (key : Nat) (bs : List Byte) :
    (s.wrBytes key bs).dir = s.dir := rfl
@[simp] theorem State.wrBytes_occ (s : State) (key : Nat) (bs : List Byte) :
    (s.wrBytes key bs).occ = s.occ := rfl
@[simp] theorem State.wrBytes_recent (s : State) (key : Nat) (bs : List Byte) :
    (s.wrBytes key bs).recent = s.recent := rfl
@[simp] theorem State.wrBytes_preempting (s : State) (key : Nat) (bs : List Byte) :
    (s.wrBytes key bs).preempting = s.preempting := rfl
@[simp] theorem State.wrBytes_recalling (s : State) (key : Nat) (bs : List Byte) :
    (s.wrBytes key bs).recalling = s.recalling := rfl
@[simp] theorem State.wrBytes_tagcfg (s : State) (key : Nat) (bs : List Byte) :
    (s.wrBytes key bs).tagcfg = s.tagcfg := rfl
@[simp] theorem State.wrBytes_tagVictim (s : State) (key : Nat) (bs : List Byte) :
    (s.wrBytes key bs).tagVictim = s.tagVictim := rfl
@[simp] theorem State.wrBytes_tags (s : State) (key : Nat) (bs : List Byte) :
    (s.wrBytes key bs).tags = s.tags := rfl
@[simp] theorem State.wrBytes_pages (s : State) (key : Nat) (bs : List Byte) :
    (s.wrBytes key bs).pages = s.pages := rfl
@[simp] theorem State.wrBytes_farPages (s : State) (key : Nat) (bs : List Byte) :
    (s.wrBytes key bs).farPages = s.farPages := rfl
@[simp] theorem State.wrBytes_farCores (s : State) (key : Nat) (bs : List Byte) :
    (s.wrBytes key bs).farCores = s.farCores := rfl
@[simp] theorem State.wrBytes_farSaved (s : State) (key : Nat) (bs : List Byte) :
    (s.wrBytes key bs).farSaved = s.farSaved := rfl
@[simp] theorem State.wrBytes_icache (s : State) (key : Nat) (bs : List Byte) :
    (s.wrBytes key bs).icache = s.icache := rfl
@[simp] theorem State.wrBytes_tlb (s : State) (key : Nat) (bs : List Byte) :
    (s.wrBytes key bs).tlb = s.tlb := rfl
@[simp] theorem State.wrBytes_l2tlb (s : State) (key : Nat) (bs : List Byte) :
    (s.wrBytes key bs).l2tlb = s.l2tlb := rfl
@[simp] theorem State.wrBytes_walks (s : State) (key : Nat) (bs : List Byte) :
    (s.wrBytes key bs).walks = s.walks := rfl
@[simp] theorem State.wrBytes_wings (s : State) (key : Nat) (bs : List Byte) :
    (s.wrBytes key bs).wings = s.wings := rfl
@[simp] theorem State.wrBytes_modl (s : State) (key : Nat) (bs : List Byte) :
    (s.wrBytes key bs).modl = s.modl := rfl
@[simp] theorem State.wrBytes_hostMem (s : State) (key : Nat) (bs : List Byte) :
    (s.wrBytes key bs).hostMem = s.hostMem := rfl
@[simp] theorem State.wrBytes_hostRead (s : State) (key : Nat) (bs : List Byte) :
    (s.wrBytes key bs).hostRead = s.hostRead := rfl
@[simp] theorem State.wrBytes_niOut (s : State) (key : Nat) (bs : List Byte) :
    (s.wrBytes key bs).niOut = s.niOut := rfl
@[simp] theorem State.wrBytes_niFlight (s : State) (key : Nat) (bs : List Byte) :
    (s.wrBytes key bs).niFlight = s.niFlight := rfl
@[simp] theorem State.wrBytes_niIn (s : State) (key : Nat) (bs : List Byte) :
    (s.wrBytes key bs).niIn = s.niIn := rfl
@[simp] theorem State.wrBytes_niGot (s : State) (key : Nat) (bs : List Byte) :
    (s.wrBytes key bs).niGot = s.niGot := rfl
@[simp] theorem State.wrBytes_skid (s : State) (key : Nat) (bs : List Byte) :
    (s.wrBytes key bs).skid = s.skid := rfl
@[simp] theorem State.wrBytes_nextTask (s : State) (key : Nat) (bs : List Byte) :
    (s.wrBytes key bs).nextTask = s.nextTask := rfl
@[simp] theorem State.wrBytes_nvmeWin (s : State) (key : Nat) (bs : List Byte) :
    (s.wrBytes key bs).nvmeWin = s.nvmeWin := rfl
@[simp] theorem State.wrBytes_outside (s : State) (key : Nat) (bs : List Byte) :
    (s.wrBytes key bs).outside = s.outside := rfl
@[simp] theorem State.wrBytes_agenda (s : State) (key : Nat) (bs : List Byte) :
    (s.wrBytes key bs).agenda = s.agenda := rfl
@[simp] theorem State.wrBytes_fab (s : State) (key : Nat) (bs : List Byte) :
    (s.wrBytes key bs).core.fab = s.core.fab := rfl
@[simp] theorem State.wrBytes_ports (s : State) (key : Nat) (bs : List Byte) :
    (s.wrBytes key bs).core.ports = s.core.ports := rfl
@[simp] theorem State.wrBytes_mes (s : State) (key : Nat) (bs : List Byte) :
    (s.wrBytes key bs).core.mes = s.core.mes := rfl
@[simp] theorem State.wrBytes_tmu (s : State) (key : Nat) (bs : List Byte) :
    (s.wrBytes key bs).core.tmu = s.core.tmu := rfl
@[simp] theorem State.wrBytes_ces (s : State) (key : Nat) (bs : List Byte) :
    (s.wrBytes key bs).core.ces = s.core.ces := rfl
@[simp] theorem State.wrBytes_handles (s : State) (key : Nat) (bs : List Byte) :
    (s.wrBytes key bs).core.handles = s.core.handles := rfl
@[simp] theorem State.wrBytes_watches (s : State) (key : Nat) (bs : List Byte) :
    (s.wrBytes key bs).core.watches = s.core.watches := rfl
@[simp] theorem State.wrBytes_mto (s : State) (key : Nat) (bs : List Byte) :
    (s.wrBytes key bs).core.mto = s.core.mto := rfl
@[simp] theorem State.wrBytes_wdg (s : State) (key : Nat) (bs : List Byte) :
    (s.wrBytes key bs).core.wdg = s.core.wdg := rfl
@[simp] theorem State.wrBytes_mem (s : State) (key : Nat) (bs : List Byte) :
    (s.wrBytes key bs).mem = memWriteBytes s.mem key bs := rfl

/-! ### Registers -/

@[simp] theorem Clerk.reg_zero (c : Clerk) : c.reg 0 = 0 := rfl

theorem Clerk.setReg_reg (c : Clerk) (d r : Reg) (v : Dword) :
    (c.setReg d v).reg r = if r = d ∧ d ≠ 0 then v else c.reg r := by
  unfold Clerk.setReg Clerk.reg
  by_cases hd : d = 0
  · simp only [hd, if_true, ne_eq, not_true_eq_false, and_false, if_false]
  · simp only [hd, if_false, ne_eq, not_false_eq_true, and_true]
    by_cases hr : r = d
    · subst hr
      simp only [hd, if_false, if_true]
      simp [Vector.get_eq_getElem]
    · have h : d.toNat ≠ r.toNat := fun h => hr (BitVec.eq_of_toNat_eq h.symm)
      simp only [hr, if_false]
      split
      · rfl
      · simp [Vector.get_eq_getElem, h]

@[simp] theorem Clerk.setReg_reg_same (c : Clerk) (d : Reg) (v : Dword) (h : d ≠ 0) : (c.setReg d v).reg d = v := by
  rw [Clerk.setReg_reg, if_pos ⟨rfl, h⟩]

theorem Clerk.setReg_reg_other (c : Clerk) (d r : Reg) (v : Dword) (h : r ≠ d) : (c.setReg d v).reg r = c.reg r := by
  rw [Clerk.setReg_reg, if_neg fun x => h x.1]

@[simp] theorem Clerk.setPresent_reg (c : Clerk) (d r : Reg) (b : Bool) : (c.setPresent d b).reg r = c.reg r := by
  unfold Clerk.setPresent; split <;> rfl

@[simp] theorem Clerk.setPc_reg (c : Clerk) (v : BitVec 48) (r : Reg) : (c.setPc v).reg r = c.reg r := rfl

@[simp] theorem State.advance_reg (s : State) (n : Nat) (r : Reg) : (s.advance n).reg r = s.reg r := rfl

/-- The common end of an instruction that writes a register: the destination, the other registers and the PC. -/
theorem State.finish_reg (s : State) (d r : Reg) (v : Dword) (n : Nat) :
    (s.finish d v n).reg r = if r = d ∧ d ≠ 0 then v else s.reg r := Clerk.setReg_reg ..

@[simp] theorem State.finish_pc (s : State) (d : Reg) (v : Dword) (n : Nat) :
    (s.finish d v n).core.clerk.pc = s.core.clerk.pc + BitVec.ofNat 48 n := by
  simp

end Sys2Proof.Machine
end

