-- ==== Sys2Proof/Laws/Memory.lean ====
section
/-! SUPPORT. The list of memory: reads after writes, and the canonical form that every operation keeps. -/

namespace Sys2Proof.Machine

/-! ### One byte -/

theorem Memory.wf_tail {c : Host.Cell} {t : Mem} (h : Memory.wf (c :: t) = true) : Memory.wf t = true := by
  cases t with
  | nil => rfl
  | cons d t => simp only [Memory.wf, Bool.and_eq_true] at h; exact h.2

/-- A list with one more entry in front is canonical when the entry is no default and lies below the rest. -/
theorem Memory.wf_cons {k : Nat} {v : Byte} {t : Mem} :
    Memory.wf ((k, v) :: t) = true ↔ v ≠ 0 ∧ (∀ c ∈ t.head?, k < c.1) ∧ Memory.wf t = true := by
  cases t with
  | nil => simp [Memory.wf]
  | cons d t => simp [Memory.wf, and_assoc]

/-- Addresses at or below the first entry's, but its own, are not listed. -/
theorem memGet_below {t : Mem} {k a : Nat} (h : ∀ c ∈ t.head?, k < c.1) (ha : a ≤ k) : memGet t a = 0 := by
  cases t with
  | nil => rfl
  | cons d t =>
    obtain ⟨j, w⟩ := d
    have : a < j := Nat.lt_of_le_of_lt ha (h (j, w) (by simp))
    unfold memGet
    rw [if_pos this]

/-- A byte written is the byte read. -/
theorem memGet_memPut_same (m : Mem) (a : Nat) (b : Byte) (h : Memory.wf m = true) :
    memGet (memPut m a b) a = b := by
  induction m with
  | nil => unfold memPut; split <;> simp_all [memGet]
  | cons c t ih =>
    obtain ⟨k, v⟩ := c
    have ⟨_, hk, ht⟩ := Memory.wf_cons.mp h
    unfold memPut
    split_ifs with h1 h2 h3 h4
    · simp [memGet, h1, h2]
    · simp [memGet]
    · subst h3; rw [memGet_below hk (Nat.le_refl _), h4]
    · simp [memGet]
    · simp [memGet, h1, h3, ih ht]

/-- Any other byte reads as before. -/
theorem memGet_memPut_other (m : Mem) (a x : Nat) (b : Byte) (h : Memory.wf m = true) (hx : x ≠ a) :
    memGet (memPut m a b) x = memGet m x := by
  induction m with
  | nil => unfold memPut; split <;> simp [memGet, hx]
  | cons c t ih =>
    obtain ⟨k, v⟩ := c
    have ⟨_, hk, ht⟩ := Memory.wf_cons.mp h
    unfold memPut
    split_ifs with h1 h2 h3 h4
    · rfl
    · by_cases h5 : x < a
      · have : x < k := by omega
        simp [memGet, h5, this]
      · simp [memGet, h5, hx]
    · subst h3
      by_cases h5 : x < a
      · rw [memGet_below hk (Nat.le_of_lt h5)]; simp [memGet, h5]
      · simp [memGet, h5, hx]
    · subst h3; simp [memGet, hx]
    · simp [memGet, ih ht]

theorem memPut_head {m : Mem} {a k : Nat} {b : Byte} (hm : Memory.wf m = true) (h : ∀ c ∈ m.head?, k < c.1) (ha : k < a) :
    ∀ c ∈ (memPut m a b).head?, k < c.1 := by
  cases m with
  | nil => unfold memPut; split <;> simp [ha]
  | cons c t =>
    obtain ⟨j, v⟩ := c
    have ⟨_, hj, _⟩ := Memory.wf_cons.mp hm
    have hkj : k < j := h (j, v) (by simp)
    unfold memPut
    split_ifs with h1 h2 h3 h4
    · simpa using hkj
    · simpa using ha
    · intro c hc; exact Nat.lt_trans hkj (hj c hc)
    · simpa using ha
    · simpa using hkj

/-- A write of one byte keeps the canonical form. -/
theorem memPut_wf (m : Mem) (a : Nat) (b : Byte) (h : Memory.wf m = true) : Memory.wf (memPut m a b) = true := by
  induction m with
  | nil => unfold memPut; split <;> simp_all [Memory.wf]
  | cons c t ih =>
    obtain ⟨k, v⟩ := c
    have ⟨hv, hk, ht⟩ := Memory.wf_cons.mp h
    unfold memPut
    split_ifs with h1 h2 h3 h4
    · exact h
    · exact Memory.wf_cons.mpr ⟨h2, by simpa using h1, h⟩
    · exact ht
    · exact Memory.wf_cons.mpr ⟨h4, h3 ▸ hk, ht⟩
    · exact Memory.wf_cons.mpr ⟨hv, memPut_head ht hk (by omega), ih ht⟩

/-! ### Ranges of bytes -/

theorem memWrite_wf (m : Mem) (a n v : Nat) (h : Memory.wf m = true) : Memory.wf (memWrite m a n v) = true := by
  induction n generalizing m a v with
  | zero => exact h
  | succ n ih => exact ih _ _ _ (memPut_wf _ _ _ h)

theorem memWriteBytes_wf (m : Mem) (a : Nat) (bs : List Byte) (h : Memory.wf m = true) :
    Memory.wf (memWriteBytes m a bs) = true := by
  induction bs generalizing m a with
  | nil => exact h
  | cons b t ih => exact ih _ _ (memPut_wf _ _ _ h)

/-- A write of `n` bytes leaves every byte outside them alone. -/
theorem memGet_memWrite_other (m : Mem) (a n v x : Nat) (h : Memory.wf m = true) (hx : x < a ∨ a + n ≤ x) :
    memGet (memWrite m a n v) x = memGet m x := by
  induction n generalizing m a v with
  | zero => rfl
  | succ n ih =>
    unfold memWrite
    rw [ih _ _ _ (memPut_wf _ _ _ h) (by omega), memGet_memPut_other _ _ _ _ h (by omega)]

theorem memGet_memWriteBytes_other (m : Mem) (a : Nat) (bs : List Byte) (x : Nat) (h : Memory.wf m = true)
    (hx : x < a ∨ a + bs.length ≤ x) : memGet (memWriteBytes m a bs) x = memGet m x := by
  induction bs generalizing m a with
  | nil => rfl
  | cons b t ih =>
    simp only [List.length_cons] at hx
    unfold memWriteBytes
    rw [ih _ _ (memPut_wf _ _ _ h) (by omega), memGet_memPut_other _ _ _ _ h (by omega)]

theorem memRead_memWrite_other (m : Mem) (a n v x k : Nat) (h : Memory.wf m = true) (hx : x + k ≤ a ∨ a + n ≤ x) :
    memRead (memWrite m a n v) x k = memRead m x k := by
  induction k generalizing x with
  | zero => rfl
  | succ k ih =>
    unfold memRead
    rw [memGet_memWrite_other _ _ _ _ _ h (by omega), ih _ (by omega)]

/-- What is written is what is read: the low `n` bytes of the value. -/
theorem memRead_memWrite_same (m : Mem) (a n v : Nat) (h : Memory.wf m = true) :
    memRead (memWrite m a n v) a n = v % 256 ^ n := by
  induction n generalizing m a v with
  | zero => simp [memRead, Nat.mod_one]
  | succ n ih =>
    unfold memRead memWrite
    rw [ih _ _ _ (memPut_wf _ _ _ h), memGet_memWrite_other _ _ _ _ _ (memPut_wf _ _ _ h) (by omega),
      memGet_memPut_same _ _ _ h]
    simp only [BitVec.toNat_ofNat]
    rw [show 2 ^ 8 = 256 from rfl, show 256 ^ (n + 1) = 256 * 256 ^ n from Nat.pow_succ' .., Nat.mod_mul]

/-! ### The memory of the state -/

theorem State.stored_wf (s : State) (m : Mem) (key n : Nat) (h : Memory.wf m = true) :
    Memory.wf (s.stored m key n).mem = true := h

theorem State.wr_wf (s : State) (key n v : Nat) (h : Memory.wf s.mem = true) : Memory.wf (s.wr key n v).mem = true :=
  memWrite_wf _ _ _ _ h

theorem State.wrBytes_wf (s : State) (key : Nat) (bs : List Byte) (h : Memory.wf s.mem = true) :
    Memory.wf (s.wrBytes key bs).mem = true := memWriteBytes_wf _ _ _ h

theorem State.trapWr_wf (s : State) (off n v : Nat) (h : Memory.wf s.mem = true) :
    Memory.wf (s.trapWr off n v).mem = true := State.wr_wf _ _ _ _ h

theorem State.trapWords_wf (s : State) (off : Nat) (ws : List Nat) (h : Memory.wf s.mem = true) :
    Memory.wf (s.trapWords off ws).mem = true := by
  induction ws generalizing s off with
  | nil => exact h
  | cons w t ih => exact ih _ _ (State.trapWr_wf _ _ _ _ h)

theorem State.ownWrite_wf (s : State) (off n v : Nat) (h : Memory.wf s.mem = true) :
    Memory.wf (s.ownWrite off n v).mem = true := by
  unfold State.ownWrite
  dsimp only
  split_ifs
  · exact h
  · exact h
  · exact State.wr_wf _ _ _ _ h
  · exact h

/-- Memory has its canonical form at reset. -/
theorem State.reset_wf : Memory.wf State.reset.mem = true := rfl

/-- A word read back from where it was written. -/
theorem State.rd_wr_same (s : State) (key n v : Nat) (h : Memory.wf s.mem = true) :
    (s.wr key n v).rd key n = v % 256 ^ n := memRead_memWrite_same _ _ _ _ h

theorem State.rd_wr_other (s : State) (key n v x k : Nat) (h : Memory.wf s.mem = true)
    (hx : x + k ≤ key ∨ key + n ≤ x) : (s.wr key n v).rd x k = s.rd x k :=
  memRead_memWrite_other _ _ _ _ _ _ h hx

end Sys2Proof.Machine
end

