-- ==== Sys2Proof/Laws/Ops.lean ====
section
/-! SUPPORT. What each shared operation can do, said once: writing a register, issuing, finishing, taking an
exception, the clerk's turn. -/

namespace Sys2Proof.Machine

/-! ### Registers -/

theorem Clerk.reg_setReg_same (c : Clerk) (d : Reg) (v : Dword) : (c.setReg d v).reg d = if d = 0 then 0 else v := by
  unfold Clerk.reg Clerk.setReg
  split
  · rfl
  · simp only [Vector.get, Vector.set]
    exact Array.getElem_set_self _

theorem Clerk.reg_setReg_other (c : Clerk) (d r : Reg) (v : Dword) (h : r ≠ d) : (c.setReg d v).reg r = c.reg r := by
  have hn : d.toNat ≠ r.toNat := fun e => h (BitVec.eq_of_toNat_eq e.symm)
  unfold Clerk.reg Clerk.setReg
  split
  · rfl
  · split
    · rfl
    · simp only [Vector.get, Vector.set, Array.getElem_set]
      exact if_neg hn

/-- A register written reads its value, but for `s0`, which reads 0 (R199, R214). -/
theorem State.reg_setReg_same (s : State) (d : Reg) (v : Dword) : (s.setReg d v).reg d = if d = 0 then 0 else v :=
  s.core.clerk.reg_setReg_same d v

/-- Every other register keeps its value. -/
theorem State.reg_setReg_other (s : State) (d r : Reg) (v : Dword) (h : r ≠ d) : (s.setReg d v).reg r = s.reg r :=
  s.core.clerk.reg_setReg_other d r v h

/-- What the common end of an instruction that writes one register does, and that it does nothing else. -/
theorem State.finish_spec (s : State) (d : Reg) (v : Dword) (n : Nat) :
    (s.finish d v n).reg d = (if d = 0 then 0 else v) ∧ (∀ r, r ≠ d → (s.finish d v n).reg r = s.reg r) ∧
    (s.finish d v n).core.clerk.pc = s.core.clerk.pc + BitVec.ofNat 48 n ∧
    s.finish d v n = { s with core := { s.core with clerk := { s.core.clerk with
      regs := (s.finish d v n).core.clerk.regs, pc := (s.finish d v n).core.clerk.pc } } } := by
  refine ⟨s.reg_setReg_same d v, fun r h => s.reg_setReg_other d r v h, ?_, ?_⟩
  · simp [State.finish, State.advance, State.setReg, State.updClerk]
  · simp only [State.finish, State.advance, State.setReg, State.updClerk, Clerk.setReg]
    split <;> rfl

/-! ### Pending causes -/

theorem mem_insertPend {p q : Pend} : ∀ {l : List Pend}, q ∈ insertPend p l → q = p ∨ q ∈ l
  | [], h => by simpa [insertPend] using h
  | x :: t, h => by
    unfold insertPend at h
    split at h
    · simpa using h
    · split at h
      · exact .inr h
      · rcases List.mem_cons.1 h with rfl | h
        · exact .inr (List.mem_cons_self ..)
        · exact (mem_insertPend h).imp_right (List.mem_cons_of_mem _)

/-- Pending causes that stand in strictly ascending order of their codes do so with one more (R318). -/
theorem insertPend_ascending {p : Pend} : ∀ {l : List Pend}, l.Pairwise (fun x y => x.code < y.code) →
    (insertPend p l).Pairwise fun x y => x.code < y.code
  | [], _ => List.pairwise_singleton ..
  | x :: t, h => by
    obtain ⟨hx, ht⟩ := List.pairwise_cons.1 h
    unfold insertPend
    split
    · rename_i hp
      exact List.pairwise_cons.2 ⟨fun y hy => by
        rcases List.mem_cons.1 hy with rfl | hy
        · exact hp
        · exact BitVec.lt_trans hp (hx y hy), h⟩
    · split
      · exact h
      · rename_i hp hq
        refine List.pairwise_cons.2 ⟨fun y hy => ?_, insertPend_ascending ht⟩
        rcases mem_insertPend hy with rfl | hy
        · bv_omega
        · exact hx y hy

/-! ### The trap area -/

/-- Words written to the trap area change memory and the errors known in it, and may give a `waitw` its value. -/
theorem State.trapWords_eq (s : State) (off : Nat) (ws : List Nat) : ∃ m p l,
    s.trapWords off ws = { s with mem := m, poison := p, core := { s.core with clerk :=
      { s.core.clerk with unfin := l } } } := by
  induction ws generalizing s off with
  | nil => exact ⟨s.mem, s.poison, s.core.clerk.unfin, rfl⟩
  | cons w t ih =>
    obtain ⟨m, p, l, h⟩ := ih (s.trapWr off 8 w) (off + 8)
    exact ⟨m, p, l, by rw [State.trapWords, h]; rfl⟩

theorem State.trapWords_coreId (s : State) (off : Nat) (ws : List Nat) : (s.trapWords off ws).coreId = s.coreId := by
  obtain ⟨m, p, l, h⟩ := s.trapWords_eq off ws
  rw [h]

/-- Outside the words written every byte of memory reads as before. -/
theorem State.trapWords_other (s : State) (off : Nat) (ws : List Nat) (a : Nat) (h : Memory.wf s.mem = true)
    (ha : a < scratchKey s.coreId (trapArea + off) ∨ scratchKey s.coreId (trapArea + off) + 8 * ws.length ≤ a) :
    memGet (s.trapWords off ws).mem a = memGet s.mem a := by
  induction ws generalizing s off with
  | nil => rfl
  | cons w t ih =>
    have e : scratchKey s.coreId (trapArea + (off + 8)) = scratchKey s.coreId (trapArea + off) + 8 := by
      simp only [scratchKey]; omega
    simp only [List.length_cons] at ha
    rw [State.trapWords, ih (s.trapWr off 8 w) (off + 8) (State.trapWr_wf _ _ _ _ h)
      (by rw [show (s.trapWr off 8 w).coreId = s.coreId from rfl, e]; omega)]
    exact memGet_memWrite_other _ _ _ _ _ h (by omega)

theorem State.trapRd_trapWords_other (s : State) (off o n : Nat) (ws : List Nat) (h : Memory.wf s.mem = true)
    (ho : o + n ≤ off ∨ off + 8 * ws.length ≤ o) : (s.trapWords off ws).trapRd o n = s.trapRd o n := by
  induction ws generalizing s off with
  | nil => rfl
  | cons w t ih =>
    simp only [List.length_cons] at ho
    rw [State.trapWords, ih (s.trapWr off 8 w) (off + 8) (State.trapWr_wf _ _ _ _ h) (by omega)]
    exact State.rd_wr_other _ _ _ _ _ _ h (by
      rw [show (s.trapWr off 8 w).coreId = s.coreId from rfl]; simp only [scratchKey]; omega)

/-- The `i`-th word written reads back. -/
theorem State.trapRd_trapWords (s : State) (off i : Nat) (ws : List Nat) (h : Memory.wf s.mem = true)
    (hi : i < ws.length) : (s.trapWords off ws).trapRd (off + 8 * i) 8 = ws[i] % 2 ^ 64 := by
  induction ws generalizing s off i with
  | nil => simp at hi
  | cons w t ih =>
    have hw := State.trapWr_wf s off 8 w h
    rw [State.trapWords]
    cases i with
    | zero =>
      rw [State.trapRd_trapWords_other _ _ _ _ _ hw (by omega)]
      exact State.rd_wr_same _ _ _ _ h
    | succ i =>
      have := ih (s.trapWr off 8 w) (off + 8) i hw (by simpa using hi)
      rw [show off + 8 * (i + 1) = off + 8 + 8 * i by omega, this]; rfl

/-! ### Finished instructions before an exception -/

/-- Setting a presence bit may wake the clerk from `wfe`, and touches nothing else. -/
@[simp] theorem Clerk.nowPresent_keeps (c : Clerk) (r : Reg) :
    (c.nowPresent r).pc = c.pc ∧ (c.nowPresent r).tvec = c.tvec ∧ (c.nowPresent r).frozen = c.frozen ∧
    (c.nowPresent r).mode = c.mode ∧ (c.nowPresent r).unfin = c.unfin ∧ (c.nowPresent r).redo = c.redo ∧
    (c.nowPresent r).latches = c.latches ∧ (c.nowPresent r).kept = c.kept := by
  unfold Clerk.nowPresent
  split <;> simp [Clerk.wake]

theorem Clerk.complete_keeps (c : Clerk) (u : Unfin) (v : Qword) :
    (c.complete u v).pc = c.pc ∧ (c.complete u v).tvec = c.tvec ∧ (c.complete u v).frozen = c.frozen ∧
    (c.complete u v).mode = c.mode ∧ (c.complete u v).unfin = c.unfin ∧ (c.complete u v).redo = c.redo ∧
    (c.complete u v).latches = c.latches ∧ (c.complete u v).kept = c.kept := by
  unfold Clerk.complete
  split <;> first
    | exact ⟨rfl, rfl, rfl, rfl, rfl, rfl, rfl, rfl⟩
    | simp
    | (split <;> simp [Clerk.wake])

theorem Clerk.completes_keep (l : List Unfin) (c : Clerk) :
    let d := l.foldl (fun c u => match u.done with
      | some v => c.complete u v
      | none => c) c
    d.pc = c.pc ∧ d.tvec = c.tvec ∧ d.frozen = c.frozen ∧ d.mode = c.mode ∧ d.unfin = c.unfin ∧
      d.redo = c.redo ∧ d.latches = c.latches ∧ d.kept = c.kept := by
  induction l generalizing c with
  | nil => exact ⟨rfl, rfl, rfl, rfl, rfl, rfl, rfl, rfl⟩
  | cons u t ih =>
    cases hv : u.done with
    | none => simpa [hv] using ih c
    | some v =>
      obtain ⟨a1, a2, a3, a4, a5, a6, a7, a8⟩ := c.complete_keeps u v
      simpa [hv, a1, a2, a3, a4, a5, a6, a7, a8] using ih (c.complete u v)

/-- Writing the finished instructions' destinations leaves the PC, the mode, TVEC, the list, what waits to be performed again
and what the home still holds. -/
theorem Clerk.drain_keeps (c : Clerk) : c.drain.pc = c.pc ∧ c.drain.tvec = c.tvec ∧ c.drain.frozen = c.frozen ∧
    c.drain.mode = c.mode ∧ c.drain.unfin = c.unfin ∧ c.drain.redo = c.redo ∧ c.drain.latches = c.latches ∧
    c.drain.kept = c.kept :=
  Clerk.completes_keep c.unfin c

/-- With nothing finished there is nothing to write. -/
theorem Clerk.drain_none (c : Clerk) (h : ∀ u ∈ c.unfin, u.done = none) : c.drain = c := by
  unfold Clerk.drain
  generalize c.unfin = l at h
  suffices ∀ d : Clerk, l.foldl (fun c u => match u.done with
      | some v => c.complete u v
      | none => c) d = d from this c
  induction l with
  | nil => intro d; rfl
  | cons u t ih =>
    intro d
    simp only [List.foldl_cons, h u (by simp)]
    exact ih (fun x hx => h x (by simp [hx])) d

/-! ### Taking an exception -/

/-- With the cause registers not frozen, taking an exception changes the clerk, and memory in the trap area: the
finished instructions write their registers, the PC is TVEC, the mode supervisor, the cause registers hold the cause
and freeze, and nothing is left unfinished; what was under way is kept beside. -/
theorem State.enterTrap_spec (s : State) (t : Trap) (k : Option Nat) (rest : List (List Nat))
    (h : s.core.clerk.frozen = false) :
    ∃ m p, s.enterTrap t k rest = { s with
        mem := m
        poison := p
        core := { s.core with clerk := { s.core.clerk.drain with
          pc := s.core.clerk.tvec.setWidth 48 &&& ~~~3
          cause := BitVec.ofNat 64 (b2n t.async * 2 ^ 8 + t.cause % 256)
          faddress := BitVec.ofNat 64 (t.addr % 2 ^ 48)
          frozen := true, mode := .supervisor, unfin := [], stepping := false
          joinQueued := s.core.clerk.drain.joinQueued || joinIn (s.replayQueue k rest)
          stepped := if t.cause = 0x12 then none else s.core.clerk.drain.stepped
          redo := none, latches := s.core.clerk.keptLatches
          kept := s.core.clerk.kept ++ s.core.clerk.underWay k, run := .running } } } ∧
      (Memory.wf s.mem = true → Memory.wf m = true ∧ ∀ a,
        a < scratchKey s.coreId trapArea ∨ scratchKey s.coreId (trapArea + 0x240) ≤ a → memGet m a = memGet s.mem a) := by
  obtain ⟨d1, d2, d3, d4, d5, d6, d7, d8⟩ := s.core.clerk.drain_keeps
  unfold State.enterTrap
  simp only [h, Bool.false_eq_true, if_false]
  generalize hw : [_, _, _, _, _, (0 : Nat), 0, 0] = ws
  have hl : ws.length = 8 := by rw [← hw]; rfl
  generalize hq : List.take 64 _ = q
  have hql : q.length ≤ 64 := by rw [← hq]; exact List.length_take_le _ _
  have hm : (s.updClerk Clerk.drain).mem = s.mem := rfl
  have hc : (s.updClerk Clerk.drain).coreId = s.coreId := rfl
  have hmem : Memory.wf s.mem = true → Memory.wf (((s.updClerk Clerk.drain).trapWords 0 ws).trapWords 0x40 q).mem = true ∧
      ∀ a, a < scratchKey s.coreId trapArea ∨ scratchKey s.coreId (trapArea + 0x240) ≤ a →
        memGet (((s.updClerk Clerk.drain).trapWords 0 ws).trapWords 0x40 q).mem a = memGet s.mem a := by
    intro hwf
    have h1 := State.trapWords_wf (s.updClerk Clerk.drain) 0 ws hwf
    refine ⟨State.trapWords_wf _ _ _ h1, fun a ha => ?_⟩
    refine (State.trapWords_other _ _ _ _ h1 ?_).trans (State.trapWords_other _ _ _ _ hwf ?_)
    · rw [State.trapWords_coreId, hc]; simp only [scratchKey] at ha ⊢; generalize trapArea = b at *; omega
    · rw [hc]; simp only [scratchKey] at ha ⊢; generalize trapArea = b at *; omega
  obtain ⟨m1, p1, l1, e1⟩ := (s.updClerk Clerk.drain).trapWords_eq 0 ws
  obtain ⟨m2, p2, l2, e2⟩ := ((s.updClerk Clerk.drain).trapWords 0 ws).trapWords_eq 0x40 q
  refine ⟨m2, p2, ?_, ?_⟩
  · rw [e2, e1]
    simp [State.updClerk, Clerk.setPc, Clerk.keptLatches, d2, d6, d7, d8]
  · rw [e2] at hmem
    exact hmem

/-! ### Checks at issue, and what a save leaves -/

theorem State.checksWait_false (s : State) (x : Src) (page : Option Nat) (hw : page.any (s.walkHeld s.ctx) = false)
    (hr : s.core.clerk.unfin.any Unfin.setsRules = false) : s.checksWait x page = false := by
  simp [State.checksWait, hw, hr]

/-- Where nothing makes its checks wait, an instruction issues as its checks say. -/
theorem State.checked_now (s : State) (x : Src) (page : Option Nat) (ea : Nat) (b c : Dword) (now : State)
    (hw : page.any (s.walkHeld s.ctx) = false) (hr : s.core.clerk.unfin.any Unfin.setsRules = false) :
    s.checked x page ea b c now = now := by
  simp [State.checked, s.checksWait_false x page hw hr]

/-- Otherwise it issues all the same, unchecked. -/
theorem State.checked_later (s : State) (x : Src) (page : Option Nat) (ea : Nat) (b c : Dword) (now : State)
    (h : s.checksWait x page = true) :
    s.checked x page ea b c now = s.push x { x.unfin ea b c 0 (.result 0) with unchecked := true } := by
  simp [State.checked, h]

@[simp] theorem Core.left_clerk (x : BitVec 12) (c : Core) : (c.left x).clerk = Clerk.reset := rfl
@[simp] theorem Core.left_ports (x : BitVec 12) (c : Core) : (c.left x).ports = List.replicate 16 Port.reset := rfl
@[simp] theorem Core.left_tmu (x : BitVec 12) (c : Core) : (c.left x).tmu = Tmu.reset := rfl
@[simp] theorem Core.left_fab (x : BitVec 12) (c : Core) : (c.left x).fab = Fabric.reset := rfl
@[simp] theorem Core.left_mes (x : BitVec 12) (c : Core) : (c.left x).mes = c.mes.map Me.entered := rfl

/-- A channel that runs for another context stands through a save, and every other is at its reset value. -/
theorem Core.left_ces (x : BitVec 12) (c : Core) : (c.left x).ces = c.ces.map fun e => if e.foreign x then e else Ce.reset :=
  rfl

end Sys2Proof.Machine
end

