-- ==== Sys2Proof/Safety.lean ====
section
/-! DEFINITION. What counts as a safe run: the terms in which statements speak of every step. -/

namespace Sys2Proof.Machine

/-- Memory keeps its canonical form. -/
def State.memOk (s : State) : Bool := Memory.wf s.mem

/-- The PC of the core's clerk is 4-byte aligned (R197). -/
def State.pcOk (s : State) : Bool := s.core.clerk.pc.extractLsb' 0 2 == 0

/-- The step goes on: it answers a next state. -/
def Steps (s t : State) : Prop := step s = .next t

end Sys2Proof.Machine
end

