-- ==== Sys2Proof/Tests/Slice0.lean ====
section
/-! SUPPORT. Tests: words written out from the encoding tables of the spec (R197 to R211, R259 to R300), terms that are
not well formed, single steps with results worked by hand from the spec, and, for every statement with hypotheses, a
concrete state and operands that meet them. -/

namespace Sys2Proof.Tests

open Sys2Proof Sys2Proof.Machine Sys2Proof.Claims

/-! ### Decoding -/

/-- The words decode to the instruction. -/
def wordIs (w v l : Word) (i : Instr) : Bool := (decode w v l).toOption == some i

/-- The 128 bits decode to the stream command. -/
def cmdIs (x : Nat) (i : Instr) : Bool := (decodeCommand (BitVec.ofNat 128 x)).toOption == some i

/-- Words of the integer class (R216, R218). -/
theorem test_decode_integer1 : [
    wordIs 0x001CC500 0 0 (.add 5 6 7),
    wordIs 0x009CC500 0 0 (.sub 5 6 7),
    wordIs 0x011CC500 0 0 (.mul 5 6 7),
    wordIs 0x019CC500 0 0 (.mulh 5 6 7),
    wordIs 0x021CC500 0 0 (.mulhu 5 6 7),
    wordIs 0x029CC500 0 0 (.div 5 6 7),
    wordIs 0x031CC500 0 0 (.divu 5 6 7),
    wordIs 0x039CC500 0 0 (.rem 5 6 7),
    wordIs 0x041CC500 0 0 (.remu 5 6 7),
    wordIs 0x049CC500 0 0 (.and 5 6 7),
    wordIs 0x051CC500 0 0 (.or 5 6 7),
    wordIs 0x059CC500 0 0 (.xor 5 6 7),
    wordIs 0x061CC500 0 0 (.andn 5 6 7),
    wordIs 0x069CC500 0 0 (.orn 5 6 7),
    wordIs 0x071CC500 0 0 (.sll 5 6 7),
    wordIs 0x079CC500 0 0 (.srl 5 6 7),
    wordIs 0x081CC500 0 0 (.sra 5 6 7),
    wordIs 0x089CC500 0 0 (.rol 5 6 7)].all id = true := by
  decide

/-- Words of the integer class (R216, R218). -/
theorem test_decode_integer2 : [
    wordIs 0x091CC500 0 0 (.ror 5 6 7),
    wordIs 0x099CC500 0 0 (.min 5 6 7),
    wordIs 0x0A1CC500 0 0 (.max 5 6 7),
    wordIs 0x0A9CC500 0 0 (.minu 5 6 7),
    wordIs 0x0B1CC500 0 0 (.maxu 5 6 7),
    wordIs 0x0B9CC500 0 0 (.seq 5 6 7),
    wordIs 0x0C1CC500 0 0 (.sne 5 6 7),
    wordIs 0x0C9CC500 0 0 (.slt 5 6 7),
    wordIs 0x0D1CC500 0 0 (.sltu 5 6 7),
    wordIs 0x0D9CC500 0 0 (.sle 5 6 7),
    wordIs 0x0E1CC500 0 0 (.sleu 5 6 7),
    wordIs 0x0E80C500 0 0 (.clz 5 6),
    wordIs 0x0F00C500 0 0 (.ctz 5 6),
    wordIs 0x0F80C500 0 0 (.popc 5 6),
    wordIs 0x1000C500 0 0 (.sext8 5 6),
    wordIs 0x1080C500 0 0 (.sext16 5 6),
    wordIs 0x1100C500 0 0 (.sext32 5 6),
    wordIs 0x1180C500 0 0 (.zext32 5 6)].all id = true := by
  decide

/-- Words of the integer class (R216, R218). -/
theorem test_decode_integer3 : [
    wordIs 0x1200C500 0 0 (.bswap 5 6)].all id = true := by
  decide

/-- Words of the float class (R222 to R225). -/
theorem test_decode_float : [
    wordIs 0x001CC504 0 0 (.fadd 5 6 7),
    wordIs 0x009CC504 0 0 (.fsub 5 6 7),
    wordIs 0x011CC504 0 0 (.fmul 5 6 7),
    wordIs 0x019CC504 0 0 (.fdiv 5 6 7),
    wordIs 0x0200C504 0 0 (.fsqrt 5 6),
    wordIs 0x029CC504 0 0 (.fmin 5 6 7),
    wordIs 0x031CC504 0 0 (.fmax 5 6 7),
    wordIs 0x039CC504 0 0 (.feq 5 6 7),
    wordIs 0x041CC504 0 0 (.flt 5 6 7),
    wordIs 0x049CC504 0 0 (.fle 5 6 7),
    wordIs 0x051CC504 0 0 (.fma 5 6 7),
    wordIs 0x0580C504 0 0 (.fcvtF32I64 5 6),
    wordIs 0x0600C504 0 0 (.fcvtI64F32 5 6),
    wordIs 0x0680C504 0 0 (.fcvtBf16F32 5 6),
    wordIs 0x0700C504 0 0 (.fcvtF32Bf16 5 6),
    wordIs 0x0780C504 0 0 (.fclass 5 6),
    wordIs 0x0800C504 0 0 (.fabs 5 6),
    wordIs 0x0880C504 0 0 (.fneg 5 6)].all id = true := by
  decide

/-- Words of the sync class (R238 to R243). -/
theorem test_decode_sync : [
    wordIs 0x0000C508 0 0 (.acq 5 6),
    wordIs 0x0080C508 0 0 (.acqs 5 6),
    wordIs 0x0100C008 0 0 (.rel 6),
    wordIs 0x019CC508 0 0 (.bind 5 6 7),
    wordIs 0x0200C508 0 0 (.unbind 5 6),
    wordIs 0x029CC508 0 0 (.waitw 5 6 7),
    wordIs 0x031CC508 0 0 (.join 5 6 7),
    wordIs 0x03800008 0 0 (.leave),
    wordIs 0x04000008 0 0 (.cbar),
    wordIs 0x049CC508 0 0 (.loan 5 6 7),
    wordIs 0x0500C508 0 0 (.lstat 5 6)].all id = true := by
  decide

/-- Words of the task class (R244 to R247). -/
theorem test_decode_task : [
    wordIs 0x0000C50C 0 0 (.spawn 5 6),
    wordIs 0x009CC50C 0 0 (.arm 5 6 7),
    wordIs 0x0100C50C 0 0 (.rls 5 6),
    wordIs 0x0180000C 0 0 (.tend),
    wordIs 0x0200000C 0 0 (.tyield),
    wordIs 0x0280050C 0 0 (.tself 5),
    wordIs 0x0300050C 0 0 (.tage 5)].all id = true := by
  decide

/-- Words of the tag class (R248, R249). -/
theorem test_decode_tag : [
    wordIs 0x0000C510 0 0 (.tlook 5 6),
    wordIs 0x0080C510 0 0 (.tins 5 6),
    wordIs 0x0100C510 0 0 (.tdel 5 6),
    wordIs 0x019CC010 0 0 (.xbank 6 7)].all id = true := by
  decide

/-- Words of the stream class (R250 to R253). -/
theorem test_decode_stream : [
    wordIs 0x00006014 0 0 (.issue 3),
    wordIs 0x00C32114 0 0 (.issuex 0x4321),
    wordIs 0x011CC314 0 0 (.kmov 3 6 7),
    wordIs 0x0180C314 0 0 (.kld 3 6),
    wordIs 0x0200C314 0 0 (.kst 3 6),
    wordIs 0x029CC014 0 0 (.cfgld 6 7),
    wordIs 0x03000014 0 0 (.cfgwait),
    wordIs 0x0380C014 0 0 (.wbar 6),
    wordIs 0x0400C514 0 0 (.hwait 5 6),
    wordIs 0x0480C014 0 0 (.halloc 6),
    wordIs 0x0500C014 0 0 (.hfree 6)].all id = true := by
  decide

/-- Words of the system class (R254, R255). -/
theorem test_decode_system : [
    wordIs 0x00208518 0 0 (.mfs 5 0x104),
    wordIs 0x00A08518 0 0 (.mts 0x104 5),
    wordIs 0x01556018 0 0 (.trap 0x2ab),
    wordIs 0x01800018 0 0 (.trapret),
    wordIs 0x02000018 0 0 (.tack),
    wordIs 0x02800018 0 0 (.halt),
    wordIs 0x03000018 0 0 (.wfe),
    wordIs 0x03800018 0 0 (.nop),
    wordIs 0x04000018 0 0 (.brk),
    wordIs 0x04800018 0 0 (.ifence)].all id = true := by
  decide

/-- Words of the fence class (R237). -/
theorem test_decode_fence : [
    wordIs 0x0000001C 0 0 (.fence .e),
    wordIs 0x0080001C 0 0 (.fence .c),
    wordIs 0x0100001C 0 0 (.fence .w),
    wordIs 0x0180001C 0 0 (.fence .m),
    wordIs 0x0200001C 0 0 (.fence .s)].all id = true := by
  decide

/-- Words of the immediate class (R219, R220, R226, R227, R233, R234). -/
theorem test_decode_immediate1 : [
    wordIs 0xAC1CC501 0 0 (.addi 5 6 0x2b07),
    wordIs 0xAC1CC505 0 0 (.andi 5 6 0x2b07),
    wordIs 0xAC1CC509 0 0 (.ori 5 6 0x2b07),
    wordIs 0xAC1CC50D 0 0 (.xori 5 6 0x2b07),
    wordIs 0x00B4C511 0 0 (.slli 5 6 0x2d),
    wordIs 0x00B4C515 0 0 (.srli 5 6 0x2d),
    wordIs 0x00B4C519 0 0 (.srai 5 6 0x2d),
    wordIs 0xAC1CC51D 0 0 (.slti 5 6 0x2b07),
    wordIs 0xAC1CC521 0 0 (.sltui 5 6 0x2b07),
    wordIs 0xB579A525 0 0 (.lui 5 0x5abcd),
    wordIs 0xAC1CC529 0 0 (.ld8 5 6 0x2b07),
    wordIs 0xAC1CC52D 0 0 (.ld16 5 6 0x2b07),
    wordIs 0xAC1CC531 0 0 (.ld32 5 6 0x2b07),
    wordIs 0xAC1CC535 0 0 (.ld64 5 6 0x2b07),
    wordIs 0xAC1CC539 0 0 (.lds8 5 6 0x2b07),
    wordIs 0xAC1CC53D 0 0 (.lds16 5 6 0x2b07),
    wordIs 0xAC1CC541 0 0 (.lds32 5 6 0x2b07),
    wordIs 0xAC1CC545 0 0 (.st8 6 5 0x2b07)].all id = true := by
  decide

/-- Words of the immediate class (R219, R220, R226, R227, R233, R234). -/
theorem test_decode_immediate2 : [
    wordIs 0xAC1CC549 0 0 (.st16 6 5 0x2b07),
    wordIs 0xAC1CC54D 0 0 (.st32 6 5 0x2b07),
    wordIs 0xAC1CC551 0 0 (.st64 6 5 0x2b07),
    wordIs 0xAC1CC755 0 0 (.beq 6 7 0x2b07),
    wordIs 0xAC1CC759 0 0 (.bne 6 7 0x2b07),
    wordIs 0xAC1CC75D 0 0 (.blt 6 7 0x2b07),
    wordIs 0xAC1CC761 0 0 (.bge 6 7 0x2b07),
    wordIs 0xAC1CC765 0 0 (.bltu 6 7 0x2b07),
    wordIs 0xAC1CC769 0 0 (.bgeu 6 7 0x2b07),
    wordIs 0xB579A56D 0 0 (.jal 5 0x5abcd),
    wordIs 0xAC1CC571 0 0 (.jalr 5 6 0x2b07)].all id = true := by
  decide

/-- The two-word forms (R203, R235). -/
theorem test_decode_atomics : [
    wordIs 0x001CC502 0x8F310000 0 (.amoadd 5 6 7 0x8F31 ⟨.rlx, .e, false⟩),
    wordIs 0x009CC502 0x8F300013 0 (.amoand 5 6 7 0x8F30 ⟨.acq, .c, true⟩),
    wordIs 0x011CC502 0x8F2F0024 0 (.amoor 5 6 7 0x8F2F ⟨.rel, .w, false⟩),
    wordIs 0x019CC502 0x8F2E0037 0 (.amoxor 5 6 7 0x8F2E ⟨.ar, .m, true⟩),
    wordIs 0x021CC502 0x8F2D0008 0 (.amomin 5 6 7 0x8F2D ⟨.rlx, .s, false⟩),
    wordIs 0x029CC502 0x8F2C0011 0 (.amomax 5 6 7 0x8F2C ⟨.acq, .e, true⟩),
    wordIs 0x031CC502 0x8F2B0022 0 (.amominu 5 6 7 0x8F2B ⟨.rel, .c, false⟩),
    wordIs 0x039CC502 0x8F2A0035 0 (.amomaxu 5 6 7 0x8F2A ⟨.ar, .w, true⟩),
    wordIs 0x041CC502 0x8F290006 0 (.amoswap 5 6 7 0x8F29 ⟨.rlx, .m, false⟩),
    wordIs 0x049CC502 0x8F280919 0 (.amocas 5 6 7 9 0x8F28 ⟨.acq, .s, true⟩),
    wordIs 0x051CC502 0x8F270020 0 (.amofadd 5 6 7 0x8F27 ⟨.rel, .e, false⟩)].all id = true := by
  decide

/-- The three-word forms (R204, R221, R234). -/
theorem test_decode_literal : [
    wordIs 0x00000503 0 0x89ABCDEF (.li 5 0x89ABCDEF),
    wordIs 0x00000507 0 0x89ABCDEF (.lih 5 0x89ABCDEF),
    wordIs 0x0000C50B 0 0x89ABCDEF (.addli 5 6 0x89ABCDEF),
    wordIs 0x0000C50F 0 0x89ABCDEF (.ldl .u8 5 6 0x89ABCDEF),
    wordIs 0x0000C50F 1 0x89ABCDEF (.ldl .u16 5 6 0x89ABCDEF),
    wordIs 0x0000C50F 2 0x89ABCDEF (.ldl .u32 5 6 0x89ABCDEF),
    wordIs 0x0000C50F 3 0x89ABCDEF (.ldl .u64 5 6 0x89ABCDEF),
    wordIs 0x0000C50F 4 0x89ABCDEF (.ldl .s8 5 6 0x89ABCDEF),
    wordIs 0x0000C50F 5 0x89ABCDEF (.ldl .s16 5 6 0x89ABCDEF),
    wordIs 0x0000C50F 6 0x89ABCDEF (.ldl .s32 5 6 0x89ABCDEF),
    wordIs 0x0000C513 0 0x89ABCDEF (.stl .b8 6 5 0x89ABCDEF),
    wordIs 0x0000C513 1 0x89ABCDEF (.stl .b16 6 5 0x89ABCDEF),
    wordIs 0x0000C513 2 0x89ABCDEF (.stl .b32 6 5 0x89ABCDEF),
    wordIs 0x0000C513 3 0x89ABCDEF (.stl .b64 6 5 0x89ABCDEF)].all id = true := by
  decide

/-- Commands of the stream ports and the copy engines (R209 to R211, R259 to R268). -/
theorem test_decode_port_commands : [
    cmdIs 0xA955ABC54321123456789ABC056C8310 (.sread 5 { r1 := 3, r2 := 4, handle := 0x2A, stride := 0x155, rows := 0xABC, len := 0x54321, addr := 0x123456789ABC, hv := true, rlvl := 5, opn := true }),
    cmdIs 0x155ABC54321123456789ABC06008311 (.swrite 6 { r1 := 3, r2 := 4, stride := 0x155, rows := 0xABC, len := 0x54321, addr := 0x123456789ABC }),
    cmdIs 0xAACC3B543210123456789ABC07508312 (.sgather 7 { r1 := 3, r2 := 4, handle := 0x2A, esz := 5, count := 0x9876, idx := 0x543210, base := 0x123456789ABC, hv := true, rlvl := 2, opn := false }),
    cmdIs 0x2CC3B543210123456789ABC08008313 (.sscatter 8 { r1 := 3, r2 := 4, esz := 5, count := 0x9876, idx := 0x543210, base := 0x123456789ABC }),
    cmdIs 0x8D159E26AF3FB72EA61D96F109048314 (.stile 9 { r1 := 3, r2 := 4, exp := 0x23456789ABC, trec := 0xFEDCBA98765, n := 0x2F1, close := true }),
    cmdIs 0x2468ACF103AFEDCBA987650A008315 (.ssegt 10 { r1 := 3, r2 := 4, nkb := 0x1234, kb0 := 0x5678, nrows := 0x40, frow := 0x3A, trec := 0xFEDCBA98765 }),
    cmdIs 0xFEDCBA98765432100B000316 (.scfg 11 3 0xFEDCBA9876543210),
    cmdIs 0xA50C040317 (.sbar 12 3 0xA5 true),
    cmdIs 0x6DEADBEEF0D000318 (.send 13 3 6 0xDEADBEEF false),
    cmdIs 0x60E000319 (.sclose 14 3 6),
    cmdIs 0x60F00031A (.sgateSetPlvl 15 3 6),
    cmdIs 0x60F04031A (.sgateGate 15 3 6),
    cmdIs 0x60F08031A (.sgateUngate 15 3 6),
    cmdIs 0x5123456789ABC0000031B (.sreq 0 3 0x123456789ABC 5),
    cmdIs 0x123456789ABC4100031C (.cchain 1 3 0x123456789ABC),
    cmdIs 0x4000001D (.cabort 0)].all id = true := by
  decide

/-- Commands of the matrix engines (R276 to R295). -/
theorem test_decode_engine_commands : [
    cmdIs 0x8ACF13579BD200001234567821008320 (.mload 1 { r1 := 3, r2 := 4, trec := 0x456789ABCDE, src := true, pfmt := 2, kb := 0x1234, n := 0x5678 }),
    cmdIs 0x20000021 (.mswap 0),
    cmdIs 0xEBEEF0000567821140322 (.mdense 1 { r1 := 3, src := false, afmt := true, bank := true, acc := 2, gamma := 0xBEEF, n := 0x5678, ach := 5 }),
    cmdIs 0x8ACF13579BDEBEEF1234567820148323 (.mseg 0 4 0x1234 0x456789ABCDE { r1 := 3, src := true, afmt := true, bank := true, acc := 2, gamma := 0xBEEF, n := 0x5678, ach := 5 }),
    cmdIs 0xEBEEF0000567821140324 (.mbatch 1 { r1 := 3, src := false, afmt := true, bank := true, acc := 2, gamma := 0xBEEF, n := 0x5678, ach := 5 }),
    cmdIs 0xA8642EBEEF0000567820140325 (.mgather 0 0x54321 { r1 := 3, src := false, afmt := true, bank := true, acc := 2, gamma := 0xBEEF, n := 0x5678, ach := 5 }),
    cmdIs 0x8D159E26AF0400000A5A567821000326 (.mdrain 1 { r1 := 3, scale := 0x23456789ABC, bank := true, bar := 0xA5, bv := true, za := false, sv := true, ofmt := false, n := 0x5678 }),
    cmdIs 0x400000000567820000327 (.mzero 0 3 0x5678 true),
    cmdIs 0x21000028 (.mbankClaim 1),
    cmdIs 0x120000028 (.mbankRelease 0),
    cmdIs 0x8D159E26AF0400000000000021000029 (.mspill 1 0x23456789ABC true),
    cmdIs 0x8D159E26AF000000000000002000002A (.mfill 0 0x23456789ABC false),
    cmdIs 0x8D159E26AF02DEADBEEF00002100032B (.mstat 1 3 0x23456789ABC true 0xDEADBEEF)].all id = true := by
  decide

/-- Commands of the token-merge unit (R300). -/
theorem test_decode_merge_unit_commands : [
    cmdIs 0x2A19080009010130000330 (.tmatch 3 9 0x54321 0x101),
    cmdIs 0x902F130040331 (.tmerge 3 9 0x2F1 true),
    cmdIs 0x9000030040032 (.tlogsz 9 true),
    cmdIs 0x902F130000333 (.tunmerge 3 9 0x2F1 false),
    cmdIs 0xB9A00030000034 (.tcompose 9 10 11),
    cmdIs 0x8D159E26AF0000000009000030000035 (.tsave 9 0x23456789ABC),
    cmdIs 0x8D159E26AF0000000009000030000036 (.tload 9 0x23456789ABC),
    cmdIs 0x9000030000037 (.tfree 9),
    cmdIs 0x8D159E26AF37AB6FBBC0000030000338 (.tstat 3 0x23456789ABC 0xDEADBEEF)].all id = true := by
  decide

/-! ### Small states -/

/-- A task's key. -/
def key0 : TaskKey := ⟨5, 0x20000⟩

/-- The record the desk keeps of it. -/
def rec0 : TaskRec :=
  { key := key0, ctx := 5, part := 0, core := 0, age := 7, prio := 0, decls := [], undo := 0, undoCap := 4, undoUsed := 0
    logged := [], deferred := [], map := 0 }

/-- A core that runs the task with nothing unfinished. -/
def st0 : State :=
  State.updClerk { State.reset with task := some key0, recs := [rec0], occ := [⟨0, key0, 0, 0⟩] }
    fun c => { c with run := .running, pc := 0x1000, tvec := 0x8000 }

/-- A state with some scalar registers set. -/
def regs (l : List (Reg × Dword)) (s : State) : State := l.foldl (fun s p => s.setReg p.1 p.2) s

/-- The result is a next state of which `p` holds. -/
def after (o : Result) (p : State → Bool) : Bool :=
  match o with
  | .next t => p t
  | _ => false

/-- The same state in supervisor mode. -/
def sup (s : State) : State := s.updClerk fun c => { c with mode := .supervisor }

/-- The same state with its cause registers frozen. -/
def frozen (s : State) : State := s.updClerk fun c => { c with frozen := true }

theorem witness_ClerkEncodingsRoundTrip :
    (Instr.add 1 2 3).wf = true ∧ (encode (.add 1 2 3)).length = 1 ∧
    (Instr.amofadd 31 31 31 0xFFFF ⟨.ar, .s, false⟩).wf = true ∧
    (encode (.amofadd 31 31 31 0xFFFF ⟨.ar, .s, false⟩)).length = 2 ∧
    (Instr.ldl .s32 31 0 0xFFFFFFFF).wf = true ∧ (encode (.ldl .s32 31 0 0xFFFFFFFF)).length = 3 := by decide

theorem witness_CommandEncodingsRoundTrip :
    (Instr.tcompose 15 0 15).wf = true ∧ (encode (.tcompose 15 0 15)).length = 4 ∧
    (Instr.scfg 15 31 0xFFFFFFFFFFFFFFFF).wf = true ∧ (encode (.scfg 15 31 0xFFFFFFFFFFFFFFFF)).length = 4 := by decide

/-- A state in which the clerk's turn runs `add s5, s6, s7`. -/
def stepping0 : State := { (State.reset.withFetchWord 32 0x001CC500) with agenda := [none] }

theorem witness_StepRunsTheDecodedInstruction :
    stepping0.outside = [] ∧
    (fun u : State => stepping0.agenda = none :: [] ∧ u.task.isSome = true ∧ u.clerkGated = false ∧
      u.modl.bootstat = false ∧ u.endsItself = false ∧ u.core.clerk.run = .running ∧ u.core.clerk.steppedNow = none ∧ u.asyncReady = false ∧
      u.core.clerk.redo = none ∧ u.fetchHeld = false ∧
      (match u.fetch with
        | .ok (ws, t) => wordIs (ws.getD 0 0) (ws.getD 1 0) (ws.getD 2 0) (.add 5 6 7) && t.mayIssue (.add 5 6 7) &&
            !t.core.clerk.stepping
        | .error _ => false) = true) (State.tick { stepping0 with agenda := [] }) := by decide

/-- The same with a word that is no instruction, and with no page at the PC. -/
theorem witness_StepRunsTheDecodedInstruction_traps :
    (fun u : State => u.task.isSome = true ∧ u.clerkGated = false ∧ u.modl.bootstat = false ∧ u.endsItself = false ∧
      u.core.clerk.run = .running ∧ u.core.clerk.steppedNow = none ∧ u.asyncReady = false ∧
      u.core.clerk.redo = none ∧ u.fetchHeld = false ∧ u.core.clerk.unfin.length < 16 ∧
      (match u.fetch with
        | .ok (ws, t) => (match decode (ws.getD 0 0) (ws.getD 1 0) (ws.getD 2 0) with
          | .error .illegal => !t.core.clerk.frozen
          | _ => false)
        | .error _ => false) = true)
      (State.tick { (State.reset.withFetchWord 32 0x000000FC) with agenda := [] }) ∧
    (fun u : State => u.task.isSome = true ∧ u.clerkGated = false ∧ u.modl.bootstat = false ∧ u.endsItself = false ∧
      u.core.clerk.run = .running ∧ u.core.clerk.steppedNow = none ∧ u.asyncReady = false ∧
      u.core.clerk.redo = none ∧ u.fetchHeld = false ∧
      (match u.fetch with
        | .ok _ => false
        | .error f => !f.st.core.clerk.frozen && f.flt.cause < 256) = true)
      (State.tick { stepping0 with agenda := [], tlb := [] }) := by decide

theorem witness_IntegerRegisterForms : (28 : Nat) < 29 ∧ (regs [(6, 5), (7, -3)] st0).reg 7 ≠ 0 := by decide

theorem witness_Division :
    (regs [(6, 5), (7, -3)] st0).reg 7 ≠ 0 ∧ (regs [(6, 5)] st0).reg 7 = 0 ∧ st0.core.clerk.frozen = false ∧
    ¬ ((regs [(6, 5), (7, -3)] st0).reg 6 = BitVec.ofInt 64 (-2 ^ 63) ∧ (regs [(6, 5), (7, -3)] st0).reg 7 = -1) ∧
    (regs [(6, 0x8000000000000000), (7, -1)] st0).reg 6 = BitVec.ofInt 64 (-2 ^ 63) ∧
    (regs [(6, 0x8000000000000000), (7, -1)] st0).reg 7 = -1 := by decide

theorem witness_OneSourceForms : (7 : Nat) < 8 ∧ (31 : Reg) ≠ 0 := by decide

theorem witness_ImmediateForms :
    64 ≤ (64 : BitVec 14).toNat ∧ 4 ≤ 6 ∧ (0 : Reg) = 0 ∧ (0xFFFFFFF9 : Word).toNat % 8 ≠ 0 ∧
    (8 : Word).toNat % 8 = 0 ∧ (8 : Word) ≠ 0 ∧ (1 : BitVec 14) ≠ 0 ∧ (31 : Reg) ≠ 0 := by decide

theorem witness_ConditionalBranches : st0.core.clerk.pc.toNat % 4 = 0 ∧ (5 : Nat) < 6 := by decide

theorem witness_Jumps :
    st0.core.clerk.pc.toNat % 4 = 0 ∧ st0.core.clerk.frozen = false ∧
    (fun t : Dword => t.toNat % 4 = 0 ∧ t.toNat < 2 ^ 48) ((regs [(6, 0xFFFFFFFFFFF8)] st0).reg 6 + BitVec.signExtend 64 (4 : BitVec 14)) ∧
    (fun t : Dword => t.toNat % 4 ≠ 0) ((regs [(6, 0xFFFFFFFFFFF8)] st0).reg 6 + BitVec.signExtend 64 (1 : BitVec 14)) ∧
    (fun t : Dword => t.toNat % 4 = 0 ∧ 2 ^ 48 ≤ t.toNat)
      ((regs [(6, 0xFFFFFFFFFFF8)] st0).reg 6 + BitVec.signExtend 64 (8 : BitVec 14)) := by decide

/-- `1.0` divided by zero, with the trap of DZE disabled and enabled. -/
theorem witness_FloatForms :
    st0.core.clerk.fpctl.extractLsb' 8 5 = 0 ∧
    (fun (x y : Nat) (f : FFlags) => f = (fDiv fp32 .rne x y).2 ∧ f &&& st0.core.clerk.fpctl.extractLsb' 8 5 = 0 ∧
      f &&& (st0.updClerk fun c => { c with fpctl := 0x1F00 }).core.clerk.fpctl.extractLsb' 8 5 ≠ 0)
      0x3F800000 0 (fDiv fp32 .rne 0x3F800000 0).2 ∧ st0.core.clerk.frozen = false := by decide

/-- The same state with declarations of the task's record. -/
def decls (l : List Decl) (s : State) : State := { s with recs := [{ rec0 with decls := l }] }

/-- Checks 1 to 8 of an access pass; `w` says whether a loan makes it wait. -/
def passes (s : State) (kind : AccKind) (n ea : Nat) (w : Bool) (pl : Place) : Bool :=
  match s.checkAccess kind n ea with
  | .error _ => false
  | .ok r => r.pl = pl && match (s.fillRes r).loanChecks false kind ea n r.pl with
    | .ok _ => !w
    | .wait _ => w
    | .stall _ _ => false
    | .fault _ _ => false

/-- An access to the first and one to the last double word of the own bank blocks, and one that a loan holds up. -/
theorem witness_AccessesIssue :
    access (regs [(6, 0xFFFFFE000008)] st0) (.ld64 5 6 (-8)) = some (loadForm .u64 5 0xFFFFFE000000 4) ∧
    passes (st0.advance 4) .load 8 0xFFFFFE000000 false (.bank 0 0) = true ∧
    passes (st0.advance 4) .store 8 0xFFFFFF7FFFF8 false (.bank 0 0x17FFFF8) = true ∧
    passes (State.advance { decls [⟨0xFF0000000000, 64, .waiting⟩] st0 with
      dir := [⟨0, 5, 0xFF0000000000, 64, ⟨5, 0x20080⟩, 1, [(key0, 7)]⟩] } 4) .atomic 8 0xFFFFFE000038 true
      (.bank 0 0x38) = true := by
  refine ⟨by rfl, by decide, by decide, by decide⟩

theorem witness_AccessAddressTraps :
    (access (regs [(6, 0xFFFFFFFFFFFF)] st0) (.ld8 5 6 1)).isSome = true ∧
    2 ^ 48 ≤ ((access (regs [(6, 0xFFFFFFFFFFFF)] st0) (.ld8 5 6 1)).map (·.ea)).getD 0 ∧
    ((access (regs [(6, 0xFFFFFFFFFFFF)] st0) (.st16 6 5 0)).map fun x => decide (x.ea < 2 ^ 48 ∧ x.ea % x.n ≠ 0)) =
      some true ∧ st0.core.clerk.frozen = false := by decide

theorem witness_SystemRegisterReads : (sup st0).core.clerk.mode = .supervisor := by decide

theorem witness_SystemRegisterWrites :
    (regs [(5, 0x1F03)] st0).reg 5 &&& ~~~0x1F03 = 0 ∧ (regs [(5, 0xFFFFFFFFFFFF)] st0).reg 5 >>> 48 = 0 ∧
    (sup st0).core.clerk.mode = .supervisor ∧ (regs [(5, 0x1B)] st0).reg 5 &&& ~~~0x1B = 0 ∧
    (regs [(5, 0x20)] st0).reg 5 &&& ~~~0x1B ≠ 0 ∧
    st0.core.clerk.frozen = false ∧ (regs [(5, 4)] st0).reg 5 &&& ~~~0x1F03 ≠ 0 ∧
    (regs [(5, 0x1000000000000)] st0).reg 5 >>> 48 ≠ 0 := by decide

theorem witness_TaskModePrivilege :
    st0.core.clerk.mode = .task ∧ st0.core.clerk.frozen = false ∧
    (0x105 : BitVec 10) ∈ ([0x100, 0x101, 0x102, 0x103, 0x104, 0x105] : List (BitVec 10)) := by decide

theorem witness_TakingAnException : Memory.wf st0.mem = true ∧ st0.core.clerk.frozen = false := by decide

theorem witness_SecondCauseHalts :
    (frozen st0).core.clerk.frozen = true ∧ (frozen st0).task = some key0 ∧
    (frozen { st0 with task := none }).core.clerk.frozen = true ∧ (frozen { st0 with task := none }).task = none := by
  decide

theorem witness_SoftwareTraps :
    Memory.wf st0.mem = true ∧ st0.core.clerk.frozen = false ∧ st0.core.clerk.redo = none ∧ st0.core.clerk.unfin = [] := by
  decide

theorem witness_ReturnFromException :
    (sup (frozen st0)).core.clerk.mode = .supervisor ∧ (sup (frozen st0)).core.clerk.unfin = [] ∧
    (sup (frozen st0)).trapRd 0 8 / 2 ^ 10 % 2 ^ 5 = 0 := by decide

/-- An unfinished store to bank byte 0. -/
def store0 : Unfin :=
  { op := 0x51, func := 0, w1 := 0, pc := 0xFFC, kd := false, dest := 0, ea := 0xFFFFFE000000, b := 0x1122, c := 0
    canon := 0xFF0000000000, work := .store 8 (.bank 0 0) 0x1122, done := none, port := none, lost := false, behind := false
    unchecked := false }

/-- The same state with unfinished instructions. -/
def unfins (l : List Unfin) (s : State) : State := s.updClerk fun c => { c with unfin := l }

theorem witness_SystemInstructions :
    st0.allPerformed = true ∧ (unfins [store0] st0).allPerformed = false ∧ st0.core.clerk.storesOut = false ∧
    (unfins [store0] st0).core.clerk.storesOut = true ∧ (sup st0).core.clerk.mode = .supervisor ∧
    (sup st0).core.clerk.unfin = [] := by decide

/-- An object of the own core's window by its global address. -/
def obj0 : Nat := 0xFF0000001000

/-- The same state with a hold list. -/
def holds (l : List Hold) (s : State) : State := s.updClerk fun c => { c with holds := l }

/-- The place of an object. -/
def objAt (s : State) (ea : Nat) : Option Place :=
  match s.objPlace ea with
  | .ok r => some r.pl
  | .error _ => none

theorem witness_ObjectInstructions :
    objAt (st0.advance 4) obj0 = some (.bank 0 0x1000) ∧ st0.core.clerk.holdsNow.length < 16 ∧
    st0.core.clerk.holdsNow.all (fun h => h.obj != st0.canon obj0) = true ∧
    (holds [⟨obj0, .bank 0 0x1000, true, true⟩] st0).core.clerk.holdsNow.any (fun h => h.obj == st0.canon obj0) = true ∧
    16 ≤ (holds (List.replicate 16 ⟨0xFF0000000000, .bank 0 0, false, true⟩) st0).core.clerk.holdsNow.length ∧
    ((holds [⟨obj0, .bank 0 0x1000, true, true⟩] st0).core.clerk.holdsNow.find? fun h =>
      h.obj == st0.canon (obj0 % 2 ^ 48) && h.held && obj0 < 2 ^ 48).isSome = true ∧
    (st0.core.clerk.holdsNow.find? fun h => h.obj == st0.canon (obj0 % 2 ^ 48) && h.held && obj0 < 2 ^ 48) = none ∧
    st0.core.clerk.frozen = false := by decide

/-- One unfinished instruction with work `w`, and the bindings of the task's context. -/
def asks (w : Work) (binds : List Binding) : State :=
  { unfins [{ store0 with dest := 5, work := w }] st0 with binds }

/-- The entry `i` of the binding table, of the region at `base`. -/
def entry0 (base i : Nat) : Binding := ⟨5, i, obj0, .bank 0 0x1000, base, 64⟩

/-- A `bind` of the region at `base` to the object that may be performed, and an `unbind`. -/
theorem witness_Bindings_asked :
    (asks (.bind obj0 0xFF0000002000 64) []).unfin 0 =
      some { store0 with dest := 5, work := .bind obj0 0xFF0000002000 64 } ∧
    store0.done = none ∧ (asks (.bind obj0 0xFF0000002000 64) []).mayPerform 0 = true ∧
    (asks (.unbind 0xFF0000002000) [entry0 0xFF0000002000 0]).mayPerform 0 = true ∧
    (asks (.bind obj0 0xFF0000002000 64) []).ctx = 5 ∧ objAt (asks (.bind obj0 0xFF0000002000 64) []) obj0 = some (.bank 0 0x1000) ∧
    objAt (asks (.bind obj0 0xFF0000002000 64) []) 3 = none ∧ obj0 < 2 ^ 48 ∧ (regs [(5, 2 ^ 48)] st0).reg 5 = 2 ^ 48 ∧
    (asks (.bind obj0 0xFF0000002000 64) []).hasCore 0 = true ∧ globalView + 0 * windowSize ≤ 0xFF0000002000 ∧
    0xFF0000002000 + 64 ≤ globalView + (0 + 1) * windowSize := by decide

/-- Shapes at the limits of R240; a region in translated memory, and one in neither that nor a window. -/
theorem witness_Bindings_shapes :
    (64 : Nat) % 64 = 0 ∧ (2 ^ 32 : Nat) % 64 = 0 ∧ ¬ (2 ^ 32 + 64 ≤ 2 ^ 32) ∧ ¬ ((32 : Nat) % 64 = 0) ∧
    0xEFFFFFFFFFC0 + 64 ≤ 0xF00000000000 ∧ ¬ (0xF00000000000 + 64 ≤ 0xF00000000000) ∧
    ∀ c, ¬ (globalView + c * windowSize ≤ 0xF00000000000) := by
  and_intros <;> try decide
  intro c
  have : globalView = 0xFF0000000000 := rfl
  omega

/-- A region that meets a bound one; one that holds its object; a full table; a free entry behind a used one. -/
theorem witness_Bindings_table :
    (∃ y ∈ [entry0 0xFF0000002000 0], y.ctx = 5 ∧ y.base < 0xFF0000002000 + 64 ∧ 0xFF0000002000 < y.base + y.len) ∧
    (0xFF0000001000 < obj0 + 8 ∧ obj0 < 0xFF0000001000 + 64) ∧
    (¬ ∃ y ∈ (List.range 1024).map (entry0 0x10000), y.base < 0xFF0000002000 + 64 ∧ 0xFF0000002000 < y.base + y.len) ∧
    (¬ ∃ y ∈ (List.range 1024).map (entry0 0x10000), (0xFF0000002000 < y.obj + 8 ∧ y.obj < 0xFF0000002000 + 64) ∨
      (y.base < obj0 + 8 ∧ obj0 < y.base + y.len)) ∧
    (∀ i, i < 1024 → ∃ y ∈ (List.range 1024).map (entry0 0x10000), y.ctx = 5 ∧ y.idx = i) ∧
    (∀ j, j < 1 → ∃ y ∈ [entry0 0x10000 0], y.idx = j) ∧ (¬ ∃ y ∈ [entry0 0x10000 0], y.idx = 1) := by
  refine ⟨by decide, by decide, ?_, ?_, fun i hi => ⟨entry0 0x10000 i, List.mem_map_of_mem (List.mem_range.2 hi), rfl, rfl⟩,
    by decide, by decide⟩
  · rintro ⟨y, hy, h⟩
    obtain ⟨i, -, rfl⟩ := List.mem_map.1 hy
    simp [entry0] at h
  · rintro ⟨y, hy, h⟩
    obtain ⟨i, -, rfl⟩ := List.mem_map.1 hy
    simp [entry0, obj0] at h

/-- What `unbind` finds for a base, and whether its object is busy. -/
def bound (base : Nat) (u : State) : Option Bool :=
  (u.binds.find? fun y => y.ctx = u.ctx && y.base == base).map fun y =>
    objMode (u.rd (y.home.key u) 8) != 0 || u.objQueue y.home != []

theorem witness_Bindings_unbound :
    bound 0xFF0000002000 st0 = none ∧ bound 0xFF0000002000 (asks (.unbind 0) [entry0 0xFF0000002000 0]) = some false ∧
    bound 0xFF0000002000 ((asks (.unbind 0) [entry0 0xFF0000002000 0]).wr (scratchKey 0 0x1000) 8 (2 ^ 64 - 1)) =
      some true := by decide

theorem witness_WordWaits : passes (st0.advance 4) .load 4 0xFFFFFE000004 false (.bank 0 4) = true ∧
    (∀ off, Place.bank 0 4 ≠ .ctrl off) ∧ (∀ c t off, Place.bank 0 4 ≠ .page c t off) ∧
    ∀ m pa, Place.bank 0 4 ≠ .peer m pa := by
  refine ⟨by decide, ?_, ?_, ?_⟩ <;> intros <;> simp

/-- A cohort of two members, the task's own and one of core 1 that has issued `n` barriers. -/
def pair0 (n : Nat) : Cohort :=
  ⟨5, 65535, 2, true, [⟨key0, 0, true, 0, 0, some 0⟩, ⟨⟨5, 0x20080⟩, 1, true, n, 0, some 1⟩]⟩

/-- A `join` of cohort 5 with count 2 that is to be performed, with other cohorts at the desk. -/
def joining (c : List Cohort) : State :=
  { unfins [{ store0 with dest := 5, b := 2, work := .join 5 .issued }] st0 with cohorts := c }

/-- A forming cohort of one member of core 1. -/
def half0 (count : Nat) : Cohort := ⟨5, 5, count, false, [⟨⟨5, 0x20080⟩, 1, true, 0, 0, none⟩]⟩

/-- The cohort that a `join` finds, by whether it is formed and its count. -/
def found (s : State) : Option (Bool × Nat) :=
  (s.cohorts.find? fun h => h.ctx = s.taskCtx key0 && h.id == 5).map fun h => (h.formed, h.count)

theorem witness_CohortMembership_join :
    (joining []).mayPerform 0 = true ∧ (joining []).core.clerk.joinIssued = true ∧ st0.core.clerk.joinIssued = false ∧
    found (joining [{ half0 2 with formed := true }]) = some (true, 2) ∧ found (joining [half0 3]) = some (false, 3) ∧
    (joining [half0 3]).cohortOf key0 = none ∧
    (State.cohortOf (joining [pair0 1]) key0).isSome = true ∧
    (∀ h, (h ∈ (joining [half0 2]).cohorts ∧ h.ctx = st0.taskCtx key0 ∧ h.id = 5) → h.formed = false ∧ h.count = 2) ∧
    (regs [(6, 65536)] st0).reg 6 = 65536 ∧ (regs [(7, 161)] st0).reg 7 = 161 := by
  and_intros <;> try decide
  rintro h ⟨hh, -, -⟩
  obtain rfl := List.mem_singleton.1 hh
  exact ⟨rfl, rfl⟩

theorem witness_CohortMembership :
    st0.task = some key0 ∧ st0.cohortOf key0 = none ∧ st0.allPerformed = true ∧
    (regs [(6, 65535), (7, 160)] st0).reg 6 = 65535 ∧ (regs [(6, 65535), (7, 160)] st0).reg 7 = 160 ∧
    (State.cohortOf { st0 with cohorts := [pair0 1, { half0 2 with id := 6 }] } key0) = some (pair0 1) ∧
    (∀ x ∈ [pair0 1, { half0 2 with id := 6 }], x.ctx = (pair0 1).ctx → x.id = (pair0 1).id → x = pair0 1) ∧
    st0.core.clerk.frozen = false ∧
    (pair0 1).members.filter (fun x => x.key = key0) = [⟨key0, 0, true, 0, 0, some 0⟩] ∧
    (∀ x ∈ (pair0 1).members, x.key ≠ key0 → 0 + 1 ≤ x.cbars) ∧
    (∃ x ∈ (pair0 0).members, x.key ≠ key0 ∧ x.cbars < 0 + 1) := by decide

theorem witness_LoanDeclarations :
    st0.task = some key0 ∧ st0.findRec key0 = some rec0 ∧
    declsMet rec0.decls (st0.canon 0xFFFFFFC00000) (2 ^ 22) = [] ∧ 0xFFFFFFC00000 + 2 ^ 22 ≤ 2 ^ 48 ∧
    rec0.decls.length < 8 ∧
    (decls (List.replicate 8 ⟨0x10000, 64, .declared⟩) st0).findRec key0 =
      some { rec0 with decls := List.replicate 8 ⟨0x10000, 64, .declared⟩ } ∧
    declsMet (List.replicate 8 ⟨0x10000, 64, .declared⟩) (st0.canon 0x20000) 64 = [] ∧
    (2 ^ 22 + 64 : Nat) % 64 = 0 ∧ 2 ^ 22 < 2 ^ 22 + 64 ∧ st0.core.clerk.frozen = false ∧
    (List.replicate 8 (⟨0x10000, 64, .declared⟩ : Decl))[7]? = some ⟨0x10000, 64, .declared⟩ ∧
    rec0.decls[7]? = none ∧ (regs [(6, 8)] st0).reg 6 = 8 := by decide

/-- A large page of the task's context whose addresses are physical ones. -/
def page0 : Tlb := ⟨5, 0, 2 ^ 30, 0x101F⟩

/-- The place that a check answers. -/
def tcbIs (r : Except Flt Place) : Option Place :=
  match r with
  | .ok pl => some pl
  | .error _ => none

theorem witness_TaskInstructions :
    st0.task = some key0 ∧ st0.borrows key0 = false ∧
    tcbIs ((State.advance { st0 with tlb := [page0] } 4).tcbCheck false 0x20000 (some 65535)) = some (.mem 0x20000) ∧
    tcbIs ((State.advance { st0 with tlb := [page0] } 4).tcbCheck false 0x20000 none) = some (.mem 0x20000) := by decide

theorem witness_EndingAndYielding :
    st0.task = some key0 ∧ st0.mayEnd = true ∧ (unfins [store0] st0).mayEnd = false ∧ st0.core.clerk.unfin = [] ∧
    st0.shadowFull st0.coreId = false ∧
    (State.shadowFull { st0 with wings := [{ Wing.reset with
      ready := List.replicate 8 ⟨⟨5, 0x20080⟩, 0, 0, 1, 1, 0, 0, some 0⟩ }] } st0.coreId) = true := by decide

/-! ### Tag table, handles and commands -/

/-- The own core's first tag entry holds the global address 0x123456789000 with a pin count. -/
def tagged (pin : Nat) (s : State) : State := s.setTag 0 ⟨0, 0x123456789, pin, true⟩

/-- All eight ways of the set of that address hold other tags. -/
def fullSet : State := (List.range 8).foldl (fun s i => s.setTag i ⟨0, BitVec.ofNat 36 i, 0, true⟩) st0

/-- A `fill` of one FP32 word at offset `off` with `n` elements, as the low double word. -/
def zeroWord (n off : Nat) : Qword := BitVec.ofNat 128 (n * 2 ^ 64 + off * 2 ^ 32 + 4)

theorem witness_TagAndTransformInstructions :
    (asks (.tag .look 0x123456789ABC) []).mayPerform 0 = true ∧ (asks (.tag .ins 0x123456789ABC) []).mayPerform 0 = true ∧
    (tagged 0 st0).tagHit 0x123456789ABC = some 0 ∧ st0.tagHit 0x123456789ABC = none ∧
    ((List.range 8).map (8 * st0.tagSet 0x123456789ABC + ·)).find? (fun i => !(st0.tag i).v) = some 0 ∧
    (∀ i ∈ (List.range 8).map (8 * fullSet.tagSet 0x123456789ABC + ·), (fullSet.tag i).v = true) ∧
    fullSet.tagHit 0x123456789ABC = none ∧
    xfCheck (zeroWord 1 0).toNat = 0 ∧ xfCheck (zeroWord 0 0).toNat ≠ 0 ∧
    (match (st0.advance 4).xfLoans st0.taskMode (zeroWord 1 0).toNat selfAlias with
      | .ok _ => true
      | _ => false) = true ∧ st0.core.clerk.frozen = false := by decide

/-- The same state with one handle set. -/
def hnd (n : Nat) (h : HState) (s : State) : State := s.updHandle n fun e => { e with st := h }

theorem witness_HandleInstructions :
    (regs [(6, 63)] st0).reg 6 = 63 ∧ (st0.handle 63).st = .free ∧ ((hnd 63 .full st0).handle 63).st = .full ∧
    ((hnd 63 .draining st0).handle 63).st = .draining ∧ ((hnd 63 .filling st0).handle 63).st = .filling ∧
    st0.core.clerk.waitsOn 63 = false ∧ (unfins [{ store0 with work := .hwait 63 }] st0).core.clerk.waitsOn 63 = true ∧
    st0.core.clerk.frozen = false ∧ 63 < ((regs [(6, 64)] st0).reg 6).toNat := by decide

/-- `sread` of one row of 4 bytes on port 15 at the address that `s6` supplies. -/
def read0 (addr : BitVec 48) : Instr :=
  .sread 15 { r1 := 6, r2 := 0, handle := 0, stride := 0, rows := 1, len := 4, addr, hv := false, rlvl := 0, opn := false }

/-- Port 15 sealed. -/
def sealed15 (s : State) : State := s.updPort 15 fun q => { q with sealed := true }

/-- A command in the emit lane of a port. -/
def lane (p : Nat) (c : LaneCmd) (s : State) : State := s.updPort p fun q => { q with emitCmd := some c }

theorem witness_PortCommandsAccepted :
    Acceptable (regs [(6, 0xFFFFFE000000)] st0) (read0 0) (read0 0xFFFFFE000000) ∧ (st0.port 15).sealed = false ∧
    portQueued (read0 0) = some 15 ∧ Acceptable (regs [(6, 255)] st0) (.sbar 15 6 0 true) (.sbar 15 6 255 true) ∧
    Acceptable (regs [(6, 7)] st0) (.sgateSetPlvl 15 6 0) (.sgateSetPlvl 15 6 7) ∧
    Acceptable (regs [(6, 1)] st0) (.sgateGate 15 6 0) (.sgateGate 15 6 1) ∧
    Acceptable st0 (.sgateUngate 15 0 0) (.sgateUngate 15 0 0) ∧
    Acceptable (regs [(6, 7)] st0) (.sclose 15 6 0) (.sclose 15 6 7) ∧ (st0.port 15).emitCmd = none ∧
    Instr.cuttable (read0 0) = true ∧
    ((lane 15 (LaneCmd.start (read0 0)) st0).port 15).emitCmd = some (LaneCmd.start (read0 0)) ∧
    Acceptable (lane 15 (LaneCmd.start (read0 0)) (regs [(6, 7)] st0)) (.sclose 15 6 0) (.sclose 15 6 7) ∧
    (LaneCmd.start (read0 0)).closing = false ∧ ((sealed15 st0).port 15).sealed = true ∧
    Acceptable (sealed15 (regs [(6, 0xFFFFFE000000)] st0)) (read0 0) (read0 0xFFFFFE000000) ∧
    Instr.portOf (read0 0) = some 15 := by
  unfold Acceptable
  decide

/-- `tfree slot=15` in the command register and in the pool at bank byte 0x100. -/
def free0 : Nat := 0x0000000000000000000F000030000037

/-- The same state with bytes written. -/
def put (key n v : Nat) (s : State) : State := { s with mem := memWrite s.mem key n v }

/-- A state with a pool at the start of the own bank blocks, whose entry 16 is `tfree slot=15`. -/
def pool0 : State :=
  (put (scratchKey 0 0x100) 16 free0 st0).updClerk fun c => { c with cmdbase := 0xFFFFFE000000, kregs := c.kregs.set 3 (BitVec.ofNat 128 free0) }

def accepts (s : State) (c : Instr) : Bool :=
  match s.cmdAccept c with
  | .ok _ => true
  | .error _ => false

/-- A command register whose word names register 6. -/
def read0s : State := st0.updClerk fun c => { c with kregs := c.kregs.set 3 (BitVec.ofNat 128 (6 * 2 ^ 8)) }

theorem witness_CommandsIssue :
    refsPresent pool0 (pool0.kreg 3) ∧ refsPresent pool0 (BitVec.ofNat 128 free0) ∧
    ¬ refsPresent (read0s.updClerk fun c => c.setPresent 6 false) (read0s.kreg 3) ∧ pool0.core.clerk.redo = none ∧
    pool0.heldBy pool0.core.clerk.unfin (pool0.poolLoad 0xFFFFFE000100 (.bank 0 0x100)) = false ∧
    pool0.reaches pool0.ctx (.bank 0 0x100) 0xFFFFFE000100 = true ∧ pool0.pageShut (.bank 0 0x100) = false ∧
    overlay pool0 pool0.core.clerk.unfin (scratchKey 0 0x100) 16 free0 = free0 ∧
    cmdIs free0 (.tfree 15) = true ∧ pool0.kreg 3 = BitVec.ofNat 128 free0 ∧ Acceptable pool0 (.tfree 15) (.tfree 15) ∧
    accepts pool0 (.tfree 15) = true ∧ (unfins [store0] pool0).allPerformed = false ∧
    (unfins [store0] pool0).sample (.tfree 15) = some (.tfree 15) ∧ (unfins [store0] pool0).cmdCheck (.tfree 15) = none ∧
    State.cmdRoom (pool0.updTmu fun t => { t with queue := List.replicate 16 ⟨.tfree 0, false, 0, false⟩ }) (.tfree 15) =
      false ∧
    passes pool0 .load 16 0xFFFFFE000100 false (.bank 0 0x100) = true ∧
    (match pool0.placeRead (.bank 0 0x100) 0xFFFFFE000100 16 with
      | .ok x v => x = free0 && decide (v = pool0)
      | _ => false) = true := by
  unfold Acceptable refsPresent
  decide

/-- The first words of command registers, refused for an unknown code, a value that does not fit, a limit, and a
shape. -/
theorem witness_CommandRefusals :
    Memory.wf st0.mem = true ∧ st0.core.clerk.frozen = false ∧ refsPresent st0 (st0.kreg 3) ∧
    (match decodeCommand 0x0F with
      | .error r => r ≠ 0x35
      | .ok _ => false) = true ∧
    (Instr.cmdRefs (.sclose 15 6 0)).all st0.core.clerk.present = true ∧
    (regs [(6, 8)] st0).sample (.sclose 15 6 0) = none ∧ st0.sample (.sclose 15 6 0) = some (.sclose 15 6 0) ∧
    Instr.shapeOk (.sclose 15 6 0) = true ∧ st0.limitsOk (.sclose 15 6 0) = false ∧
    st0.sample (.mzero 0 0 520 false) = some (.mzero 0 0 520 false) ∧ Instr.shapeOk (.mzero 0 0 520 false) = false := by
  unfold refsPresent
  decide

/-- `mdrain` of 512 columns with and without a barrier. -/
def drain0 (bv : Bool) : Instr :=
  .mdrain 1 { r1 := 0, scale := 0, bank := false, bar := if bv then 255 else 0, bv, za := false, sv := false, ofmt := false, n := 512 }

theorem witness_EngineCommandsAccepted :
    engineOf (drain0 true) = some 1 ∧ ofTmu (.tfree 15) = true ∧ Acceptable st0 (drain0 true) (drain0 true) ∧ (st0.me 1).sealed = false ∧
    Acceptable st0 (drain0 false) (drain0 false) ∧
    Acceptable st0 (.mzero 1 0 0 false) (.mzero 1 0 0 false) ∧
    Acceptable (st0.updMe 1 fun m => { m with sealed := true }) (.mswap 1) (.mswap 1) ∧
    ((st0.updMe 1 fun m => { m with sealed := true }).me 1).sealed = true ∧
    Acceptable st0 (.tfree 15) (.tfree 15) ∧ st0.core.tmu.sealed = false ∧
    Acceptable (st0.updTmu fun t => { t with sealed := true }) (.tfree 15) (.tfree 15) := by
  unfold Acceptable
  decide

/-- The same state with channel 1 as given. -/
def chan (f : Ce → Ce) (s : State) : State := s.updCe 1 f

/-- Channel 1 idle at the end of a chain whose last record lies at 0x40 of the own banks, with NEXT `v`. -/
def ended (v : Nat) : State :=
  chan (fun c => { c with ctx := 5, head := 0xFFFFFE000040, chain := true }) (put (scratchKey 0 0x78) 8 v st0)

/-- What the engine reads of that NEXT. -/
def nextOf (s : State) : Option Nat :=
  match s.ceRead (s.ce 1).ctx (addrPlus (s.ce 1).head 56) 8 with
  | .ok (b, _) => some (ofBytes b)
  | .error _ => none

set_option maxRecDepth 20000 in
/-- A KICK in STATE 1; an ABORT whose status can be written, one that must wait for a page walk, one of a killed record. -/
theorem witness_CopyChannelControl_kick :
    ((ended 0).ce 1).state = .idleEnd ∧ ((ended 0).ce 1).kick = false ∧ ((ended 0).ce 1).chain = true ∧ (st0.ce 1).chain = false ∧
    nextOf (ended 0) = some 0 ∧ nextOf (ended 0xFFFFFE000080) = some 0xFFFFFE000080 ∧ 0xFFFFFE000080 % 64 = 0 ∧
    ((chan (fun c => { c with state := .run }) (ended 0)).ceMark 1 0x0A).isSome = true ∧
    (State.ceMark { chan (fun c => { c with state := .run, head := 0x500000 }) (ended 0) with walks := [⟨5, 0x50, 0⟩] }
      1 0x0A).isNone = true ∧
    (st0.ce 1).stop = none ∧ 1 < st0.core.ces.length ∧
    (chan (fun c => { c with state := .run }) (ended 0)).ceKilled 1 = false ∧
    ((chan (fun c => { c with state := .run }) (ended 0)).updMod fun m => { m with killDone := false, killCtx := 5 }).ceKilled 1 =
      true := by
  and_intros <;> decide

theorem witness_CopyChannelControl :
    st0.task = some key0 ∧ st0.borrows key0 = false ∧ (st0.ce 1).state = .idleEnd ∧
    ((chan (fun c => { c with state := .run }) st0).ce 1).state = .run ∧
    ((chan (fun c => { c with state := .wait }) st0).ce 1).state = .wait ∧
    Acceptable (regs [(6, 0xFFFFFE000040)] st0) (.cchain 1 6 0) (.cchain 1 6 0xFFFFFE000040) ∧
    (0xFFFFFE000040 : BitVec 48).toNat % 64 = 0 ∧
    Acceptable (chan (fun c => { c with state := .run }) st0) (.cchain 1 0 0) (.cchain 1 0 0) ∧
    (decls [⟨0x10000, 64, .borrowed⟩] st0).borrows key0 = true ∧
    (decls [⟨0x10000, 64, .borrowed⟩] st0).findRec key0 = some { rec0 with decls := [⟨0x10000, 64, .borrowed⟩] } ∧
    rec0.deferred.length < 16 ∧ Acceptable st0 (.cabort 1) (.cabort 1) ∧
    Acceptable (chan (fun c => { c with state := .run }) st0) (.cabort 1) (.cabort 1) ∧
    ((chan (fun c => { c with state := .stopped, status := 0x0C }) st0).ce 1).status = 0x0C ∧
    ((chan (fun c => { c with state := .stopped, status := 0x0C }) st0).ce 1).state = .stopped ∧
    ((chan (fun c => { c with state := .idleOwn }) st0).ce 1).state = .idleOwn ∧ st0.modl.killDone = true ∧
    (st0.updMod fun m => { m with killDone := false, killCtx := 5 }).modl.killCtx = st0.ctx ∧ (st0.ce 1).head = 0 := by
  unfold Acceptable
  decide

/-- A state with an image of one folio, and one word for the FE at row 1 and column 1, in the own bank blocks. -/
def image0 : State :=
  put (scratchKey 0 0) 8 0x000100014E524C53 (put (scratchKey 0 24) 4 0x8001
    (put (scratchKey 0 64) 8 (2 ^ 59 + 2 ^ 54 + 77) st0))

/-- The words of a folio. -/
def folioWords (s : State) (image folio : Nat) : Option (List Nat) :=
  match s.fetchFolio ⟨.fabric, .load, 8, s.taskMode⟩ image folio with
  | .ok (ws, _, _) => some ws
  | .error _ => none

/-- The same state with a barrier that port 0 has injected and that has reached nothing. -/
def barred (s : State) : State := s.updFab fun f => { f with bars := [⟨255, [.lane 0], [.fe 1 1], [], [], []⟩] }

/-- An FE at row 1 and column 1 with no output, which takes what port 0 emits on track 0. -/
def sink0 (s : State) : State :=
  s.updFab fun f => { f with fes := [((1, 1), { Fe.reset with kind := 0, route := 4, configured := true, live := true })] }

/-- Port 0 injects barrier 7 twice, and the first arrives: the second is still on its way (R161, R252). -/
theorem test_second_barrier_waits :
    let inj (s : State) : State := (s.announce (.lane 0) 7).inject (.lane 0) 7
    let two := inj (inj (sink0 st0))
    two.core.fab.bars.length = 2 ∧ (two.core.fab.bars.all fun b => b.sinks = [.fe 1 1]) = true ∧
    (two.sinkReached (.fe 1 1) 7).barrierDone 7 = false ∧
    ((two.sinkReached (.fe 1 1) 7).sinkReached (.fe 1 1) 7).barrierDone 7 = true := by decide

theorem witness_ConfigurationInstructions :
    (regs [(6, 0xFFFFFFFFFFC0)] st0).reg 6 = 0xFFFFFFFFFFC0 ∧ (0xFFFFFFFFFFC0 : Nat) % 64 = 0 ∧
    (st0.updPort 0 fun q => { q with queue := [.cfg 0 [0]] }).cfgSending = true ∧ image0.cfgSending = false ∧
    folioWords image0 0xFFFFFE000000 0 = some [2 ^ 59 + 2 ^ 54 + 77] ∧ image0.core.fab.image = none ∧
    (image0.updFab fun f => { f with image := some 0xFFFFFE000000, entryPending := some 0 }).core.fab.entryPending = some 0 ∧
    image0.core.ports.length = 16 ∧ st0.core.clerk.frozen = false ∧ 2 ^ 48 ≤ ((regs [(6, 2 ^ 48)] st0).reg 6).toNat ∧
    ((regs [(6, 1)] st0).reg 6).toNat % 64 ≠ 0 ∧ st0.core.fab.configured = true ∧
    (st0.updFab fun f => { f with loads := [⟨0, [(1, 1)], [(1, 1)], []⟩] }).core.fab.configured = false ∧
    (regs [(6, 255)] st0).reg 6 >>> 8 = 0 ∧ st0.barrierDone 255 = true ∧ (barred (sink0 st0)).barrierDone 255 = false ∧ (regs [(6, 256)] st0).reg 6 >>> 8 ≠ 0 := by
  decide

/-! ### Events of the clerk, homes and the host -/

/-- An unfinished instruction with given work. -/
def doing (kd : Bool) (d : Reg) (canon ea : Nat) (w : Work) (done : Option Qword) : Unfin :=
  { store0 with kd, dest := d, ea, canon, work := w, done }

/-- A load of the last double word of the own bank blocks into `s31`. -/
def load0 (done : Option Qword) : Unfin :=
  doing false 31 0xFF00017FFFF8 0xFFFFFF7FFFF8 (.load .u64 (.bank 0 0x17FFFF8)) done

theorem witness_ResultsReturn :
    (unfins [load0 (some 9)] st0).unfin 0 = some (load0 (some 9)) ∧ (load0 (some 9)).done = some 9 ∧
    (load0 (some 9)).kd = false ∧ (doing true 7 0 0 (.loadK (.bank 0 0)) (some 9)).done = some 9 ∧
    (unfins [doing false 5 0 63 (.hwait 63) none] st0).unfin 0 = some (doing false 5 0 63 (.hwait 63) none) ∧
    ((hnd 63 .full st0).handle 63).st = .full ∧ 63 < st0.core.handles.length ∧
    ((hnd 63 .filling st0).handle 63).st = .filling ∧
    (unfins [doing false 5 0 9 (.join 9 .refused) none] st0).unfin 0 = some (doing false 5 0 9 (.join 9 .refused) none) ∧
    st0.core.clerk.frozen = false := by decide

/-- The same state with pending asynchronous causes. -/
def pends (l : List Pend) (s : State) : State := s.updClerk fun c => { c with pend := l }

/-- The same state with the clerk in another run state, with or without an event. -/
def running (r : Run) (ev : Bool) (s : State) : State := s.updClerk fun c => { c with run := r, wfeEvent := ev }

/-- A live FE of kind `code` and variant `sub` whose IN0 comes from the north side and shows `q`, with OUT0 to the east. -/
def elem (code sub : Nat) (q : List Token) : Fe :=
  { Fe.reset with
    kind := BitVec.ofNat 32 (code + 256 * sub), route := 1, xing := 0x80000, rate := 0x1001, configured := true
    live := true, window := [q, [], [], []] }

/-- The same state with the FE at row 1 and column 1. -/
def grid (f : Fe) (s : State) : State := s.updFab fun b => { b with fes := [((1, 1), f)] }

/-- An FE that needs two tokens of IN0 and has one: the tree is not empty and nothing can move. -/
def lone0 : State := grid { elem 0 0 [dataTok 7] with rate := 0x1002 } st0

set_option maxRecDepth 50000 in
theorem witness_ClerkEvents_watchdog :
    lone0.task.isSome = true ∧ lone0.quiescent = false ∧ lone0.noneOutstanding = true ∧ lone0.tokensMove = false ∧
    lone0.core.clerk.run ≠ .doubleHalt := by
  and_intros <;> decide

/-- Two pending causes in order; what waits for an answer, a `join` among it; a request of the fabric. -/
theorem witness_ClerkEvents_pending :
    PendAscending (pends [⟨0x06, 0, 0⟩, ⟨0x15, 0, 0⟩] st0).core.clerk.pend ∧ (0x15 : Nat) < 256 ∧
    (joining []).core.clerk.unfin.all (fun u => u.work.timed || u.lost) = true ∧
    (joining []).core.clerk.unfin.all (fun u => !u.waits (joining [])) = true ∧
    (st0.updFab fun b => { b with reqs := [memReq 1 1 0 (.load 4 false) 0 0 0] }).req 0 =
      some (memReq 1 1 0 (.load 4 false) 0 0 0) ∧
    (memReq 1 1 0 (.load 4 false) 0 0 0).stage = .waiting ∧ (memReq 1 1 0 (.load 4 false) 0 0 0).who = .fe 1 1 ∧
    (st0.updFab fun b => { b with reqs := [memReq 1 1 0 (.load 4 false) 0 0 0] }).givenUp 0
      (memReq 1 1 0 (.load 4 false) 0 0 0) = false := by
  and_intros <;> try decide
  show List.Pairwise _ _
  decide

theorem witness_ClerkEvents :
    st0.task.isSome = true ∧ st0.clerkGated = false ∧ (pends [⟨0x06, 0, 0⟩, ⟨0x15, 0, 0⟩] st0).asyncReady = true ∧
    (pends [⟨0x06, 0, 0⟩, ⟨0x15, 0, 0⟩] st0).endsItself = false ∧
    (running .wfe true st0).core.clerk.run = .wfe ∧ (running .wfe true st0).core.clerk.wfeEvent = true ∧
    st0.core.clerk.wfeEvent = false ∧ st0.core.clerk.pc.toNat % 4 = 0 ∧
    (running .halted false st0).core.clerk.run = .halted ∧
    (unfins [load0 none] st0).unfin 0 = some (load0 none) ∧ (load0 none).work.timed = true ∧
    (load0 none).waits (unfins [load0 none] st0) = false ∧ st0.core.clerk.frozen = false ∧
    (load0 none).waits (decls [⟨0xFF00017FFFC0, 64, .waiting⟩] st0) = true := by decide

/-- Checks at the home that leave the state as it is. -/
def homeOk (s : State) (u : Unfin) (kind : AccKind) (n : Nat) (pl : Place) : Bool :=
  !s.windowShut pl && !s.pageShut pl && s.hasPort u && match s.touch s.taskMode u.canon n u.ea kind (s.freePlace pl || !u.behind) with
  | .ok a => a = s && (a.watchHit kind.sel u.canon n).isNone && match a.undoLog [(u.canon, n)] u.ea with
    | .ok t => t = s
    | .error _ => false
  | _ => false

/-- Where the home checks leave the state as it is, they are passed from it to itself. -/
theorem passesHome_of_homeOk {s : State} {u : Unfin} {kind : AccKind} {n : Nat} {pl : Place}
    (h : homeOk s u kind n pl = true) : PassesHome s s u kind n pl := by
  unfold homeOk at h
  simp only [Bool.and_eq_true, Bool.not_eq_true'] at h
  obtain ⟨⟨⟨hs, hv⟩, hp⟩, h⟩ := h
  refine ⟨hs, hv, hp, ?_⟩
  split at h
  · rename_i a ha
    simp only [Bool.and_eq_true, decide_eq_true_eq, Option.isNone_iff_eq_none] at h
    obtain ⟨⟨rfl, hw⟩, hu⟩ := h
    refine ⟨a, ha, hw, ?_⟩
    split at hu
    · rename_i t ht
      split
      · rfl
      · rw [ht, of_decide_eq_true hu]
    · cases hu
  · cases h

/-- Page 63 of the core, compressed, with tile 0 at its reset form. -/
def cpage0 (s : State) : State :=
  { s with pages := updAt s.pages 63 fun p => { p with
    v := true, resv := 128, base := 0, used := 128, ents := List.replicate 64 ⟨1, 2, 64, 0⟩ } }

/-- A load of 1 byte of the first tile of that page, and a store to it. -/
def pageLoad : Unfin := doing false 31 0x100000 0x100000 (.load .u8 (.page 0 63 0)) none

def pageStore : Unfin := doing false 0 0x100000 0x100000 (.store 1 (.page 0 63 0) 0) none

/-- A load of 16 bytes into a command register and one of a control register. -/
def kload : Unfin := doing false 0 0xFF0000000000 0xFFFFFE000000 (.loadK (.bank 0 0)) none

def ctrlLoad : Unfin := doing false 31 0 0 (.load .u64 (.ctrl 0)) none

theorem witness_AccessesPerformed_loads :
    PassesHome (unfins [kload] st0) (unfins [kload] st0) kload .load 16 (.bank 0 0) ∧
    (unfins [kload] st0).mayPerform 0 = true ∧ st0.placePoison (.bank 0 0) 16 = none ∧
    PassesHome (unfins [ctrlLoad] st0) (unfins [ctrlLoad] st0) ctrlLoad .load 8 (.ctrl 0) ∧
    (unfins [ctrlLoad] st0).mayPerform 0 = true := by
  refine ⟨passesHome_of_homeOk (by decide), by decide, by decide, passesHome_of_homeOk (by decide), by decide⟩

set_option maxRecDepth 20000 in
theorem witness_AccessesPerformed :
    PassesHome (unfins [load0 none] st0) (unfins [load0 none] st0) (load0 none) .load 8 (.bank 0 0x17FFFF8) ∧
    ByteHome (.bank 0 0x17FFFF8) ∧ (unfins [load0 none] st0).mayPerform 0 = true ∧
    st0.placePoison (.bank 0 0x17FFFF8) 8 = none ∧
    (unfins [load0 none] st0).covered ((unfins [load0 none] st0).core.clerk.unfin.take 0) (load0 none) = false ∧
    (unfins [store0, doing false 31 0xFF0000000000 0xFFFFFE000000 (.load .u64 (.bank 0 0)) none] st0).covered [store0]
      (doing false 31 0xFF0000000000 0xFFFFFE000000 (.load .u64 (.bank 0 0)) none) = true ∧
    PassesHome (unfins [store0] st0) (unfins [store0] st0) store0 .store 8 (.bank 0 0) ∧
    (unfins [store0] st0).mayPerform 0 = true ∧ st0.objProtected (Place.key st0 (.bank 0 0)) 8 = false ∧
    st0.partPoisoned (Place.key st0 (.bank 0 0)) 8 = false ∧ Memory.wf st0.mem = true ∧
    (cpage0 st0).pageRead 0 63 0 1 = some 0 ∧ ((cpage0 st0).pageAt 0 63).lock = false ∧
    (cpage0 st0).placePoison (.page 0 63 0) 1 = none ∧
    ((cpage0 st0).tileRead 0 63 0).isSome = true ∧
    ((cpage0 st0).tileWrite 0 63 0 (patch (((cpage0 st0).tileRead 0 63 0).getD []) 0 1 0)).isSome = true ∧
    (unfins [pageLoad] (cpage0 st0)).mayPerform 0 = true ∧ (unfins [pageStore] (cpage0 st0)).mayPerform 0 = true ∧
    PassesHome (unfins [pageLoad] (cpage0 st0)) (unfins [pageLoad] (cpage0 st0)) pageLoad .load 1 (.page 0 63 0) ∧
    PassesHome (unfins [pageStore] (cpage0 st0)) (unfins [pageStore] (cpage0 st0)) pageStore .store 1 (.page 0 63 0) ∧
    st0.ownStoreRefused 0x1F00400 = false ∧ st0.partPoisoned (Place.key st0 (.own 0x1F00400)) 8 = false := by
  refine ⟨passesHome_of_homeOk (by decide), .inr (.inr ⟨_, _, rfl⟩), ?_, ?_, ?_, ?_, passesHome_of_homeOk (by decide), ?_, ?_,
    ?_, ?_, ?_, ?_, ?_, ?_, ?_, ?_, ?_, passesHome_of_homeOk (by decide), passesHome_of_homeOk (by decide), ?_, ?_⟩ <;> decide

/-- `amocas.w` at the last word of the own bank blocks. -/
def cas0 : Unfin :=
  doing false 5 0xFF00017FFFFC 0xFFFFFF7FFFFC (.atomic .cas (.bank 0 0x17FFFFC) 0xFFFFFFFF 0 ⟨.ar, .s, false⟩) none

theorem witness_AtomicsPerformed :
    PassesHome (unfins [cas0] st0) (unfins [cas0] st0) cas0 .atomic 4 (.bank 0 0x17FFFFC) ∧
    ByteHome (.bank 0 0x17FFFFC) ∧ (unfins [cas0] st0).mayPerform 0 = true ∧ cas0.done = none ∧
    (unfins [cas0] st0).skidWaits (.bank 0 0x17FFFFC) = false ∧
    (unfins [cas0] st0).unfin 0 = some cas0 ∧ st0.objProtected (Place.key st0 (.bank 0 0x17FFFFC)) 4 = false ∧
    st0.placePoison (.bank 0 0x17FFFFC) 4 = none ∧
    st0.partPoisoned (Place.key st0 (.bank 0 0x17FFFFC)) 4 = false ∧ Memory.wf st0.mem = true := by
  refine ⟨passesHome_of_homeOk (by decide), .inr (.inr ⟨_, _, rfl⟩), ?_, ?_, ?_, ?_, ?_, ?_, ?_, ?_⟩ <;> decide

/-- A state with a walk of the page 2 and a page table that maps it by a large page: context table at 0x10000, tables
at 0x20000, 0x21000 and 0x22000. -/
def walk0 : State :=
  let s := put 0x10050 8 (0x20000 + 1) (put 0x20000 8 (0x21000 + 1) (put 0x21000 8 (0x22000 + 1) (put 0x22000 8 0x101F st0)))
  { s with modl := { s.modl with ctxtab := 0x10000 }, walks := [⟨5, 2, 0⟩] }

theorem witness_BankAndTableSteps :
    (unfins [doing false 0 0 selfAlias (.xbank (zeroWord 1 0)) none] st0).mayPerform 0 = true ∧
    (match (unfins [doing false 0 0 selfAlias (.xbank (zeroWord 1 0)) none] st0).xfLoans st0.taskMode (zeroWord 1 0).toNat selfAlias with
      | .ok t => !t.xfProtected (zeroWord 1 0).toNat && !t.xfPoisoned (zeroWord 1 0).toNat && (match t.xfPerform (zeroWord 1 0).toNat with
        | .ok _ => true
        | _ => false)
      | _ => false) = true ∧
    (unfins [doing false 5 0 0 (.tag .del 0x123456789ABC) none] (tagged 0 st0)).mayPerform 0 = true ∧
    st0.tagHit 0x123456789ABC = none ∧ (tagged 0 st0).tagHit 0x123456789ABC = some 0 ∧
    ((tagged 0 st0).tag 0).pin = 0 ∧ ((tagged 1 st0).tag 0).pin ≠ 0 ∧
    (State.page { st0 with pages := updAt st0.pages 63 fun p => { p with grow := some (0, []) } } 63).grow = some (0, []) ∧
    63 < st0.pages.length ∧ walk0.walks[0]? = some ⟨5, 2, 0⟩ ∧
    (match walk0.walk 5 (2 * 2 ^ 16) with
      | .ok e => e = page0
      | .error _ => false) = true ∧
    (5 : BitVec 12) = walk0.ctx ∧ (∀ q ∈ walk0.core.fab.reqs, q.stage = .walking → q.va / 2 ^ 16 = 2) := by decide

/-- An object's word at its home: free, held once exclusively, held once shared. -/
def objState (w : Nat) (s : State) : State := put (scratchKey 0 0x1000) 8 w s

def acq0 (excl : Bool) : Unfin := doing false 5 obj0 obj0 (.acquire (.bank 0 0x1000) excl false) none

def rel0 : Unfin := doing false 0 obj0 obj0 (.release (.bank 0 0x1000)) none

theorem witness_ObjectsAtHome :
    (unfins [acq0 true] st0).mayPerform 0 = true ∧ (unfins [acq0 true] st0).unfin 0 = some (acq0 true) ∧
    st0.windowShut (.bank 0 0x1000) = false ∧ (unfins [acq0 true] st0).hasPort (acq0 true) = true ∧
    (unfins [rel0] st0).hasPort rel0 = true ∧
    st0.task = some key0 ∧ st0.poisoned (Place.key st0 (.bank 0 0x1000)) 8 = false ∧
    objMode ((objState 0xFFFFFFFF st0).rd (scratchKey 0 0x1000) 8) = 0 ∧
    objHold ((objState 0xFFFFFFFF st0).rd (scratchKey 0 0x1000) 8) = 0 ∧ st0.objQueue (.bank 0 0x1000) = [] ∧
    objMode ((objState (2 ^ 63 + 2 ^ 48) st0).rd (scratchKey 0 0x1000) 8) = 2 ∧
    (unfins [rel0] st0).mayPerform 0 = true ∧ Memory.wf (objState (2 ^ 63 + 2 ^ 48) st0).mem = true ∧
    objHold ((objState (2 ^ 63 + 2 ^ 48) st0).rd (scratchKey 0 0x1000) 8) = 1 := by decide

/-- The same state with its module changed. -/
def modl (f : Module → Module) (s : State) : State := s.updMod f

def resolves (s : State) (k : AccKind) (va : Nat) : Option Place :=
  match s.resolve 5 ⟨.fabric, k, 8, false⟩ va with
  | .ok r => some r.pl
  | .error _ => none

theorem witness_HostRequests :
    (modl (fun m => { m with bootstat := true }) st0).modl.bootstat = true ∧ st0.modl.bootstat = false ∧
    (0xFFFFFFF8 : Nat) % 8 = 0 ∧ 0xFFFFFFF8 / 8 * 8 ≠ 0x140 ∧
    (modl (fun m => { m with owner := some 3 }) st0).modl.owner = some 3 ∧ st0.modl.owner ≠ some 3 ∧
    resolves st0 .load 0xFFFFFF7FFFF8 = some (.bank 0 0x17FFFF8) ∧ st0.walkHeld 5 0xFFFFFF7FFFF8 = false ∧
    (State.walkHeld { st0 with walks := [⟨5, 2, 0⟩] } 5 0x20000) = true ∧
    st0.reaches 5 (.bank 0 0x17FFFF8) 0xFFFFFF7FFFF8 = true ∧
    (match st0.placeRead (.bank 0 0x17FFFF8) 0xFFFFFF7FFFF8 8 with
      | .ok _ _ => true
      | _ => false) = true ∧
    resolves st0 .load 0xF00000000000 = none ∧ resolves st0 .store 0xFFFFFF7FFFF8 = some (.bank 0 0x17FFFF8) ∧
    (match st0.placeWrite (.bank 0 0x17FFFF8) 0xFFFFFF7FFFF8 8 1 with
      | .ok () _ => true
      | _ => false) = true := by decide

theorem witness_ControlRegisterWrites :
    st0.hasWing 7 = true ∧ 0 < (65535 : Dword).toNat ∧ (65535 : Dword).toNat < 2 ^ 16 ∧ st0.coreId < 160 ∧
    (1 : Dword) = 1 := by decide

/-- A state whose context 5 is valid and whose TCB at 0x20000 has entry 0x1000, a count of 1 and every core. -/
def tcb0 : State :=
  { put 0x10050 8 (0x30000 + 1) (put 0x20000 8 0x1000 (put 0x20008 8 0xABC (put 0x20018 8 (2 ^ 48)
      (put 0x20020 8 (5 * 2 ^ 52 + 0xFF * 2 ^ 32 + 0xFFFFF) st0)))) with
    modl := { Module.reset with ctxtab := 0x10000 }, tlb := [page0] }

/-- The same state where the task holds a borrow and has deferred `n` chains. -/
def borrowing0 (n : Nat) : State :=
  { tcb0 with recs := [{ rec0 with decls := [⟨0xFF0000000000, 64, .borrowed⟩], deferred := List.replicate n (.chain 0 0) }] }

theorem witness_TaskInstructions_borrowed :
    (borrowing0 15).borrows key0 = true ∧ (borrowing0 15).launchCode ⟨(borrowing0 15).taskCtx key0, 1⟩ ≠ 0 ∧
    (borrowing0 15).launchCode ⟨(borrowing0 15).taskCtx key0, 0x20000⟩ = 0 ∧
    ((borrowing0 15).deferredOf key0).length < 16 ∧ 16 ≤ ((borrowing0 16).deferredOf key0).length ∧
    (borrowing0 16).borrows key0 = true ∧ (borrowing0 16).core.clerk.frozen = false := by decide

theorem witness_DeskRegisters :
    st0.launchCode key0 ≠ 0 ∧ tcb0.launchCode ⟨BitVec.extractLsb' 52 12 (0x0050000000020000 : Dword), 0x20000⟩ = 0 ∧
    tcb0.tcbPa 5 0x20000 = some 0x20000 ∧ 2 ^ 48 ≤ tcb0.tcbRd 0x20000 3 ∧ Memory.wf tcb0.mem = true ∧
    tcb0.modl.age < 2 ^ 48 ∧ (0x0000FFFF00003E80 : Dword).toNat / 2 ^ 48 = 0 ∧
    (0x0000FFFF00003E80 : Dword).toNat / 2 ^ 14 % 2 ^ 18 = 0 ∧ 64 ≤ (0x0000FFFF00003E80 : Dword).toNat % 2 ^ 14 ∧
    (0x0000FFFF00003E80 : Dword).toNat % 2 ^ 14 ≤ 16000 ∧ (0x3E81 : Dword).toNat % 2 ^ 14 > 16000 ∧
    st0.faultPick (st0.faultMatches 0 0x30000 none) = none ∧
    st0.faultPick (st0.faultMatches 0 0x20000 none) = some (key0, 0, 0) ∧ st0.task = some key0 := by decide

/-- A ready task. -/
def ready0 : Ready := ⟨key0, 0, 0, 0xFF, 0xFFFFF, 0, 0, none⟩

/-- A state whose core 0 is free, with that task in the order of wing 0. -/
def free1 : State :=
  { tcb0 with
    task := none, occ := [], wings := updAt tcb0.wings 0 fun g => { g with ready := [ready0] }
    core := { tcb0.core with clerk := Clerk.reset }
    modl := { tcb0.modl with partcur := updAt tcb0.modl.partcur 0 fun p => { p with v := true, ctx := 5 } } }

theorem witness_TaskEntry :
    free1.order 0 = [ready0] ∧ (∀ x, x ≠ (0 : BitVec 3).toNat → free1.order x = []) ∧
    ((List.range 20).find? fun c => free1.freeCoreAt (20 * 0 + c) && free1.eligible ready0 (20 * 0 + c)) =
      some (free1.coreId % 20) ∧ 20 * 0 + free1.coreId % 20 = free1.coreId ∧
    free1.tcbPa ready0.key.ctx ready0.key.tcb = some 0x20000 ∧ free1.shadow.find? (fun e => e.1 = ready0.key) = none ∧
    free1.tcbRd 0x20000 2 % 2 ^ 48 = 0 ∧ Memory.wf free1.mem = true ∧ free1.nextTask = [] ∧
    free1.startWaits ready0 free1.coreId = false ∧
    (∀ c, State.freeCoreAt { st0 with modl := { st0.modl with modcfg := [] } } c = false) := by
  and_intros <;> try decide
  · intro x hx
    match x, hx with
    | 1, _ => decide
    | 2, _ => decide
    | 3, _ => decide
    | 4, _ => decide
    | 5, _ => decide
    | 6, _ => decide
    | 7, _ => decide
    | n + 8, _ => rfl
  · intro c
    simp [State.freeCoreAt, State.hasCore]

/-- A state in which a waiting task of higher priority takes the core from its task. -/
def quantum0 : State :=
  { tcb0 with
    timer := 10 ^ 9
    wings := updAt tcb0.wings 0 fun g => { g with
      ready := [{ ready0 with key := ⟨5, 0x20080⟩, prio := 7, aff := 1, wings := 1 }], quantum := 1 }
    modl := { tcb0.modl with partcur := updAt tcb0.modl.partcur 0 fun p => { p with v := true, ctx := 5 } } }

set_option maxRecDepth 20000 in
theorem witness_LeavingTheCore :
    quantum0.task = some key0 ∧ quantum0.preempting = none ∧
    (quantum0.takerOf quantum0.coreId).isSome = true ∧
    st0.recalled = false ∧ (State.maySave { st0 with preempting := some .quantum }) = true ∧ st0.maySave = false ∧
    (State.preempting { st0 with preempting := some .yield }).isSome = true ∧ key0 ∉ st0.recalling ∧
    key0 ∈ (State.recalling { st0 with recalling := [key0] }) ∧
    key0 ∈ (State.recalling { st0 with recalling := [key0], task := none }) ∧
    (State.recallDrained { st0 with recalling := [key0] }) = true ∧
    (grid (elem 0 0 [dataTok 1]) st0).recallDrained = false ∧
    (0x8000000000000005 : Dword).getLsbD 63 = true ∧ (0x8000000000000005 : Dword).getLsbD 61 = false ∧
    ¬ ((st0.partcur 15).v = true ∧ (st0.partcur 15).ctx = 5) ∧ (st0.partcur 15).swap = none ∧
    (∀ x < 160, st0.hasCore x = true → st0.corePart x = 15 → st0.shadowFull x = false) ∧ st0.partRunning 15 = [] ∧
    ((st0.updPartcur 15 fun y => { y with swap := some 5 }).partcur 15).swap = some 5 := by decide

/-! ### Copy records, tables and the module -/

/-- A FILL record of `n` bytes at `dst`, with a NEXT. -/
def rcd0 (n dst next : Nat) : List Dword :=
  [BitVec.ofNat 64 (2 ^ 63 + 7 * 2 ^ 32), 0, BitVec.ofNat 64 dst, BitVec.ofNat 64 (2 ^ 16 + n), 0, 0xAB, 0,
   BitVec.ofNat 64 next]

/-- A channel at work on that record. -/
def filling (n dst next : Nat) (s : State) : State :=
  chan (fun c => { c with state := .run, ctx := 5, head := 0xFFFFFE000040, rcd := rcd0 n dst next }) s

/-- A channel that is to read its next record, whose word 0 in memory is `w0` and whose other words are those above. -/
def reading (w0 : Nat) (s : State) : State :=
  chan (fun c => { c with state := .run, ctx := 5, head := 0xFFFFFE000040 })
    (put (scratchKey 0 0x40) 8 w0 (put (scratchKey 0 0x50) 8 0xFFFFFE000100 (put (scratchKey 0 0x58) 8 (2 ^ 16 + 1) s)))

/-- The record can be read; its checks are passed, or the status 0x03 can be written. -/
def readable (s : State) (own good hv : Bool) (st : HState) : Bool :=
  let c := s.ce 1
  c.state = .run && c.rcd.isEmpty && c.stop.isNone && c.stage != .next && s.ceFree 1 && decide (1 < s.core.ces.length) &&
    (s.core.clerk.pend.all fun p => p.code != 0x11) &&
    match s.ceRead c.ctx c.head 64 with
    | .error _ => false
    | .ok (bs, u) =>
      let words : List Dword := (List.range 8).map fun i => BitVec.ofNat 64 (ofBytes ((bs.drop (8 * i)).take 8))
      let v := u.updCe 1 fun y => { y with rcd := words }
      (ofBytes (bs.take 8) / 2 ^ 63 % 2 == 1) == own && (!own || (recOk words == good &&
        (if good then (v.nvmeBad 1).isNone && recHv words == hv && (match v.recOverlap c.ctx words with
            | .ok (none, x) => !x.nvmeDest 1 && decide (recHandle words < x.core.handles.length) &&
                (x.handle (recHandle words)).st == st
            | _ => false)
        else (v.ceMark 1 0x03).isSome)))

set_option maxRecDepth 50000 in
/-- A record whose OWN is 0; with HV 0; with HV 1 for handle 63, FILLING and FREE; and one with a reserved bit. -/
theorem witness_CopyRecords_read :
    readable (reading 0 st0) false true false .free = true ∧
    readable (reading (2 ^ 63 + 7 * 2 ^ 32) st0) true true false .free = true ∧
    readable (reading (2 ^ 63 + 2 ^ 61 + 63 * 2 ^ 42 + 7 * 2 ^ 32) (hnd 63 .filling st0)) true true true .filling = true ∧
    readable (reading (2 ^ 63 + 2 ^ 61 + 63 * 2 ^ 42 + 7 * 2 ^ 32) st0) true true true .free = true ∧
    readable (reading (2 ^ 63 + 2 ^ 56 + 7 * 2 ^ 32) st0) true false false .free = true := by
  and_intros <;> decide

/-- The same channel past its payload, at a stage. -/
def staged (w0 next : Nat) (st : CeStage) (s : State) : State :=
  chan (fun c => { c with
    rcd := BitVec.ofNat 64 w0 :: (rcd0 1 0xFFFFFE000100 next).drop 1, progRows := 1, stage := st, counted := bitOf w0 61 })
    (filling 1 0xFFFFFE000100 next s)

/-- A write of the engine that succeeds and leaves no KICK. -/
def writes (x : Except (CeErr × State) State) : Bool :=
  match x with
  | .ok u => !(u.ce 1).kick && decide (1 < u.core.ces.length)
  | .error _ => false

/-- The status with which an access stops the record. -/
def stops (x : CeGot) : Option (Nat × Bool) :=
  match x with
  | .error (.stop st _, u) => some (st, !u.ceKilled 1 && (u.ceMark 1 st).isSome && decide (1 < u.core.ces.length))
  | _ => none

def moves (x : CeGot) : Bool :=
  match x with
  | .ok u => !u.ceKilled 1
  | .error _ => false

/-- A channel whose record writes a block of an NVMe namespace. -/
def toNvme : State :=
  chan (fun c => { c with ctx := 5, rcd := [2 ^ 63, 0, 0x100000, 0x10200, 0, 0, 0, 0] })
    { walk0 with nvmeWin := [(0x100000, 0x1000, 512)], tlb := [page0] }

set_option maxRecDepth 50000 in
theorem witness_CopyRecords_payload :
    (filling 1 0xFFFFFE000100 0 st0).ceRunning 1 = true ∧ ((filling 1 0xFFFFFE000100 0 st0).ce 1).progRows.toNat < 1 ∧
    recRows (rcd0 1 0xFFFFFE000100 0) = 1 ∧
    (filling 1 0xFFFFFE000100 0 st0).nvmeDest 1 = false ∧ (filling 1 0xFFFFFE000100 0 st0).nvmeBad 1 = none ∧
    moves ((filling 1 0xFFFFFE000100 0 st0).cePay 1 ((filling 1 0xFFFFFE000100 0 st0).ceHalts 1)) = true ∧
    stops ((filling 1 0xF00000000000 0 st0).ceStep 1) = some (0x02, true) ∧
    toNvme.nvmeDest 1 = true ∧ toNvme.nvmeBad 1 = none ∧
    recRows [2 ^ 63, 0, 0x100000, 0x10200, 0, 0, 0, 0] * recElems [2 ^ 63, 0, 0x100000, 0x10200, 0, 0, 0, 0] ≤ 512 := by
  and_intros <;> decide

set_option maxRecDepth 50000 in
/-- A record past its payload, with and without a completion word and a handle, the last one and one with a NEXT. -/
theorem witness_CopyRecords_ends :
    recRows ((staged (2 ^ 63) 0 .payload st0).ce 1).rcd ≤ ((staged (2 ^ 63) 0 .payload st0).ce 1).progRows.toNat ∧
    (staged (2 ^ 63) 0 .payload st0).ceRunning 1 = true ∧ (staged (2 ^ 63) 0 .completion st0).ceRunning 1 = true ∧
    (staged (2 ^ 63) 0 .handle st0).ceRunning 1 = true ∧ (staged (2 ^ 63) 0 .word0 st0).ceRunning 1 = true ∧
    recW ((staged (2 ^ 63 + 2 ^ 62) 0 .completion st0).ce 1).rcd 0 / 2 ^ 62 % 2 = 1 ∧
    writes ((staged (2 ^ 63 + 2 ^ 62) 0 .completion st0).ceWrite 1 5 0xFFFFFE000200 (toBytes 0 4) (0xFFFFFE000200, 0xFFFFFE000204)) =
      true ∧
    ((staged (2 ^ 63 + 2 ^ 61) 0 .handle st0).ce 1).counted = true ∧ ((staged (2 ^ 63) 0 .handle st0).ce 1).counted = false ∧
    recHandle ((staged (2 ^ 63 + 2 ^ 61 + 63 * 2 ^ 42) 0 .handle st0).ce 1).rcd = 63 ∧ 63 < st0.core.handles.length ∧
    writes ((staged (2 ^ 63) 64 .word0 st0).ceWord0 1 0) = true ∧
    recW ((staged (2 ^ 63) 64 .word0 st0).ce 1).rcd 7 % 2 ^ 48 = 64 ∧
    recW ((staged (2 ^ 63) 0 .word0 st0).ce 1).rcd 7 % 2 ^ 48 = 0 := by
  and_intros <;> decide

/-- A channel that waits for a handle; one that has written 128 bytes on a pre-empted core, in a living and a killed context. -/
def paused (kill : Bool) : State :=
  { chan (fun c => { c with bytes := 128 }) (filling 256 0xFFFFFE000100 0
      (modl (fun m => { m with killDone := !kill, killCtx := 5 }) st0)) with preempting := some .quantum }

/-- A channel that waits for its NVMe controller. -/
def nvme0 (s : State) : State := chan (fun c => { c with nvme := true }) (filling 1 0xFFFFFE000100 0 s)

set_option maxRecDepth 50000 in
theorem witness_CopyRecords :
    ((chan (fun c => { c with state := .wait, rcd := [42 * 2 ^ 42] }) st0).ce 1).state = .wait ∧
    (st0.ce 1).stop = none ∧ st0.ceFree 1 = true ∧
    ((hnd 42 .filling st0).handle (recHandle [42 * 2 ^ 42])).st = .filling ∧
    ((paused false).ce 1).state = .run ∧ (paused false).lanesHeld = true ∧ ((paused false).ce 1).nvme = false ∧
    ((paused false).ce 1).bytes % 128 = 0 ∧ (paused false).ceKilled 1 = false ∧ (paused false).recalled = false ∧
    (paused true).ceKilled 1 = true ∧ (paused true).lanesHeld = true ∧
    ((nvme0 st0).ce 1).state = .run ∧ ((nvme0 st0).ce 1).nvme = true ∧ (nvme0 st0).ceKilled 1 = false ∧
    ((nvme0 st0).ceMark 1 0x02).isSome = true ∧ moves (payAll 1 1 (nvme0 st0)) = true ∧ (st0.ce 1).nvme = false := by
  and_intros <;> decide

theorem witness_InvalidationAndTables :
    st0.modl.xinvBusy = false ∧ (0xFFF0FFFFFFFF0002 : Dword).toNat / 2 ^ 2 % 2 ^ 14 = 0 ∧
    (0xFFF0FFFFFFFF0002 : Dword).toNat / 2 ^ 48 % 2 ^ 4 = 0 ∧ (0xFFF0FFFFFFFF0002 : Dword).toNat % 4 ≠ 3 ∧
    (modl (fun m => { m with xinvBusy := true }) st0).modl.xinvBusy = true ∧
    st0.core.clerk.unfin.any Unfin.translated = false ∧
    (unfins [doing false 5 0 0 (.load .u8 (.mem 0)) none] st0).core.clerk.unfin.any Unfin.translated = true ∧
    st0.modl.killDone = true ∧ (modl (fun m => { m with killDone := false }) st0).modl.killDone = false ∧
    (∀ c ∈ st0.core.ces, c.ctx = st0.modl.killCtx → c.state ≠ .run ∧ c.state ≠ .wait) ∧
    (∃ c ∈ (chan (fun c => { c with state := .run }) st0).core.ces, c.ctx = st0.modl.killCtx ∧ c.state = .run) ∧
    (fun x : Nat => x % 2 ^ 4 ≤ 9 ∧ x / 2 ^ 25 = 0 ∧ x / 2 ^ 4 % 2 ^ 8 = 0 ∧
      (x / 2 ^ 12 % 2 ^ 13 + 8 * 2 ^ (x % 2 ^ 4)) * 0x1000 ≤ 0x180_0000) (0x800009 : Dword).toNat ∧
    (fun x : Nat => ¬ (x % 2 ^ 4 ≤ 9 ∧ x / 2 ^ 25 = 0 ∧ x / 2 ^ 4 % 2 ^ 8 = 0 ∧
      (x / 2 ^ 12 % 2 ^ 13 + 8 * 2 ^ (x % 2 ^ 4)) * 0x1000 ≤ 0x180_0000)) (0x801009 : Dword).toNat ∧
    (st0.page 63).lock = false ∧ (State.page (st0.updPage 0 63 fun p => { p with lock := true }) 63).lock = true ∧
    (st0.cpdescWrite 0 63 (2 ^ 63 + 2048 * 2 ^ 44)).isSome = true ∧
    st0.cpdescWrite 0 63 (2 ^ 63 + 2049 * 2 ^ 44) = none := by
  decide

theorem witness_ModuleAgents :
    (modl (fun m => { m with owner := some 3 }) st0).modl.owner = some 3 ∧ (3 : BitVec 4).toNat < 4 ∧
    st0.modl.owner ≠ some 3 ∧ 4 ≤ (14 : BitVec 4).toNat ∧ (14 : BitVec 4) ≠ 15 ∧ st0.modl.owner = none ∧
    (modl (fun m => { m with ownPend := 8 }) st0).modl.ownPend.getLsbD 3 = true ∧
    (∀ j < 3, (modl (fun m => { m with ownPend := 8 }) st0).modl.ownPend.getLsbD j = false) ∧ st0.modl.ownPend = 0 ∧
    ((st0.updWing 7 fun g => { g with wpwrReq := some 3 }).wing 7).wpwrReq = some 3 ∧ 7 < st0.wings.length ∧
    3000 ≤ st0.modl.pwrlim.toNat ∧ st0.modl.pwrlim.toNat < 3001 ∧
    (modl (fun m => { m with attBusy := true }) st0).modl.attBusy = true ∧ st0.modl.attBusy = false ∧
    ((st0.updWing 7 fun g => { g with spanUp := [true, true, true, true], spanFails := [0, 0, 0, 15] }).wing 7).spanUp.getD 3 false = true ∧
    ((st0.updWing 7 fun g => { g with spanFails := [0, 0, 0, 15] }).wing 7).spanFails.getD 3 0 < 16 ∧
    16 ≤ ((st0.updWing 7 fun g => { g with spanFails := [0, 0, 0, 16] }).wing 7).spanFails.getD 3 0 ∧
    (st0.modl.modcfg.getD 8 0).getLsbD 31 = true ∧
    ((modl (fun m => { m with modcfg := [] }) st0).modl.modcfg.getD 8 0).getLsbD 31 = false ∧
    (⟨288, 288⟩ : NiMsg).len ≤ (⟨288, 288⟩ : NiMsg).have_ ∧ (⟨288, 287⟩ : NiMsg).have_ < (⟨288, 287⟩ : NiMsg).len := by decide

/-! ### The grid and the engines -/

/-- A word that writes P7 of the FE at row 1 and column 1, waiting there. -/
def wordWaits (s : State) : State :=
  grid { Fe.reset with waiting := [(BitVec.ofNat 64 (2 ^ 59 + 2 ^ 54 + 7 * 2 ^ 50 + 77), some 0)] } s

/-- An FE with a token in its east register of track 0, next to one that takes it from its west side. -/
def hop0 (q : List Token) (s : State) : State :=
  s.updFab fun b => { b with fes := [((1, 1), { elem 0 0 [] with track := updAt Fe.reset.track 4 fun _ => some (dataTok 7) }),
    ((1, 2), { elem 0 0 [] with route := 4, fifo := [[], [], [], q], window := [[], [], [], q.take 15] })] }

/-- A state with an image of two folios, of which the first is resident and drained and the second has an entry. -/
def folio0 : State :=
  put (scratchKey 0 0) 8 0x000200014E524C53 (put (scratchKey 0 24) 8 (0x8001 + 0x9001 * 2 ^ 32)
    (put (scratchKey 0 64) 16 ((2 ^ 59 + 2 ^ 54 + 77) * (2 ^ 64 + 1)) st0)) |>.updFab fun f => { f with
      image := some 0xFFFFFE000000, folio := some 0, qs := [⟨1, 0, 4, 4, 0, 0, 1, 0⟩] }

/-- A token at the drain port of engine 0 and one in an FE's east register, with no path that leads on. -/
def pathless : State :=
  (st0.updMe 0 fun m => { m with emitq := [dataTok 7] }).updFab fun b => { b with
    fes := [((1, 1), { elem 0 0 [] with track := updAt Fe.reset.track 4 fun _ => some (dataTok 7) })] }

theorem witness_GridSteps_noPath :
    pathless.hopHead 8 18 (dirIdx .w) 0 = some (dataTok 7) ∧ pathless.dests 8 18 (dirIdx .w) 0 = [] ∧
    pathless.hopHead 1 1 (dirIdx .e) 0 = some (dataTok 7) ∧ pathless.dests 1 1 (dirIdx .e) 0 = [] := by decide

theorem witness_GridSteps :
    (hop0 [] st0).hopHead 1 1 (dirIdx .e) 0 = some (dataTok 7) ∧
    (hop0 [] st0).dests 1 1 (dirIdx .e) 0 = [.port 1 2 3] ∧
    (∀ y ∈ (hop0 [] st0).dests 1 1 (dirIdx .e) 0, (hop0 [] st0).destFree y = true) ∧
    (∃ y ∈ (hop0 (List.replicate 19 voidTok) st0).dests 1 1 (dirIdx .e) 0,
      (hop0 (List.replicate 19 voidTok) st0).destFree y = false) ∧
    st0.hopHead 1 1 (dirIdx .e) 0 = none ∧
    ((wordWaits st0).fe 1 1).waiting = [(BitVec.ofNat 64 (2 ^ 59 + 2 ^ 54 + 7 * 2 ^ 50 + 77), some 0)] ∧
    cfgReg (2 ^ 59 + 2 ^ 54 + 7 * 2 ^ 50 + 77) = 7 ∧ (wordWaits st0).feQuiet 1 1 = true ∧
    (grid (elem 0 0 [dataTok 1]) st0).feQuiet 1 1 = false ∧
    ((grid { Fe.reset with startPending := true } st0).fe 1 1).startPending = true ∧
    (⟨0, [(1, 1)], [], [(1, 1)]⟩ : FolioLoad).starts.head? = some (1, 1) ∧ st0.core.fab.image = none ∧
    folio0.core.fab.choose = some 1 ∧ folio0.drained = true ∧ folio0.task.isSome = true ∧ folio0.cfgSending = false ∧
    folio0.lanesHeld = false ∧
    folioWords folio0 0xFFFFFE000000 1 =
      some [2 ^ 59 + 2 ^ 54 + 77] ∧
    State.drained (folio0.updFab fun f => { f with fes := [((1, 1), elem 0 0 [dataTok 1])] }) = false := by decide

theorem witness_TokensAligned :
    (grid (elem 0 0 [endTok 7 3]) st0).feActive 1 1 = true ∧ (elem 0 0 [endTok 7 3]).code ∈ [0, 1, 3, 4, 6] ∧
    (elem 11 0 [endTok 7 3]).code = 11 ∧ (elem 11 0 [endTok 7 3]).sub = 0 ∧ (elem 0 0 [endTok 7 3]).op.outq = [] ∧
    (grid (elem 0 0 [endTok 7 3]) st0).noReqs (.fe 1 1) = true ∧ (elem 0 0 [endTok 7 3]).roomAll 1 = true ∧
    (elem 0 0 [endTok 7 3]).slots ≠ [] ∧ (∀ i ∈ (elem 0 0 [endTok 7 3]).slots, (elem 0 0 [endTok 7 3]).endAt i = 7) ∧
    (elem 0 0 [endTok 7 3]).endReason = 0 ∧
    (∀ i ∈ (elem 0 0 [barTok 255]).slots, (elem 0 0 [barTok 255]).barAt i = some 255) ∧
    (elem 0 0 [barTok 255]).outs ≠ [] ∧
    (∀ i ∈ (elem 0 0 [barTok 255]).slots, (elem 0 0 [barTok 255]).shortOf Token.isBar i = false) ∧
    ((elem 0 0 [errTok 5]).slots.find? fun i => (elem 0 0 [errTok 5]).headIs Token.isErr i ||
      (elem 0 0 [errTok 5]).shortOf Token.isErr i) = some 0 ∧
    (elem 0 0 [errTok 5]).head 0 = some (errTok 5) := by decide

/-- What the statement on firings asks of an FE with one token on IN0. -/
def firing (f : Fe) (t : Token) : Bool :=
  f.group 0 == [t] && t.isData && f.op.outq.isEmpty && f.readyAll && f.slots == [0] && f.need 0 == 1 && f.rateOut 0 == 1 &&
    f.roomRate && f.badHead == 0 && (grid f st0).feActive 1 1 && (grid f st0).fe 1 1 == f

/-- A STEER by its constant, a SHUF `perm` of one token, a RED whose copy holds a partial. -/
def steer0 : Fe := { elem 3 1 [dataTok 7] with xing := 0x900080000, rate := 0x11001 }

def perm0 : Fe := { elem 9 1 [dataTok 7] with p := #v[0, 0, 1, 0, 0, 0, 0, 0] }

def red0 : Fe := { elem 2 1 [dataTok 7] with op := { OpState.reset with partials := [some 5] } }

theorem witness_OperatorFirings :
    firing (elem 0 0 [dataTok 7]) (dataTok 7) = true ∧ (elem 0 0 [dataTok 7]).param 2 % 4 = 0 ∧
    firing (elem 0 0 [voidTok]) voidTok = true ∧ firing (elem 1 0 [dataTok 7]) (dataTok 7) = true ∧
    firing (elem 1 0 [voidTok]) voidTok = true ∧ firing red0 (dataTok 7) = true ∧
    red0.op.partials.getD red0.copyOf none = some 5 ∧ firing steer0 (dataTok 7) = true ∧ steer0.outs = [0, 1] ∧
    steer0.emitRoom 0 ≠ 0 ∧ steer0.emitRoom 1 ≠ 0 ∧ steer0.rateOut 1 = 1 ∧ firing perm0 (dataTok 7) = true ∧
    perm0.param 2 % 16 = 1 ∧ perm0.param 0 % 16 = 0 ∧ perm0.emitRoom 0 ≠ 0 ∧
    firing (elem 10 0 [dataTok 7]) (dataTok 7) = true ∧ firing (elem 11 0 [dataTok 7]) (dataTok 7) = true ∧
    (elem 11 0 [dataTok 7]).outs = [0] := by decide

/-- MERGE `arrv`, CARRY, GEN, SEG and MEM `load` with what each takes. -/
def merge0 : Fe := { elem 4 1 [dataTok 7] with route := 0x21, rate := 0x1011 }

def carry0 : Fe := { elem 5 0 [dataTok 7] with p := #v[3, 0, 0, 0, 0, 0, 0, 0] }

def mem0 (t : Token) : Fe := { elem 7 4 [t] with p := #v[0, 0, 0, 0, 99, 0, 0, 0] }

/-- A request of the FE at row 1 and column 1 with its reply. -/
def reply0 (y : Token) : Req :=
  { memReq 1 1 0 (.load 4 false) 0 0 0 with stage := .performed y.payload }

theorem witness_StreamOperators :
    merge0.ready 0 = true ∧ merge0.ready 1 = false ∧
    max (merge0.rateOut 0) (merge0.need 0) ≤ merge0.emitRoom 0 ∧
    merge0.code = 4 ∧ merge0.badHead = 0 ∧
    (grid merge0 st0).feActive 1 1 = true ∧
    carry0.code = 5 ∧ carry0.sub = 0 ∧ carry0.op.busy = false ∧ carry0.side 2 = none ∧ carry0.ready 0 = true ∧
    0 < carry0.param 0 ∧ carry0.need 0 ≤ carry0.emitRoom 0 ∧ (elem 6 0 []).code = 6 ∧ (elem 6 0 []).emitRoom 0 ≠ 0 ∧ (elem 6 0 []).roomRate = true ∧
    (elem 6 0 []).op.outq = [] ∧ (elem 6 0 []).op.fin = false ∧ (elem 6 0 []).lim = 0 ∧ (elem 8 0 [dataTok 7]).code = 8 ∧
    (elem 8 0 [dataTok 7]).readyAll = true ∧ (elem 8 0 [dataTok 7]).group 0 = [dataTok 7] ∧
    ((elem 8 0 [dataTok 7]).op.bufs.getD (elem 8 0 [dataTok 7]).copyOf [] ++ [dataTok 7]).length * 4 < 64 ∧
    (mem0 (dataTok 8)).code = 7 ∧ (mem0 (dataTok 8)).sub = 4 ∧ (mem0 (dataTok 8)).readyAll = true ∧
    (mem0 (dataTok 8)).group 0 = [dataTok 8] ∧ (grid (mem0 (dataTok 8)) st0).reqCount 1 1 < 15 ∧ voidTok.isVoid = true ∧
    (dataTok 8).isVoid = false ∧ (mem0 voidTok).group 0 = [voidTok] ∧
    (((mem0 (dataTok 8)).memBase : Int) + signedOf 32 (dataTok 8).payload.toNat) % (2 ^ 48 : Int) % 4 = 0 ∧
    (reply0 (dataTok 9)).reply = some (dataTok 9) ∧ (reply0 (dataTok 9)).who = .fe 1 1 ∧
    (mem0 (dataTok 8)).replyTo = none ∧ (mem0 (dataTok 8)).routed 0 = true ∧ 1 ≤ (mem0 (dataTok 8)).emitRoom 0 := by decide

/-- `swrite` of one row of 4 bytes on port 15. -/
def write0 : Instr := .swrite 15 { r1 := 0, r2 := 0, stride := 0, rows := 1, len := 4, addr := 0 }

/-- The same state with port 15 changed. -/
def port15 (f : Port → Port) (s : State) : State := s.updPort 15 f

/-- That command with the tokens of its one block taken. -/
def block0 (t : Token) (addr : BitVec 48) : LaneCmd :=
  { LaneCmd.start (.swrite 15 { r1 := 0, r2 := 0, stride := 0, rows := 1, len := 4, addr }) with out := [t], n := 1 }

theorem witness_LaneSteps_block :
    (block0 voidTok 0).blockFull = true ∧ (block0 (dataTok 7) 0xFFFFFE000000).blockFull = true ∧
    (dataTok 7).isVoid = false ∧
    (match st0.absWrite (block0 (dataTok 7) 0xFFFFFE000000) with
      | .ok () _ => true
      | _ => false) = true := by decide

theorem witness_LaneSteps :
    15 < st0.core.ports.length ∧
    ((port15 (fun q => { q with sealed := true, sealToks := [5] }) st0).port 15).sealToks = [5] ∧
    st0.laneRoom 15 = true ∧ (port15 (fun q => { q with gated := true }) st0).laneStopped 15 = true ∧
    st0.laneStopped 15 = false ∧ st0.midEntry 15 = false ∧ (st0.port 15).emitCmd = none ∧ Instr.emits (read0 0) = true ∧
    Instr.paired (read0 0) = false ∧
    (hop0 [] (port15 id st0)).laneRoom 15 = true ∧
    (State.laneRoom (st0.updFab fun b => { b with fes := [((16, 1),
      { elem 0 0 [] with route := 4, window := [[], [], [], List.replicate 15 voidTok], fifo := [[], [], [], List.replicate 4 voidTok] })] }) 15) =
      false ∧
    st0.stalledAt (.lane 15) = false ∧ voidTok.isVoid = true ∧ (LaneCmd.start write0).closing = false ∧
    (LaneCmd.start write0).n ≠ max 1 1 * (4 / 4) ∧ (endTok 7 1).kind = 7 ∧ (LaneCmd.start (read0 0)).out = [] ∧
    ({ LaneCmd.start (read0 0) with closing := true }).closing = true ∧ (st0.port 15).queue = [] ∧
    (LaneCmd.start (.sread 15 { r1 := 0, r2 := 0, handle := 63, stride := 0, rows := 1, len := 4, addr := 0, hv := true, rlvl := 0, opn := false })).claims =
      some 63 ∧ 63 < st0.core.handles.length ∧ ((hnd 63 .full st0).handle 63).st = .full ∧
    ((hnd 63 .filling st0).handle 63).st = .filling := by decide

/-- A dense product of 16 columns, one channel, INT8, overwriting. -/
def prod0 : ProductFields :=
  { r1 := 0, src := false, afmt := false, bank := false, acc := 0, gamma := 0, n := 16, ach := 0 }

/-- Engine 1 with an INT8 plane of 16 columns, that product begun, and the given rows and tokens. -/
def dense0 (rows : List (List Token)) (part fifo : List Token) : Me :=
  { Me.reset with
    queue := [⟨.mdense 1 prod0, false, 0, false⟩], active := ⟨.int8, 16, [], []⟩, arows := updAt Me.reset.arows 0 fun _ => rows
    apart := updAt Me.reset.apart 0 fun _ => part, afifo := updAt Me.reset.afifo 0 fun _ => fifo }

theorem witness_MatrixEngineSteps :
    1 < st0.core.mes.length ∧ (dense0 [] [] []).sealed = false ∧
    (dense0 [] [] [dataTok 1]).product = some (0, ⟨.mdense 1 prod0, false, 0, false⟩) ∧ (dense0 [] [] [dataTok 1]).afifo[0]? = some [dataTok 1] ∧
    (dense0 [] [] [dataTok 1]).adiscard.getD 0 false = false ∧
    ((dense0 (List.replicate 63 []) [] []).arows.getD 0 []).length < rowsOn 1 0 ∧
    (dense0 [] [] []).productReason (.mdense 1 prod0) prod0 = 0 ∧ (dataTok 1).isData = true ∧ (endTok 1 0).kind = 1 ∧
    ((dense0 [] (List.replicate 16 (dataTok 1)) [endTok 1 0]).apart.getD 0 []).length = 16 ∧
    st0.stalledAt (.me 1) = false ∧
    ((dense0 (List.replicate 64 (List.replicate 16 (dataTok 1))) [] []).rows 1).isSome = true ∧ prod0.afmt = false ∧
    prod0.acc = 0 ∧ 0 < (512 : Half).toNat ∧
    ({ Me.reset with queue := [⟨.mload 1 ⟨0, 0, 0, false, 1, 0, 16⟩, false, 0, false⟩] }).loading.isSome = true ∧
    (⟨10, 0⟩ : Token).kind = 10 := by decide

/-- A concordance of two tokens that keeps both. -/
def conc0 : Conc := ⟨2, 2, [0, 1], [1, 1], [1, 1]⟩

theorem witness_MergeUnitSteps :
    st0.core.tmu.sealed = false ∧ st0.lanesHeld = false ∧ st0.core.tmu.skip = 0 ∧ st0.core.tmu.taking = none ∧
    ({ Tmu.reset with queue := [⟨.tmerge 0 0 4 false, false, 0, false⟩] }).taking = some (.tmerge 0 0 4 false) ∧
    (dataTok 1).isData = true ∧ st0.core.tmu.bars = [] ∧ st0.stalledAt .tmu = false ∧
    ({ Tmu.reset with slots := List.replicate 16 ⟨.ready, .ready, some conc0⟩ }).conc 15 = some conc0 ∧
    conc0.m = conc0.n ∧ 15 < Tmu.reset.slots.length ∧ st0.core.tmu.emitting = [] := by decide

/-- A step from a state in canonical form whose PCs are aligned answers a next state. -/
theorem witness_MemoryCanonicalKept :
    Memory.wf stepping0.mem = true ∧ after (step stepping0) (fun _ => true) = true := by decide

theorem witness_PcAlignedKept :
    PcsAligned { stepping0 with shadow := [(key0, { Core.reset with clerk := { Clerk.reset with pc := 0xFFFFFFFFFFFC } })] } ∧
    after (step { stepping0 with shadow := [(key0, { Core.reset with clerk := { Clerk.reset with pc := 0xFFFFFFFFFFFC } })] })
      (fun _ => true) = true := by
  unfold PcsAligned
  decide

/-! ### States that meet the clauses on what waits, what is held and what was issued before -/

/-- The page at 0x500000 has a walk in flight. -/
def walking0 : State := { st0 with walks := [⟨5, 0x50, 0⟩] }

/-- An unfinished store to a control register. -/
def ctrlStore : Unfin := { store0 with work := .store 8 (.ctrl 0) 0 }

/-- Where an instruction is checked at its issue: no walk of its page, nothing that it is checked behind; and both not. -/
theorem witness_ChecksNow :
    ChecksNow (st0.advance 4) (some obj0) ∧ ChecksNow (st0.advance 4) none ∧
    ChecksNow (unfins [store0] st0) (some 0xFFFFFE000000) ∧
    ChecksNow (State.advance { st0 with tlb := [page0] } 4) (some 0x20000) ∧ ChecksNow pool0 (some 0xFFFFFE000100) ∧
    ChecksNow (st0.advance 4) (some 0xFFFFFE000004) ∧
    ¬ ChecksNow walking0 (some 0x500000) ∧ ¬ ChecksNow (unfins [ctrlStore] st0) (some 0xFFFFFE000000) ∧
    ¬ ChecksNow (unfins [ctrlStore] pool0) (some (pool0.core.clerk.cmdbase.toNat + 16 * 16)) := by
  and_intros <;> decide

theorem witness_Due :
    Due (asks (.bind obj0 0xFF0000002000 64) []) 0 { store0 with dest := 5, work := .bind obj0 0xFF0000002000 64 } ∧
    Due (unfins [load0 none] st0) 0 (load0 none) ∧ Due (unfins [store0] st0) 0 store0 ∧
    Due (unfins [cas0] st0) 0 cas0 ∧ Due (unfins [acq0 true] st0) 0 (acq0 true) ∧ Due (unfins [rel0] st0) 0 rel0 ∧
    Due (joining []) 0 { store0 with dest := 5, b := 2, work := .join 5 .issued } ∧
    Due (asks (.tag .ins 0x123456789ABC) []) 0 { store0 with dest := 5, work := .tag .ins 0x123456789ABC } ∧
    Due (unfins [doing false 0 0 selfAlias (.xbank (zeroWord 1 0)) none] st0) 0
      (doing false 0 0 selfAlias (.xbank (zeroWord 1 0)) none) ∧
    Due (unfins [pageStore] (cpage0 st0)) 0 pageStore := by
  and_intros <;> decide

theorem witness_StepRuns_skip :
    (State.tick { stepping0 with agenda := [] }).core.tmu.skip = 0 ∧
    (State.tick { (State.reset.withFetchWord 32 0x000000FC) with agenda := [] }).core.tmu.skip = 0 ∧
    (State.tick { stepping0 with agenda := [], tlb := [] }).core.tmu.skip = 0 := by decide

theorem witness_Division_others : Memory.wf st0.mem = true ∧
    (∀ u ∈ (unfins [load0 none] (regs [(6, 5)] st0)).core.clerk.unfin, u.kd = true ∨ u.dest ≠ 5) ∧
    (unfins [load0 none] (regs [(6, 5)] st0)).reg 7 = 0 := by decide

/-- A `bind` whose object's page has a walk in flight, one whose object's address is no place, and an `unbind` of a region whose
object lies on a peer module that no port reaches. -/
theorem witness_Bindings_waits :
    walking0.walkHeld walking0.ctx 0x500000 = true ∧ st0.walkHeld st0.ctx obj0 = false ∧
    (match (asks (.bind 3 0xFF0000002000 64) []).objPlace 3 with
      | .ok _ => false
      | .error _ => true) = true ∧
    (asks (.unbind 0xFF0000002000) [entry0 0xFF0000002000 0]).hasPort
      { store0 with dest := 5, work := .unbind 0xFF0000002000 } = true ∧
    (asks (.unbind 0xFF0000002000) [{ entry0 0xFF0000002000 0 with home := .peer 1 0x1000, obj := 0x1000 }]).hasPort
      { store0 with dest := 5, work := .unbind 0xFF0000002000 } = false := by decide

/-- A set declared once more, one that overlaps it, and an `lstat` past its last index. -/
theorem witness_LoanDeclarations_met :
    declsMet [⟨0x10000, 64, .borrowed⟩] (st0.canon 0x10000) 64 = [(0, ⟨0x10000, 64, .borrowed⟩)] ∧
    declsMet [⟨0x10000, 128, .borrowed⟩] (st0.canon 0x10040) 64 = [(0, ⟨0x10000, 128, .borrowed⟩)] ∧
    8 < ((regs [(6, 9)] st0).reg 6).toNat := by decide

theorem witness_TaskInstructions_order :
    (borrowing0 15).inOrder = true ∧ (unfins [store0] (borrowing0 15)).inOrder = false ∧
    (borrowing0 15).task = some key0 ∧ (borrowing0 16).inOrder = true := by decide

theorem witness_ConfigurationInstructions_points :
    st0.pointsDone = true ∧ (unfins [cas0] st0).pointsDone = false := by decide

theorem witness_ResultsReturn_order :
    (unfins [doing false 5 0 63 (.hwait 63) none] (hnd 63 .full st0)).mayPerform 0 = true ∧
    (unfins [cas0, doing false 6 0 63 (.hwait 63) none] (hnd 63 .full st0)).mayPerform 1 = false := by decide

/-- A load that is sent, a `join` that stands at the desk, and a load that an acquiring atomic holds back. -/
theorem witness_ClerkEvents_sent :
    (unfins [load0 none] st0).unfinSent 0 (load0 none) = true ∧
    (unfins [{ store0 with work := .join 5 .waits }] st0).unfinSent 0 { store0 with work := .join 5 .waits } = true ∧
    (unfins [cas0, load0 none] st0).unfinSent 1 (load0 none) = false ∧
    (unfins [cas0, load0 none] st0).unfin 1 = some (load0 none) := by decide

/-- An atomic at a bank at which one more than the one that matched has been performed. -/
theorem witness_AtomicsPerformed_skid :
    (State.skidWaits { pends [⟨0x11, 0, 0⟩] (unfins [cas0] st0) with skid := [(bankOf 0x17FFFFC, true)] }
      (.bank 0 0x17FFFFC)) = true ∧
    Due { pends [⟨0x11, 0, 0⟩] (unfins [cas0] st0) with skid := [(bankOf 0x17FFFFC, true)] } 0 cas0 := by
  and_intros <;> decide

/-- The own core's object with word `w` and the requests that wait for it. -/
def objWith (w : Nat) (q : List ObjWait) : State := { objState w st0 with objs := [⟨.bank 0 0x1000, q⟩] }

/-- Its mode, its holds, how many wait, and whether the first wants it alone. -/
def objSeen (s : State) : Nat × Nat × Nat × Option Bool :=
  (objMode (s.rd (scratchKey 0 0x1000) 8), objHold (s.rd (scratchKey 0 0x1000) 8), (s.objQueue (.bank 0 0x1000)).length,
    (s.objQueue (.bank 0 0x1000)).head?.map (·.excl))

/-- Shared, free of waiters and full; shared with one who wants it alone; reserved; held once with a queue of each kind. -/
theorem witness_ObjectsAtHome_shared :
    objSeen (objWith (2 ^ 62 + 2 ^ 48) []) = (1, 1, 0, none) ∧
    objSeen (objWith (2 ^ 62 + 16383 * 2 ^ 48) []) = (1, 16383, 0, none) ∧
    objSeen (objWith (2 ^ 62 + 2 ^ 48) [⟨key0, true⟩]) = (1, 1, 1, some true) ∧
    objSeen (objWith (3 * 2 ^ 62) []) = (3, 0, 0, none) ∧
    objSeen (objWith (2 * 2 ^ 62 + 2 ^ 48) [⟨key0, false⟩, ⟨key0, false⟩, ⟨key0, true⟩]) = (2, 1, 3, some false) ∧
    objSeen (objWith (2 ^ 62 + 2 * 2 ^ 48) []) = (1, 2, 0, none) ∧
    ([⟨key0, false⟩, ⟨key0, false⟩, ⟨key0, true⟩] : List ObjWait).takeWhile (fun x => !x.excl) =
      [⟨key0, false⟩, ⟨key0, false⟩] := by
  and_intros <;> decide

/-- A partition that is swapped while the core runs a task of it; a core with full shadow storage. -/
def swapping0 : State := st0.updPartcur (st0.corePart 0) fun y => { y with swap := some 7 }

theorem witness_LeavingTheCore_swap :
    (swapping0.partcur (st0.corePart 0)).swap = some 7 ∧ swapping0.partRunning (st0.corePart 0) = [swapping0.coreId] ∧
    swapping0.task.isSome = true ∧ swapping0.preempting = none ∧
    (State.preempting { swapping0 with preempting := some .swap }).isSome = true ∧ (st0.partcur 15).swap = none ∧
    st0.hasCore st0.coreId = true ∧
    (State.shadowFull { st0 with wings := [{ Wing.reset with
      ready := List.replicate 8 ⟨⟨5, 0x20080⟩, 0, 0, 1, 1, 0, 0, some 0⟩ }] } st0.coreId) = true := by decide

/-- A channel of a recalled task with 128 bytes written. -/
def recalled0 : State :=
  { chan (fun c => { c with bytes := 128, owner := some key0, counted := true }) (filling 256 0xFFFFFE000100 0 st0) with
    recalling := [key0] }

theorem witness_CopyRecords_halts :
    (paused false).ceHalts 1 = true ∧ (paused false).ceRecalled 1 = false ∧ ((paused false).ce 1).stop = none ∧
    (paused true).ceHalts 1 = true ∧ ((paused true).ce 1).nvme = false ∧ recalled0.ceHalts 1 = true ∧
    recalled0.ceRecalled 1 = true ∧ recalled0.ceKilled 1 = false ∧ (recalled0.ce 1).bytes % 128 = 0 ∧
    (recalled0.ce 1).state = .run ∧ (recalled0.ce 1).counted = true ∧
    recHandle (recalled0.ce 1).rcd < recalled0.core.handles.length := by
  and_intros <;> decide

/-- MERGE with a firing's tokens on IN1 alone, and on both inputs. -/
def merge1 (a b : List Token) (last : Bool) : Fe :=
  { merge0 with window := [a, b, [], []], op := { merge0.op with last } }

theorem witness_StreamOperators_merge :
    (fun f : Fe => f.ready 0 = false ∧ f.ready 1 = true ∧ max (f.rateOut 0) (f.need 1) ≤ f.emitRoom 0 ∧
      (grid f st0).feActive 1 1 = true ∧ f.badHead = 0) (merge1 [] [dataTok 7] false) ∧
    (fun f : Fe => f.ready 0 = true ∧ f.ready 1 = true ∧ f.op.last = ((0 : Nat) == 0) ∧
      max (f.rateOut 0) (f.need 0) ≤ f.emitRoom 0) (merge1 [dataTok 7] [dataTok 8] true) ∧
    (fun f : Fe => f.ready 0 = true ∧ f.ready 1 = true ∧ f.op.last = ((1 : Nat) == 0) ∧
      max (f.rateOut 0) (f.need 1) ≤ f.emitRoom 0) (merge1 [dataTok 7] [dataTok 8] false) := by decide

/-- A `stile` that the lane has taken, whose record, at the start of the own bank blocks, has come but is not yet looked at. -/
def record0 : State :=
  State.updFab (lane 15 (LaneCmd.start
    (.stile 15 { r1 := 0, r2 := 0, exp := 0, trec := 0xFFFFFE00000, n := 1, close := false })) st0) fun f =>
      { f with held := [(.lane 15, ⟨0xFFFFFE000000, 16, toBytes (9 * 2 ^ 48 + 2 ^ 64) 16, none⟩)] }

theorem witness_LaneSteps_record :
    ((record0.port 15).recordDue).isSome = true ∧ record0.stalledAt (.lane 15) = false ∧
    (match (record0.port 15).recordDue with
      | some c => (match formNext (.lane 15) c record0 with
        | .ok _ _ => true
        | _ => false)
      | none => false) = true ∧
    ((port15 (fun q => { q with gated := true }) st0).port 15).recordDue = none := by
  and_intros <;> decide

/-- R262: the record is read although the lane is gated. -/
theorem test_record_read_gated :
    after (exec (.laneEmitToken 15) (port15 (fun q => { q with gated := true }) record0)) (fun t =>
      ((t.port 15).emitCmd.map fun c => !c.hdr.isEmpty) == some true) = true := by decide

/-! ### One step of each kind, with results worked by hand from the spec's words -/

/-- `i` run on `s6 = x` and `s7 = y` leaves `v` in `s5`. -/
def gives (i : Instr) (x y v : Dword) : Bool := after (exec i (regs [(6, x), (7, y)] st0)) fun t => t.reg 5 == v

set_option maxRecDepth 50000 in
/-- R216: wrap, signed and unsigned high products, quotients toward zero, shift amounts modulo 64, signed order. -/
theorem test_step_two_source : [
    gives (.add 5 6 7) (-1) 1 0, gives (.sub 5 6 7) 0 1 (-1), gives (.mul 5 6 7) (2 ^ 63) 3 (2 ^ 63),
    gives (.mulh 5 6 7) (-1) 1 (-1), gives (.mulhu 5 6 7) (-1) (-1) (-2), gives (.div 5 6 7) (-7) 2 (-3),
    gives (.div 5 6 7) (2 ^ 63) (-1) (2 ^ 63), gives (.divu 5 6 7) (-1) 2 (2 ^ 63 - 1), gives (.rem 5 6 7) (-7) 2 (-1),
    gives (.rem 5 6 7) (2 ^ 63) (-1) 0, gives (.remu 5 6 7) (-1) 16 15, gives (.and 5 6 7) 0xFF 0x0F0 0xF0,
    gives (.or 5 6 7) 0xF0 0x0F 0xFF, gives (.xor 5 6 7) 0xFF 0x0F 0xF0, gives (.andn 5 6 7) 0xFF 0x0F 0xF0,
    gives (.orn 5 6 7) 0 1 (-2), gives (.sll 5 6 7) 1 65 2, gives (.srl 5 6 7) (-1) 63 1, gives (.sra 5 6 7) (-2) 63 (-1),
    gives (.rol 5 6 7) (2 ^ 63) 1 1, gives (.ror 5 6 7) 1 1 (2 ^ 63), gives (.rol 5 6 7) 9 64 9,
    gives (.min 5 6 7) (-1) 1 (-1), gives (.max 5 6 7) (-1) 1 1, gives (.minu 5 6 7) (-1) 1 1,
    gives (.maxu 5 6 7) (-1) 1 (-1), gives (.seq 5 6 7) 3 3 1, gives (.sne 5 6 7) 3 3 0, gives (.slt 5 6 7) (-1) 0 1,
    gives (.sltu 5 6 7) (-1) 0 0, gives (.sle 5 6 7) 0 0 1, gives (.sleu 5 6 7) 1 0 0].all id = true := by decide

set_option maxRecDepth 50000 in
/-- R218. -/
theorem test_step_one_source : [
    gives (.clz 5 6) 0 0 64, gives (.clz 5 6) 1 0 63, gives (.ctz 5 6) 0 0 64, gives (.ctz 5 6) (2 ^ 63) 0 63,
    gives (.popc 5 6) (-1) 0 64, gives (.sext8 5 6) 0x80 0 (-128), gives (.sext16 5 6) 0x7FFF 0 0x7FFF,
    gives (.sext32 5 6) 0xF80000000 0 (-0x80000000), gives (.zext32 5 6) (-1) 0 0xFFFFFFFF,
    gives (.bswap 5 6) 0x0102030405060708 0 0x0807060504030201].all id = true := by decide

set_option maxRecDepth 50000 in
/-- R219 to R221: signed immediates, `lui` by 2^13, `lih` that keeps the low half of its destination. -/
theorem test_step_immediate : [
    gives (.addi 5 6 (-1)) 0 0 (-1), gives (.andi 5 6 (-1)) 0x123456789 0 0x123456789, gives (.ori 5 6 (-8192)) 1 0 (-8191),
    gives (.xori 5 6 (-1)) 0 0 (-1), gives (.slli 5 6 63) 3 0 (2 ^ 63), gives (.srli 5 6 63) (-1) 0 1,
    gives (.srai 5 6 63) (-1) 0 (-1), gives (.slti 5 6 (-1)) (-2) 0 1, gives (.sltui 5 6 (-1)) (-2) 0 1,
    gives (.lui 5 0x40000) 0 0 (-0x80000000), gives (.li 5 0x80000000) 0 0 (-0x80000000),
    gives (.addli 5 6 0xFFFFFFFF) 1 0 0,
    after (exec (.lih 5 7) (regs [(5, 0x1FFFFFFFF)] st0)) fun t => t.reg 5 == 0x7FFFFFFFF && t.core.clerk.pc == 0x100C,
    after (exec (.addi 0 6 5) (regs [(6, 1)] st0)) fun t => t.reg 0 == 0 && t.core.clerk.pc == 0x1004].all id = true := by
  decide

/-- `i` run on `s6 = x` and `s7 = y` at 0x1000 goes on at `pc`. -/
def goesTo (i : Instr) (x y : Dword) (pc : BitVec 48) : Bool :=
  after (exec i (regs [(6, x), (7, y)] st0)) fun t => t.core.clerk.pc == pc

set_option maxRecDepth 50000 in
/-- R226, R227: offsets in words, signed and unsigned order, the link, a target read before the link is written. -/
theorem test_step_branches : [
    goesTo (.beq 6 7 (-2)) 1 1 0xFF8, goesTo (.beq 6 7 (-2)) 1 2 0x1004, goesTo (.bne 6 7 3) 1 2 0x100C,
    goesTo (.blt 6 7 3) (-1) 0 0x100C, goesTo (.bge 6 7 3) (-1) 0 0x1004, goesTo (.bltu 6 7 3) (-1) 0 0x1004,
    goesTo (.bgeu 6 7 3) (-1) 0 0x100C,
    after (exec (.jal 31 64) st0) (fun t => t.core.clerk.pc == 0x1100 && t.reg 31 == 0x1004),
    after (exec (.jalr 6 6 (-4)) (regs [(6, 0x2004)] st0)) (fun t => t.core.clerk.pc == 0x2000 && t.reg 6 == 0x1004),
    after (exec (.jalr 0 6 0) (regs [(6, 2)] st0)) (fun t => t.core.clerk.cause == 3 && t.core.clerk.faddress == 2)].all id =
      true := by decide

/-- `i` run on `s6 = x`, `s7 = y` and `s5 = z` leaves `v` in `s5` and the flags `f` in FPSTAT. -/
def floats (i : Instr) (x y z v f : Dword) : Bool :=
  after (exec i (regs [(6, x), (7, y), (5, z)] st0)) fun t => t.reg 5 == v && t.core.clerk.fpstat == f

set_option maxRecDepth 50000 in
/-- R66, R222 to R225: 1.5 + 2.25, 1 − 1, 1.5 × 2, 1 ÷ 0, √4, 1.5 × 2 + 1, comparisons with a NaN, conversions. -/
theorem test_step_float : [
    floats (.fadd 5 6 7) 0x3FC00000 0x40100000 0 0x40700000 0, floats (.fsub 5 6 7) 0x3F800000 0x3F800000 9 0 0,
    floats (.fmul 5 6 7) 0x3FC00000 0x40000000 0 0x40400000 0,
    after (exec (.fdiv 5 6 7) (regs [(6, 0x3F800000)] st0)) (fun t => t.reg 5 == 0x7F800000 && t.core.clerk.fpstat != 0),
    floats (.fsqrt 5 6) 0x40800000 0 0 0x40000000 0, floats (.fma 5 6 7) 0x3FC00000 0x40000000 0x3F800000 0x40800000 0,
    floats (.fmin 5 6 7) 0x80000000 0 0 0x80000000 0, floats (.fmax 5 6 7) 0x3F800000 0x40000000 0 0x40000000 0,
    floats (.feq 5 6 7) 0x80000000 0 9 1 0, floats (.feq 5 6 7) 0x7FC00000 0x7FC00000 9 0 0,
    floats (.flt 5 6 7) 0xBF800000 0x3F800000 0 1 0, floats (.fle 5 6 7) 0x3F800000 0x3F800000 0 1 0,
    floats (.fcvtF32I64 5 6) (-2) 0 0 0xC0000000 0, floats (.fcvtI64F32 5 6) 0xC0400000 0 0 (-3) 0,
    floats (.fcvtBf16F32 5 6) 0x3FC00000 0 0 0x3FC0 0, floats (.fcvtF32Bf16 5 6) 0x3FC0 0 0 0x3FC00000 0,
    floats (.fclass 5 6) 0x3F800000 0 0 0x7F12 0, floats (.fclass 5 6) 0xBF000000 0 0 0x7E0A 0,
    floats (.fabs 5 6) 0xFF800001 0 0 0x7F800001 0, floats (.fneg 5 6) 0xFF800001 0 0 0x7F800001 0].all id = true := by
  decide

/-- Bytes of the own bank blocks, by offset. -/
def bytes0 (off n : Nat) (s : State) : Nat := memRead s.mem (scratchKey 0 off) n

/-- `i` issues from a state whose own bank blocks hold 0x8182838485868788 at 0, is performed by `agent`, and its result
`v` returns to `s5`. -/
def loads (i : Instr) (v : Dword) : Bool :=
  after (exec i (put (scratchKey 0 0) 8 0x8182838485868788 (regs [(6, 0xFFFFFE000000), (7, 5)] st0))) fun t =>
    !t.core.clerk.present 5 && after (exec (.bankAccess (.clerk 0)) t) fun t =>
      after (exec (.asyncResultWrite 0) t) fun t => t.reg 5 == v && t.core.clerk.present 5 && t.core.clerk.unfin.isEmpty

set_option maxRecDepth 50000 in
/-- R7, R233, R234. -/
theorem test_step_loads : [
    loads (.ld8 5 6 7) 0x81, loads (.ld16 5 6 2) 0x8586, loads (.ld32 5 6 4) 0x81828384, loads (.ld64 5 6 0) 0x8182838485868788,
    loads (.lds8 5 6 0) 0xFFFFFFFFFFFFFF88, loads (.lds16 5 6 0) 0xFFFFFFFFFFFF8788,
    loads (.lds32 5 6 0) 0xFFFFFFFF85868788, loads (.ldl .s8 5 6 1) 0xFFFFFFFFFFFFFF87].all id = true := by decide

/-- `i` issues from the same state, is performed, and leaves `v` in the first double word. -/
def stores (i : Instr) (v : Nat) : Bool :=
  after (exec i (put (scratchKey 0 0) 8 0x8182838485868788 (regs [(6, 0xFFFFFE000000), (7, 0x1122334455667788)] st0))) fun t =>
    bytes0 0 8 t == 0x8182838485868788 && after (exec (.bankAccess (.clerk 0)) t) fun t =>
      bytes0 0 8 t == v && t.core.clerk.unfin.isEmpty

set_option maxRecDepth 50000 in
theorem test_step_stores : [
    stores (.st8 6 7 7) 0x8882838485868788, stores (.st16 6 7 2) 0x8182838477888788, stores (.st32 6 7 4) 0x5566778885868788,
    stores (.st64 6 7 0) 0x1122334455667788, stores (.stl .b16 6 7 6) 0x7788838485868788,
    stores (.st32 6 0 0) 0x8182838400000000].all id = true := by decide

/-- An atomic of 4 bytes at the first word, which holds 0x85868788, with operand 5. -/
def atomic (i : Instr) (v : Nat) : Bool :=
  after (exec i (put (scratchKey 0 0) 8 0x8182838485868788 (regs [(6, 0xFFFFFE000000), (7, 5), (8, 0x85868788)] st0))) fun t =>
    after (exec (.atomicPerform (.clerk 0)) t) fun t =>
      bytes0 0 8 t == 0x8182838400000000 + v && after (exec (.asyncResultWrite 0) t) fun t => t.reg 5 == 0x85868788

set_option maxRecDepth 50000 in
/-- R116, R235: the old value returns, zero-extended; the signed and the unsigned order differ. -/
theorem test_step_atomics : [
    atomic (.amoadd 5 6 7 0 ⟨.rlx, .e, false⟩) 0x8586878D, atomic (.amoand 5 6 7 0 ⟨.acq, .c, false⟩) 0,
    atomic (.amoor 5 6 7 0 ⟨.rel, .w, false⟩) 0x8586878D, atomic (.amoxor 5 6 7 0 ⟨.ar, .m, false⟩) 0x8586878D,
    atomic (.amomin 5 6 7 0 ⟨.rlx, .s, false⟩) 0x85868788, atomic (.amomax 5 6 7 0 ⟨.rlx, .s, false⟩) 5,
    atomic (.amominu 5 6 7 0 ⟨.rlx, .s, false⟩) 5, atomic (.amomaxu 5 6 7 0 ⟨.rlx, .s, false⟩) 0x85868788,
    atomic (.amoswap 5 6 7 0 ⟨.rlx, .s, false⟩) 5, atomic (.amocas 5 6 7 8 0 ⟨.rlx, .s, false⟩) 5].all id = true := by decide

set_option maxRecDepth 50000 in
/-- R320: `trap` enters the handler at TVEC with the frame of R316, and `trapret` goes back behind it. -/
theorem test_step_trap_and_return :
    after (exec (.trap 77) st0) (fun t => t.core.clerk.mode == .supervisor && t.core.clerk.pc == 0x8000 &&
      t.core.clerk.cause == 0x13 && t.trapRd 0 8 == 0x13 && t.trapRd 16 8 == 0x1000 && t.trapRd 24 8 == 0x1004 &&
      t.trapRd 32 8 == 77 && after (exec .trapret t) fun t => t.core.clerk.mode == .task && t.core.clerk.pc == 0x1004 &&
        !t.core.clerk.frozen) = true := by decide

set_option maxRecDepth 50000 in
/-- R205, R206, R208, R319: system registers. -/
theorem test_step_system : [
    after (exec (.mfs 5 0x100) (sup st0)) (fun t => t.reg 5 == 1),
    after (exec (.mfs 5 0x100) st0) (fun t => t.core.clerk.cause == 0x1C && t.core.clerk.faddress == 0x1000),
    after (exec (.mts 0x020 5) (regs [(5, 0x12345F)] st0)) (fun t => t.core.clerk.cmdbase == 0x123450),
    after (exec (.mts 0x102 5) (sup st0)) (fun t => t.core.clerk.cause == 2),
    after (exec .tack (sup (frozen st0))) (fun t => !t.core.clerk.frozen && t.core.clerk.pc == 0x1004),
    after (exec .halt (sup st0)) (fun t => t.core.clerk.run == .halted && t.core.clerk.pc == 0x1004),
    after (exec .wfe st0) (fun t => t.core.clerk.run == .wfe && t.core.clerk.pc == 0x1000),
    after (exec (.fence .s) (unfins [store0] st0)) (fun t => t.core.clerk.pc == 0x1000),
    after (exec (.kmov 7 6 5) (regs [(6, 1), (5, 2)] st0)) (fun t => t.kreg 7 == 2 ^ 65 + 1)].all id = true := by decide

/-- `i` issues and is performed, and then `p` holds. -/
def performed (i : Instr) (s : State) (p : State → Bool) : Bool :=
  after (exec i s) fun t => after (exec (.accessPerform (.clerk 0)) t) p

set_option maxRecDepth 50000 in
/-- R240, R243, R248, R253: result codes. -/
theorem test_step_results : [
    performed (.unbind 5 6) st0 (fun t => (t.core.clerk.unfin.map (·.done)) == [some (BitVec.ofNat 128 (2 ^ 64 - 1))]),
    performed (.bind 5 6 7) (regs [(6, 32), (7, 64)] st0) (fun t => (t.core.clerk.unfin.map (·.done)) == [some (BitVec.ofNat 128 (2 ^ 64 - 2))]),
    after (exec (.loan 5 6 7) (regs [(6, 64), (7, 64)] st0)) (fun t => (t.core.clerk.unfin.map (·.done)) == [some 0]),
    after (exec (.lstat 5 6) (decls [⟨64, 128, .borrowed⟩] st0)) (fun t =>
      (t.core.clerk.unfin.map (·.done)) == [some (BitVec.ofNat 128 (2 ^ 63 + 2 ^ 42 + 1))]),
    performed (.tins 5 6) (regs [(6, 0x123456789ABC)] st0) (fun t => t.tagHit 0x123456789000 == some 0),
    after (exec (.halloc 6) (regs [(6, 63)] st0)) (fun t => (t.handle 63).st == .filling),
    after (exec (.hfree 6) (regs [(6, 63)] st0)) (fun t => t.core.clerk.cause == 0x0F),
    after (exec (.tself 5) st0) (fun t => (t.core.clerk.unfin.map (·.done)) == [some 0x20000])].all id = true := by decide

set_option maxRecDepth 50000 in
/-- R212, R256: a command joins its port's queue with the sampled value; a value that does not fit traps. -/
theorem test_step_commands : [
    after (exec (read0 0) (regs [(6, 0xFFFFFE000000)] st0)) (fun t => (t.port 15).queue == [.cmd (read0 0xFFFFFE000000)]),
    after (exec (read0 0) (regs [(6, 2 ^ 48)] st0)) (fun t => t.core.clerk.cause == 8 && t.trapRd 32 8 == 0x34),
    after (exec (.sgateSetPlvl 15 6 0) (regs [(6, 3)] st0)) (fun t => (t.port 15).plvl == 3),
    after (exec (.tfree 15) st0) (fun t => t.core.tmu.queue == [⟨.tfree 15, false, 0, false⟩])].all id = true := by decide

/-- The token that the FE at row 1 and column 1 has put into its register `k`. -/
def out (k : Nat) (t : State) : Option Token := (t.fe 1 1).track.getD k none

set_option maxRecDepth 50000 in
/-- R181 to R189, R195: MAP `add` on i32 with a constant, STEER `eq`, MERGE, GEN's first token, FORK; R157: a hop. -/
theorem test_step_grid : [
    after (exec (.mapFire 1 1) (grid { elem 0 64 [dataTok 7] with p := #v[3, 0, 0, 0, 0, 0, 0, 0] } st0)) (fun t =>
      out 4 t == some (dataTok 10) && (t.fe 1 1).win 0 == []),
    after (exec (.steerFire 1 1) (grid { steer0 with p := #v[7, 0, 0, 0, 0, 0, 0, 0] } st0)) (fun t =>
      out 4 t == none && out 8 t == some (dataTok 7)),
    after (exec (.mergeFire 1 1) (grid merge0 st0)) (fun t => out 4 t == some (dataTok 7)),
    after (exec (.genEmit 1 1) (grid { elem 6 0 [] with p := #v[42, 0x00010004, 0x00010001, 1, 0, 0, 0, 0] } st0)) (fun t =>
      out 4 t == some (dataTok 42) && (t.fe 1 1).op.idx == [1, 0, 0, 0]),
    after (exec (.forkFire 1 1) (grid (elem 11 0 [dataTok 7]) st0)) (fun t => out 4 t == some (dataTok 7)),
    after (exec (.endTokenAlign 1 1) (grid (elem 0 0 [endTok 3 9]) st0)) (fun t => out 4 t == some (endTok 3 9)),
    after (exec (.tokenHop 1 1 .e 0) (hop0 [] st0)) (fun t =>
      out 4 t == none && (t.fe 1 2).held 3 == [dataTok 7])].all id = true := by decide

set_option maxRecDepth 50000 in
/-- R148, R152, R246: a launch arms a task with a count, a dispatch enters one, and `tend` frees the core. -/
theorem test_step_tasks : [
    after (exec (.launch 0 0x0050000000020000) tcb0) (fun t => t.tcbRd 0x20000 3 / 256 % 8 == 1 && t.modl.age == 1),
    after (exec (.launch 0 0x0050000000020001) tcb0) (fun t => (t.wing 0).launchst == 0x0100000000020001),
    after (exec (.dispatch 0) free1) (fun t =>
      t.task == some key0 && t.core.clerk.pc == 0x1000 && t.reg 1 == 0xABC && t.reg 2 == 0x20000),
    after (exec .tend st0) (fun t => t.task == none && t.core.clerk.run == .idle),
    after (exec .tyield st0) (fun t => t.preempting == some .yield)].all id = true := by decide

set_option maxRecDepth 50000 in
/-- R277, R280, R309, R105: planes exchanged, a bank emptied, concordances composed, an object granted. -/
theorem test_step_units : [
    after (exec (.meCommandComplete 1) (st0.updMe 1 fun m => { m with
      queue := [⟨.mswap 1, false, 0, false⟩], shadow := ⟨.int8, 16, [], []⟩ })) (fun t =>
      (t.me 1).active.pf == .int8 && (t.me 1).shadow.pf == .none && (t.me 1).done == 1),
    after (exec .tmuCommandComplete (st0.updTmu fun u => { u with
      queue := [⟨.tcompose 2 0 1, false, 0, false⟩]
      slots := updAt (updAt u.slots 0 fun _ => ⟨.ready, .ready, some ⟨3, 2, [0, 0, 1], [1, 1, 1], [2, 1]⟩⟩) 1 fun _ =>
        ⟨.ready, .ready, some ⟨2, 1, [0, 0], [2, 1], [3]⟩⟩ })) (fun t =>
      (t.core.tmu.conc 2).map (·.dst) == some [0, 0, 0] && (t.core.tmu.conc 2).map (·.outsize) == some [3]),
    after (exec (.objectRequest (.own 0)) (unfins [acq0 true] (objState 4 st0))) (fun t =>
      bytes0 0x1000 8 t == 0x8001000000000005)].all id = true := by decide

/-! ### Terms that are not well formed, each refused by its check -/

theorem test_wf_refuses :
    (Instr.amofadd 1 2 3 0 ⟨.rlx, .e, true⟩).wf = false ∧ (Instr.mfs 1 0x002).wf = false ∧ (Instr.mts 0x106 1).wf = false ∧
    (Instr.mseg 0 0 0 1 prod0).wf = false ∧ (Instr.hostRequest (.readMem 0 0 3)).wf = false ∧
    (Instr.hostRequest (.writeMem 0 0 16 0)).wf = false ∧ (Instr.tokenHop 18 1 .n 0).wf = false ∧
    (Instr.tokenHop 0 0 .e 0).wf = false ∧ (Instr.tokenHop 17 18 .w 0).wf = false ∧ (Instr.mapFire 0 1).wf = false ∧
    (Instr.mapFire 17 1).wf = false ∧ (Instr.sfnFire 1 18).wf = false ∧ (Instr.forkFire 1 0).wf = false ∧
    (Instr.controlRegisterWrite 4 true 0).wf = false ∧ (Instr.controlRegisterWrite 2 false 0).wf = false ∧
    (Instr.controlRegisterWrite 0x100000000 true 0).wf = false := by decide

theorem test_wf_admits :
    (Instr.amofadd 1 2 3 0 ⟨.rlx, .e, false⟩).wf = true ∧ (Instr.mfs 1 0x105).wf = true ∧
    (Instr.mseg 0 0 0 1 { prod0 with src := true }).wf = true ∧ (Instr.hostRequest (.readMem 0 0 8)).wf = true ∧
    (Instr.tokenHop 17 17 .n 0).wf = true ∧ (Instr.mapFire 16 17).wf = true ∧
    (Instr.controlRegisterWrite 0xFFFFFFF8 true 0).wf = true := by decide

/-- R205, R213: encodings that are no instruction are rejected by their reason. -/
theorem test_decode_rejects :
    (match decode 0x12800000 0 0 with
      | .error .illegal => true
      | _ => false) = true ∧
    (match decode 0x0E9CC500 0 0 with
      | .error .reserved => true
      | _ => false) = true ∧
    (match decode 0x00008518 0 0 with
      | .error .reserved => true
      | _ => false) = true ∧
    (match decodeCommand 0x0F with
      | .error r => r == 0x31
      | _ => false) = true ∧
    (match decodeCommand 0x20000010 with
      | .error r => r == 0x32
      | _ => false) = true ∧
    (match decodeCommand 0x30000137 with
      | .error r => r == 0x33
      | _ => false) = true ∧
    (match decodeCommand 0x7000C001A with
      | .error r => r == 0x35
      | _ => false) = true := by decide

end Sys2Proof.Tests
end

section
/-!
# Memory stays in its canonical form (O59)

Every function of the model that gives a state, or a value with a state in it, keeps memory in its canonical form
(`Memory.wf`, R7). Bytes are written through `memWrite` and `memWriteBytes`, whose lemmas stand with the laws of
memory; each lemma below says so of one function, from the lemmas of the functions it calls.
-/

namespace Sys2Proof.Machine

/-! ### Values that hold states -/

/-- Memory in canonical form. -/
def MemWf (s : State) : Prop := Memory.wf s.mem = true

/-- The next state of an outcome, if it has one, has its memory in canonical form. -/
def NextWf : Host.Outcome State Fault Refusal → Prop
  | .next t => MemWf t
  | .fault _ => True
  | .refused _ => True

/-- What an option holds satisfies `p`. -/
def SomeWf {α : Type} (p : α → Prop) : Option α → Prop
  | some x => p x
  | none => True

/-- What a result holds satisfies `p` where it is an error, and `q` where it is a value. -/
def ExceptWf {ε α : Type} (p : ε → Prop) (q : α → Prop) : Except ε α → Prop
  | .error x => p x
  | .ok x => q x

/-- The state of a touch has its memory in canonical form. -/
def TouchWf : Touch → Prop
  | .ok t | .wait t | .stall _ t | .fault _ t => MemWf t

/-- The state of a party's access has its memory in canonical form. -/
def GotWf {α : Type} : Got α → Prop
  | .ok _ t | .wait t | .stall _ _ _ t | .fail _ _ _ t => MemWf t

/-- The state after a lane has formed its tokens, if there is one, has its memory in canonical form. -/
def FormWf : Form → Prop
  | .ok _ t | .wait t | .stall _ _ _ t | .fail _ _ _ t => MemWf t
  | .bad _ => True

section
variable {s t : State} {α ε : Type}

/-- The other parts of a state do not matter. -/
theorem MemWf.frame {s : State} {coreId : Nat} {gridmap : BitVec 5} {cycle : Dword} {timer stepNo : Nat} {poison :
    List Nat} {core : Core} {task : Option TaskKey} {shadow : List (TaskKey × Core)} {recs : List TaskRec} {cohorts
    : List Cohort} {objs : List ObjQueue} {binds : List Binding} {dir : List DirEntry} {occ : List Occ} {recent :
    List (BitVec 12)} {preempting : Option PreemptWhy} {recalling : List TaskKey} {tagcfg : Dword} {tagVictim : List
    Nat} {tags : List (Nat × TagEntry)} {pages : List CPage} {farPages : List ((Nat × Nat) × CPage)} {farCores :
    List (Nat × FarCore)} {farSaved : List (TaskKey × FarCore)} {icache : List (Nat × Word)} {tlb l2tlb : List Tlb}
    {walks : List Walk} {wings : List Wing} {modl : Module} {hostMem : List (Nat × Nat)} {hostRead : Option Dword}
    {niOut niFlight niIn : List NiMsg} {niGot : Nat} {skid : List (Nat × Bool)} {nextTask : List (Nat × TaskKey)}
    {nvmeWin : List (Nat × Nat × Nat)} {outside : List Outside} {agenda : List (Option Instr)} (h : MemWf s) :
    MemWf (.mk coreId gridmap cycle timer stepNo s.mem poison core task shadow recs cohorts objs binds dir occ
      recent preempting recalling tagcfg tagVictim tags pages farPages farCores farSaved icache tlb l2tlb
      walks wings modl hostMem hostRead niOut niFlight niIn niGot skid nextTask nvmeWin outside agenda) :=
  h

theorem MemWf.ite {c : Prop} [Decidable c] (hs : MemWf s) (ht : MemWf t) : MemWf (if c then s else t) := by
  split <;> assumption

theorem NextWf.ite {c : Prop} [Decidable c] {a b : Host.Outcome State Fault Refusal} (ha : NextWf a) (hb : NextWf b) :
    NextWf (if c then a else b) := by
  split <;> assumption

theorem MemWf.foldl {l : List α} {f : State → α → State} (hf : ∀ s a, MemWf s → MemWf (f s a)) (h : MemWf s) :
    MemWf (l.foldl f s) :=
  List.foldlRecOn l f h fun s hs a _ => hf s a hs

theorem SomeWf.ite {p : α → Prop} {c : Prop} [Decidable c] {a b : Option α} (ha : SomeWf p a) (hb : SomeWf p b) :
    SomeWf p (if c then a else b) := by
  split <;> assumption

theorem ExceptWf.ite {p : ε → Prop} {q : α → Prop} {c : Prop} [Decidable c] {a b : Except ε α}
    (ha : ExceptWf p q a) (hb : ExceptWf p q b) :
    ExceptWf p q (if c then a else b) := by
  split <;> assumption

theorem TouchWf.ite {c : Prop} [Decidable c] {a b : Touch} (ha : TouchWf a) (hb : TouchWf b) :
    TouchWf (if c then a else b) := by
  split <;> assumption

theorem GotWf.ite {c : Prop} [Decidable c] {a b : Got α} (ha : GotWf a) (hb : GotWf b) :
    GotWf (if c then a else b) := by
  split <;> assumption

theorem FormWf.ite {c : Prop} [Decidable c] {a b : Form} (ha : FormWf a) (hb : FormWf b) :
    FormWf (if c then a else b) := by
  split <;> assumption

theorem SomeWf.foldl {β : Type} {p : β → Prop} {l : List α} {f : Option β → α → Option β} {o : Option β}
    (hf : ∀ o a, SomeWf p o → SomeWf p (f o a)) (h : SomeWf p o) : SomeWf p (l.foldl f o) :=
  List.foldlRecOn l f h fun o ho a _ => hf o a ho

theorem MemWf.snd {p : α × State} {a : α} (h : MemWf p.2) (e : p = (a, t)) : MemWf t := by
  subst e
  exact h

theorem SomeWf.some {p : α → Prop} {o : Option α} {x : α} (h : SomeWf p o) (e : o = some x) : p x := by
  subst e
  exact h

theorem SomeWf.intro {p : α → Prop} {x : α} (h : p x) : SomeWf p (Option.some x) :=
  h

theorem SomeWf.getD {p : α → Prop} {o : Option α} {x : α} (h : SomeWf p o) (hx : p x) : p (o.getD x) := by
  cases o with
  | none => exact hx
  | some y => exact h

theorem SomeWf.map {β : Type} {p : β → Prop} {f : α → β} {o : Option α} (hf : ∀ x, p (f x)) : SomeWf p (o.map f) := by
  cases o with
  | none => trivial
  | some y => exact hf y

theorem NextWf.next {o : Host.Outcome State Fault Refusal} (h : NextWf o) (e : o = .next t) : MemWf t := by
  subst e
  exact h

theorem GotWf.foldl {β : Type} {l : List β} {f : Got α → β → Got α} {g : Got α}
    (hf : ∀ g b, GotWf g → GotWf (f g b)) (h : GotWf g) : GotWf (l.foldl f g) :=
  List.foldlRecOn l f h fun g hg b _ => hf g b hg

theorem ExceptWf.ok {p : ε → Prop} {q : α → Prop} {r : Except ε α} {x : α} (h : ExceptWf p q r) (e : r = .ok x) :
    q x := by
  subst e
  exact h

theorem ExceptWf.error {p : ε → Prop} {q : α → Prop} {r : Except ε α} {x : ε} (h : ExceptWf p q r) (e : r = .error x) :
    p x := by
  subst e
  exact h

theorem ExceptWf.map {β : Type} {p : ε → Prop} {q : α → Prop} {q' : β → Prop} {f : α → β} {r : Except ε α}
    (hf : ∀ x, q x → q' (f x)) (h : ExceptWf p q r) : ExceptWf p q' (r.map f) := by
  cases r with
  | error x => exact h
  | ok x => exact hf x h

theorem TouchWf.ok {u : Touch} (h : TouchWf u) (e : u = .ok t) : MemWf t := by
  subst e
  exact h

theorem TouchWf.wait {u : Touch} (h : TouchWf u) (e : u = .wait t) : MemWf t := by
  subst e
  exact h

theorem TouchWf.stall {u : Touch} {f : Flt} (h : TouchWf u) (e : u = .stall f t) : MemWf t := by
  subst e
  exact h

theorem TouchWf.fault {u : Touch} {f : Flt} (h : TouchWf u) (e : u = .fault f t) : MemWf t := by
  subst e
  exact h

theorem GotWf.ok {g : Got α} {v : α} (h : GotWf g) (e : g = .ok v t) : MemWf t := by
  subst e
  exact h

theorem GotWf.wait {g : Got α} (h : GotWf g) (e : g = .wait t) : MemWf t := by
  subst e
  exact h

theorem GotWf.stall {g : Got α} {a r l : Nat} (h : GotWf g) (e : g = .stall a r l t) : MemWf t := by
  subst e
  exact h

theorem GotWf.fail {g : Got α} {c a d : Nat} (h : GotWf g) (e : g = .fail c a d t) : MemWf t := by
  subst e
  exact h

theorem FormWf.ok {g : Form} {c : LaneCmd} (h : FormWf g) (e : g = .ok c t) : MemWf t := by
  subst e
  exact h

theorem FormWf.wait {g : Form} (h : FormWf g) (e : g = .wait t) : MemWf t := by
  subst e
  exact h

theorem FormWf.stall {g : Form} {a r l : Nat} (h : FormWf g) (e : g = .stall a r l t) : MemWf t := by
  subst e
  exact h

theorem FormWf.fail {g : Form} {c a d : Nat} (h : FormWf g) (e : g = .fail c a d t) : MemWf t := by
  subst e
  exact h
end

/-! ### The registers of the clerk -/

theorem MemWf.updCore {s : State} {f : Core → Core} (h : MemWf s) : MemWf (s.updCore f) :=
  h

theorem MemWf.updClerk {s : State} {f : Clerk → Clerk} (h : MemWf s) : MemWf (s.updClerk f) :=
  h

theorem MemWf.updFab {s : State} {f : Fabric → Fabric} (h : MemWf s) : MemWf (s.updFab f) :=
  h

theorem MemWf.updWing {s : State} {w : Nat} {f : Wing → Wing} (h : MemWf s) : MemWf (s.updWing w f) :=
  h

theorem MemWf.updMod {s : State} {f : Module → Module} (h : MemWf s) : MemWf (s.updMod f) :=
  h

theorem MemWf.setReg {s : State} {r : Reg} {v : Dword} (h : MemWf s) : MemWf (s.setReg r v) :=
  h.updClerk

theorem MemWf.setKreg {s : State} {k : KReg} {v : Qword} (h : MemWf s) : MemWf (s.setKreg k v) :=
  h.updClerk

theorem MemWf.advance {s : State} {n : Nat} (h : MemWf s) : MemWf (s.advance n) :=
  h.updClerk

theorem MemWf.finish {s : State} {d : Reg} {v : Dword} {n : Nat} (h : MemWf s) : MemWf (s.finish d v n) :=
  h.setReg.advance

/-! ### Translations and tags -/

theorem MemWf.fill {s : State} {e : Tlb} (h : MemWf s) : MemWf (s.fill e) :=
  h

theorem MemWf.fillRes {s : State} {r : Res} (h : MemWf s) : MemWf (s.fillRes r) := by
  unfold State.fillRes
  split
  · exact h.fill
  · exact h

theorem MemWf.filled {s : State} {ctx : BitVec 12} {va : Nat} (h : MemWf s) : MemWf (s.filled ctx va) := by
  unfold State.filled
  split
  · split
    · exact h.fill
    · exact h
  · exact h

theorem MemWf.sendReqs {s : State} (h : MemWf s) : MemWf s.sendReqs :=
  h

theorem MemWf.setTag {s : State} {slot : Nat} {e : TagEntry} (h : MemWf s) : MemWf (s.setTag slot e) :=
  h

/-! ### Writes -/

theorem MemWf.wr {s : State} {key n v : Nat} (h : MemWf s) : MemWf (s.wr key n v) :=
  State.wr_wf s key n v h

theorem MemWf.wrBytes {s : State} {key : Nat} {bs : List Byte} (h : MemWf s) : MemWf (s.wrBytes key bs) :=
  State.wrBytes_wf s key bs h

theorem MemWf.notifyOwn {s : State} (h : MemWf s) : MemWf s.notifyOwn :=
  h.updClerk

theorem MemWf.ownWrite {s : State} {off n v : Nat} (h : MemWf s) : MemWf (s.ownWrite off n v) :=
  MemWf.ite (MemWf.ite h.setTag.notifyOwn h) (MemWf.ite h.wr h)

theorem MemWf.trapWr {s : State} {off n v : Nat} (h : MemWf s) : MemWf (s.trapWr off n v) :=
  h.wr

/-! ### Compressed pages -/

theorem MemWf.updPage {s : State} {c t : Nat} {f : CPage → CPage} (h : MemWf s) : MemWf (s.updPage c t f) :=
  MemWf.ite h.frame h.frame

theorem MemWf.layOut {s : State} {c t i : Nat} {bs : List Byte} (h : MemWf s) : MemWf (s.layOut c t i bs) :=
  (MemWf.foldl (fun _ _ h2 => h2.wrBytes) h.updPage).frame

theorem MemWf.tileWrite {s : State} {c t i : Nat} {bs : List Byte} (h : MemWf s) :
    SomeWf MemWf (s.tileWrite c t i bs) := by
  unfold State.tileWrite
  extract_lets p f e u
  clear_value p f e
  have hu : MemWf u := h.updPage
  split
  · exact .intro hu.wrBytes
  · generalize usedOf (p.packed i f) = used
    split
    · trivial
    · split
      · exact .intro h.layOut
      · exact .intro h.updPage

theorem MemWf.layoutDone {s : State} {t : Nat} (h : MemWf s) : MemWf (s.layoutDone t) := by
  unfold State.layoutDone
  split
  · exact h
  · exact h.layOut

theorem MemWf.cpdescWrite {s : State} {c t v : Nat} (h : MemWf s) : SomeWf MemWf (s.cpdescWrite c t v) := by
  unfold State.cpdescWrite
  dsimp only
  split
  · exact h.updPage
  · exact SomeWf.ite h.updPage.wrBytes trivial
  · exact SomeWf.ite h.updPage trivial
  · exact h.updPage

/-! ### Tasks, objects, cohorts and loans -/

theorem MemWf.tcbWr {s : State} {pa k v : Nat} (h : MemWf s) : MemWf (s.tcbWr pa k v) :=
  h.wr

theorem MemWf.tcbSet {s : State} {pa k hi lo v : Nat} (h : MemWf s) : MemWf (s.tcbSet pa k hi lo v) :=
  h.tcbWr

theorem MemWf.updRec {s : State} {k : TaskKey} {f : TaskRec → TaskRec} (h : MemWf s) : MemWf (s.updRec k f) :=
  h

theorem MemWf.dropRec {s : State} {k : TaskKey} (h : MemWf s) : MemWf (s.dropRec k) :=
  h

theorem MemWf.updTaskCore {s : State} {k : TaskKey} {f : Core → Core} (h : MemWf s) : MemWf (s.updTaskCore k f) :=
  MemWf.ite h.frame h.frame

theorem MemWf.faultRecord {s : State} {w tcb core cause faddr : Nat} (h : MemWf s) :
    MemWf (s.faultRecord w tcb core cause faddr) :=
  MemWf.ite h.updWing h.wr.wr.wr.wr.updWing

theorem MemWf.enqueue {s : State} {k : TaskKey} {st : Nat} {left : Option Nat} (h : MemWf s) :
    MemWf (s.enqueue k st left) := by
  unfold State.enqueue
  split
  · exact h
  · exact h.tcbSet.tcbWr.tcbWr.updWing

theorem MemWf.launchTask {s : State} {k : TaskKey} (h : MemWf s) : MemWf (s.launchTask k) := by
  unfold State.launchTask
  split
  · exact h
  · exact MemWf.ite h.dropRec.updMod.frame.tcbWr.tcbWr.tcbSet h.dropRec.updMod.frame.tcbWr.tcbWr.enqueue

theorem MemWf.decrementAt {s : State} {k : TaskKey} {pa : Nat} (h : MemWf s) : MemWf (s.decrementAt k pa) :=
  MemWf.ite h.tcbSet (MemWf.ite h.tcbSet.enqueue h.tcbSet)

theorem MemWf.decrement {s : State} {k : TaskKey} {core : Nat} {pf : Bool} {a : Nat} (h : MemWf s) :
    MemWf (s.decrement k core pf a) := by
  unfold State.decrement
  split
  · exact h
  · split
    · exact h.faultRecord
    · exact MemWf.ite h.decrementAt.tcbSet h.decrementAt

theorem MemWf.decrementAll {s : State} {k : TaskKey} {core : Nat} {pf : Bool} (h : MemWf s) :
    MemWf (s.decrementAll k core pf) := by
  unfold State.decrementAll
  split
  · exact h
  · exact MemWf.foldl (fun _ _ h2 => h2.decrement) h

theorem MemWf.cancelFrom {fuel : Nat} {l : List (BitVec 12 × Nat)} {s : State} (h : MemWf s) :
    MemWf (cancelFrom fuel l s) := by
  induction fuel generalizing l s with
  | zero => exact h
  | succ fuel ih =>
    cases l with
    | nil => exact h
    | cons p rest =>
      obtain ⟨ctx, a⟩ := p
      simp only [Machine.cancelFrom]
      split
      · exact ih h
      · split
        · exact ih h
        · exact MemWf.ite (ih h.tcbSet.tcbSet.dropRec) (ih h)

theorem MemWf.setObj {s : State} {home : Place} {q : List ObjWait} {mode hold gen : Nat} (h : MemWf s) :
    MemWf (s.setObj home q mode hold gen) :=
  h.frame.wr

theorem MemWf.granted {s : State} {home : Place} {k : TaskKey} {gen : Nat} (h : MemWf s) :
    MemWf (s.granted home k gen) :=
  h.updTaskCore

theorem MemWf.grantFrom {home : Place} {l : List ObjWait} {mode hold gen : Nat} {s : State} (h : MemWf s) :
    MemWf (grantFrom home l mode hold gen s) := by
  induction l generalizing mode hold gen s with
  | nil => exact h.setObj
  | cons r t ih =>
    exact MemWf.ite (MemWf.ite h.setObj.granted h.setObj) (MemWf.ite (ih h.granted) h.setObj)

theorem MemWf.serve {s : State} {home : Place} {q : List ObjWait} {mode hold gen : Nat} (h : MemWf s) :
    MemWf (s.serve home q mode hold gen) :=
  h.grantFrom

theorem MemWf.objRequest {s : State} {home : Place} {k : TaskKey} {excl : Bool} (h : MemWf s) :
    MemWf (s.objRequest home k excl) :=
  h.serve

theorem MemWf.objRelease {s : State} {home : Place} (h : MemWf s) : MemWf (s.objRelease home) :=
  MemWf.ite h.serve h.setObj

theorem MemWf.objWithdraw {s : State} {home : Place} {k : TaskKey} (h : MemWf s) : MemWf (s.objWithdraw home k) :=
  h.serve

theorem MemWf.eccHit {s : State} {key : Nat} (h : MemWf s) : MemWf (s.eccHit key) :=
  h.updWing

theorem MemWf.releaseObjects {s : State} {k : TaskKey} (h : MemWf s) : MemWf (s.releaseObjects k) :=
  (MemWf.foldl (fun _ _ h2 => h2.objWithdraw) (MemWf.foldl (fun _ _ h2 => MemWf.ite h2.objRelease h2.objWithdraw)
    (MemWf.foldl (fun _ _ h2 => h2.eccHit) h))).updTaskCore

theorem MemWf.updCohort {s : State} {ctx : BitVec 12} {id : Nat} {f : Cohort → Cohort} (h : MemWf s) :
    MemWf (s.updCohort ctx id f) :=
  h

theorem MemWf.setCohortField {s : State} {k : TaskKey} {id : Nat} (h : MemWf s) : MemWf (s.setCohortField k id) := by
  unfold State.setCohortField
  split
  · exact h.tcbSet
  · exact h

theorem MemWf.formCohort {s : State} {ctx : BitVec 12} {id : Nat} (h : MemWf s) : MemWf (s.formCohort ctx id) := by
  unfold State.formCohort
  split
  · exact h
  · exact MemWf.ite h (MemWf.foldl (fun _ _ h2 => h2.updTaskCore) h.updCohort)

theorem MemWf.joinCohort {s : State} {k : TaskKey} {core id count : Nat} {running : Bool} (h : MemWf s) :
    MemWf (s.joinCohort k core id count running) :=
  (MemWf.ite h.setCohortField.updCohort h.setCohortField.frame).formCohort

theorem MemWf.rejoin {s : State} {ctx : BitVec 12} {id : Nat} {gone : TaskKey} (h : MemWf s) :
    MemWf (s.rejoin ctx id gone) := by
  unfold State.rejoin
  refine MemWf.foldl ?_ h
  intro s2 x h2
  split
  · split
    · split
      · exact h2
      · split
        · exact h2.joinCohort
        · exact MemWf.ite h2 (MemWf.ite h2.updTaskCore h2.joinCohort)
    · exact h2
  · exact h2

theorem MemWf.leaveCohort {s : State} {k : TaskKey} (h : MemWf s) : MemWf (s.leaveCohort k) := by
  unfold State.leaveCohort
  split
  · exact h
  · exact MemWf.ite h.setCohortField.frame.rejoin h.setCohortField.updCohort

theorem MemWf.memberRuns {s : State} {k : TaskKey} {b : Bool} (h : MemWf s) : MemWf (s.memberRuns k b) :=
  h

theorem MemWf.setDecl {s : State} {k : TaskKey} {i : Nat} {st : LoanState} (h : MemWf s) : MemWf (s.setDecl k i st) :=
  h.updRec

theorem MemWf.lineWr {s : State} {line key i v : Nat} (h : MemWf s) : MemWf (s.lineWr line key i v) := by
  unfold State.lineWr
  split
  · exact MemWf.ite (MemWf.ite h h.ownWrite) h.wr
  · exact h.wr

theorem MemWf.logEntry {s : State} {r : TaskRec} {n line dno : Nat} (h : MemWf s) :
    SomeWf MemWf (s.logEntry r n line dno) := by
  unfold State.logEntry
  split
  · exact trivial
  · refine SomeWf.foldl ?_ h
    intro s2 x3 h2
    split
    · exact trivial
    · split
      · exact trivial
      · exact h2.wr

theorem MemWf.undoLogOf {s : State} {k : TaskKey} {rs : List (Nat × Nat)} {va : Nat} (h : MemWf s) :
    ExceptWf (fun _ => True) MemWf (s.undoLogOf k rs va) := by
  unfold State.undoLogOf
  split
  · exact h
  · refine ExceptWf.ite h (ExceptWf.ite trivial ?_)
    split
    · trivial
    · rename_i e
      have hf : SomeWf MemWf (some s) := h
      refine MemWf.updRec ((SomeWf.foldl (fun o _ ho => ?_) hf).some e)
      split
      · trivial
      · exact MemWf.logEntry ho

theorem MemWf.undoLog {s : State} {rs : List (Nat × Nat)} {va : Nat} (h : MemWf s) :
    ExceptWf (fun _ => True) MemWf (s.undoLog rs va) := by
  unfold State.undoLog
  split
  · exact h
  · exact h.undoLogOf

theorem MemWf.grantSet {s : State} {k : TaskKey} {base len : Nat} (h : MemWf s) : MemWf (s.grantSet k base len) :=
  h.updRec

theorem MemWf.returnSets {s : State} {k : TaskKey} (h : MemWf s) : MemWf (s.returnSets k) := by
  unfold State.returnSets
  refine MemWf.updRec ?_
  refine MemWf.foldl ?_ h.frame
  intro s2 x h2
  split
  · exact h2
  · exact h2.grantSet

theorem MemWf.undoBack {r : TaskRec} {n : Nat} {s : State} (h : MemWf s) : MemWf (undoBack r n s) := by
  induction n generalizing s with
  | zero => exact h
  | succ n ih =>
    rw [Machine.undoBack]
    refine ih ?_
    split
    · exact h
    · refine MemWf.ite (MemWf.wr (MemWf.foldl (fun s i hs => ?_) h)) h
      split
      · exact hs.lineWr
      · exact hs

theorem MemWf.updFar {s : State} {c : Nat} {f : FarCore → FarCore} (h : MemWf s) : MemWf (s.updFar c f) :=
  h

theorem MemWf.farSave {s : State} {k : TaskKey} {c : Nat} (h : MemWf s) : MemWf (s.farSave k c) :=
  MemWf.ite h h.frame.updFar

theorem MemWf.farRestore {s : State} {k : TaskKey} {c : Nat} (h : MemWf s) : MemWf (s.farRestore k c) := by
  unfold State.farRestore
  split
  · exact h.frame.updFar
  · exact h

theorem MemWf.freeCore {s : State} {c : Nat} (h : MemWf s) : MemWf (s.freeCore c) :=
  MemWf.ite h.frame.frame h.frame

theorem MemWf.unqueue {s : State} {k : TaskKey} (h : MemWf s) : MemWf (s.unqueue k) :=
  h

theorem MemWf.dropUnits {s : State} {k : TaskKey} (h : MemWf s) : MemWf (s.dropUnits k) :=
  MemWf.ite h.updCore (MemWf.ite h.updCore h)

theorem MemWf.rollBack {s : State} {k : TaskKey} (h : MemWf s) : MemWf (s.rollBack k) := by
  unfold State.rollBack
  refine MemWf.returnSets ?_
  refine MemWf.updRec ?_
  refine MemWf.dropUnits ?_
  refine MemWf.leaveCohort ?_
  refine MemWf.releaseObjects ?_
  split
  · exact h.undoBack
  · exact h

theorem MemWf.countRestart {s : State} {k : TaskKey} (h : MemWf s) : MemWf (s.countRestart k) := by
  unfold State.countRestart
  split
  · exact h.tcbSet
  · exact h

theorem MemWf.restart {s : State} {k : TaskKey} (h : MemWf s) : MemWf (s.restart k) :=
  h.frame.countRestart.enqueue

theorem MemWf.rollRestart {s : State} {k : TaskKey} (h : MemWf s) : MemWf (s.rollRestart k) :=
  h.rollBack.unqueue.frame.memberRuns.restart

theorem MemWf.withdraw {s : State} {k : TaskKey} (h : MemWf s) : MemWf (s.withdraw k) :=
  h

theorem MemWf.startRecall {s : State} {k : TaskKey} (h : MemWf s) : MemWf (s.startRecall k) :=
  MemWf.ite h (MemWf.ite h.frame.withdraw h.rollRestart)

theorem MemWf.newEntry {s : State} {k : TaskKey} {i : Nat} {d : Decl} {w : Nat} {ctx : BitVec 12} (h : MemWf s) :
    TouchWf (s.newEntry k i d w ctx) :=
  h.frame.setDecl

theorem MemWf.setFilled {s : State} {k : TaskKey} {base len : Nat} (h : MemWf s) : MemWf (s.setFilled k base len) :=
  MemWf.ite (MemWf.foldl (fun _ _ h2 => h2.filled) h) h

theorem MemWf.firstTouch {s : State} {k : TaskKey} {task : Bool} {kind : AccKind} {i : Nat} {d : Decl} {va : Nat} (h
    : MemWf s) :
    TouchWf (s.firstTouch k task kind i d va) := by
  unfold State.firstTouch
  dsimp only
  split
  · exact TouchWf.ite h.setFilled h.setFilled
  · split
    · exact h.setFilled
    · split
      · exact MemWf.ite h.setFilled.setDecl.frame.startRecall h.setFilled.setDecl.frame
      · split
        · exact TouchWf.ite (MemWf.ite h.setFilled.setDecl.startRecall h.setFilled.setDecl) h.setFilled.newEntry
        · exact h.setFilled.newEntry

theorem MemWf.touchDecl {s : State} {k : TaskKey} {task : Bool} {kind : AccKind} {i : Nat} {d : Decl} {va : Nat} (h
    : MemWf s) :
    TouchWf (s.touchDecl k task kind i d va) := by
  unfold State.touchDecl
  split
  · exact h
  · exact TouchWf.ite h h.setDecl.firstTouch
  · exact TouchWf.ite h h.firstTouch

theorem MemWf.touchAll {k : TaskKey} {task : Bool} {kind : AccKind} {va : Nat} {l : List (Nat × Decl)} {s : State}
    (h : MemWf s) : TouchWf (touchAll k task kind va l s) := by
  induction l generalizing s with
  | nil => exact h
  | cons p t ih =>
    rw [Machine.touchAll]
    split
    · rename_i t e
      exact ih (h.touchDecl.ok e)
    · exact h.touchDecl

theorem MemWf.touchOf {s : State} {k : TaskKey} {task : Bool} {canon n va : Nat} {kind : AccKind} {free : Bool} (h :
    MemWf s) :
    TouchWf (s.touchOf k task canon n va kind free) := by
  unfold State.touchOf
  split
  · exact h
  · exact TouchWf.ite h h.touchAll

theorem MemWf.touch {s : State} {task : Bool} {canon n va : Nat} {kind : AccKind} {free : Bool} (h : MemWf s) :
    TouchWf (s.touch task canon n va kind free) := by
  unfold State.touch
  split
  · exact h
  · exact h.touchOf

theorem TouchWf.precise {a : Touch} (h : TouchWf a) : TouchWf a.precise := by
  unfold Touch.precise
  split
  · exact h
  · exact h

theorem TouchWf.logged {t : Touch} {kind : AccKind} {rs : List (Nat × Nat)} {va : Nat} (h : TouchWf t) :
    TouchWf (t.logged kind rs va) := by
  unfold Touch.logged
  split
  · split
    · split
      · exact h
      · rename_i e
        exact h.undoLog.ok e
    · exact h
  · exact h

theorem MemWf.faultTask {s : State} {k : TaskKey} {core cause faddr : Nat} (h : MemWf s) :
    MemWf (s.faultTask k core cause faddr) := by
  unfold State.faultTask
  split
  · exact h.rollBack.unqueue.dropRec
  · refine MemWf.dropRec ?_
    split
    · exact h.tcbSet.tcbSet.rollBack.unqueue.tcbSet.faultRecord.frame.cancelFrom
    · exact h.tcbSet.tcbSet.rollBack.unqueue.tcbSet.faultRecord.frame.decrementAll
    · exact h.tcbSet.tcbSet.rollBack.unqueue.tcbSet.faultRecord.frame

/-! ### The operations that the instructions of the clerk share -/

theorem MemWf.tick {s : State} (h : MemWf s) : MemWf s.tick :=
  h.frame.updClerk

theorem MemWf.wake {s : State} (h : MemWf s) : MemWf s.wake :=
  h.updClerk

theorem MemWf.setPc {s : State} {v : BitVec 48} (h : MemWf s) : MemWf (s.setPc v) :=
  h.updClerk

theorem MemWf.pendCause {s : State} {code faddr detail : Nat} (h : MemWf s) : MemWf (s.pendCause code faddr detail) :=
  h.updClerk

theorem MemWf.finishUnfin {s : State} {k : Nat} {v : Qword} (h : MemWf s) : MemWf (s.finishUnfin k v) :=
  h.updClerk

theorem MemWf.dropUnfin {s : State} {k : Nat} (h : MemWf s) : MemWf (s.dropUnfin k) :=
  h.updClerk

theorem MemWf.trapWords {s : State} {off : Nat} {ws : List Nat} (h : MemWf s) : MemWf (s.trapWords off ws) :=
  State.trapWords_wf s off ws h

theorem MemWf.doubleHalt {s : State} {cause addr : Nat} (h : MemWf s) : MemWf (s.doubleHalt cause addr) := by
  unfold State.doubleHalt
  dsimp only
  split
  · exact h.updClerk
  · exact h.updClerk.faultTask.frame

theorem MemWf.enterTrap {s : State} {t : Trap} {flt : Option Nat} {rest : List (List Nat)} (h : MemWf s) :
    MemWf (s.enterTrap t flt rest) :=
  MemWf.ite h.doubleHalt h.updClerk.trapWords.trapWords.updClerk

theorem MemWf.trapAt {s : State} {u : Unfin} {l : Latch} {n : Nat} {f : Flt} (h : MemWf s) :
    MemWf (s.trapAt u l n f) :=
  h.updClerk.enterTrap

theorem MemWf.trapInstr {s : State} {i : Instr} {d : Reg} {ea : Nat} {b : Dword} {f : Flt} (h : MemWf s) :
    MemWf (s.trapInstr i d ea b f) :=
  h.trapAt

theorem MemWf.trapUnfin {s : State} {k : Nat} {f : Flt} (h : MemWf s) : MemWf (s.trapUnfin k f) := by
  unfold State.trapUnfin
  split
  · exact h
  · exact h.enterTrap

theorem MemWf.trapPlain {s : State} {cause addr detail : Nat} {fpc rpc : BitVec 48} (h : MemWf s) :
    MemWf (s.trapPlain cause addr detail fpc rpc) :=
  h.enterTrap

theorem MemWf.takeAsync {s : State} (h : MemWf s) : MemWf s.takeAsync := by
  unfold State.takeAsync
  split
  · exact h
  · exact h.updClerk.enterTrap

theorem MemWf.privileged {s : State} {i : Instr} {f : State → State} (h : MemWf s)
    (h2 : ∀ t, MemWf t → MemWf (f t)) : MemWf (s.privileged i f) :=
  MemWf.ite h.trapInstr (h2 _ h)

theorem MemWf.orFlags {s : State} {f : FFlags} (h : MemWf s) : MemWf (s.orFlags f) :=
  h.updClerk

theorem MemWf.finishFp {s : State} {i : Instr} {d : Reg} {b v : Dword} {f : FFlags} (h : MemWf s) :
    MemWf (s.finishFp i d b v f) :=
  MemWf.ite h.orFlags.trapInstr h.orFlags.finish

theorem MemWf.transRecord {s : State} {va reason acc unit col row : Nat} (h : MemWf s) :
    MemWf (s.transRecord va reason acc unit col row).2 := by
  unfold State.transRecord
  dsimp only
  split
  · exact h.trapWr.trapWr.trapWr.pendCause
  · exact h.trapWr.pendCause

theorem MemWf.fabRecord {s : State} {cmd reason cause kind unit col row pos addr det : Nat} (h : MemWf s) :
    MemWf (s.fabRecord cmd reason cause kind unit col row pos addr det) :=
  MemWf.ite h.trapWr.trapWr.trapWr.trapWr.trapWr.pendCause h.trapWr.pendCause

theorem MemWf.pendWatch {s : State} {va detail : Nat} (h : MemWf s) : MemWf (s.pendWatch va detail) :=
  (MemWf.ite h h.frame).pendCause

theorem MemWf.fetchWord {s : State} {va : Nat} (h : MemWf s) :
    ExceptWf (fun x => MemWf x.st) (fun p => MemWf p.2) (s.fetchWord va) := by
  unfold State.fetchWord
  dsimp only
  split
  · exact h.filled
  · split
    · exact h.fillRes
    · exact ExceptWf.ite h.fillRes.eccHit h.fillRes

theorem MemWf.fetchMore {s : State} {va n : Nat} (h : MemWf s) :
    ExceptWf (fun x => MemWf x.st) (fun p => MemWf p.2) (s.fetchMore va n) := by
  induction n generalizing s va with
  | zero => exact h
  | succ n ih =>
    rw [State.fetchMore]
    split
    · rename_i e
      exact h.fetchWord.error e
    · rename_i t e
      have ht : MemWf t := h.fetchWord.ok e
      split
      · rename_i e2
        exact (ih ht).error e2
      · rename_i e2
        have hs := (ih ht).ok e2
        exact hs

theorem MemWf.fetch {s : State} (h : MemWf s) : ExceptWf (fun x => MemWf x.st) (fun p => MemWf p.2) s.fetch := by
  unfold State.fetch
  dsimp only
  split
  · rename_i e
    exact h.fetchWord.error e
  · rename_i e
    split
    · rename_i e2
      exact (h.fetchWord.ok e).fetchMore.error e2
    · rename_i e2
      exact ((h.fetchWord.ok e).fetchMore.ok e2).frame

theorem MemWf.trapEncoding {s : State} {u : Unfin} {n : Nat} {reserved : Bool} (h : MemWf s) :
    MemWf (s.trapEncoding u n reserved) :=
  h.trapAt

theorem MemWf.trapReject {s : State} {ws : List Word} {r : Reject} (h : MemWf s) : MemWf (s.trapReject ws r) :=
  h.trapEncoding

theorem MemWf.redoReject {s : State} {reserved : Bool} (h : MemWf s) : MemWf (s.redoReject reserved) := by
  unfold State.redoReject
  split
  · exact h.trapEncoding
  · exact h

theorem MemWf.clerkTurn {s : State} (h : MemWf s) : ExceptWf MemWf (fun p => MemWf p.2) s.clerkTurn := by
  unfold State.clerkTurn
  dsimp only
  split
  · exact h
  · split
    · exact h.updClerk
    · split
      · exact h
      · split
        · exact ExceptWf.ite h h.trapPlain
        · split
          · exact h.takeAsync
          · split
            · exact h
            · split
              · exact ExceptWf.ite h h
              · exact h.redoReject
              · split
                · exact h
                · split
                  · rename_i e3
                    exact (h.fetch.error e3).trapPlain
                  · rename_i e3
                    split
                    · exact MemWf.ite (h.fetch.ok e3).trapReject (h.fetch.ok e3)
                    · exact ExceptWf.ite (h.fetch.ok e3) (h.fetch.ok e3)

theorem MemWf.prepare {s : State} {i : Instr} (h : MemWf s) : MemWf (s.prepare i) :=
  MemWf.foldl (fun _ _ h2 => h2.setKreg) (MemWf.foldl (fun _ _ h2 => h2.setReg) h)

theorem MemWf.giveBack {s : State} {i : Instr} {completed : Bool} {t : State} (h : MemWf t) :
    MemWf (s.giveBack i completed t) :=
  MemWf.foldl (fun _ _ h2 => h2.setKreg) (MemWf.foldl (fun _ _ h2 => MemWf.ite h2 h2.setReg) h)

/-! ### In-bank transforms -/

theorem MemWf.xfPerform {s : State} {w : Nat} (h : MemWf s) : ExceptWf (fun _ => True) MemWf (s.xfPerform w) := by
  unfold State.xfPerform
  split
  · exact trivial
  · exact (MemWf.foldl (fun _ _ h2 => h2.wrBytes) h).orFlags

/-! ### Issue -/

theorem MemWf.emptyDest {s : State} {x : Src} (h : MemWf s) : MemWf (s.emptyDest x) :=
  h.updClerk

theorem MemWf.push {s : State} {x : Src} {u : Unfin} (h : MemWf s) : MemWf (s.push x u) :=
  h.emptyDest.updClerk

theorem MemWf.pushDone {s : State} {x : Src} {ea : Nat} {b c v : Dword} (h : MemWf s) :
    MemWf (s.pushDone x ea b c v) :=
  h.push

theorem MemWf.trapSrc {s : State} {x : Src} {ea : Nat} {b c : Dword} {f : Flt} (h : MemWf s) :
    MemWf (s.trapSrc x ea b c f) :=
  h.push.updClerk.enterTrap

theorem MemWf.checked {s : State} {x : Src} {page : Option Nat} {ea : Nat} {b c : Dword} {now : State} (h : MemWf s)
    (h2 : MemWf now) :
    MemWf (s.checked x page ea b c now) :=
  MemWf.ite h.push h2

theorem MemWf.loanChecks {s : State} {issued : Bool} {kind : AccKind} {ea n : Nat} {pl : Place} (h : MemWf s) :
    TouchWf (s.loanChecks issued kind ea n pl) := by
  unfold State.loanChecks
  dsimp only
  split
  · rename_i e
    split
    · exact h.touch.precise.ok e
    · exact TouchWf.logged (h.touch.precise.ok e)
  · exact h.touch.precise

theorem MemWf.walked {s : State} {ea : Nat} {f : Flt} (h : MemWf s) : MemWf (s.walked ea f) :=
  MemWf.ite h.filled h

theorem MemWf.access {s : State} {x : Src} {kind : AccKind} {ea n : Nat} {b c : Dword} {work : Place → Work} (h :
    MemWf s) :
    MemWf (s.access x kind ea n b c work) := by
  unfold State.access
  dsimp only
  refine MemWf.checked h ?_
  split
  · exact h.walked.trapSrc
  · split
    · rename_i e2
      exact (h.fillRes.loanChecks.fault e2).trapSrc
    · rename_i e2
      exact (h.fillRes.loanChecks.stall e2).trapSrc
    · rename_i e2
      exact (h.fillRes.loanChecks.wait e2).push
    · rename_i e2
      exact (h.fillRes.loanChecks.ok e2).push

theorem MemWf.issueLoad {s : State} {x : Src} {w : LoadWidth} {ea : Nat} (h : MemWf s) : MemWf (s.issueLoad x w ea) :=
  h.access

theorem MemWf.issueStore {s : State} {x : Src} {n ea : Nat} {v : Dword} (h : MemWf s) :
    MemWf (s.issueStore x n ea v) :=
  h.access

theorem MemWf.issueAtomic {s : State} {x : Src} {op : AtomicOp} {o : AmoOrder} {ea : Nat} {b c : Dword} (h : MemWf
    s) :
    MemWf (s.issueAtomic x op o ea b c) :=
  h.access

theorem MemWf.issueKld {s : State} {x : Src} {ea : Nat} (h : MemWf s) : MemWf (s.issueKld x ea) :=
  h.access

theorem MemWf.issueKst {s : State} {x : Src} {ea : Nat} {lo hi : Dword} (h : MemWf s) :
    MemWf (s.issueKst x ea lo hi) :=
  h.access

theorem MemWf.issueAcquire {s : State} {x : Src} {excl : Bool} {ea : Nat} (h : MemWf s) :
    MemWf (s.issueAcquire x excl ea) := by
  unfold State.issueAcquire
  dsimp only
  refine MemWf.checked h ?_
  split
  · exact h.walked.trapSrc
  · split
    · exact MemWf.ite (MemWf.ite h.fillRes.pushDone h.fillRes.push) h.fillRes.trapSrc
    · exact MemWf.ite h.fillRes.trapSrc h.fillRes.push.updClerk

theorem MemWf.issueRelease {s : State} {x : Src} {ea : Nat} (h : MemWf s) : MemWf (s.issueRelease x ea) := by
  unfold State.issueRelease
  refine MemWf.checked h ?_
  split
  · exact h.trapSrc
  · exact h.push

theorem MemWf.issueWaitw {s : State} {x : Src} {ea : Nat} {b : Dword} (h : MemWf s) :
    MemWf (s.issueWaitw x ea b) := by
  unfold State.issueWaitw
  refine MemWf.checked h ?_
  split
  · exact h.walked.trapSrc
  · split
    · exact h.fillRes.trapSrc
    · exact h.fillRes.trapSrc
    · exact h.fillRes.trapSrc
    · exact h.fillRes.push

theorem MemWf.issueJoin {s : State} {x : Src} {id cnt : Nat} (h : MemWf s) : MemWf (s.issueJoin x id cnt) := by
  unfold State.issueJoin
  split
  · exact h
  · split
    · exact h.trapSrc
    · split
      · split
        · split
          · split
            · exact h.pushDone
            · exact h.push
          · exact h
        · exact h.push
      · exact h.push

theorem MemWf.issueLoan {s : State} {x : Src} {base len : Nat} (h : MemWf s) : MemWf (s.issueLoan x base len) := by
  unfold State.issueLoan
  dsimp only
  refine MemWf.checked h ?_
  split
  · exact h
  · split
    · exact h.trapSrc
    · split
      · exact h.trapSrc
      · exact h.pushDone
      · exact MemWf.ite h.pushDone h.updRec.pushDone

theorem MemWf.issueLstat {s : State} {x : Src} {n : Nat} (h : MemWf s) : MemWf (s.issueLstat x n) := by
  unfold State.issueLstat
  refine MemWf.checked h ?_
  split
  · exact h
  · exact MemWf.ite h.pushDone (MemWf.ite h.pushDone h.trapSrc)

theorem MemWf.bindOp {s : State} {obj base len : Nat} (h : MemWf s) : MemWf (s.bindOp obj base len).2 := by
  unfold State.bindOp
  dsimp only
  split
  · exact h
  · split
    · exact h
    · split
      · exact h.walked
      · split
        · exact h.fillRes
        · split
          · exact h.fillRes
          · generalize List.range 1024 = l
            split
            · exact h.fillRes
            · exact h.fillRes.frame

theorem MemWf.issueBind {s : State} {x : Src} {obj base len : Nat} (h : MemWf s) :
    MemWf (s.issueBind x obj base len) :=
  MemWf.ite h.pushDone h.push

theorem MemWf.unbindOp {s : State} {base : Nat} (h : MemWf s) : MemWf (s.unbindOp base).2 := by
  unfold State.unbindOp
  dsimp only
  split
  · exact h
  · split
    · exact h
    · exact h

theorem MemWf.issueUnbind {s : State} {x : Src} {base : Nat} (h : MemWf s) : MemWf (s.issueUnbind x base) :=
  MemWf.ite h.pushDone h.push

theorem MemWf.deferSpawn {s : State} {k : TaskKey} {tcb : Nat} (h : MemWf s) :
    ExceptWf (fun _ => True) (fun p => MemWf p.2) (s.deferSpawn k tcb) :=
  ExceptWf.ite h (ExceptWf.ite trivial h.updRec)

theorem MemWf.issueSpawn {s : State} {x : Src} {tcb : Nat} (h : MemWf s) : MemWf (s.issueSpawn x tcb) := by
  unfold State.issueSpawn
  refine MemWf.checked h ?_
  split
  · split
    · split
      · exact h.trapSrc
      · rename_i e2
        exact (h.deferSpawn.ok e2).pushDone
    · exact h.push
  · exact h.push

theorem MemWf.issueArm {s : State} {x : Src} {tcb : Nat} {cnt : Dword} (h : MemWf s) :
    MemWf (s.issueArm x tcb cnt) := by
  unfold State.issueArm
  refine MemWf.checked h ?_
  split
  · exact h.walked.trapSrc
  · exact h.filled.push

theorem MemWf.issueRls {s : State} {x : Src} {tcb : Nat} (h : MemWf s) : MemWf (s.issueRls x tcb) := by
  unfold State.issueRls
  refine MemWf.checked h ?_
  split
  · exact h.walked.trapSrc
  · exact h.filled.push

theorem MemWf.tagInsert {s : State} {a : Nat} (h : MemWf s) : MemWf (s.tagInsert a).2 := by
  unfold State.tagInsert
  dsimp only
  split
  · exact h
  · split
    · exact h.setTag
    · exact h

theorem MemWf.issueTag {s : State} {x : Src} {op : TagOp} {a : Nat} (h : MemWf s) : MemWf (s.issueTag x op a) :=
  h.push

theorem MemWf.touchRanges {task : Bool} {va : Nat} {kind : AccKind} {l : List (Nat × Nat)} {s : State} (h : MemWf s) :
    TouchWf (touchRanges task va kind l s) := by
  induction l generalizing s with
  | nil => exact h
  | cons p t ih =>
    rw [Machine.touchRanges]
    split
    · rename_i t e
      exact ih (h.touch.ok e)
    · exact h.touch

theorem MemWf.xfLoans {s : State} {task : Bool} {w va : Nat} (h : MemWf s) : TouchWf (s.xfLoans task w va) := by
  unfold State.xfLoans
  split
  · rename_i e
    exact (h.touchRanges.ok e).touchRanges.logged
  · exact h.touchRanges

theorem MemWf.issueXbank {s : State} {x : Src} {lo hi : Dword} (h : MemWf s) : MemWf (s.issueXbank x lo hi) := by
  unfold State.issueXbank
  dsimp only
  split
  · exact h.trapSrc
  · refine MemWf.checked h ?_
    split
    · rename_i e
      exact (h.xfLoans.fault e).trapSrc
    · rename_i e
      exact (h.xfLoans.stall e).trapSrc
    · rename_i e
      exact (h.xfLoans.wait e).push
    · rename_i e
      exact (h.xfLoans.ok e).push

/-! ### Atomics -/

theorem MemWf.atomicAt {s : State} {i : Instr} {op : AtomicOp} {d : Reg} {ea : Nat} {b c : Dword} {o : AmoOrder} (h
    : MemWf s) :
    NextWf (s.atomicAt i op d ea b c o) :=
  h.advance.issueAtomic

theorem MemWf.execAmoadd {d a b : Reg} {imm : BitVec 16} {o : AmoOrder} {s : State} (h : MemWf s) :
    NextWf (execAmoadd d a b imm o s) :=
  h.atomicAt

theorem MemWf.execAmoand {d a b : Reg} {imm : BitVec 16} {o : AmoOrder} {s : State} (h : MemWf s) :
    NextWf (execAmoand d a b imm o s) :=
  h.atomicAt

theorem MemWf.execAmoor {d a b : Reg} {imm : BitVec 16} {o : AmoOrder} {s : State} (h : MemWf s) :
    NextWf (execAmoor d a b imm o s) :=
  h.atomicAt

theorem MemWf.execAmoxor {d a b : Reg} {imm : BitVec 16} {o : AmoOrder} {s : State} (h : MemWf s) :
    NextWf (execAmoxor d a b imm o s) :=
  h.atomicAt

theorem MemWf.execAmomin {d a b : Reg} {imm : BitVec 16} {o : AmoOrder} {s : State} (h : MemWf s) :
    NextWf (execAmomin d a b imm o s) :=
  h.atomicAt

theorem MemWf.execAmomax {d a b : Reg} {imm : BitVec 16} {o : AmoOrder} {s : State} (h : MemWf s) :
    NextWf (execAmomax d a b imm o s) :=
  h.atomicAt

theorem MemWf.execAmominu {d a b : Reg} {imm : BitVec 16} {o : AmoOrder} {s : State} (h : MemWf s) :
    NextWf (execAmominu d a b imm o s) :=
  h.atomicAt

theorem MemWf.execAmomaxu {d a b : Reg} {imm : BitVec 16} {o : AmoOrder} {s : State} (h : MemWf s) :
    NextWf (execAmomaxu d a b imm o s) :=
  h.atomicAt

theorem MemWf.execAmoswap {d a b : Reg} {imm : BitVec 16} {o : AmoOrder} {s : State} (h : MemWf s) :
    NextWf (execAmoswap d a b imm o s) :=
  h.atomicAt

theorem MemWf.execAmofadd {d a b : Reg} {imm : BitVec 16} {o : AmoOrder} {s : State} (h : MemWf s) :
    NextWf (execAmofadd d a b imm o s) :=
  h.atomicAt

theorem MemWf.execAmocas {d a b c : Reg} {imm : BitVec 16} {o : AmoOrder} {s : State} (h : MemWf s) :
    NextWf (execAmocas d a b c imm o s) :=
  h.atomicAt

/-! ### The copy engines -/

theorem MemWf.updCe {s : State} {e : Nat} {f : Ce → Ce} (h : MemWf s) : MemWf (s.updCe e f) :=
  h

theorem MemWf.updHandle {s : State} {h2 : Nat} {f : Handle → Handle} (h : MemWf s) : MemWf (s.updHandle h2 f) :=
  MemWf.ite h.frame h.frame.wake

theorem MemWf.cePlace {s : State} {k : AccKind} {ctx : BitVec 12} {va n : Nat} (h : MemWf s) :
    ExceptWf (fun p => MemWf p.2) (fun _ => True) (s.cePlace k ctx va n) := by
  unfold State.cePlace
  split
  · exact h
  · split
    · exact h.filled
    · exact ExceptWf.ite trivial h.fillRes

theorem MemWf.ceRead {s : State} {ctx : BitVec 12} {va n : Nat} (h : MemWf s) :
    ExceptWf (fun p => MemWf p.2) (fun p => MemWf p.2) (s.ceRead ctx va n) := by
  unfold State.ceRead
  split
  · rename_i e
    exact h.cePlace.error e
  · split
    · exact h.fillRes
    · exact h.fillRes

theorem MemWf.watchEngine {s : State} {e va n : Nat} (h : MemWf s) : MemWf (s.watchEngine e va n) := by
  unfold State.watchEngine
  split
  · exact h.pendWatch.updCe
  · exact h

theorem MemWf.clearRun {s : State} {key n va : Nat} {cover : Nat × Nat} (h : MemWf s) :
    ExceptWf (fun _ => True) MemWf (s.clearRun key n va cover) := by
  unfold State.clearRun
  dsimp only
  split
  · exact trivial
  · exact h

theorem MemWf.ceWrite {s : State} {e : Nat} {ctx : BitVec 12} {va : Nat} {bs : List Byte} {cover : Nat × Nat} (h :
    MemWf s) :
    ExceptWf (fun p => MemWf p.2) MemWf (s.ceWrite e ctx va bs cover) := by
  unfold State.ceWrite
  dsimp only
  split
  · rename_i e2
    exact h.cePlace.error e2
  · split
    · exact h.fillRes
    · split
      · exact h.fillRes
      · split
        · exact h.fillRes
        · rename_i e5
          split
          · exact (h.fillRes.clearRun.ok e5).watchEngine.ownWrite
          · exact (h.fillRes.clearRun.ok e5).watchEngine.wrBytes

theorem MemWf.cePeek {s : State} {ctx : BitVec 12} {va n : Nat} (h : MemWf s) :
    ExceptWf (fun p => MemWf p.2) (fun p => MemWf p.2) (s.cePeek ctx va n) := by
  induction n generalizing s va with
  | zero => exact h
  | succ n ih =>
    rw [State.cePeek]
    split
    · rename_i e
      exact h.ceRead.error e
    · rename_i b e
      have hb : MemWf b.2 := h.ceRead.ok e
      split
      · rename_i e2
        exact (ih hb).error e2
      · rename_i e2
        have ht := (ih hb).ok e2
        exact ht

theorem MemWf.packedSpan {s : State} {ctx : BitVec 12} {va n : Nat} (h : MemWf s) :
    ExceptWf MemWf (fun p => MemWf p.2) (s.packedSpan ctx va n) := by
  induction n generalizing s va with
  | zero => exact h
  | succ n ih =>
    rw [State.packedSpan]
    split
    · rename_i e
      exact h.cePeek.error e
    · rename_i e
      have ht := h.cePeek.error e
      exact ht
    · rename_i b e
      have hb : MemWf b.2 := h.cePeek.ok e
      dsimp only
      split
      · rename_i e2
        exact (ih hb).error e2
      · rename_i e2
        have ht := (ih hb).ok e2
        exact ht

theorem MemWf.compressSpan {s : State} {ctx : BitVec 12} {r : List Dword} {n : Nat} (h : MemWf s) :
    ExceptWf MemWf (fun p => MemWf p.2) (s.compressSpan ctx r n) := by
  induction n with
  | zero => exact h
  | succ n ih =>
    rw [State.compressSpan]
    split
    · rename_i e
      exact ih.error e
    · rename_i b e
      have hb : MemWf b.2 := ih.ok e
      split
      · rename_i e2
        exact hb.cePeek.error e2
      · rename_i e2
        have ht := hb.cePeek.error e2
        exact ht
      · rename_i e2
        have ht := hb.cePeek.ok e2
        exact ht

theorem MemWf.recSpan {s : State} {ctx : BitVec 12} {r : List Dword} (h : MemWf s) :
    ExceptWf MemWf (fun p => MemWf p.2) (s.recSpan ctx r) := by
  unfold State.recSpan
  split
  · exact ExceptWf.map (fun _ hp => hp) h.compressSpan
  · exact h.packedSpan
  · exact h

theorem MemWf.recOverlap {s : State} {ctx : BitVec 12} {r : List Dword} (h : MemWf s) :
    ExceptWf MemWf (fun p => MemWf p.2) (s.recOverlap ctx r) :=
  ExceptWf.map (fun _ hp => hp) h.recSpan

theorem MemWf.ceFetch {s : State} {e va fin : Nat} (h : MemWf s) :
    ExceptWf (fun p => MemWf p.2) MemWf (s.ceFetch e va fin) := by
  unfold State.ceFetch
  dsimp only
  split
  · rename_i e2
    exact h.ceRead.error e2
  · rename_i e2
    exact (h.ceRead.ok e2).updCe

theorem MemWf.ceNeed {s : State} {e : Nat} {x : CeErr} (h : MemWf s) :
    ExceptWf (fun p => MemWf p.2) MemWf (s.ceNeed e x) := by
  unfold State.ceNeed
  split
  · exact h.ceFetch
  · exact h

theorem MemWf.ceScan {s : State} {e i : Nat} (h : MemWf s) : ExceptWf (fun p => MemWf p.2) MemWf (s.ceScan e i) := by
  unfold State.ceScan
  dsimp only
  split
  · rename_i e2
    exact (h.ceRead.error e2).updCe
  · rename_i e2
    exact h.ceRead.error e2
  · rename_i e2
    exact (h.ceRead.ok e2).updCe

theorem MemWf.ceElems {s : State} {e : Nat} {left : Option Nat} (h : MemWf s) :
    ExceptWf (fun p => MemWf p.2) MemWf (s.ceElems e left) := by
  unfold State.ceElems
  dsimp only
  split
  · split
    · rename_i e3
      split
      · exact h.ceFetch.error e3
      · split
        · rename_i e4
          exact (h.ceFetch.error e3).ceWrite.error e4
        · rename_i e4
          exact ((h.ceFetch.error e3).ceWrite.ok e4).orFlags.updCe
    · exact h.ceFetch
  · split
    · exact h
    · split
      · rename_i e3
        exact h.ceWrite.error e3
      · rename_i e3
        exact (h.ceWrite.ok e3).orFlags.updCe
  · split
    · rename_i e3
      exact h.ceWrite.error e3
    · rename_i e3
      exact (h.ceWrite.ok e3).orFlags.updCe

theorem MemWf.ceEntries {e : Nat} {ctx : BitVec 12} {cover : Nat × Nat} {va : Nat} {bs : List Byte} {n : Nat} {s :
    State}
    (h : MemWf s) : MemWf (ceEntries e ctx cover va bs n s).2.1 := by
  induction n generalizing va bs s with
  | zero => exact h
  | succ n ih =>
    rw [Machine.ceEntries]
    split
    · exact h
    · rename_i t hr
      refine ih ?_
      cases hw : s.ceWrite e ctx va (bs.take (min 3 (64 - va % 64))) cover with
      | error x => simp [hw, Except.bind] at hr
      | ok u =>
        have hu : MemWf u := h.ceWrite.ok hw
        simp only [hw, Except.bind] at hr
        split at hr
        · cases hr
          exact hu
        · exact hu.ceWrite.ok hr

theorem MemWf.ceRun {s : State} {e : Nat} {u : WriteRun} {left : Option Nat} (h : MemWf s) :
    MemWf (s.ceRun e u left).2.1 := by
  unfold State.ceRun
  dsimp only
  split
  · exact h.ceEntries
  · split
    · rename_i e2
      exact h.ceWrite.error e2
    · rename_i e2
      exact h.ceWrite.ok e2

theorem MemWf.ceRowDone {s : State} {e : Nat} (h : MemWf s) :
    ExceptWf (fun p => MemWf p.2) MemWf (s.ceRowDone e) := by
  unfold State.ceRowDone
  dsimp only
  split
  · exact ExceptWf.ite h h.updCe
  · exact h

theorem MemWf.ceRows {s : State} {e : Nat} {left : Option Nat} (h : MemWf s) :
    ExceptWf (fun p => MemWf p.2) MemWf (s.ceRows e left) := by
  unfold State.ceRows
  dsimp only
  split
  · split
    · exact h.ceRun.orFlags.updCe
    · exact h.ceRun.orFlags.updCe.ceRowDone
  · exact h.ceRowDone
  · split
    · exact h.ceNeed
    · exact h.updCe.ceRowDone

theorem MemWf.cePay {s : State} {e : Nat} {stopping : Bool} (h : MemWf s) :
    ExceptWf (fun p => MemWf p.2) MemWf (s.cePay e stopping) := by
  unfold State.cePay
  dsimp only
  split
  · exact ExceptWf.ite h.ceScan h.ceElems
  · exact ExceptWf.ite h.ceRows h.ceElems

theorem MemWf.payAll {e n : Nat} {s : State} (h : MemWf s) :
    ExceptWf (fun p => MemWf p.2) MemWf (payAll e n s) := by
  induction n generalizing s with
  | zero => exact h
  | succ n ih =>
    rw [Machine.payAll]
    refine ExceptWf.ite h ?_
    split
    · rename_i e
      exact h.cePay.error e
    · rename_i e
      exact ih (h.cePay.ok e)

theorem MemWf.ceWord0 {s : State} {e v : Nat} (h : MemWf s) : ExceptWf (fun p => MemWf p.2) MemWf (s.ceWord0 e v) :=
  h.ceWrite

theorem MemWf.ceMark {s : State} {e st : Nat} (h : MemWf s) : SomeWf MemWf (s.ceMark e st) := by
  unfold State.ceMark
  refine SomeWf.ite h ?_
  extract_lets w0
  have hw : ExceptWf (fun p => MemWf p.2) (fun p => MemWf p.2) w0 := by
    unfold w0
    split
    · exact h
    · exact ExceptWf.map (fun _ hp => hp) h.ceRead
  generalize w0 = r at hw ⊢
  match r, hw with
  | .error (.wait, _), _ => trivial
  | .error (.stop _ _, t), ht => exact ht
  | .error (.miss _ _, t), ht => exact ht
  | .ok w, hw =>
    have hv : MemWf w.2 := hw
    dsimp only
    split
    · trivial
    · rename_i e2
      have ht := hv.ceWord0.error e2
      exact ht
    · rename_i e2
      exact hv.ceWord0.ok e2

theorem MemWf.ceEcc {s : State} {ctx : BitVec 12} {va : Nat} (h : MemWf s) : MemWf (s.ceEcc ctx va) := by
  unfold State.ceEcc
  split
  · exact MemWf.ite h.eccHit h
  · exact h

theorem MemWf.ceState {s : State} {e : Nat} {st : CeState} (h : MemWf s) : MemWf (s.ceState e st) :=
  h.updCe.wake

theorem MemWf.ceStopped {s : State} {e st addr : Nat} (h : MemWf s) : MemWf (s.ceStopped e st addr) := by
  unfold State.ceStopped
  dsimp only
  split
  · exact (MemWf.ite (MemWf.ite h.ceEcc h).updHandle (MemWf.ite h.ceEcc h)).updCe.ceState.pendCause
  · exact (MemWf.ite (MemWf.ite h.ceEcc h).updHandle (MemWf.ite h.ceEcc h)).updCe.ceState

theorem MemWf.ceStop {s : State} {e st addr : Nat} (h : MemWf s) : MemWf (s.ceStop e st addr) := by
  have hs : SomeWf MemWf (some s) := h
  unfold State.ceStop
  split
  · rename_i t et
    exact MemWf.ceStopped ((SomeWf.ite hs h.ceMark).some et)
  · exact h.updCe

theorem MemWf.ceGo {s : State} {e head : Nat} (h : MemWf s) : MemWf (s.ceGo e head) :=
  h.updCe.ceState

theorem MemWf.ceEndKilled {s : State} {e : Nat} (h : MemWf s) : MemWf (s.ceEndKilled e) :=
  h.ceStop.updCe

theorem MemWf.ceNext {s : State} {e : Nat} (h : MemWf s) : MemWf (s.ceNext e) := by
  unfold State.ceNext
  dsimp only
  split
  · rename_i e2
    exact (h.ceRead.error e2).updCe.ceStop
  · rename_i e2
    exact (h.ceRead.error e2).updCe
  · rename_i e2
    exact MemWf.ite (h.ceRead.ok e2).updCe (MemWf.ite (h.ceRead.ok e2).updCe.updCe.ceStop (h.ceRead.ok e2).updCe.ceGo)

theorem MemWf.ceLook {s : State} {e : Nat} (h : MemWf s) : MemWf (s.ceLook e) := by
  unfold State.ceLook
  split
  · exact h.ceGo
  · exact MemWf.ite h.ceNext h.updCe
  · exact h

theorem MemWf.ceIdle {s : State} {e : Nat} {st : CeState} (h : MemWf s) : MemWf (s.ceIdle e st) :=
  MemWf.ite h.updCe.ceState.ceLook h.updCe.ceState

theorem MemWf.ceStartNow {s : State} {starter : Option TaskKey} {e head : Nat} (h : MemWf s) :
    MemWf (s.ceStartNow starter e head) :=
  MemWf.ite h.updCe (MemWf.ite h (MemWf.ite h.updHandle h).updCe.ceGo)

theorem MemWf.ceStart {s : State} {e head : Nat} (h : MemWf s) :
    ExceptWf (fun _ => True) MemWf (s.ceStart e head) := by
  unfold State.ceStart
  split
  · exact h.ceStartNow
  · split
    · split
      · exact ExceptWf.ite trivial h.updRec
      · exact h.ceStartNow
    · exact h.ceStartNow

theorem MemWf.ceAbort {s : State} {e : Nat} (h : MemWf s) : MemWf (s.ceAbort e) :=
  MemWf.ite h.ceStop h

theorem MemWf.ceResume {s : State} {e : Nat} (h : MemWf s) : MemWf (s.ceResume e) :=
  MemWf.ite h.updCe.ceState h.updCe

theorem MemWf.ceKick {s : State} {e : Nat} (h : MemWf s) : MemWf (s.ceKick e) := by
  unfold State.ceKick
  split
  · exact h.ceLook
  · exact h.ceLook
  · exact h
  · exact h.updCe

theorem MemWf.ceCtl {s : State} {e v : Nat} (h : MemWf s) : MemWf (s.ceCtl e v) := by
  have h1 := MemWf.ite (c := bitOf v 3 = true) (h.updCe (e := e) (f := fun c => { c with err := false })) h
  have h2 := MemWf.ite (c := bitOf v 2 = true) (h1.ceAbort (e := e)) h1
  have h3 := MemWf.ite (c := bitOf v 1 = true) (h2.ceResume (e := e)) h2
  exact MemWf.ite h3.ceKick h3

theorem MemWf.ceBegin {s : State} {e : Nat} (h : MemWf s) : MemWf (s.ceBegin e) :=
  MemWf.ite h (MemWf.ite h.updHandle.updCe h.ceState)

theorem MemWf.ceCheck {s : State} {e : Nat} {r : List Dword} (h : MemWf s) : MemWf (s.ceCheck e r) := by
  unfold State.ceCheck
  dsimp only
  split
  · exact h.ceStop
  · split
    · exact h.ceStop
    · split
      · rename_i e3
        exact (h.recOverlap.error e3).updCe
      · rename_i e3
        exact MemWf.ite (h.recOverlap.ok e3).ceStop (h.recOverlap.ok e3).updCe.ceBegin
      · rename_i e3
        exact MemWf.ite (h.recOverlap.ok e3).updCe.ceBegin (h.recOverlap.ok e3).ceBegin

theorem MemWf.ceReadRecord {s : State} {e : Nat} (h : MemWf s) : MemWf (s.ceReadRecord e) := by
  unfold State.ceReadRecord
  dsimp only
  split
  · exact h
  · split
    · exact h.ceLook
    · split
      · exact h
      · split
        · exact h.ceState.ceNext
        · split
          · exact h
          · split
            · rename_i e2
              exact (h.ceRead.error e2).ceStop
            · rename_i e2
              exact h.ceRead.error e2
            · rename_i e2
              exact MemWf.ite (h.ceRead.ok e2).ceIdle (h.ceRead.ok e2).updCe.ceCheck

theorem MemWf.ceHandleReady {s : State} {e : Nat} (h : MemWf s) : MemWf (s.ceHandleReady e) :=
  MemWf.ite h.updHandle.updCe.ceState h

theorem MemWf.ceFinish {s : State} {e : Nat} (h : MemWf s) : ExceptWf (fun p => MemWf p.2) MemWf (s.ceFinish e) := by
  unfold State.ceFinish
  dsimp only
  split
  · exact h.updCe
  · split
    · split
      · rename_i e3
        exact h.ceWrite.error e3
      · rename_i e3
        exact (h.ceWrite.ok e3).updCe
    · exact h.updCe
  · exact (MemWf.ite h.updHandle h).updCe
  · split
    · rename_i e2
      exact h.ceWord0.error e2
    · rename_i e2
      exact MemWf.ite (h.ceWord0.ok e2).updCe.wake.ceIdle (h.ceWord0.ok e2).updCe.wake.ceGo

theorem MemWf.ceStep {s : State} {e : Nat} (h : MemWf s) : ExceptWf (fun p => MemWf p.2) MemWf (s.ceStep e) := by
  unfold State.ceStep
  dsimp only
  split
  · exact h.ceFinish
  · split
    · exact h
    · split
      · exact h.cePay
      · split
        · exact h.updCe
        · exact ExceptWf.ite h.cePay h.updCe

theorem MemWf.ceComplete {s : State} {e : Nat} (h : MemWf s) : MemWf (s.ceComplete e) := by
  unfold State.ceComplete
  split
  · split
    · rename_i e2
      exact h.ceStep.ok e2
    · exact h
  · exact h

theorem MemWf.ceFail {s : State} {e : Nat} (h : MemWf s) : MemWf (s.ceFail e) := by
  unfold State.ceFail
  split
  · exact MemWf.ite h.ceEndKilled h.ceStop
  · split
    · split
      · rename_i e3
        exact MemWf.ite (h.ceStep.error e3).ceEndKilled (h.ceStep.error e3).ceStop
      · rename_i e3
        exact h.ceStep.error e3
      · exact h
    · exact h

theorem MemWf.nvmeDone {s : State} {e : Nat} {good : Bool} (h : MemWf s) : MemWf (s.nvmeDone e good) := by
  unfold State.nvmeDone
  dsimp only
  split
  · split
    · split
      · rename_i e2
        exact MemWf.ite (h.payAll.ok e2).updCe.ceEndKilled (h.payAll.ok e2).updCe
      · rename_i e2
        exact MemWf.ite (h.payAll.error e2).ceEndKilled (h.payAll.error e2).ceStop
      · rename_i e2
        exact h.payAll.error e2
    · exact MemWf.ite h.ceEndKilled h.ceStop
  · exact h

theorem MemWf.nvmeReadBad {s : State} {e : Nat} (h : MemWf s) : MemWf (s.nvmeReadBad e) :=
  MemWf.ite (MemWf.ite h.ceEndKilled h.ceStop) h

theorem MemWf.ceTimeout {s : State} {e : Nat} (h : MemWf s) : MemWf (s.ceTimeout e) := by
  unfold State.ceTimeout
  dsimp only
  split
  · exact h
  · split
    · exact MemWf.ite h.ceEndKilled h.ceStopped
    · exact MemWf.ite h.ceEndKilled (MemWf.ite h.updCe h).ceStop

theorem MemWf.ceToBoundary {e n : Nat} {s : State} (h : MemWf s) : MemWf (State.ceToBoundary e n s) := by
  induction n generalizing s with
  | zero => exact h
  | succ n ih =>
    rw [State.ceToBoundary]
    exact MemWf.ite (ih h.ceComplete) h

theorem MemWf.ceBoundary {s : State} {e : Nat} (h : MemWf s) : MemWf (s.ceBoundary e) :=
  MemWf.ite (MemWf.ite h.ceEndKilled (MemWf.ite (MemWf.ite h.updHandle h).ceStop h)) h

/-! ### The grid -/

theorem MemWf.updFe {s : State} {r c : Nat} {f : Fe → Fe} (h : MemWf s) : MemWf (s.updFe r c f) :=
  h.updFab

theorem MemWf.updPort {s : State} {p : Nat} {f : Port → Port} (h : MemWf s) : MemWf (s.updPort p f) :=
  h.updCore

theorem MemWf.updMe {s : State} {e : Nat} {f : Me → Me} (h : MemWf s) : MemWf (s.updMe e f) :=
  h.updCore

theorem MemWf.updTmu {s : State} {f : Tmu → Tmu} (h : MemWf s) : MemWf (s.updTmu f) :=
  h.updCore

theorem MemWf.sinkReached {s : State} {u : UnitRef} {id : Byte} (h : MemWf s) : MemWf (s.sinkReached u id) :=
  h.updFab

theorem MemWf.announce {s : State} {u : UnitRef} {id : Byte} (h : MemWf s) : MemWf (s.announce u id) :=
  h.updFab

theorem MemWf.traceBarriers {s : State} (h : MemWf s) : MemWf s.traceBarriers :=
  h.updFab

theorem MemWf.inject {s : State} {u : UnitRef} {id : Byte} (h : MemWf s) : MemWf (s.inject u id) :=
  h.updFab.traceBarriers

theorem MemWf.unannounce {s : State} {u : UnitRef} (h : MemWf s) : MemWf (s.unannounce u) :=
  h.updFab

theorem MemWf.unpin {s : State} {reqs : List Req} (h : MemWf s) : MemWf (s.unpin reqs) := by
  unfold State.unpin
  refine MemWf.foldl ?_ h
  intro s2 x h2
  split
  · exact h2
  · exact h2.setTag
  · exact h2

theorem MemWf.dropReqs {s : State} {p : Req → Bool} (h : MemWf s) : MemWf (s.dropReqs p) :=
  h.unpin.updFab

theorem MemWf.sealPort {s : State} {p cause : Nat} (h : MemWf s) : MemWf (s.sealPort p cause) :=
  MemWf.ite h (MemWf.foldl (fun _ _ h2 => h2.sinkReached) h.updPort).unannounce.dropReqs

theorem MemWf.sealFe {s : State} {r c cause : Nat} (h : MemWf s) : MemWf (s.sealFe r c cause) :=
  h.updFe.dropReqs

theorem MemWf.containAt {s : State} {r c : Nat} {y : Nat × Nat} {cause reason addr det : Nat} (h : MemWf s) :
    MemWf (s.containAt r c y cause reason addr det) := by
  unfold State.containAt
  dsimp only
  split
  · exact h
  · refine MemWf.fabRecord ?_
    refine MemWf.foldl ?_ h
    intro s2 x h2
    split
    · exact h2.sealFe
    · exact h2.sealPort
    · exact h2

theorem MemWf.contain {s : State} {r c cause reason addr det : Nat} (h : MemWf s) :
    MemWf (s.contain r c cause reason addr det) :=
  h.containAt

theorem MemWf.deliver {s : State} {t : Token} {a : Dest} (h : MemWf s) : MemWf (s.deliver t a) := by
  unfold State.deliver
  split
  · exact h.updFe
  · exact h.updFe
  · exact MemWf.ite (MemWf.ite h.sinkReached h) h.updPort
  · exact h.updMe
  · exact h.updMe
  · exact h.updTmu

theorem MemWf.hopTake {s : State} {r c d t : Nat} (h : MemWf s) : MemWf (s.hopTake r c d t) :=
  MemWf.ite h.updFe (MemWf.ite h.updMe h.updTmu)

theorem MemWf.execTokenHop {row col : Nat} {dir : Dir} {trk : BitVec 2} {s : State} (h : MemWf s) :
    NextWf (execTokenHop row col dir trk s) := by
  unfold Machine.execTokenHop
  dsimp only
  split
  · exact h
  · exact NextWf.ite (MemWf.ite h.hopTake.inject h.hopTake) (NextWf.ite (MemWf.foldl (fun _ _ h2 => h2.deliver)
        (MemWf.ite h.hopTake.inject h.hopTake)) h)

theorem MemWf.applyWord {s : State} {r c : Nat} {w : Dword × Option Nat} (h : MemWf s) : MemWf (s.applyWord r c w) :=
  MemWf.ite (MemWf.ite h.updFe.updFab.updFe h.updFe.updFab.contain) h.updFe.updFab

theorem MemWf.execFeConfigApply {row col : Nat} {s : State} (h : MemWf s) : NextWf (execFeConfigApply row col s) :=
  NextWf.ite h (MemWf.foldl (fun _ _ h2 => h2.applyWord) h.updFe).updFe.traceBarriers

theorem MemWf.execFeGoLive {row col : Nat} {s : State} (h : MemWf s) : NextWf (execFeGoLive row col s) := by
  unfold Machine.execFeGoLive
  split
  · exact h
  · exact MemWf.ite h.updFab.updFe h.updFab

theorem MemWf.unitRead {s : State} {ctx : BitVec 12} {a : Acc} {va n : Nat} (h : MemWf s) :
    ExceptWf (fun x => MemWf x.st) (fun p => MemWf p.2) (s.unitRead ctx a va n) := by
  unfold State.unitRead
  split
  · exact h
  · split
    · exact h.filled
    · split
      · exact h.fillRes.eccHit
      · split
        · exact h.fillRes
        · split
          · exact h.fillRes
          · split
            · exact h.fillRes
            · split
              · exact h.fillRes
              · exact h.fillRes
          · exact h.fillRes

theorem MemWf.readWords {s : State} {a : Acc} {va n : Nat} (h : MemWf s) :
    ExceptWf (fun x => MemWf x.st) (fun p => MemWf p.2) (s.readWords a va n) := by
  induction n generalizing s va with
  | zero => exact h
  | succ n ih =>
    rw [State.readWords]
    split
    · rename_i e
      exact h.unitRead.error e
    · rename_i t e
      have ht : MemWf t := h.unitRead.ok e
      split
      · rename_i e2
        exact (ih ht).error e2
      · rename_i e2
        have hs := (ih ht).ok e2
        exact hs

theorem MemWf.fetchFolio {s : State} {a : Acc} {image folio : Nat} (h : MemWf s) :
    ExceptWf (fun x => MemWf x.st) (fun p => MemWf p.2.2) (s.fetchFolio a image folio) := by
  unfold State.fetchFolio
  dsimp only
  split
  · rename_i e
    exact h.readWords.error e
  · rename_i e
    split
    · exact h.readWords.ok e
    · split
      · rename_i e2
        exact (h.readWords.ok e).readWords.error e2
      · rename_i e2
        split
        · exact (h.readWords.ok e).readWords.ok e2
        · split
          · exact (h.readWords.ok e).readWords.ok e2
          · split
            · rename_i e4
              exact ((h.readWords.ok e).readWords.ok e2).readWords.error e4
            · rename_i e4
              exact ExceptWf.ite (((h.readWords.ok e).readWords.ok e2).readWords.ok e4)
                  (((h.readWords.ok e).readWords.ok e2).readWords.ok e4)

theorem MemWf.sendFolio {s : State} {image folio : Nat} {ws : List Nat} {qs : List EntryQ} (h : MemWf s) :
    MemWf (s.sendFolio image folio ws qs) :=
  MemWf.foldl (fun _ _ h2 => MemWf.ite h2 h2.updPort) (MemWf.foldl (fun _ _ h2 => h2.updFe) h.updFab)

theorem MemWf.folioFault {s : State} {folio : Nat} {f : Flt} (h : MemWf s) : MemWf (s.folioFault folio f) :=
  MemWf.ite h.pendCause h.pendCause

theorem MemWf.execFolioChange {s : State} (h : MemWf s) : NextWf (execFolioChange s) := by
  unfold Machine.execFolioChange
  dsimp only
  split
  · split
    · exact h
    · split
      · rename_i e3
        exact NextWf.ite (h.fetchFolio.error e3) (h.fetchFolio.error e3).updFab.folioFault
      · rename_i e3
        exact (h.fetchFolio.ok e3).updFab.sendFolio
  · exact h

theorem MemWf.loadEntry {s : State} {image : Nat} (h : MemWf s) : MemWf (s.loadEntry image) := by
  unfold State.loadEntry
  dsimp only
  split
  · rename_i e
    exact (h.fetchFolio.error e).folioFault
  · rename_i e
    exact (h.fetchFolio.ok e).sendFolio.updFab

/-! ### The operators -/

theorem MemWf.operator {s : State} {r c code : Nat} {act : Fe → Option (State → State)} (h : MemWf s)
    (h2 : ∀ (f : Fe), SomeWf (fun f => ∀ (x : State), MemWf x → MemWf (f x)) (act f)) :
    NextWf (s.operator r c code act) := by
  unfold State.operator
  refine NextWf.ite h (NextWf.ite h.contain ?_)
  split
  · rename_i e
    exact (h2 _).some e s h
  · exact h

theorem MemWf.execMapFire {row col : Nat} {s : State} (h : MemWf s) : NextWf (execMapFire row col s) :=
  h.operator (fun _ => SomeWf.ite (fun _ h2 => h2.updFe.orFlags) trivial)

theorem MemWf.execSfnFire {row col : Nat} {s : State} (h : MemWf s) : NextWf (execSfnFire row col s) :=
  h.operator (fun _ => SomeWf.ite (fun _ h2 => h2.updFe.orFlags) trivial)

theorem MemWf.execRedFire {row col : Nat} {s : State} (h : MemWf s) : NextWf (execRedFire row col s) :=
  h.operator (fun _ => SomeWf.ite (fun _ h2 => h2.updFe.orFlags) trivial)

theorem MemWf.execSteerFire {row col : Nat} {s : State} (h : MemWf s) : NextWf (execSteerFire row col s) :=
  h.operator (fun _ => SomeWf.ite (fun _ h2 => h2.updFe.orFlags) trivial)

theorem MemWf.execMergeFire {row col : Nat} {s : State} (h : MemWf s) : NextWf (execMergeFire row col s) := by
  unfold Machine.execMergeFire
  refine MemWf.operator h ?_
  intro a
  split
  · exact SomeWf.ite (fun _ h2 => h2.updFe) trivial
  · exact trivial

theorem MemWf.execCarryFire {row col : Nat} {s : State} (h : MemWf s) : NextWf (execCarryFire row col s) :=
  h.operator (fun _ => SomeWf.ite (fun _ h2 => h2.updFe) trivial)

theorem MemWf.execGenEmit {row col : Nat} {s : State} (h : MemWf s) : NextWf (execGenEmit row col s) := by
  unfold Machine.execGenEmit
  refine MemWf.operator h ?_
  intro a
  split
  · exact SomeWf.ite trivial (fun _ h2 => h2.updFe)
  · exact SomeWf.ite trivial (SomeWf.ite (fun _ h2 => h2.updFe) (fun _ h2 => h2.updFe))

theorem MemWf.execSegFire {row col : Nat} {s : State} (h : MemWf s) : NextWf (execSegFire row col s) :=
  h.operator (fun _ => SomeWf.ite (SomeWf.ite trivial (fun _ h2 => h2.updFe)) (SomeWf.ite (fun _ h2 => h2.updFe)
    trivial))

theorem MemWf.execShufFire {row col : Nat} {s : State} (h : MemWf s) : NextWf (execShufFire row col s) := by
  unfold Machine.execShufFire
  refine MemWf.operator h ?_
  intro a
  split
  · exact SomeWf.ite (fun _ h2 => h2.updFe) trivial
  · exact SomeWf.ite (fun _ h2 => h2.updFe) trivial
  · exact SomeWf.ite (SomeWf.ite trivial (fun _ h2 => h2.updFe)) (SomeWf.ite (fun _ h2 => h2.updFe) trivial)

theorem MemWf.execConvFire {row col : Nat} {s : State} (h : MemWf s) : NextWf (execConvFire row col s) := by
  unfold Machine.execConvFire
  refine MemWf.operator h ?_
  intro a
  split
  · exact SomeWf.ite (fun _ h2 => h2.updFe.orFlags) trivial
  · split
    · exact SomeWf.ite trivial (fun _ h2 => h2.updFe)
    · split
      · exact trivial
      · intro s2 h2
        split
        · exact h2.contain
        · exact h2.updFe.orFlags

theorem MemWf.execForkFire {row col : Nat} {s : State} (h : MemWf s) : NextWf (execForkFire row col s) :=
  h.operator (fun _ => SomeWf.ite (SomeWf.ite (fun _ h2 => h2.updFe) trivial) (SomeWf.ite trivial (fun _ h2 =>
    h2.updFe)))

theorem MemWf.execErrorEndPass {row col : Nat} {s : State} (h : MemWf s) : NextWf (execErrorEndPass row col s) := by
  unfold Machine.execErrorEndPass
  dsimp only
  split
  · exact h
  · split
    · exact h.updFe
    · split
      · exact h
      · exact NextWf.ite h h.updFe

theorem MemWf.execBarrierAlign {row col : Nat} {s : State} (h : MemWf s) : NextWf (execBarrierAlign row col s) := by
  unfold Machine.execBarrierAlign
  dsimp only
  split
  · exact h
  · split
    · exact NextWf.ite h.updFe h.contain
    · split
      · exact h.contain
      · split
        · exact h
        · exact NextWf.ite h.contain (NextWf.ite h (MemWf.ite h.updFe.sinkReached h.updFe))

theorem GotWf.on {α : Type} {g : Got α} {f : State → State} (h : GotWf g) (h2 : ∀ t, MemWf t → MemWf (f t)) :
    GotWf (g.on f) := by
  unfold Got.on
  split
  · exact h2 _ h
  · exact h2 _ h
  · exact h2 _ h
  · exact h2 _ h

theorem MemWf.got {α : Type} {f : Flt} {s : State} (h : MemWf s) : GotWf (α := α) (f.got s) :=
  GotWf.ite h (GotWf.ite h (GotWf.ite h h))

theorem MemWf.stalls {α : Type} {f : Flt} {s : State} (h : MemWf s) : GotWf (α := α) (f.stalls s) :=
  h

/-! ### Accesses of the parties of the fabric -/

theorem MemWf.partyTouch {s : State} {va n : Nat} {kind : AccKind} {pl : Place} (h : MemWf s) :
    TouchWf (s.partyTouch va n kind pl) :=
  h.touch.logged

theorem MemWf.partyFlt {α : Type} {s : State} {k : AccKind} {va n : Nat} {f : Flt} (h : MemWf s) :
    GotWf (α := α) (s.partyFlt k va n f) := by
  unfold State.partyFlt
  dsimp only
  split
  · rename_i e
    exact MemWf.stalls (h.filled.touch.stall e)
  · exact h.filled.got

theorem MemWf.placeRead {s : State} {pl : Place} {va n : Nat} (h : MemWf s) : GotWf (s.placeRead pl va n) := by
  unfold State.placeRead
  split
  · exact h.eccHit
  · split
    · exact h
    · split
      · exact h
      · split
        · exact h
        · exact h
    · exact h

theorem MemWf.placePut {s : State} {pl : Place} {va : Nat} {ps : List (Nat × Nat × Nat)} (h : MemWf s) :
    GotWf (s.placePut pl va ps) := by
  unfold State.placePut
  dsimp only
  split
  · split
    · exact h
    · split
      · exact h.eccHit
      · exact MemWf.foldl (fun _ _ h2 => h2.ownWrite) h
  · split
    · exact h
    · split
      · split
        · rename_i e
          exact h.tileWrite.some e
        · exact h
      · split
        · exact h.eccHit
        · split
          · exact h
          · split
            · rename_i e3
              exact h.tileWrite.some e3
            · exact h
  · split
    · exact h
    · split
      · exact h.eccHit
      · exact MemWf.foldl (fun _ _ h2 => h2.wr) h

theorem MemWf.placeWrite {s : State} {pl : Place} {va n v : Nat} (h : MemWf s) : GotWf (s.placeWrite pl va n v) :=
  h.placePut

theorem MemWf.partyAccess {α : Type} {s : State} {k : AccKind} {va n : Nat} {act : Place → State → Got α} (h : MemWf
    s) (h2 : ∀ (a : Place) (t : State), MemWf t → GotWf (act a t)) :
    GotWf (s.partyAccess k va n act) := by
  unfold State.partyAccess
  split
  · exact h
  · split
    · exact h
    · split
      · exact h.partyFlt
      · split
        · rename_i e2
          exact (h.fillRes.partyTouch.fault e2).got
        · rename_i e2
          exact (h.fillRes.partyTouch.stall e2).stalls
        · rename_i e2
          exact h.fillRes.partyTouch.wait e2
        · rename_i e2
          exact GotWf.ite (h2 _ _ (h.fillRes.partyTouch.ok e2)) (h.fillRes.partyTouch.ok e2)

theorem MemWf.partyRead {s : State} {va n : Nat} (h : MemWf s) : GotWf (s.partyRead va n) :=
  h.partyAccess (fun _ _ h2 => h2.placeRead)

theorem MemWf.partyWrite {s : State} {va n v : Nat} (h : MemWf s) : GotWf (s.partyWrite va n v) :=
  h.partyAccess (fun _ _ h2 => h2.placeWrite)

theorem MemWf.partyPieces {s : State} {va n : Nat} {ps : List (Nat × Nat × Nat)} (h : MemWf s) :
    GotWf (s.partyPieces va n ps) :=
  h.partyAccess (fun _ _ h2 => h2.placePut)

theorem MemWf.watchAtomic {s : State} {off va n : Nat} (h : MemWf s) : MemWf (s.watchAtomic off va n) := by
  unfold State.watchAtomic
  dsimp only
  split
  · exact h.pendWatch.frame
  · exact h

theorem MemWf.unhold {s : State} {u : UnitRef} (h : MemWf s) : MemWf (s.unhold u) :=
  h.updFab

theorem MemWf.partyBytes {s : State} {u : UnitRef} {va n : Nat} (h : MemWf s) : GotWf (s.partyBytes u va n) := by
  unfold State.partyBytes
  dsimp only
  split
  · split
    · rename_i e2
      exact (h.partyRead.ok e2).updFab
    · rename_i e2
      exact h.partyRead.wait e2
    · rename_i e2
      exact h.partyRead.stall e2
    · rename_i e2
      exact h.partyRead.fail e2
  · exact h

theorem MemWf.partyValue {s : State} {u : UnitRef} {va n : Nat} (h : MemWf s) : GotWf (s.partyValue u va n) := by
  unfold State.partyValue
  split
  · rename_i e
    exact h.partyBytes.ok e
  · rename_i e
    exact h.partyBytes.wait e
  · rename_i e
    exact h.partyBytes.stall e
  · rename_i e
    exact h.partyBytes.fail e

theorem GotWf.got {self : Put} (h : GotWf self.got) : GotWf self.got :=
  h

theorem MemWf.partyPut {s : State} {va : Nat} {bs : List Byte} (h : MemWf s) : GotWf (s.partyPut va bs).got := by
  unfold State.partyPut
  split
  · exact h
  · split
    · rename_i e2
      exact h.partyWrite.ok e2
    · exact h.partyWrite

theorem MemWf.stallUnit {s : State} {u : UnitRef} {va reason acc level : Nat} (h : MemWf s) :
    MemWf (s.stallUnit u va reason acc level) := by
  unfold State.stallUnit
  split
  · exact h
  · refine MemWf.updFab ?_
    split
    · exact h
    · exact h.transRecord

/-! ### The MEM operator -/

theorem MemWf.addReq {s : State} {q : Req} (h : MemWf s) : MemWf (s.addReq q) :=
  h.updFab

theorem MemWf.memAccess {s : State} {r c cp : Nat} {kind : ReqKind} {n va v off : Nat} (h : MemWf s) :
    MemWf (s.memAccess r c cp kind n va v off) :=
  MemWf.ite h.containAt h.addReq

theorem MemWf.memTag {s : State} {r c cp a : Nat} (h : MemWf s) : MemWf (s.memTag r c cp a) := by
  unfold State.memTag
  split
  · exact h.addReq
  · exact MemWf.ite h.containAt h.setTag.addReq

theorem MemWf.memElem {s : State} {r c cp j : Nat} {x : Token} {ofs : Option Token} (h : MemWf s) :
    MemWf (s.memElem r c cp j x ofs) := by
  unfold State.memElem
  dsimp only
  split
  · exact MemWf.ite h.addReq h.memTag
  · split
    · split
      · exact h
      · split
        · exact MemWf.ite h.addReq h.memAccess
        · exact h.memAccess
    · exact MemWf.ite h.addReq h.memAccess

theorem MemWf.memXf {s : State} {r c : Nat} {w : Option Nat} (h : MemWf s) : MemWf (s.memXf r c w) := by
  unfold State.memXf
  split
  · exact h
  · exact MemWf.ite h.contain h.addReq

theorem MemWf.execMemFire {row col : Nat} {s : State} (h : MemWf s) : NextWf (execMemFire row col s) := by
  refine h.operator fun _ => SomeWf.ite trivial (SomeWf.ite (SomeWf.ite trivial fun _ h2 => h2.updFe)
    (SomeWf.ite trivial fun s h2 => ?_))
  beta_reduce
  extract_lets ofs u v
  have hu : MemWf u := h2.updFe
  have hv : MemWf v :=
    MemWf.ite (MemWf.foldl (fun _ _ h3 => h3.memXf) hu) (MemWf.foldl (fun _ _ h3 => MemWf.ite h3 h3.memElem) hu)
  exact MemWf.ite hv hv.updFe

theorem MemWf.updReq {s : State} {k : Nat} {f : Req → Req} (h : MemWf s) : MemWf (s.updReq k f) :=
  h.updFab

theorem MemWf.joinWalk {s : State} {va : Nat} (h : MemWf s) : MemWf (s.joinWalk va) :=
  MemWf.ite h.frame (MemWf.ite h.frame h)

theorem MemWf.reqStall {s : State} {k va reason level : Nat} (h : MemWf s) :
    MemWf (s.reqStall k va reason level) := by
  unfold State.reqStall
  split
  · exact h
  · exact h.transRecord.updReq

theorem MemWf.reqDone {s : State} {k : Nat} {q : Req} {v : Nat} (h : MemWf s) : MemWf (s.reqDone k q v) := by
  unfold State.reqDone
  split
  · exact h.updReq.setTag
  · exact h.updReq

theorem MemWf.reqFail {s : State} {q : Req} {cause addr det : Nat} (h : MemWf s) :
    MemWf (s.reqFail q cause addr det) := by
  unfold State.reqFail
  split
  · exact h.containAt
  · exact h

theorem MemWf.reqAct {s : State} {q : Req} {pl : Place} (h : MemWf s) : GotWf (s.reqAct q pl) := by
  unfold State.reqAct
  dsimp only
  split
  · split
    · rename_i e2
      exact h.placeRead.ok e2
    · exact h.placeRead
  · split
    · rename_i e2
      exact h.placeWrite.ok e2
    · rename_i e2
      exact h.placeWrite.wait e2
    · rename_i e2
      exact h.placeWrite.stall e2
    · rename_i e2
      exact h.placeWrite.fail e2
  · split
    · rename_i e2
      split
      · rename_i e3
        split
        · exact MemWf.ite ((h.placeRead.ok e2).placeWrite.ok e3).orFlags.watchAtomic
              ((h.placeRead.ok e2).placeWrite.ok e3).orFlags
        · exact ((h.placeRead.ok e2).placeWrite.ok e3).orFlags
      · rename_i e3
        exact (h.placeRead.ok e2).placeWrite.wait e3
      · rename_i e3
        exact (h.placeRead.ok e2).placeWrite.stall e3
      · rename_i e3
        exact (h.placeRead.ok e2).placeWrite.fail e3
    · exact h.placeRead
  · exact h.placeRead
  · exact h

theorem MemWf.reqXf {s : State} {q : Req} (h : MemWf s) : GotWf (s.reqXf q) := by
  unfold State.reqXf
  dsimp only
  split
  · rename_i e
    exact (h.xfLoans.fault e).got
  · rename_i e
    exact (h.xfLoans.stall e).stalls
  · rename_i e
    exact h.xfLoans.wait e
  · rename_i e
    split
    · exact h.xfLoans.ok e
    · split
      · exact (h.xfLoans.ok e).eccHit
      · split
        · rename_i e2
          exact (h.xfLoans.ok e).xfPerform.ok e2
        · exact h.xfLoans.ok e

theorem MemWf.reqPerform {s : State} {k : Nat} (h : MemWf s) : MemWf (s.reqPerform k) := by
  unfold State.reqPerform
  split
  · exact h
  · refine MemWf.ite h ?_
    extract_lets out
    have hout : ∀ {g}, GotWf g → MemWf (out g) := fun hg => by
      unfold out
      split
      · exact MemWf.reqDone hg
      · exact hg
      · exact MemWf.ite (MemWf.reqStall hg) hg
      · exact MemWf.reqFail hg
    split
    · exact hout h.reqXf
    · refine MemWf.ite h.joinWalk.updReq ?_
      split
      · exact hout h.partyFlt
      · refine MemWf.ite h ?_
        split
        · rename_i et
          exact hout (MemWf.got (h.fillRes.partyTouch.fault et))
        · rename_i et
          exact hout (MemWf.stalls (h.fillRes.partyTouch.stall et))
        · rename_i et
          exact h.fillRes.partyTouch.wait et
        · rename_i et
          have ht := h.fillRes.partyTouch.ok et
          exact MemWf.ite (hout ht.reqAct) ht

theorem MemWf.startWalks {s : State} {l : List Req} (h : MemWf s) : MemWf (startWalks s l) := by
  induction l generalizing s with
  | nil => exact h
  | cons q t ih =>
    rw [Machine.startWalks]
    exact ih (MemWf.ite h.joinWalk h)

theorem MemWf.execPageWalkEnd {k : Nat} {s : State} (h : MemWf s) : NextWf (execPageWalkEnd k s) := by
  unfold Machine.execPageWalkEnd
  split
  · exact h
  · refine MemWf.startWalks ?_
    split
    · exact h.frame.fill.updFab.sendReqs
    · refine MemWf.foldl ?_ h.frame
      intro s2 x6 h2
      split
      · exact MemWf.ite h2 (MemWf.ite h2.reqStall h2.updReq)
      · exact h2

theorem MemWf.exitWrite {s : State} {r c : Nat} {d : EntryQ} {ws : List Token} (h : MemWf s) :
    MemWf (s.exitWrite r c d ws) := by
  unfold State.exitWrite
  dsimp only
  split
  · rename_i e
    exact h.partyPut.wait e
  · rename_i e
    exact (h.partyPut.stall e).stallUnit
  · rename_i e
    exact (h.partyPut.fail e).contain
  · rename_i e
    exact MemWf.ite (h.partyPut.ok e).updFe (h.partyPut.ok e).updFab.updFe

theorem MemWf.exitEnd {s : State} {r c l : Nat} (h : MemWf s) : MemWf (s.exitEnd r c l) := by
  unfold State.exitEnd
  dsimp only
  split
  · exact h.updFe
  · split
    · exact h.updFe
    · split
      · exact h.contain
      · exact MemWf.ite h.contain (MemWf.ite h h.exitWrite)

theorem MemWf.execEndTokenAlign {row col : Nat} {s : State} (h : MemWf s) : NextWf (execEndTokenAlign row col s) :=
  NextWf.ite h (NextWf.ite h.updFe (NextWf.ite h.contain (NextWf.ite h (NextWf.ite h.exitEnd (NextWf.ite h
    h.updFe.orFlags)))))

theorem MemWf.execMemResponse {k : Nat} {s : State} (h : MemWf s) : NextWf (execMemResponse k s) := by
  unfold Machine.execMemResponse
  dsimp only
  split
  · exact h
  · split
    · split
      · exact h
      · split
        · exact NextWf.ite h.updFab.updFe h
        · exact NextWf.ite h.updFab (NextWf.ite h.updFab.updFe h)
    · exact h

/-! ### Handles and system registers -/

theorem MemWf.issueHwait {s : State} {x : Src} {h2 : Nat} (h : MemWf s) : MemWf (s.issueHwait x h2) := by
  unfold State.issueHwait
  split
  · exact h.trapSrc
  · split
    · exact h.trapSrc
    · exact h.push

theorem MemWf.execHalloc {a : Reg} {s : State} (h : MemWf s) : NextWf (execHalloc a s) :=
  NextWf.ite h.updHandle.advance h.trapInstr

theorem MemWf.execHfree {a : Reg} {s : State} (h : MemWf s) : NextWf (execHfree a s) :=
  NextWf.ite (NextWf.ite h h.updHandle.advance) h.trapInstr

theorem MemWf.execHwait {d a : Reg} {s : State} (h : MemWf s) : NextWf (execHwait d a s) :=
  h.advance.issueHwait

theorem MemWf.sysregWrite {s : State} {n : Nat} {v : Dword} (h : MemWf s) : SomeWf MemWf (s.sysregWrite n v) := by
  unfold State.sysregWrite
  split
  · exact h.updClerk
  · exact SomeWf.ite h.updClerk trivial
  · exact SomeWf.ite h.updClerk trivial
  · exact SomeWf.ite h.updClerk trivial
  · exact SomeWf.ite h.updClerk trivial
  · exact trivial

theorem MemWf.execMfs {d : Reg} {n : BitVec 10} {s : State} (h : MemWf s) : NextWf (execMfs d n s) := by
  unfold Machine.execMfs
  split
  · exact h.trapInstr
  · exact NextWf.ite h.trapInstr h.finish

theorem MemWf.execMts {n : BitVec 10} {d : Reg} {s : State} (h : MemWf s) : NextWf (execMts n d s) := by
  unfold Machine.execMts
  split
  · exact h.trapInstr
  · split
    · exact h.trapInstr
    · rename_i e
      exact (h.sysregWrite.some e).advance

theorem MemWf.execTrap {n : BitVec 10} {s : State} (h : MemWf s) : NextWf (execTrap n s) :=
  h.trapPlain

theorem MemWf.execBrk {s : State} (h : MemWf s) : NextWf (execBrk s) :=
  h.trapPlain

theorem MemWf.execTack {s : State} (h : MemWf s) : NextWf (execTack s) :=
  h.privileged (fun _ h2 => h2.updClerk.advance)

theorem MemWf.execHalt {s : State} (h : MemWf s) : NextWf (execHalt s) :=
  h.privileged (fun _ h2 => MemWf.ite h2.advance.updClerk h2)

theorem MemWf.execWfe {s : State} (h : MemWf s) : NextWf (execWfe s) :=
  h.updClerk

theorem MemWf.execNop {s : State} (h : MemWf s) : NextWf (execNop s) :=
  h.advance

theorem MemWf.execIfence {s : State} (h : MemWf s) : NextWf (execIfence s) :=
  NextWf.ite h h.frame.advance

theorem MemWf.reissueStalled {s : State} (h : MemWf s) : MemWf s.reissueStalled :=
  h.updFab.sendReqs

theorem MemWf.clearRecords {s : State} (h : MemWf s) : MemWf s.clearRecords :=
  h.trapWr

theorem MemWf.reissue {s : State} {x : Src} {ea : Nat} {b c : Dword} (h : MemWf s) :
    SomeWf MemWf (s.reissue x ea b c) := by
  unfold State.reissue
  dsimp only
  split
  · split
    · exact h.issueAcquire
    · exact h.issueAcquire
    · exact h.issueRelease
    · exact h.issueBind
    · exact h.issueUnbind
    · exact h.issueWaitw
    · exact h.issueJoin
    · exact h.issueLoan
    · exact h.issueLstat
    · exact h.issueSpawn
    · exact h.issueArm
    · exact h.issueRls
    · exact h.issueTag
    · exact h.issueTag
    · exact h.issueTag
    · exact h.issueXbank
    · exact h.issueKld
    · exact h.issueKst
    · exact h.issueHwait
    · trivial
  · split
    · exact SomeWf.map fun _ => h.issueLoad
    · split
      · exact h.issueStore
      · trivial
  · split
    · exact SomeWf.map fun _ => h.issueAtomic
    · trivial
  · split
    · exact SomeWf.map fun _ => h.issueLoad
    · split
      · exact h.issueStore
      · trivial
    · trivial

theorem MemWf.replayOne {s : State} {e : List Nat} {rpc : BitVec 48} {rest : List (List Nat)} (h : MemWf s) :
    MemWf (s.replayOne e rpc rest) := by
  unfold State.replayOne
  dsimp only
  split
  · exact h.updClerk.updClerk
  · split
    · rename_i e3
      exact h.updClerk.reissue.some e3
    · exact h.updClerk.updClerk.setPc

theorem MemWf.replay {s : State} {rpc : BitVec 48} {l : List (List Nat)} (h : MemWf s) : MemWf (s.replay rpc l) := by
  induction l generalizing s with
  | nil => exact h
  | cons e t ih =>
    rw [State.replay]
    exact MemWf.ite h.replayOne (ih h.replayOne)

theorem MemWf.redone {s : State} {i : Instr} {r : Redo} (h : MemWf s) : MemWf (s.redone i r) :=
  h.updClerk.replay

theorem MemWf.settle {s : State} {i : Instr} {t : State} (h : MemWf t) : MemWf (s.settle i t) := by
  unfold State.settle
  extract_lets pc trapped completed u v
  have hu : MemWf u := h.giveBack
  have hv : MemWf v := by
    unfold v
    split
    · split
      · exact hu.redone
      · exact hu
    · exact hu
  exact MemWf.ite hv.updClerk hv

theorem MemWf.reinjectFrom {s : State} {rpc : BitVec 48} {tail l : List (List Nat)} (h : MemWf s) :
    MemWf (s.reinjectFrom rpc tail l) := by
  induction l generalizing s with
  | nil => exact h
  | cons e t ih =>
    rw [State.reinjectFrom]
    exact MemWf.ite h.replayOne (ih h.replayOne)

theorem MemWf.reinject {s : State} (h : MemWf s) : MemWf s.reinject :=
  MemWf.ite h.updClerk.updClerk.reinjectFrom h.updClerk.updClerk.reinjectFrom.updClerk

theorem MemWf.trapReturn {s : State} (h : MemWf s) : MemWf s.trapReturn :=
  h.updClerk.reissueStalled.clearRecords.updClerk.replay

theorem MemWf.execTrapret {s : State} (h : MemWf s) : NextWf (execTrapret s) :=
  h.privileged (fun _ h2 => MemWf.ite h2.trapReturn h2)

/-! ### The stream ports -/

theorem MemWf.portFault {s : State} {p cmd cause reason addr det : Nat} (h : MemWf s) :
    MemWf (s.portFault p cmd cause reason addr det) :=
  h.fabRecord.sealPort.unhold

theorem GotWf.laneGot {α : Type} {u : UnitRef} {p cmd acc : Nat} {g : Got α} {f : α → State → State} (h : GotWf g)
    (h2 : ∀ (a : α) (t : State), MemWf t → MemWf (f a t)) :
    MemWf (laneGot u p cmd acc g f) := by
  unfold Machine.laneGot
  split
  · exact h2 _ _ h
  · exact h
  · exact h.stallUnit
  · exact h.portFault

theorem MemWf.laneSend {s : State} {p : Nat} {t : Token} (h : MemWf s) : MemWf (s.laneSend p t) :=
  MemWf.foldl (fun _ _ h2 => h2.deliver) (MemWf.ite h.inject h)

theorem GotWf.form {α : Type} {g : Got α} {f : α → State → Form} (h : GotWf g)
    (h2 : ∀ (a : α) (t : State), MemWf t → FormWf (f a t)) : FormWf (g.form f) := by
  unfold Got.form
  split
  · exact h2 _ _ h
  · exact h
  · exact h
  · exact h

theorem MemWf.formRead {f : ReadFields} {c : LaneCmd} {s : State} (h : MemWf s) : FormWf (formRead f c s) :=
  h.partyRead.form (fun _ _ h2 => h2)

theorem MemWf.formGather {u : UnitRef} {f : GatherFields} {c : LaneCmd} {s : State} (h : MemWf s) :
    FormWf (formGather u f c s) := by
  unfold Machine.formGather
  split
  · exact h.partyRead.form (fun _ _ h2 => h2)
  · exact FormWf.ite h (h.partyBytes.form (fun _ _ h2 => h2))

theorem MemWf.readAll {u : UnitRef} {l : List (Nat × Nat)} {acc : List Byte} {s : State} (h : MemWf s) :
    GotWf (readAll u l acc s) := by
  induction l generalizing acc s with
  | nil => exact h
  | cons p t ih =>
    rw [Machine.readAll]
    split
    · rename_i e
      exact ih (h.partyBytes.ok e)
    · rename_i e
      exact h.partyBytes.wait e
    · rename_i e
      exact h.partyBytes.stall e
    · rename_i e
      exact h.partyBytes.fail e

theorem MemWf.formTile {u : UnitRef} {f : TileFields} {c : LaneCmd} {s : State} (h : MemWf s) :
    FormWf (formTile u f c s) := by
  unfold Machine.formTile
  split
  · exact GotWf.form h.partyBytes fun _ _ h2 => FormWf.ite (FormWf.ite h2 h2) trivial
  · refine FormWf.ite ?_ (FormWf.ite (FormWf.ite ?_ (FormWf.ite ?_ (FormWf.ite h h))) ?_)
    · exact GotWf.form h.partyBytes fun _ _ h2 => GotWf.form h2.partyBytes fun _ _ h3 => h3
    · have hs : GotWf (.ok [] s : Got (List Byte)) := h
      exact GotWf.form (GotWf.ite h.partyBytes hs) fun _ _ h2 => GotWf.form h2.readAll fun _ _ h3 => h3
    · exact GotWf.form h.partyBytes fun _ _ h2 => h2
    · exact GotWf.form h.partyBytes fun _ _ h2 => FormWf.ite h2 h2

theorem MemWf.formSegt {u : UnitRef} {f : SegtFields} {c : LaneCmd} {s : State} (h : MemWf s) :
    FormWf (formSegt u f c s) := by
  unfold Machine.formSegt
  dsimp only
  split
  · exact h.partyBytes.form (fun _ _ h2 => FormWf.ite h2 trivial)
  · exact h.partyBytes.form (fun _ _ h2 => FormWf.ite trivial (FormWf.ite h2 h2))
  · exact h.partyRead.form (fun _ _ h2 => h2.partyBytes.form (fun _ _ h3 => h3))

theorem MemWf.formNext {u : UnitRef} {c : LaneCmd} {s : State} (h : MemWf s) : FormWf (formNext u c s) := by
  unfold Machine.formNext
  split
  · exact h.formRead
  · exact h.formGather
  · exact h.formTile
  · exact h.formSegt
  · exact h
  · exact h
  · exact h

theorem MemWf.cfgSend {s : State} {w : Dword} {id : Option Nat} (h : MemWf s) : MemWf (s.cfgSend w id) :=
  h.updFe

theorem MemWf.emitCfg {s : State} {p k id : Nat} {ws : List Dword} (h : MemWf s) : MemWf (s.emitCfg p k id ws) := by
  unfold State.emitCfg
  split
  · exact h.updPort
  · exact MemWf.ite h.cfgSend.updPort h

theorem MemWf.emitEntry {s : State} {p k : Nat} {d : EntryQ} (h : MemWf s) : MemWf (s.emitEntry p k d) :=
  MemWf.ite h (h.partyRead.laneGot (fun _ _ h2 => h2.laneSend.updFab.updPort))

theorem MemWf.laneForm {s : State} {p : Nat} {c : LaneCmd} (h : MemWf s) : MemWf (s.laneForm p c) := by
  unfold State.laneForm
  split
  · rename_i e
    split
    · exact (h.formNext.ok e).unhold.updPort
    · exact (h.formNext.ok e).unhold.laneSend.updPort
  · rename_i e
    exact h.formNext.wait e
  · rename_i e
    exact (h.formNext.stall e).stallUnit
  · rename_i e
    exact (h.formNext.fail e).portFault
  · exact h.portFault

theorem MemWf.laneRecord {s : State} {p : Nat} {c : LaneCmd} (h : MemWf s) : MemWf (s.laneRecord p c) := by
  unfold State.laneRecord
  split
  · rename_i e
    exact (h.formNext.ok e).unhold.updPort
  · rename_i e
    exact h.formNext.wait e
  · rename_i e
    exact (h.formNext.stall e).stallUnit
  · rename_i e
    exact (h.formNext.fail e).portFault
  · exact h.portFault

theorem MemWf.serveReq {s : State} {p : Nat} {a : LaneCmd} {base sz : Nat} {t : Token} {rest : List Token} (h :
    MemWf s) :
    MemWf (s.serveReq p a base sz t rest) := by
  unfold State.serveReq
  dsimp only
  split
  · split
    · exact h.updPort
    · exact h.updPort.laneSend.updPort
  · split
    · split
      · exact h.portFault
      · refine GotWf.laneGot h.partyRead ?_
        intro a2 s2 h2
        split
        · exact h2.updPort
        · exact h2.updPort.laneSend.updPort
    · exact h.updPort.laneSend.updPort

theorem MemWf.laneMove {s : State} {p : Nat} {c : LaneCmd} (h : MemWf s) : MemWf (s.laneMove p c) := by
  unfold State.laneMove
  dsimp only
  split
  · exact MemWf.ite h h.cfgSend.updPort
  · split
    · exact h
    · split
      · exact h.laneSend.updPort
      · split
        · exact h
        · exact h.serveReq
      · exact h
  · split
    · exact h.updPort
    · split
      · exact MemWf.ite h.laneSend.updPort h
      · exact MemWf.ite h h.laneForm

theorem MemWf.execLaneEmitToken {p : BitVec 4} {s : State} (h : MemWf s) : NextWf (execLaneEmitToken p s) := by
  unfold Machine.execLaneEmitToken
  dsimp only
  split
  · exact NextWf.ite h.laneSend.updPort h
  · exact MemWf.ite h h.laneRecord
  · split
    · exact h
    · split
      · exact h.laneMove
      · split
        · split
          · exact MemWf.ite h h.emitEntry
          · exact h
        · split
          · exact h.emitCfg
          · exact h.updPort
          · split
            · exact MemWf.ite h h.emitEntry
            · exact h

theorem MemWf.absBarrier {s : State} {p : Nat} {t : Token} (h : MemWf s) : MemWf (s.absBarrier p t) :=
  (MemWf.ite h.updPort.announce h.updPort).sinkReached

theorem MemWf.absTaken {s : State} {p k : Nat} {c : LaneCmd} (h : MemWf s) : MemWf (s.absTaken p k c) :=
  h.updPort

theorem MemWf.absWrite {s : State} {c : LaneCmd} (h : MemWf s) : GotWf (s.absWrite c) :=
  h.partyPieces

theorem MemWf.absFlush {s : State} {p : Nat} {c : LaneCmd} (h : MemWf s) : MemWf (s.absFlush p c) :=
  MemWf.ite h.updPort (h.absWrite.laneGot (fun _ _ h2 => h2.updPort))

theorem MemWf.absIndex {s : State} {p : Nat} {c : LaneCmd} (h : MemWf s) : SomeWf GotWf (s.absIndex p c) := by
  unfold State.absIndex
  split
  · exact SomeWf.ite h.partyRead trivial
  · exact trivial

theorem MemWf.tokenFault {s : State} {p cmd cause reason addr : Nat} (h : MemWf s) :
    MemWf (s.tokenFault p cmd cause reason addr) :=
  h.updPort.portFault

theorem MemWf.absData {s : State} {p k : Nat} {c : LaneCmd} {t : Token} (h : MemWf s) :
    MemWf (s.absData p k c t) := by
  unfold State.absData
  split
  · exact h.tokenFault
  · split
    · exact h.partyRead.laneGot (fun _ _ h2 => h2.updPort)
    · exact MemWf.ite h.tokenFault h.absTaken

theorem MemWf.absToken {s : State} {p k : Nat} {c : LaneCmd} {t : Token} (h : MemWf s) : MemWf (s.absToken p k c t) :=
  MemWf.ite h (MemWf.ite h.tokenFault (MemWf.ite h.tokenFault (MemWf.ite (MemWf.ite h.absTaken h) (MemWf.ite h.absData
    h.absTaken))))

theorem MemWf.execLaneAbsorbToken {p : BitVec 4} {s : State} (h : MemWf s) : NextWf (execLaneAbsorbToken p s) := by
  unfold Machine.execLaneAbsorbToken
  extract_lets k t q
  have ht : MemWf t := MemWf.ite h.updPort h
  refine NextWf.ite ht ?_
  split
  · exact ht.portFault
  · exact ht.absBarrier
  · exact ht
  · refine NextWf.ite ht.absFlush ?_
    split
    · exact ht
    · exact ht.portFault
    · exact ht.absBarrier
    · exact ht.absToken

theorem MemWf.execLaneCommandComplete {p : BitVec 4} {absorb : Bool} {s : State} (h : MemWf s) :
    NextWf (execLaneCommandComplete p absorb s) := by
  unfold Machine.execLaneCommandComplete
  extract_lets k q next done
  have hnext : ∀ {t}, MemWf t → MemWf (next t) := fun ht => MemWf.ite ht.updPort ht.updPort
  have hend : ∀ {f}, MemWf (next (s.updPort k f)) := hnext h.updPort
  split
  · exact NextWf.ite (NextWf.ite hend h) (NextWf.ite (NextWf.ite hend h) (NextWf.ite hend h))
  · exact NextWf.ite hend h
  · exact NextWf.ite hend h
  · exact h

theorem MemWf.execHandleClaim {p : BitVec 4} {s : State} (h : MemWf s) : NextWf (execHandleClaim p s) := by
  unfold Machine.execHandleClaim
  dsimp only
  split
  · exact h
  · split
    · exact h
    · exact NextWf.ite h.updHandle.updPort h

theorem MemWf.execSpctlUnseal {p : BitVec 4} {s : State} (h : MemWf s) : NextWf (execSpctlUnseal p s) :=
  h.updPort

theorem MemWf.reqRead {s : State} {p : Nat} {c : LaneCmd} (h : MemWf s) : SomeWf GotWf (s.reqRead p c) := by
  unfold State.reqRead
  split
  · split
    · exact SomeWf.ite h.partyRead trivial
    · exact trivial
  · exact trivial

/-! ### The matrix engines -/

theorem MemWf.spillOut {s : State} {e : Nat} {j : Bool} (h : MemWf s) : MemWf (s.spillOut e j) := by
  unfold State.spillOut
  dsimp only
  split
  · exact h
  · exact h.wrBytes.updMe

theorem MemWf.takeBank {s : State} {e : Nat} {j : Bool} {ctx : BitVec 12} {second : Bool} (h : MemWf s) :
    MemWf (s.takeBank e j ctx second) :=
  h.spillOut.updMe

theorem MemWf.fillBank {s : State} {e : Nat} {j : Bool} {ctx : BitVec 12} {second : Bool} (h : MemWf s) :
    MemWf (s.fillBank e j ctx second) := by
  suffices hf : ∀ f, f = State.fillBank → MemWf (f s e j ctx second) from hf _ rfl
  rintro f hf
  delta State.fillBank at hf
  subst hf
  beta_reduce
  generalize colsOfImage (memBytes s.mem (s.saveArea ctx e second) imageBytes) = o
  cases o with
  | none => exact h
  | some cols => exact h.updMe

theorem MemWf.meFault {s : State} {e cmd cause reason addr det : Nat} (h : MemWf s) :
    MemWf (s.meFault e cmd cause reason addr det) :=
  MemWf.ite h h.fabRecord.updMe.updFab.unhold.unhold.unannounce

theorem GotWf.meGot {α : Type} {e cmd acc : Nat} {g : Got α} {f : α → State → State} (h : GotWf g) (h2 : ∀ (a : α)
    (t : State), MemWf t → MemWf (f a t)) :
    MemWf (meGot e cmd acc g f) := by
  unfold Machine.meGot
  split
  · exact h2 _ _ h
  · exact h
  · exact h.stallUnit
  · exact h.meFault

theorem MemWf.execMePlaneToken {e : BitVec 1} {s : State} (h : MemWf s) : NextWf (execMePlaneToken e s) := by
  unfold Machine.execMePlaneToken
  extract_lets k m
  split
  · exact h
  · extract_lets pop sink
    have hpop : MemWf (pop s) := h.updMe
    have hsink : MemWf (sink s) := MemWf.ite hpop.sinkReached hpop
    refine NextWf.ite hsink ?_
    split
    · refine NextWf.ite hsink (NextWf.ite hpop (NextWf.ite ?_ h.meFault))
      split
      · exact hpop.updMe
      · exact h
    · split
      · exact h
      · refine NextWf.ite hpop.updMe (NextWf.ite hpop.updMe (NextWf.ite ?_ h.meFault))
        split
        · exact hpop.updMe
        · exact h.meFault

theorem MemWf.loadDirect {e : Nat} {f : LoadFields} {s : State} {k : Nat} (h : MemWf s) :
    MemWf (loadDirect e f s k) := by
  unfold Machine.loadDirect
  refine GotWf.meGot h.partyBytes fun r t ht => ?_
  extract_lets hd st w at_ exps cols
  have hexps : GotWf (exps t) := by
    have hn : GotWf (.ok [] t : Got (List Byte)) := ht
    exact GotWf.ite ht.partyBytes hn
  have hcols : ∀ u, MemWf u → GotWf (cols u) := fun u hu => by
    have hn : GotWf (.ok [] u : Got (List Byte)) := hu
    refine GotWf.foldl (fun g i hg => ?_) hn
    split
    · split
      · rename_i e2
        exact MemWf.partyBytes hg |>.ok e2
      · exact MemWf.partyBytes hg
    · exact hg
  exact MemWf.ite ht.meFault (GotWf.meGot hexps fun xs u hu => GotWf.meGot
      (hcols u hu) fun bs v hv => hv.unhold.updMe)

theorem MemWf.meBarrier {s : State} {e : Nat} (h : MemWf s) : MemWf (s.meBarrier e) := by
  unfold State.meBarrier
  dsimp only
  split
  · exact h
  · exact MemWf.ite h.meFault (MemWf.ite h h.updMe.sinkReached)

theorem MemWf.meRow {s : State} {e ch k : Nat} {c : EngCmd} {f : ProductFields} {t : Token} (h : MemWf s) :
    MemWf (s.meRow e ch k c f t) :=
  MemWf.ite h (MemWf.ite h.meFault (MemWf.ite h.updMe (MemWf.ite h.updMe (MemWf.ite (MemWf.ite h.meFault h.updMe)
    h.meFault))))

theorem MemWf.execMeAToken {e : BitVec 1} {ch : BitVec 3} {s : State} (h : MemWf s) :
    NextWf (execMeAToken e ch s) := by
  unfold Machine.execMeAToken
  dsimp only
  split
  · exact h
  · split
    · exact MemWf.ite h.updMe.sinkReached h.updMe
    · split
      · exact NextWf.ite h.updMe.sinkReached h.updMe.updMe
      · split
        · exact h.meBarrier
        · split
          · exact h.updMe
          · split
            · split
              · exact MemWf.ite h.meRow h
              · exact h
            · exact h

theorem MemWf.meCommit {s : State} {e k : Nat} {i : Instr} {f : ProductFields} {named : Nat → Nat → Bool} {rowsAt :
    Nat → List (List Word)} {cyc : Nat} (h : MemWf s) :
    MemWf (s.meCommit e k i f named rowsAt cyc) :=
  MemWf.ite h.meFault h.unhold.updMe

theorem MemWf.storedRows {e : Nat} {f : ProductFields} {kb trec : Nat} {s : State} (h : MemWf s) :
    GotWf (storedRows e f kb trec s) := by
  unfold Machine.storedRows
  split
  · rename_i r t et
    have ht : MemWf t := h.partyBytes.ok et
    extract_lets hd
    split
    · rename_i bs u eu
      have hu : MemWf u := ht.partyBytes.ok eu
      have hn : GotWf (.ok (0, []) u : Got (Nat × List (List Word))) := hu
      refine GotWf.ite hu (GotWf.foldl (fun g m hg => ?_) hn)
      split
      · refine GotWf.ite hg ?_
        split
        · rename_i x v ev
          have hv : MemWf v := (MemWf.partyValue hg).ok ev
          refine GotWf.ite hv ?_
          split
          · rename_i w ew
            have hw : MemWf w := hv.partyBytes.ok ew
            exact GotWf.ite hw hw
          · rename_i ew
            exact hv.partyBytes.wait ew
          · rename_i ew
            exact hv.partyBytes.stall ew
          · rename_i ew
            exact hv.partyBytes.fail ew
        · rename_i ev
          exact (MemWf.partyValue hg).wait ev
        · rename_i ev
          exact (MemWf.partyValue hg).stall ev
        · rename_i ev
          exact (MemWf.partyValue hg).fail ev
      · exact hg
    · rename_i eu
      exact ht.partyBytes.wait eu
    · rename_i eu
      exact ht.partyBytes.stall eu
    · rename_i eu
      exact ht.partyBytes.fail eu
  · rename_i et
    exact h.partyBytes.wait et
  · rename_i et
    exact h.partyBytes.stall et
  · rename_i et
    exact h.partyBytes.fail et

theorem MemWf.gatherRows {e : Nat} {f : ProductFields} {desc : Nat} {s : State} (h : MemWf s) :
    GotWf (gatherRows e f desc s) := by
  unfold Machine.gatherRows
  split
  · rename_i d t et
    have ht : MemWf t := h.partyBytes.ok et
    extract_lets w cnt gidx sidx
    have hn : GotWf (.ok (0, []) t : Got (Nat × List (Nat × List Word))) := ht
    refine GotWf.ite ht (GotWf.foldl (fun g m hg => ?_) hn)
    split
    · refine GotWf.ite hg ?_
      split
      · rename_i gi u eu
        have hu : MemWf u := (MemWf.partyValue hg).ok eu
        split
        · rename_i v ev
          have hv : MemWf v := hu.partyValue.ok ev
          extract_lets va
          refine GotWf.ite hv (GotWf.ite hv ?_)
          split
          · rename_i ew
            exact hv.partyBytes.ok ew
          · rename_i ew
            exact hv.partyBytes.wait ew
          · rename_i ew
            exact hv.partyBytes.stall ew
          · rename_i ew
            exact hv.partyBytes.fail ew
        · rename_i ev
          exact hu.partyValue.wait ev
        · rename_i ev
          exact hu.partyValue.stall ev
        · rename_i ev
          exact hu.partyValue.fail ev
      · rename_i eu
        exact (MemWf.partyValue hg).wait eu
      · rename_i eu
        exact (MemWf.partyValue hg).stall eu
      · rename_i eu
        exact (MemWf.partyValue hg).fail eu
    · exact hg
  · rename_i et
    exact h.partyBytes.wait et
  · rename_i et
    exact h.partyBytes.stall et
  · rename_i et
    exact h.partyBytes.fail et

theorem MemWf.meProduct {s : State} {e k : Nat} {i : Instr} {f : ProductFields} (h : MemWf s) :
    MemWf (s.meProduct e k i f) := by
  unfold State.meProduct
  dsimp only
  split
  · exact h
  · split
    · exact h.meFault
    · split
      · exact h.gatherRows.meGot (fun _ _ h2 => MemWf.ite h2.meFault h2.meCommit)
      · split
        · exact h.storedRows.meGot (fun _ _ h2 => MemWf.ite h2.meFault h2.meCommit)
        · split
          · exact h.meCommit
          · exact h
      · split
        · exact h.meCommit
        · exact h

theorem MemWf.execMeProductCommit {e : BitVec 1} {s : State} (h : MemWf s) : NextWf (execMeProductCommit e s) := by
  unfold Machine.execMeProductCommit
  split
  · exact h
  · split
    · exact h.meProduct
    · exact h

theorem MemWf.drainBegin {s : State} {e k : Nat} {f : DrainFields} (h : MemWf s) : MemWf (s.drainBegin e k f) := by
  unfold State.drainBegin
  dsimp only
  split
  · exact h.meFault
  · split
    · exact h
    · refine GotWf.meGot ?_ ?_
      · split
        · exact h.partyBytes
        · exact h
      · intro a s2 h2
        refine MemWf.updMe ?_
        refine MemWf.unhold ?_
        split
        · exact h2.inject
        · exact h2

theorem MemWf.bankClaim {s : State} {e : Nat} (h : MemWf s) : MemWf (s.bankClaim e) :=
  MemWf.ite h (MemWf.ite h h.takeBank).updMe

theorem MemWf.meRun {s : State} {e k : Nat} {c : EngCmd} (h : MemWf s) : MemWf (s.meRun e k c) := by
  unfold State.meRun
  dsimp only
  split
  · exact h.unhold.updMe
  · split
    · exact h
    · split
      · exact MemWf.ite h.loadDirect h
      · exact h.updMe.unhold.updMe
      · exact MemWf.ite h.meFault h.updMe.unhold.updMe
      · exact h.bankClaim.unhold.updMe
      · exact h.updMe.unhold.updMe
      · exact MemWf.ite h.meFault (h.partyPut.meGot (fun _ _ h2 => MemWf.ite h2.unhold.updMe h2.updMe))
      · split
        · exact h.meFault
        · refine GotWf.meGot h.partyBytes ?_
          intro a s2 h2
          split
          · exact h2.meFault
          · exact h2.updMe.unhold.updMe
      · exact h.partyWrite.meGot (fun _ _ h2 => (MemWf.ite h2.updMe h2).unhold.updMe)
      · exact MemWf.ite h.drainBegin (MemWf.ite (MemWf.ite h.updMe h).unhold.updMe h)
      · exact h

theorem MemWf.execMeCommandComplete {e : BitVec 1} {s : State} (h : MemWf s) :
    NextWf (execMeCommandComplete e s) := by
  unfold Machine.execMeCommandComplete
  dsimp only
  split
  · exact h.meRun
  · exact h

theorem MemWf.execMesealEnd {e : BitVec 1} {s : State} (h : MemWf s) : NextWf (execMesealEnd e s) :=
  h.updMe

/-! ### The token-merge unit -/

theorem MemWf.tmuFault {s : State} {cmd cause reason addr det : Nat} (h : MemWf s) :
    MemWf (s.tmuFault cmd cause reason addr det) :=
  MemWf.ite h h.fabRecord.updTmu.updFab.unhold

theorem GotWf.tmuGot {α : Type} {cmd acc : Nat} {g : Got α} {f : α → State → State} (h : GotWf g) (h2 : ∀ (a : α)
    (t : State), MemWf t → MemWf (f a t)) :
    MemWf (tmuGot cmd acc g f) := by
  unfold Machine.tmuGot
  split
  · exact h2 _ _ h
  · exact h
  · exact h.stallUnit
  · exact h.tmuFault

theorem MemWf.readKeys {base stride d n : Nat} {acc : List (List Nat)} {s : State} (h : MemWf s) :
    GotWf (readKeys base stride d n acc s) := by
  induction n generalizing acc s with
  | zero => exact h
  | succ n ih =>
    rw [Machine.readKeys]
    split
    · rename_i e
      exact ih (h.partyBytes.ok e)
    · rename_i e
      exact h.partyBytes.wait e
    · rename_i e
      exact h.partyBytes.stall e
    · rename_i e
      exact h.partyBytes.fail e

theorem MemWf.tmuMatch {slot desc r : Nat} {done : State → State} {s : State} (h : ∀ t, MemWf t → MemWf (done t))
    (h2 : MemWf s) : MemWf (tmuMatch slot desc r done s) := by
  unfold Machine.tmuMatch
  dsimp only
  refine GotWf.tmuGot h2.partyBytes ?_
  intro a s2 h3
  split
  · exact h3.tmuFault
  · refine GotWf.tmuGot h3.readKeys ?_
    intro a2 s3 h4
    refine GotWf.tmuGot (GotWf.ite h4 h4.partyBytes) ?_
    intro a3 s4 h5
    refine GotWf.tmuGot (GotWf.ite h5 h5.partyBytes) ?_
    intro a4 s5 h6
    split
    · exact h6.tmuFault
    · exact h _ h6.updTmu.orFlags

theorem MemWf.tmuRun {s : State} {i : Instr} (h : MemWf s) : MemWf (s.tmuRun i) := by
  unfold State.tmuRun
  dsimp only
  split
  · exact MemWf.tmuMatch (fun _ h2 => h2.unhold.updTmu) h
  · split
    · exact h
    · exact h.updTmu.orFlags
  · split
    · exact h
    · exact h.updTmu
  · split
    · exact h
    · exact h.updTmu.orFlags
  · split
    · exact MemWf.ite h.tmuFault h.updTmu.unhold.updTmu
    · exact h
  · split
    · exact h
    · exact MemWf.ite (h.partyPut.tmuGot (fun _ _ h2 => h2.updTmu)) (h.partyWrite.tmuGot
          (fun _ _ h2 => h2.unhold.updTmu))
  · refine GotWf.tmuGot h.partyBytes ?_
    intro a s2 h2
    split
    · exact h2.tmuFault
    · refine GotWf.tmuGot h2.partyBytes ?_
      intro a2 s3 h3
      split
      · exact h3.updTmu.unhold.updTmu
      · exact h3.tmuFault
  · exact h.updTmu.unhold.updTmu
  · exact h.partyWrite.tmuGot (fun _ _ h2 => h2.unhold.updTmu)
  · exact h

theorem MemWf.tmuBarrier {s : State} {x : Token} (h : MemWf s) : MemWf (s.tmuBarrier x) :=
  MemWf.ite h.sinkReached h.updTmu

theorem MemWf.tmuRow {s : State} {i : Instr} {last : Bool} (h : MemWf s) : MemWf (s.tmuRow i last) :=
  MemWf.ite h.tmuFault h.updTmu

theorem MemWf.execTmuInToken {s : State} (h : MemWf s) : NextWf (execTmuInToken s) := by
  unfold Machine.execTmuInToken
  dsimp only
  split
  · exact h
  · split
    · exact MemWf.ite h.updTmu.sinkReached h.updTmu.updTmu
    · split
      · exact MemWf.ite h.updTmu.tmuBarrier (MemWf.ite h.updTmu.updTmu h.updTmu.updTmu)
      · split
        · exact MemWf.ite h h.updTmu.tmuBarrier
        · split
          · exact h.updTmu.updTmu
          · split
            · exact MemWf.ite h.updTmu h
            · exact NextWf.ite h.updTmu (NextWf.ite h.updTmu (NextWf.ite h.tmuRow h.tmuFault))

theorem MemWf.tmuGo {t : Tmu} {path : Bool} {s : State} (h : MemWf s) : NextWf
    (execTmuCommandComplete.go t path s) := by
  unfold Machine.execTmuCommandComplete.go
  split
  · exact h
  · exact NextWf.ite (MemWf.ite h.updTmu h.updTmu) (NextWf.ite h h.tmuRun)

theorem MemWf.execTmuCommandComplete {s : State} (h : MemWf s) : NextWf (execTmuCommandComplete s) := by
  unfold Machine.execTmuCommandComplete
  refine NextWf.ite h ?_
  split
  · exact NextWf.ite (MemWf.ite h.updTmu h) h.tmuGo
  · exact h.tmuGo

theorem MemWf.go {t : Tmu} {path : Bool} {s : State} (h : MemWf s) : NextWf (execTmuCommandComplete.go t path s) := by
  unfold execTmuCommandComplete.go
  split
  · exact h
  · exact NextWf.ite (MemWf.ite h.updTmu h.updTmu) (NextWf.ite h h.tmuRun)

theorem MemWf.execTmsealEnd {s : State} (h : MemWf s) : NextWf (execTmsealEnd s) :=
  h.updTmu

/-! ### Issue of stream commands -/

theorem MemWf.portAccept {s : State} {p : Nat} {i : Instr} (h : MemWf s) : MemWf (s.portAccept p i) := by
  unfold State.portAccept
  split
  · exact h
  · split
    · exact h.updPort
    · exact h.updPort
    · exact h.updPort
    · exact h.updPort
    · split
      · exact h.updPort.announce
      · exact h.updPort

theorem MemWf.meAccept {s : State} {e : Nat} {i : Instr} (h : MemWf s) : MemWf (s.meAccept e i) := by
  unfold State.meAccept
  split
  · exact h
  · split
    · exact MemWf.ite h.updMe.announce h.updMe
    · exact h.updMe

theorem MemWf.ceAccept {s : State} {e : Nat} {i : Instr} (h : MemWf s) :
    ExceptWf (fun _ => True) MemWf (s.ceAccept e i) := by
  unfold State.ceAccept
  split
  · exact h.ceStart
  · exact h.ceAbort
  · exact h

theorem MemWf.cmdAccept {s : State} {i : Instr} (h : MemWf s) : ExceptWf (fun _ => True) MemWf (s.cmdAccept i) := by
  unfold State.cmdAccept
  split
  · exact h.portAccept
  · exact h.meAccept
  · exact MemWf.ite h h.updTmu
  · exact h.ceAccept

theorem MemWf.acceptCmd {s : State} {carrier : Instr} {ea : Nat} {cmd : Instr} (h : MemWf s) :
    MemWf (s.acceptCmd carrier ea cmd) := by
  unfold State.acceptCmd
  split
  · exact h
  · split
    · exact h.trapInstr
    · split
      · exact h.trapInstr
      · split
        · exact h
        · split
          · exact h.trapInstr
          · rename_i e3
            exact (h.cmdAccept.ok e3).advance

theorem MemWf.issueWord {s : State} {carrier : Instr} {ea : Nat} {q : Qword} (h : MemWf s) :
    MemWf (s.issueWord carrier ea q) := by
  unfold State.issueWord
  dsimp only
  split
  · exact h
  · split
    · exact h.acceptCmd
    · exact h.trapInstr

theorem MemWf.execIssue {k : KReg} {s : State} (h : MemWf s) : NextWf (execIssue k s) :=
  h.issueWord

theorem MemWf.execIssuex {idx : BitVec 15} {s : State} (h : MemWf s) : NextWf (execIssuex idx s) := by
  unfold Machine.execIssuex
  dsimp only
  split
  · exact h
  · split
    · exact h.walked.trapInstr
    · split
      · rename_i e2
        exact (h.fillRes.loanChecks.fault e2).trapInstr
      · rename_i e2
        exact (h.fillRes.loanChecks.stall e2).trapInstr
      · rename_i e2
        exact h.fillRes.loanChecks.wait e2
      · rename_i e2
        split
        · exact h.fillRes.loanChecks.ok e2
        · split
          · exact (h.fillRes.loanChecks.ok e2).trapInstr
          · split
            · rename_i e3
              exact ((h.fillRes.loanChecks.ok e2).placeRead.ok e3).issueWord
            · rename_i e3
              exact (h.fillRes.loanChecks.ok e2).placeRead.wait e3
            · rename_i e3
              exact ((h.fillRes.loanChecks.ok e2).placeRead.fail e3).trapInstr
            · rename_i e3
              exact ((h.fillRes.loanChecks.ok e2).placeRead.stall e3).trapInstr

theorem MemWf.execSread {p : BitVec 4} {f : ReadFields} {s : State} (h : MemWf s) : NextWf (execSread p f s) :=
  h.acceptCmd

theorem MemWf.execSwrite {p : BitVec 4} {f : WriteFields} {s : State} (h : MemWf s) : NextWf (execSwrite p f s) :=
  h.acceptCmd

theorem MemWf.execSgather {p : BitVec 4} {f : GatherFields} {s : State} (h : MemWf s) : NextWf (execSgather p f s) :=
  h.acceptCmd

theorem MemWf.execSscatter {p : BitVec 4} {f : ScatterFields} {s : State} (h : MemWf s) :
    NextWf (execSscatter p f s) :=
  h.acceptCmd

theorem MemWf.execStile {p : BitVec 4} {f : TileFields} {s : State} (h : MemWf s) : NextWf (execStile p f s) :=
  h.acceptCmd

theorem MemWf.execSsegt {p : BitVec 4} {f : SegtFields} {s : State} (h : MemWf s) : NextWf (execSsegt p f s) :=
  h.acceptCmd

theorem MemWf.execScfg {p : BitVec 4} {r1 : Reg} {word : Dword} {s : State} (h : MemWf s) :
    NextWf (execScfg p r1 word s) :=
  h.acceptCmd

theorem MemWf.execSbar {p : BitVec 4} {r1 : Reg} {id : Byte} {snap : Bool} {s : State} (h : MemWf s) :
    NextWf (execSbar p r1 id snap s) :=
  h.acceptCmd

theorem MemWf.execSend {p : BitVec 4} {r1 : Reg} {lvl : BitVec 3} {pay : Word} {err : Bool} {s : State} (h : MemWf
    s) :
    NextWf (execSend p r1 lvl pay err s) :=
  h.acceptCmd

theorem MemWf.execSclose {p : BitVec 4} {r1 : Reg} {lvl : BitVec 3} {s : State} (h : MemWf s) :
    NextWf (execSclose p r1 lvl s) :=
  h.acceptCmd

theorem MemWf.execSgateSetPlvl {p : BitVec 4} {r1 : Reg} {lvl : BitVec 3} {s : State} (h : MemWf s) :
    NextWf (execSgateSetPlvl p r1 lvl s) :=
  h.acceptCmd

theorem MemWf.execSgateGate {p : BitVec 4} {r1 : Reg} {lvl : BitVec 3} {s : State} (h : MemWf s) :
    NextWf (execSgateGate p r1 lvl s) :=
  h.acceptCmd

theorem MemWf.execSgateUngate {p : BitVec 4} {r1 : Reg} {lvl : BitVec 3} {s : State} (h : MemWf s) :
    NextWf (execSgateUngate p r1 lvl s) :=
  h.acceptCmd

theorem MemWf.execSreq {p : BitVec 4} {r1 : Reg} {base : BitVec 48} {sz : BitVec 3} {s : State} (h : MemWf s) :
    NextWf (execSreq p r1 base sz s) :=
  h.acceptCmd

theorem MemWf.execCchain {e : BitVec 1} {r1 : Reg} {head : BitVec 48} {s : State} (h : MemWf s) :
    NextWf (execCchain e r1 head s) :=
  h.acceptCmd

theorem MemWf.execCabort {e : BitVec 1} {s : State} (h : MemWf s) : NextWf (execCabort e s) :=
  h.acceptCmd

theorem MemWf.execMload {e : BitVec 1} {f : LoadFields} {s : State} (h : MemWf s) : NextWf (execMload e f s) :=
  h.acceptCmd

theorem MemWf.execMswap {e : BitVec 1} {s : State} (h : MemWf s) : NextWf (execMswap e s) :=
  h.acceptCmd

theorem MemWf.execMdense {e : BitVec 1} {f : ProductFields} {s : State} (h : MemWf s) : NextWf (execMdense e f s) :=
  h.acceptCmd

theorem MemWf.execMseg {e : BitVec 1} {r2 : Reg} {kb : Half} {trec : BitVec 43} {f : ProductFields} {s : State} (h :
    MemWf s) :
    NextWf (execMseg e r2 kb trec f s) :=
  h.acceptCmd

theorem MemWf.execMbatch {e : BitVec 1} {f : ProductFields} {s : State} (h : MemWf s) : NextWf (execMbatch e f s) :=
  h.acceptCmd

theorem MemWf.execMgather {e : BitVec 1} {desc : BitVec 19} {f : ProductFields} {s : State} (h : MemWf s) :
    NextWf (execMgather e desc f s) :=
  h.acceptCmd

theorem MemWf.execMdrain {e : BitVec 1} {f : DrainFields} {s : State} (h : MemWf s) : NextWf (execMdrain e f s) :=
  h.acceptCmd

theorem MemWf.execMzero {e : BitVec 1} {r1 : Reg} {n : Half} {bank : Bool} {s : State} (h : MemWf s) :
    NextWf (execMzero e r1 n bank s) :=
  h.acceptCmd

theorem MemWf.execMbankClaim {e : BitVec 1} {s : State} (h : MemWf s) : NextWf (execMbankClaim e s) :=
  h.acceptCmd

theorem MemWf.execMbankRelease {e : BitVec 1} {s : State} (h : MemWf s) : NextWf (execMbankRelease e s) :=
  h.acceptCmd

theorem MemWf.execMspill {e : BitVec 1} {addr : BitVec 42} {bank : Bool} {s : State} (h : MemWf s) :
    NextWf (execMspill e addr bank s) :=
  h.acceptCmd

theorem MemWf.execMfill {e : BitVec 1} {addr : BitVec 42} {bank : Bool} {s : State} (h : MemWf s) :
    NextWf (execMfill e addr bank s) :=
  h.acceptCmd

theorem MemWf.execMstat {e : BitVec 1} {r1 : Reg} {addr : BitVec 42} {clr : Bool} {seq : Word} {s : State} (h :
    MemWf s) :
    NextWf (execMstat e r1 addr clr seq s) :=
  h.acceptCmd

theorem MemWf.execTmatch {r1 : Reg} {slot : BitVec 4} {desc : BitVec 19} {num : BitVec 10} {s : State} (h : MemWf s) :
    NextWf (execTmatch r1 slot desc num s) :=
  h.acceptCmd

theorem MemWf.execTmerge {r1 : Reg} {slot : BitVec 4} {num : BitVec 10} {vf : Bool} {s : State} (h : MemWf s) :
    NextWf (execTmerge r1 slot num vf s) :=
  h.acceptCmd

theorem MemWf.execTlogsz {slot : BitVec 4} {b2 : Bool} {s : State} (h : MemWf s) : NextWf (execTlogsz slot b2 s) :=
  h.acceptCmd

theorem MemWf.execTunmerge {r1 : Reg} {slot : BitVec 4} {num : BitVec 10} {vf : Bool} {s : State} (h : MemWf s) :
    NextWf (execTunmerge r1 slot num vf s) :=
  h.acceptCmd

theorem MemWf.execTcompose {slot sla slb : BitVec 4} {s : State} (h : MemWf s) :
    NextWf (execTcompose slot sla slb s) :=
  h.acceptCmd

theorem MemWf.execTsave {slot : BitVec 4} {addr : BitVec 42} {s : State} (h : MemWf s) :
    NextWf (execTsave slot addr s) :=
  h.acceptCmd

theorem MemWf.execTload {slot : BitVec 4} {addr : BitVec 42} {s : State} (h : MemWf s) :
    NextWf (execTload slot addr s) :=
  h.acceptCmd

theorem MemWf.execTfree {slot : BitVec 4} {s : State} (h : MemWf s) : NextWf (execTfree slot s) :=
  h.acceptCmd

theorem MemWf.execTstat {r1 : Reg} {addr : BitVec 42} {seq : Word} {s : State} (h : MemWf s) :
    NextWf (execTstat r1 addr seq s) :=
  h.acceptCmd

theorem MemWf.execCfgld {a b : Reg} {s : State} (h : MemWf s) : NextWf (execCfgld a b s) := by
  unfold Machine.execCfgld
  dsimp only
  split
  · exact h.trapInstr
  · split
    · exact h.trapInstr
    · split
      · exact h
      · split
        · rename_i e
          exact MemWf.ite (h.fetchFolio.error e) (h.fetchFolio.error e).trapInstr
        · rename_i e
          exact NextWf.ite (h.fetchFolio.ok e).updFab.advance (MemWf.ite (h.fetchFolio.ok e).updFab
              (h.fetchFolio.ok e)).sendFolio.updFab.advance

theorem MemWf.execCfgwait {s : State} (h : MemWf s) : NextWf (execCfgwait s) :=
  NextWf.ite h.advance h

theorem MemWf.execWbar {a : Reg} {s : State} (h : MemWf s) : NextWf (execWbar a s) :=
  NextWf.ite h.trapInstr (NextWf.ite h.advance h)

/-! ### The watchdog -/

theorem MemWf.fired {f : Fe} {r c : Nat} {s : State} (h : MemWf s) : NextWf (fired f r c s) := by
  unfold Machine.fired
  split
  · exact h.execMapFire
  · exact h.execSfnFire
  · exact h.execRedFire
  · exact h.execSteerFire
  · exact h.execMergeFire
  · exact h.execCarryFire
  · exact h.execGenEmit
  · exact h.execMemFire
  · exact h.execSegFire
  · exact h.execShufFire
  · exact h.execConvFire
  · exact h.execForkFire
  · exact h

/-! ### Dispatch and the end of a task -/

theorem MemWf.deferredOp {s : State} {k : TaskKey} {c : Nat} {a : Deferred} (h : MemWf s) :
    MemWf (s.deferredOp k c a) := by
  unfold State.deferredOp
  dsimp only
  split
  · exact h.ceStartNow
  · split
    · exact h
    · exact MemWf.ite h.faultRecord h.launchTask

theorem MemWf.idleCore {s : State} (h : MemWf s) : MemWf s.idleCore :=
  h.freeCore.updCore

theorem MemWf.endSteps {s : State} {k : TaskKey} {c : Nat} {ops : List Deferred} (h : MemWf s) :
    MemWf (s.endSteps k c ops) := by
  unfold State.endSteps
  refine MemWf.dropRec ?_
  refine MemWf.frame ?_
  split
  · exact (MemWf.foldl (fun _ _ h2 => h2.deferredOp)
        h.leaveCohort.releaseObjects.returnSets.updRec).decrementAll.tcbSet
  · exact (MemWf.foldl (fun _ _ h2 => h2.deferredOp) h.leaveCohort.releaseObjects.returnSets.updRec).decrementAll

theorem MemWf.endTask {s : State} {k : TaskKey} (h : MemWf s) : MemWf (s.endTask k) :=
  h.updTmu.endSteps.frame.idleCore

theorem MemWf.execTend {s : State} (h : MemWf s) : NextWf (execTend s) := by
  unfold Machine.execTend
  split
  · exact h
  · exact NextWf.ite h.endTask h

theorem MemWf.execTyield {s : State} (h : MemWf s) : NextWf (execTyield s) :=
  NextWf.ite h (NextWf.ite h.advance h.advance.frame)

theorem MemWf.requeue {s : State} {k : TaskKey} {c : Nat} (h : MemWf s) : MemWf (s.requeue k c) :=
  h.frame.memberRuns.farSave.enqueue

theorem MemWf.saveTask {s : State} {k : TaskKey} (h : MemWf s) : MemWf (s.saveTask k) :=
  h.frame.requeue

theorem MemWf.execPreemptSave {s : State} (h : MemWf s) : NextWf (execPreemptSave s) := by
  unfold Machine.execPreemptSave
  split
  · exact NextWf.ite h.saveTask h
  · exact h

theorem MemWf.execPreemptionTimeout {s : State} (h : MemWf s) : NextWf (execPreemptionTimeout s) :=
  NextWf.ite h.frame.pendCause h

theorem MemWf.preempt {s : State} {c : Nat} {why : PreemptWhy} (h : MemWf s) : MemWf (s.preempt c why) := by
  unfold State.preempt
  split
  · exact MemWf.ite h.frame h
  · split
    · exact MemWf.ite h.rollRestart h.requeue
    · exact h

theorem MemWf.selectBank {s : State} {x : BitVec 12} {fill second : Bool} {e : Nat} (h : MemWf s) :
    MemWf (s.selectBank x fill second e) := by
  unfold State.selectBank
  extract_lets owned take r u
  have htake : ∀ t j snd, MemWf t → MemWf (take t j snd) := fun t j snd ht =>
    MemWf.ite ht.takeBank.fillBank ht.takeBank
  have hr : MemWf r.2 := by
    unfold r
    split
    · exact h
    · split
      · exact h
      · exact htake _ _ _ h
  have hu : MemWf u := MemWf.ite (htake _ _ _ hr) hr
  exact hu.updMe

theorem MemWf.ranLast {s : State} {x : BitVec 12} (h : MemWf s) : MemWf (s.ranLast x) :=
  h

theorem MemWf.enterTask {s : State} {r : Ready} {pa : Nat} (h : MemWf s) : MemWf (s.enterTask r pa) := by
  unfold State.enterTask
  exact MemWf.ite (MemWf.foldl (fun _ _ h2 => h2.selectBank) h.dropReqs.updCore.frame).ranLast (MemWf.foldl
      (fun _ _ h2 => h2.selectBank) h.dropReqs.updCore.frame).ranLast.loadEntry

theorem MemWf.resumeTask {s : State} {r : Ready} {c : Core} (h : MemWf s) : MemWf (s.resumeTask r c) :=
  (MemWf.foldl (fun _ _ h2 => h2.selectBank) h.frame).ranLast.reinject

theorem MemWf.dispatchTo {s : State} {r : Ready} {c : Nat} (h : MemWf s) : MemWf (s.dispatchTo r c) := by
  unfold State.dispatchTo
  dsimp only
  split
  · exact h
  · split
    · exact h.frame.tcbSet.frame.updRec.memberRuns.farRestore
    · split
      · exact h.frame.tcbSet.frame.updRec.memberRuns.resumeTask
      · exact h.frame.tcbSet.frame.updRec.memberRuns.enterTask

theorem MemWf.giveCore {s : State} {r : Ready} {c : Nat} (h : MemWf s) : MemWf (s.giveCore r c) :=
  MemWf.ite h.dispatchTo (MemWf.ite h h.frame)

theorem MemWf.popOwn {w : Nat} {l : List Ready} {s : State} (h : MemWf s) : MemWf (popOwn w l s) := by
  induction l generalizing s with
  | nil => exact h
  | cons r t ih =>
    rw [Machine.popOwn]
    split
    · exact ih h.giveCore
    · exact ih h

theorem MemWf.popOther {s : State} {w c : Nat} (h : MemWf s) : MemWf (s.popOther w c) := by
  unfold State.popOther
  split
  · exact h
  · split
    · exact h.giveCore
    · exact h

theorem MemWf.keepPromises {s : State} {w : Nat} (h : MemWf s) : MemWf (s.keepPromises w) := by
  unfold State.keepPromises
  refine MemWf.foldl ?_ h
  intro s2 x h2
  split
  · exact h2.giveCore
  · exact h2

theorem MemWf.execDispatch {wing : BitVec 3} {s : State} (h : MemWf s) : NextWf (execDispatch wing s) :=
  MemWf.foldl (fun _ _ h2 => h2.popOther) h.keepPromises.popOwn

theorem MemWf.execQuantumPreempt {core : Nat} {s : State} (h : MemWf s) : NextWf (execQuantumPreempt core s) := by
  unfold Machine.execQuantumPreempt
  split
  · exact NextWf.ite h h.frame.preempt
  · exact h

theorem MemWf.execRecallRollback {t : TaskKey} {s : State} (h : MemWf s) : NextWf (execRecallRollback t s) :=
  NextWf.ite h (NextWf.ite (NextWf.ite h h.rollBack.dropReqs.updCore.freeCore.frame.memberRuns.restart) h.rollRestart)

theorem MemWf.clearCore {s : State} (h : MemWf s) : MemWf s.clearCore :=
  h.dropReqs.updCore.freeCore.frame

theorem MemWf.endFaulted {s : State} {k : TaskKey} {core cause : Nat} (h : MemWf s) :
    MemWf (s.endFaulted k core cause) :=
  MemWf.ite h.faultTask.memberRuns.clearCore h.faultTask.memberRuns.frame

theorem MemWf.faultend {s : State} {w : Nat} {v : Dword} {part : Option (BitVec 4)} (h : MemWf s) :
    MemWf (s.faultend w v part) := by
  unfold State.faultend
  dsimp only
  split
  · exact h.endFaulted
  · exact h.updWing

theorem MemWf.execFaultend {wing : BitVec 3} {v : Dword} {part : Option (BitVec 4)} {s : State} (h : MemWf s) :
    NextWf (execFaultend wing v part s) :=
  h.faultend

theorem MemWf.execCorerstDhalt {s : State} (h : MemWf s) : NextWf (execCorerstDhalt s) :=
  h.clearCore

theorem MemWf.launchWrite {s : State} {w : Nat} {v : Dword} (h : MemWf s) : MemWf (s.launchWrite w v) :=
  MemWf.ite h.launchTask h.updWing

theorem MemWf.execLaunch {wing : BitVec 3} {v : Dword} {s : State} (h : MemWf s) : NextWf (execLaunch wing v s) :=
  h.launchWrite

theorem MemWf.launchstTake {s : State} {w : Nat} (h : MemWf s) : MemWf (s.launchstTake w).2 :=
  h.updWing

theorem MemWf.execLaunchstRead {wing : BitVec 3} {s : State} (h : MemWf s) : NextWf (execLaunchstRead wing s) :=
  h.launchstTake.frame

theorem MemWf.deskctl {s : State} {w : Nat} {v : Dword} (h : MemWf s) : MemWf (s.deskctl w v) :=
  MemWf.ite h h.updWing

theorem MemWf.execDeskctlWrite {wing : BitVec 3} {v : Dword} {s : State} (h : MemWf s) :
    NextWf (execDeskctlWrite wing v s) :=
  h.deskctl

theorem MemWf.updPartcur {s : State} {p : Nat} {f : PartCur → PartCur} (h : MemWf s) : MemWf (s.updPartcur p f) :=
  h.updMod

theorem MemWf.partcurWrite {s : State} {p : Nat} {v : Dword} (h : MemWf s) : MemWf (s.partcurWrite p v) := by
  unfold State.partcurWrite
  extract_lets clr u c ctx
  have hu : MemWf u := MemWf.ite h.updPartcur h
  exact MemWf.ite (MemWf.ite hu (MemWf.ite hu.updPartcur hu.updPartcur)) (MemWf.ite (MemWf.ite hu hu.updPartcur)
    (MemWf.ite hu (MemWf.foldl (fun _ _ h2 => h2.preempt) hu.updPartcur)))

theorem MemWf.execPartitionSwap {p : BitVec 4} {v : Dword} {s : State} (h : MemWf s) :
    NextWf (execPartitionSwap p v s) :=
  h.partcurWrite

theorem MemWf.execPartitionSwapDone {p : BitVec 4} {s : State} (h : MemWf s) :
    NextWf (execPartitionSwapDone p s) := by
  unfold Machine.execPartitionSwapDone
  dsimp only
  split
  · exact h
  · split
    · exact h.updPartcur
    · exact MemWf.foldl (fun _ _ h2 => h2.preempt) h

theorem MemWf.execPartcurClearError {p : BitVec 4} {s : State} (h : MemWf s) : NextWf (execPartcurClearError p s) :=
  h.updPartcur

/-! ### The steps of the module -/

theorem MemWf.execCeChainStart {e : BitVec 1} {head : Dword} {s : State} (h : MemWf s) :
    NextWf (execCeChainStart e head s) := by
  unfold Machine.execCeChainStart
  split
  · rename_i e2
    exact h.ceStart.ok e2
  · exact h

theorem MemWf.execCeClearError {e : BitVec 1} {s : State} (h : MemWf s) : NextWf (execCeClearError e s) :=
  h.updCe

theorem MemWf.execCeAbort {e : BitVec 1} {s : State} (h : MemWf s) : NextWf (execCeAbort e s) :=
  h.ceAbort

theorem MemWf.execCeResume {e : BitVec 1} {s : State} (h : MemWf s) : NextWf (execCeResume e s) :=
  h.ceResume

theorem MemWf.execCeKick {e : BitVec 1} {s : State} (h : MemWf s) : NextWf (execCeKick e s) :=
  h.ceKick

theorem MemWf.execCopyRecordRead {e : BitVec 1} {s : State} (h : MemWf s) : NextWf (execCopyRecordRead e s) :=
  h.ceReadRecord

theorem MemWf.execCopyHandleReady {e : BitVec 1} {s : State} (h : MemWf s) : NextWf (execCopyHandleReady e s) :=
  h.ceHandleReady

theorem MemWf.execCopyRecordComplete {e : BitVec 1} {s : State} (h : MemWf s) : NextWf (execCopyRecordComplete e s) :=
  h.ceComplete

theorem MemWf.execCopyRecordStop {e : BitVec 1} {s : State} (h : MemWf s) : NextWf (execCopyRecordStop e s) :=
  h.ceFail

theorem MemWf.execCopyBoundaryStop {e : BitVec 1} {n : Nat} {s : State} (h : MemWf s) :
    NextWf (execCopyBoundaryStop e n s) :=
  h.ceToBoundary.ceBoundary

theorem MemWf.execNvmeWriteComplete {e : BitVec 1} {good : Bool} {s : State} (h : MemWf s) :
    NextWf (execNvmeWriteComplete e good s) :=
  h.nvmeDone

theorem MemWf.xinv {s : State} {v : Nat} (h : MemWf s) : MemWf (s.xinv v) :=
  MemWf.ite h.updMod h.frame.updMod

theorem MemWf.execXinvWrite {v : Dword} {s : State} (h : MemWf s) : NextWf (execXinvWrite v s) :=
  h.xinv

theorem MemWf.execXinvComplete {s : State} (h : MemWf s) : NextWf (execXinvComplete s) :=
  NextWf.ite h h.updMod

theorem MemWf.execXinvstatClearError {s : State} (h : MemWf s) : NextWf (execXinvstatClearError s) :=
  h.updMod

theorem MemWf.ctxkill {s : State} {ctx : BitVec 12} (h : MemWf s) : MemWf (s.ctxkill ctx) :=
  MemWf.ite h.updMod (MemWf.ite h.updMod.wake h.updMod).updCore.frame

theorem MemWf.execCtxkillGo {ctx : BitVec 12} {s : State} (h : MemWf s) : NextWf (execCtxkillGo ctx s) :=
  h.ctxkill

theorem MemWf.execCtxkillDone {s : State} (h : MemWf s) : NextWf (execCtxkillDone s) :=
  NextWf.ite h h.updMod

theorem MemWf.execCtxkillClearError {s : State} (h : MemWf s) : NextWf (execCtxkillClearError s) :=
  h.updMod

theorem MemWf.tagcfgSet {s : State} {v : Dword} (h : MemWf s) : SomeWf MemWf (s.tagcfgSet v) :=
  SomeWf.ite trivial h.frame

theorem MemWf.execTagcfgWrite {v : Dword} {s : State} (h : MemWf s) : NextWf (execTagcfgWrite v s) := by
  have ht : MemWf ((s.tagcfgSet v).getD s) := h.tagcfgSet.getD h
  exact ht

theorem MemWf.execCpdescWrite {t : BitVec 6} {v : Dword} {s : State} (h : MemWf s) : NextWf (execCpdescWrite t v s) :=
  MemWf.ite h (h.cpdescWrite.getD h)

theorem MemWf.execOwnreqRequest {m : BitVec 2} {enter : Bool} {s : State} (h : MemWf s) :
    NextWf (execOwnreqRequest m enter s) :=
  h.updMod

theorem MemWf.execOwnreqClrerr {_m : BitVec 2} {s : State} (h : MemWf s) : NextWf (execOwnreqClrerr _m s) :=
  h.updMod

theorem MemWf.ownreqWrite {s : State} {m : BitVec 2} {v : Nat} (h : MemWf s) : MemWf (s.ownreqWrite m v) :=
  MemWf.ite h h.updMod

theorem MemWf.ownpassWrite {s : State} {m : BitVec 2} {v : BitVec 4} (h : MemWf s) : MemWf (s.ownpassWrite m v) :=
  h.updMod

theorem MemWf.execOwnpass {m : BitVec 2} {v : BitVec 4} {s : State} (h : MemWf s) : NextWf (execOwnpass m v s) :=
  h.ownpassWrite

theorem MemWf.execOwnershipGrant {s : State} (h : MemWf s) : NextWf (execOwnershipGrant s) := by
  unfold Machine.execOwnershipGrant
  split
  · exact h.updMod
  · exact h

theorem MemWf.execMasterLinkDown {m : BitVec 2} {s : State} (h : MemWf s) : NextWf (execMasterLinkDown m s) :=
  h.updMod

theorem MemWf.execWpwrWrite {wing : BitVec 3} {code : BitVec 2} {s : State} (h : MemWf s) :
    NextWf (execWpwrWrite wing code s) :=
  h.updWing

theorem MemWf.execClockChangeEffect {wing : BitVec 3} {s : State} (h : MemWf s) :
    NextWf (execClockChangeEffect wing s) :=
  h.updWing

theorem MemWf.execPowerLimitStepDown {draw : Nat} {s : State} (h : MemWf s) :
    NextWf (execPowerLimitStepDown draw s) :=
  NextWf.ite h h.frame

theorem MemWf.attestGo {s : State} (h : MemWf s) : MemWf s.attestGo :=
  h.updMod

theorem MemWf.execAttestationRequest {s : State} (h : MemWf s) : NextWf (execAttestationRequest s) :=
  h.attestGo

theorem MemWf.execAttestationReportDone {s : State} (h : MemWf s) : NextWf (execAttestationReportDone s) :=
  NextWf.ite h (MemWf.ite h.wrBytes h).updMod

theorem MemWf.inReset {s : State} (h : MemWf s) : MemWf s.inReset :=
  h

theorem MemWf.execBootFirmwareCheck {good : Bool} {s : State} (h : MemWf s) : NextWf (execBootFirmwareCheck good s) :=
  MemWf.ite h h.inReset.updMod

theorem MemWf.eccTake {s : State} {w : Nat} (h : MemWf s) : MemWf (s.eccTake w).2 :=
  h.updWing

theorem MemWf.execEccstatRead {wing : BitVec 3} {s : State} (h : MemWf s) : NextWf (execEccstatRead wing s) :=
  h.eccTake.frame

theorem MemWf.loseBy {s : State} {p : Nat} (h : MemWf s) : MemWf (s.loseBy p) :=
  h.updClerk.updFab.frame

theorem MemWf.execSpanFlitReceive {port : BitVec 5} {good : Bool} {s : State} (h : MemWf s) :
    NextWf (execSpanFlitReceive port good s) :=
  (MemWf.ite h.loseBy h).updWing

theorem MemWf.execSpanPortTrain {port : BitVec 5} {lanes8 : Bool} {s : State} (h : MemWf s) :
    NextWf (execSpanPortTrain port lanes8 s) :=
  NextWf.ite h h.updWing.updClerk.sendReqs

theorem MemWf.execNiMessageSend {s : State} (h : MemWf s) : NextWf (execNiMessageSend s) := by
  unfold Machine.execNiMessageSend
  split
  · exact NextWf.ite h.frame h
  · exact h

theorem MemWf.execNiMessageDeliver {s : State} (h : MemWf s) : NextWf (execNiMessageDeliver s) := by
  unfold Machine.execNiMessageDeliver
  split
  · exact NextWf.ite h.frame h
  · exact h

theorem MemWf.ctrlReadEffect {s : State} {off : Nat} (h : MemWf s) : MemWf (s.ctrlReadEffect off) := by
  unfold State.ctrlReadEffect
  split
  · exact h.launchstTake
  · exact h.eccTake
  · exact h

theorem MemWf.ctrlRead {s : State} {off n : Nat} (h : MemWf s) : MemWf (s.ctrlRead off n).2 :=
  h.ctrlReadEffect

theorem MemWf.modlWrite {s : State} {o : Nat} {full : Nat → Nat} (h : MemWf s) : MemWf (s.modlWrite o full) := by
  unfold State.modlWrite
  split
  · exact h.partcurWrite
  · split
    · exact h.updMod
    · split
      · exact h.updMod
      · split
        · exact h.updMod
        · exact h.xinv
        · exact MemWf.ite h.updMod h
        · exact MemWf.ite (MemWf.ite h.updMod h).ctxkill (MemWf.ite (MemWf.ite h.updMod h).updMod
              (MemWf.ite h.updMod h))
        · exact h.updMod
        · exact MemWf.ite h.updMod h
        · exact h.updMod
        · exact MemWf.ite h.attestGo h
        · exact h

theorem MemWf.wingWrite {s : State} {w o : Nat} {full : Nat → Nat} {part : Option (BitVec 4)} (h : MemWf s) :
    MemWf (s.wingWrite w o full part) := by
  unfold State.wingWrite
  split
  · exact h.launchWrite
  · exact h.deskctl
  · exact MemWf.ite h h.updWing
  · exact h.updWing
  · exact h.updWing
  · exact h.faultend
  · exact h.updWing
  · exact h.updWing
  · exact h.updWing
  · exact h

theorem MemWf.coreWrite {s : State} {o va : Nat} {full : Nat → Nat} (h : MemWf s) : GotWf
    (s.coreWrite o va full) := by
  unfold State.coreWrite
  extract_lets st act sealBit e t
  have hseal : ∀ t, MemWf t → GotWf (sealBit t) := fun t ht => GotWf.ite ht h
  refine GotWf.ite ?_ (GotWf.ite ?_ (GotWf.ite h.updCore (GotWf.ite ?_ ?_)))
  · split
    · split
      · rename_i et
        exact h.ceStart.ok et
      · exact h
    · exact h.ceCtl
    · exact h
  · generalize (o - 0x800) % 0x20 = b
    exact GotWf.ite (hseal _ h.updPort) h
  · refine GotWf.ite h ?_
    split
    · rename_i et
      exact h.cpdescWrite.some et
    · exact h
  · split
    · split
      · rename_i et
        exact h.tagcfgSet.some et
      · exact h
    · exact hseal _ h.updMe
    · exact hseal _ h.updMe
    · exact hseal _ h.updTmu
    · exact h.updCore
    · exact MemWf.ite h.clearCore h
    · exact h

theorem MemWf.farWrite {s : State} {c o va : Nat} {full : Nat → Nat} (h : MemWf s) :
    GotWf (s.farWrite c o va full) := by
  unfold State.farWrite
  dsimp only
  split
  · split
    · rename_i e
      exact h.cpdescWrite.some e
    · exact h
  · exact GotWf.ite h.updFar (GotWf.ite (GotWf.ite h h.updFar) (GotWf.ite h.updFar (GotWf.ite h.freeCore h)))

theorem MemWf.ctrlWrite {s : State} {off n v : Nat} {part : Option (BitVec 4)} (h : MemWf s) :
    GotWf (s.ctrlWrite off n v part) := by
  unfold State.ctrlWrite
  dsimp only
  split
  · exact h.modlWrite
  · exact MemWf.ite h.wingWrite h
  · exact GotWf.ite h.coreWrite (GotWf.ite h.farWrite h)
  · exact h

theorem GotWf.state {α : Type} {g : Got α} {s : State} (h : GotWf g) (h2 : MemWf s) : MemWf (g.state s) := by
  unfold Got.state
  split
  · exact h
  · exact h2

theorem MemWf.execControlRegisterWrite {off : Nat} {wide : Bool} {v : Dword} {s : State} (h : MemWf s) :
    NextWf (execControlRegisterWrite off wide v s) :=
  h.ctrlWrite.state h

theorem MemWf.masterWrite {s : State} {m : BitVec 2} {off n v : Nat} (h : MemWf s) :
    MemWf (s.masterWrite m off n v) :=
  MemWf.ite h (MemWf.ite h.ownreqWrite (MemWf.ite h.ownpassWrite (MemWf.ite (h.ctrlWrite.state h) h)))

theorem MemWf.hostPlace {s : State} {ctx : BitVec 12} {k : AccKind} {va n : Nat} (h : MemWf s) :
    GotWf (s.hostPlace ctx k va n) := by
  unfold State.hostPlace
  split
  · exact h
  · split
    · exact h
    · split
      · exact h.got
      · exact GotWf.ite h h

theorem MemWf.hostLoad {s : State} {ctx : BitVec 12} {va n : Nat} (h : MemWf s) : MemWf (s.hostLoad ctx va n) := by
  unfold State.hostLoad
  extract_lets g
  have hg : GotWf g := by
    unfold g
    split
    · rename_i et
      exact MemWf.placeRead (h.hostPlace.ok et)
    · rename_i et
      exact h.hostPlace.wait et
    · rename_i et
      exact h.hostPlace.stall et
    · rename_i et
      exact h.hostPlace.fail et
  generalize g = r at hg ⊢
  split
  · exact MemWf.frame hg
  · exact h
  · exact MemWf.frame hg
  · exact MemWf.frame hg

theorem MemWf.hostStore {s : State} {ctx : BitVec 12} {va n v : Nat} (h : MemWf s) :
    MemWf (s.hostStore ctx va n v) := by
  unfold State.hostStore
  split
  · rename_i e
    split
    · rename_i e2
      exact (h.hostPlace.ok e).placeWrite.ok e2
    · rename_i e2
      exact (h.hostPlace.ok e).placeWrite.fail e2
    · exact h.hostPlace.ok e
  · exact h

theorem MemWf.execHostRequest {q : HostReq} {s : State} (h : MemWf s) : NextWf (execHostRequest q s) := by
  unfold Machine.execHostRequest
  split
  · exact h.ctrlRead.frame
  · exact MemWf.ite h h.masterWrite
  · exact MemWf.ite h h.hostLoad
  · exact MemWf.ite h h.hostStore

/-! ### Instructions on objects, cohorts and loans -/

theorem MemWf.execAcq {d a : Reg} {s : State} (h : MemWf s) : NextWf (execAcq d a s) :=
  h.advance.issueAcquire

theorem MemWf.execAcqs {d a : Reg} {s : State} (h : MemWf s) : NextWf (execAcqs d a s) :=
  h.advance.issueAcquire

theorem MemWf.execRel {a : Reg} {s : State} (h : MemWf s) : NextWf (execRel a s) :=
  h.advance.issueRelease

theorem MemWf.execBind {d a b : Reg} {s : State} (h : MemWf s) : NextWf (execBind d a b s) :=
  h.advance.issueBind

theorem MemWf.execUnbind {d a : Reg} {s : State} (h : MemWf s) : NextWf (execUnbind d a s) :=
  h.advance.issueUnbind

theorem MemWf.execWaitw {d a b : Reg} {s : State} (h : MemWf s) : NextWf (execWaitw d a b s) :=
  h.advance.issueWaitw

theorem MemWf.execJoin {d a b : Reg} {s : State} (h : MemWf s) : NextWf (execJoin d a b s) :=
  h.advance.issueJoin

theorem MemWf.execLeave {s : State} (h : MemWf s) : NextWf (execLeave s) := by
  unfold Machine.execLeave
  split
  · exact h
  · split
    · exact h
    · split
      · exact h.updClerk.leaveCohort.advance
      · exact h.trapInstr

theorem MemWf.execCbar {s : State} (h : MemWf s) : NextWf (execCbar s) := by
  unfold Machine.execCbar
  dsimp only
  split
  · exact h
  · split
    · exact h
    · split
      · exact h.trapInstr
      · split
        · exact h
        · split
          · exact h.updCohort
          · exact NextWf.ite h.updCohort.updCohort.advance h.updCohort

theorem MemWf.execLoan {d a b : Reg} {s : State} (h : MemWf s) : NextWf (execLoan d a b s) :=
  h.advance.issueLoan

theorem MemWf.execLstat {d a : Reg} {s : State} (h : MemWf s) : NextWf (execLstat d a s) :=
  h.advance.issueLstat

theorem MemWf.execFence {_scope : Scope} {s : State} (h : MemWf s) : NextWf (execFence _scope s) :=
  NextWf.ite h.advance h

theorem MemWf.execSpawn {d a : Reg} {s : State} (h : MemWf s) : NextWf (execSpawn d a s) :=
  h.advance.issueSpawn

theorem MemWf.execArm {d a b : Reg} {s : State} (h : MemWf s) : NextWf (execArm d a b s) :=
  h.advance.issueArm

theorem MemWf.execRls {d a : Reg} {s : State} (h : MemWf s) : NextWf (execRls d a s) :=
  h.advance.issueRls

theorem MemWf.execTself {d : Reg} {s : State} (h : MemWf s) : NextWf (execTself d s) :=
  h.advance.pushDone

theorem MemWf.execTage {d : Reg} {s : State} (h : MemWf s) : NextWf (execTage d s) :=
  h.advance.pushDone

theorem MemWf.execTlook {d a : Reg} {s : State} (h : MemWf s) : NextWf (execTlook d a s) :=
  h.advance.issueTag

theorem MemWf.execTins {d a : Reg} {s : State} (h : MemWf s) : NextWf (execTins d a s) :=
  h.advance.issueTag

theorem MemWf.execTdel {d a : Reg} {s : State} (h : MemWf s) : NextWf (execTdel d a s) :=
  h.advance.issueTag

theorem MemWf.execXbank {a b : Reg} {s : State} (h : MemWf s) : NextWf (execXbank a b s) :=
  h.advance.issueXbank

/-! ### Accesses performed -/

theorem MemWf.writeResult {s : State} {k : Nat} {u : Unfin} {v : Qword} (h : MemWf s) : MemWf (s.writeResult k u v) :=
  h.updClerk

theorem MemWf.execAsyncResultWrite {k : Nat} {s : State} (h : MemWf s) : NextWf (execAsyncResultWrite k s) := by
  unfold Machine.execAsyncResultWrite
  split
  · exact h
  · split
    · exact h.writeResult
    · exact NextWf.ite h.updHandle.writeResult h
    · exact h.trapUnfin
    · exact h

theorem MemWf.execAsyncTrap {s : State} (h : MemWf s) : NextWf (execAsyncTrap s) :=
  MemWf.ite h.takeAsync h

theorem MemWf.execWfeWake {s : State} (h : MemWf s) : NextWf (execWfeWake s) :=
  MemWf.ite h.updClerk h

theorem MemWf.execDebugInterfaceResume {s : State} (h : MemWf s) : NextWf (execDebugInterfaceResume s) :=
  MemWf.ite h.updClerk h

theorem MemWf.atHome {s : State} {k : Nat} {u : Unfin} {kind : AccKind} {n : Nat} {pl : Place} {act : State → State}
    (h : MemWf s) (h2 : ∀ t, MemWf t → MemWf (act t)) :
    MemWf (s.atHome k u kind n pl act) := by
  unfold State.atHome
  split
  · exact h.trapUnfin
  · split
    · exact h.trapUnfin
    · split
      · rename_i e
        exact (h.touch.fault e).trapUnfin
      · rename_i e
        exact (h.touch.stall e).trapUnfin
      · rename_i e
        exact h.touch.wait e
      · rename_i e
        split
        · exact (h.touch.ok e).trapUnfin
        · split
          · split
            · exact (h.touch.ok e).trapUnfin
            · rename_i e3
              exact h2 _ ((h.touch.ok e).undoLog.ok e3)
          · exact h2 _ (h.touch.ok e)

theorem MemWf.homeGot {α : Type} {s : State} {k : Nat} {u : Unfin} {g : Got α} {f : α → State → State} (h : MemWf s)
    (h2 : GotWf g) (h3 : ∀ (a : α) (t : State), MemWf t → MemWf (f a t)) :
    MemWf (s.homeGot k u g f) := by
  unfold State.homeGot
  split
  · exact h3 _ _ h2
  · exact h2
  · exact h.trapUnfin
  · exact MemWf.ite h.trapUnfin (MemWf.ite h2.trapUnfin h.trapUnfin)

theorem MemWf.loadAtHome {s : State} {k : Nat} {u : Unfin} {pl : Place} {n : Nat} {ext : Nat → Qword} (h : MemWf s) :
    MemWf (s.loadAtHome k u pl n ext) := by
  unfold State.loadAtHome
  refine MemWf.atHome h ?_
  intro s2 h2
  split
  · exact h2.ctrlRead.finishUnfin
  · exact MemWf.ite h2.finishUnfin (h2.homeGot h2.placeRead (fun _ _ h3 => h3.finishUnfin))

theorem MemWf.storeAtHome {s : State} {k : Nat} {u : Unfin} {pl : Place} {n v : Nat} (h : MemWf s) :
    MemWf (s.storeAtHome k u pl n v) := by
  unfold State.storeAtHome
  refine MemWf.atHome h ?_
  intro s2 h2
  split
  · split
    · rename_i e
      exact h2.dropUnfin.ctrlWrite.ok e
    · exact h2
    · exact h2
    · exact h2.trapUnfin
  · exact h2.homeGot h2.placeWrite (fun _ _ h3 => h3.dropUnfin)

theorem MemWf.amo {s : State} {pl : Place} {va n : Nat} {op : AtomicOp} {b c : Nat} (h : MemWf s) :
    GotWf (s.amo pl va n op b c) := by
  unfold State.amo
  dsimp only
  split
  · exact h
  · split
    · rename_i e
      split
      · exact h.placeRead.ok e
      · split
        · rename_i e3
          exact (h.placeRead.ok e).placeWrite.ok e3
        · rename_i e3
          exact (h.placeRead.ok e).placeWrite.wait e3
        · rename_i e3
          exact (h.placeRead.ok e).placeWrite.stall e3
        · rename_i e3
          exact (h.placeRead.ok e).placeWrite.fail e3
    · exact h.placeRead

theorem MemWf.atomicAtHome {s : State} {k : Nat} {u : Unfin} {op : AtomicOp} {pl : Place} {b c : Dword} {n : Nat} (h
    : MemWf s) :
    MemWf (s.atomicAtHome k u op pl b c n) := by
  unfold State.atomicAtHome
  split
  · exact h
  · refine MemWf.atHome h ?_
    intro s2 h2
    refine MemWf.homeGot h2 h2.amo ?_
    intro a s3 h3
    refine MemWf.finishUnfin ?_
    split
    · exact MemWf.ite h3.watchAtomic h3
    · exact h3

theorem MemWf.waitAtHome {s : State} {k : Nat} {u : Unfin} {pl : Place} {v : Word} (h : MemWf s) :
    MemWf (s.waitAtHome k u pl v) :=
  MemWf.ite h.trapUnfin (h.homeGot h.placeRead (fun _ _ h2 => MemWf.ite h2.finishUnfin h2))

theorem MemWf.spawnAtHome {s : State} {k : Nat} {u : Unfin} {tcb : Nat} (h : MemWf s) :
    MemWf (s.spawnAtHome k u tcb) := by
  unfold State.spawnAtHome
  split
  · exact h
  · split
    · split
      · exact h.trapUnfin
      · rename_i e2
        exact (h.deferSpawn.ok e2).finishUnfin
    · exact (MemWf.ite h.launchTask h).finishUnfin

theorem MemWf.joinAtDesk {s : State} {k : Nat} {u : Unfin} {id cnt : Nat} (h : MemWf s) :
    MemWf (s.joinAtDesk k u id cnt) := by
  unfold State.joinAtDesk
  split
  · exact h
  · split
    · exact h.trapUnfin
    · split
      · exact MemWf.ite h.updClerk (MemWf.ite h.trapUnfin h.updClerk.joinCohort)
      · exact h.updClerk.joinCohort

theorem MemWf.answer {k : Nat} {r : Dword × State} (h : MemWf r.2) : MemWf (State.answer k r) :=
  h.finishUnfin

theorem MemWf.checkUnfin {s : State} {k : Nat} {u : Unfin} (h : MemWf s) : MemWf (s.checkUnfin k u) := by
  unfold State.checkUnfin
  dsimp only
  split
  · exact h
  · split
    · exact h
    · rename_i e
      exact MemWf.ite (h.updClerk.reissue.some e).updClerk (h.updClerk.reissue.some e).updClerk

theorem MemWf.performClerk {s : State} {k : Nat} (h : MemWf s) : MemWf (s.performClerk k) := by
  unfold State.performClerk
  split
  · exact h
  · split
    · exact h.checkUnfin
    · split
      · exact h.loadAtHome
      · exact h.loadAtHome
      · exact h.storeAtHome
      · exact h.waitAtHome
      · exact h.spawnAtHome
      · exact h.joinAtDesk
      · exact h.answer
      · exact h.tagInsert.answer
      · exact MemWf.ite h h.bindOp.answer
      · exact h.unbindOp.answer
      · exact h

theorem MemWf.performStep {s : State} {r : ReqRef} {i : Instr} (h : MemWf s) : MemWf (s.performStep r i) := by
  unfold State.performStep
  split
  · exact MemWf.ite h.performClerk h
  · exact MemWf.ite h.reqPerform h

theorem MemWf.execAccessPerform {r : ReqRef} {s : State} (h : MemWf s) : NextWf (execAccessPerform r s) :=
  h.performStep

theorem MemWf.execBankAccess {r : ReqRef} {s : State} (h : MemWf s) : NextWf (execBankAccess r s) :=
  h.performStep

theorem MemWf.execCompressedTileAccess {r : ReqRef} {s : State} (h : MemWf s) :
    NextWf (execCompressedTileAccess r s) :=
  h.performStep

theorem MemWf.armAt {s : State} {pa cnt : Nat} (h : MemWf s) : MemWf (s.armAt pa cnt).2 := by
  unfold State.armAt
  dsimp only
  split
  · exact h
  · exact h.tcbSet

theorem MemWf.rlsAt {s : State} {key : TaskKey} {pa : Nat} (h : MemWf s) : MemWf (s.rlsAt key pa).2 :=
  h.decrementAt

theorem MemWf.tcbAtHome {s : State} {k : Nat} {u : Unfin} {pl : Place} {act : Nat → Dword × State} (h : MemWf s) (h2
    : ∀ (a : Nat), MemWf (act a).2) :
    MemWf (s.tcbAtHome k u pl act) :=
  MemWf.ite h.trapUnfin (MemWf.ite h.trapUnfin (MemWf.ite h.eccHit.trapUnfin (h2 _).finishUnfin))

theorem MemWf.execAtomicPerform {r : ReqRef} {s : State} (h : MemWf s) : NextWf (execAtomicPerform r s) := by
  unfold Machine.execAtomicPerform
  split
  · split
    · exact h
    · split
      · exact h
      · split
        · exact h.atomicAtHome
        · exact h.tcbAtHome (fun _ => h.armAt)
        · exact h.tcbAtHome (fun _ => h.rlsAt)
        · exact h
  · exact MemWf.ite h.reqPerform h

theorem MemWf.xbankAtHome {s : State} {k : Nat} {u : Unfin} {w : Nat} (h : MemWf s) :
    MemWf (s.xbankAtHome k u w) := by
  unfold State.xbankAtHome
  split
  · rename_i e
    exact (h.xfLoans.fault e).trapUnfin
  · rename_i e
    exact (h.xfLoans.stall e).trapUnfin
  · rename_i e
    exact h.xfLoans.wait e
  · rename_i e
    split
    · exact (h.xfLoans.ok e).trapUnfin
    · split
      · exact (h.xfLoans.ok e).eccHit.trapUnfin
      · split
        · exact (h.xfLoans.ok e).trapUnfin
        · rename_i e2
          exact ((h.xfLoans.ok e).xfPerform.ok e2).dropUnfin

theorem MemWf.execBankTransform {r : ReqRef} {s : State} (h : MemWf s) : NextWf (execBankTransform r s) := by
  unfold Machine.execBankTransform
  split
  · split
    · exact h
    · split
      · exact h
      · split
        · exact h.xbankAtHome
        · exact h
  · exact MemWf.ite h.reqPerform h

theorem MemWf.execPageLayoutDone {t : BitVec 6} {s : State} (h : MemWf s) : NextWf (execPageLayoutDone t s) :=
  h.layoutDone

theorem MemWf.tdelAt {s : State} {k a : Nat} (h : MemWf s) : MemWf (s.tdelAt k a) := by
  unfold State.tdelAt
  split
  · exact h.finishUnfin
  · exact MemWf.ite h.setTag.finishUnfin h

theorem MemWf.execTdelPerform {k : Nat} {s : State} (h : MemWf s) : NextWf (execTdelPerform k s) := by
  unfold Machine.execTdelPerform
  split
  · exact h
  · split
    · exact h
    · split
      · exact h.tdelAt
      · exact h

theorem MemWf.requestAtHome {s : State} {k : Nat} {u : Unfin} {home : Place} {excl : Bool} (h : MemWf s) :
    MemWf (s.requestAtHome k u home excl) := by
  unfold State.requestAtHome
  split
  · exact h
  · exact MemWf.ite h.updClerk.trapUnfin (MemWf.ite h.eccHit.updClerk.trapUnfin
        (MemWf.ite h.updClerk.trapUnfin h.updClerk.objRequest))

theorem MemWf.execObjectRequest {q : ObjectReq} {s : State} (h : MemWf s) : NextWf (execObjectRequest q s) := by
  unfold Machine.execObjectRequest
  split
  · split
    · exact h
    · split
      · exact h
      · split
        · exact h.requestAtHome
        · exact h
  · exact NextWf.ite h (NextWf.ite h.eccHit (NextWf.ite h h.objRequest))

theorem MemWf.execObjectRelease {q : ObjectRel} {s : State} (h : MemWf s) : NextWf (execObjectRelease q s) := by
  unfold Machine.execObjectRelease
  split
  · split
    · exact h
    · split
      · exact h
      · split
        · exact NextWf.ite h.eccHit.trapUnfin h.objRelease.updClerk.dropUnfin
        · exact h
  · exact NextWf.ite h (NextWf.ite h.eccHit (NextWf.ite h h.objRelease))

theorem MemWf.holdTimeout {s : State} (h : MemWf s) : MemWf s.holdTimeout := by
  unfold State.holdTimeout
  dsimp only
  split
  · exact h
  · rename_i e
    split
    · exact MemWf.ite (h.clerkTurn.ok e).trapInstr h
    · split
      · exact MemWf.ite h (h.clerkTurn.ok e).trapInstr
      · exact h
    · exact h

theorem MemWf.unitTimeout {s : State} {j : Nat} (h : MemWf s) : MemWf (s.unitTimeout j) := by
  unfold State.unitTimeout
  split
  · split
    · exact h.portFault
    · exact h
  · split
    · split
      · exact h.portFault
      · exact h
    · split
      · split
        · exact h.meFault
        · exact h
      · split
        · split
          · exact h.tmuFault
          · exact h
        · exact MemWf.ite h.ceTimeout h

theorem MemWf.execMemoryTimeout {r : ReqRef} {s : State} (h : MemWf s) : NextWf (execMemoryTimeout r s) := by
  unfold Machine.execMemoryTimeout
  split
  · split
    · exact h.holdTimeout
    · exact NextWf.ite h h.trapUnfin
  · split
    · exact h.unitTimeout
    · split
      · exact h.reqFail
      · exact h.reqFail
      · exact MemWf.ite h h.reqFail
      · exact h

/-! ### Branches and jumps -/

theorem MemWf.branchOp {taken : Dword → Dword → Bool} {a b : Reg} {off : BitVec 14} {s : State} (h : MemWf s) :
    NextWf (branchOp taken a b off s) :=
  NextWf.ite h.setPc h.advance

theorem MemWf.execBeq {a b : Reg} {off : BitVec 14} {s : State} (h : MemWf s) : NextWf (execBeq a b off s) :=
  h.branchOp

theorem MemWf.execBne {a b : Reg} {off : BitVec 14} {s : State} (h : MemWf s) : NextWf (execBne a b off s) :=
  h.branchOp

theorem MemWf.execBlt {a b : Reg} {off : BitVec 14} {s : State} (h : MemWf s) : NextWf (execBlt a b off s) :=
  h.branchOp

theorem MemWf.execBge {a b : Reg} {off : BitVec 14} {s : State} (h : MemWf s) : NextWf (execBge a b off s) :=
  h.branchOp

theorem MemWf.execBltu {a b : Reg} {off : BitVec 14} {s : State} (h : MemWf s) : NextWf (execBltu a b off s) :=
  h.branchOp

theorem MemWf.execBgeu {a b : Reg} {off : BitVec 14} {s : State} (h : MemWf s) : NextWf (execBgeu a b off s) :=
  h.branchOp

theorem MemWf.execJal {d : Reg} {imm : BitVec 19} {s : State} (h : MemWf s) : NextWf (execJal d imm s) :=
  h.setReg.setPc

theorem MemWf.execJalr {d a : Reg} {imm : BitVec 14} {s : State} (h : MemWf s) : NextWf (execJalr d a imm s) :=
  NextWf.ite h.trapInstr (NextWf.ite h.trapInstr h.setReg.setPc)

/-! ### Floating point -/

theorem MemWf.fpOp2 {i : Instr} {f : Rnd → Nat → Nat → Nat × FFlags} {d a b : Reg} {s : State} (h : MemWf s) :
    NextWf (fpOp2 i f d a b s) :=
  h.finishFp

theorem MemWf.fpOp1 {i : Instr} {f : Rnd → Nat → Nat × FFlags} {d a : Reg} {s : State} (h : MemWf s) :
    NextWf (fpOp1 i f d a s) :=
  h.finishFp

theorem MemWf.fpCmp {i : Instr} {f : Nat → Nat → Bool × FFlags} {d a b : Reg} {s : State} (h : MemWf s) :
    NextWf (fpCmp i f d a b s) :=
  h.finishFp

theorem MemWf.execFadd {d a b : Reg} {s : State} (h : MemWf s) : NextWf (execFadd d a b s) :=
  h.fpOp2

theorem MemWf.execFsub {d a b : Reg} {s : State} (h : MemWf s) : NextWf (execFsub d a b s) :=
  h.fpOp2

theorem MemWf.execFmul {d a b : Reg} {s : State} (h : MemWf s) : NextWf (execFmul d a b s) :=
  h.fpOp2

theorem MemWf.execFdiv {d a b : Reg} {s : State} (h : MemWf s) : NextWf (execFdiv d a b s) :=
  h.fpOp2

theorem MemWf.execFmin {d a b : Reg} {s : State} (h : MemWf s) : NextWf (execFmin d a b s) :=
  h.fpOp2

theorem MemWf.execFmax {d a b : Reg} {s : State} (h : MemWf s) : NextWf (execFmax d a b s) :=
  h.fpOp2

theorem MemWf.execFeq {d a b : Reg} {s : State} (h : MemWf s) : NextWf (execFeq d a b s) :=
  h.fpCmp

theorem MemWf.execFlt {d a b : Reg} {s : State} (h : MemWf s) : NextWf (execFlt d a b s) :=
  h.fpCmp

theorem MemWf.execFle {d a b : Reg} {s : State} (h : MemWf s) : NextWf (execFle d a b s) :=
  h.fpCmp

theorem MemWf.execFma {d a b : Reg} {s : State} (h : MemWf s) : NextWf (execFma d a b s) :=
  h.finishFp

theorem MemWf.execFsqrt {d a : Reg} {s : State} (h : MemWf s) : NextWf (execFsqrt d a s) :=
  h.fpOp1

theorem MemWf.execFcvtF32I64 {d a : Reg} {s : State} (h : MemWf s) : NextWf (execFcvtF32I64 d a s) :=
  h.fpOp1

theorem MemWf.execFcvtI64F32 {d a : Reg} {s : State} (h : MemWf s) : NextWf (execFcvtI64F32 d a s) :=
  h.fpOp1

theorem MemWf.execFcvtBf16F32 {d a : Reg} {s : State} (h : MemWf s) : NextWf (execFcvtBf16F32 d a s) :=
  h.fpOp1

theorem MemWf.execFcvtF32Bf16 {d a : Reg} {s : State} (h : MemWf s) : NextWf (execFcvtF32Bf16 d a s) :=
  h.fpOp1

theorem MemWf.execFclass {d a : Reg} {s : State} (h : MemWf s) : NextWf (execFclass d a s) :=
  h.finish

theorem MemWf.execFabs {d a : Reg} {s : State} (h : MemWf s) : NextWf (execFabs d a s) :=
  h.finish

theorem MemWf.execFneg {d a : Reg} {s : State} (h : MemWf s) : NextWf (execFneg d a s) :=
  h.finish

/-! ### Integer forms -/

theorem MemWf.intOp {f : Dword → Dword → Dword} {d a b : Reg} {s : State} (h : MemWf s) : NextWf (intOp f d a b s) :=
  h.finish

theorem MemWf.intOp1 {f : Dword → Dword} {d a : Reg} {s : State} (h : MemWf s) : NextWf (intOp1 f d a s) :=
  h.finish

theorem MemWf.divOp {i : Instr} {f : Dword → Dword → Dword} {d a b : Reg} {s : State} (h : MemWf s) :
    NextWf (divOp i f d a b s) :=
  NextWf.ite h.trapInstr h.finish

theorem MemWf.execAdd {d a b : Reg} {s : State} (h : MemWf s) : NextWf (execAdd d a b s) :=
  h.intOp

theorem MemWf.execSub {d a b : Reg} {s : State} (h : MemWf s) : NextWf (execSub d a b s) :=
  h.intOp

theorem MemWf.execMul {d a b : Reg} {s : State} (h : MemWf s) : NextWf (execMul d a b s) :=
  h.intOp

theorem MemWf.execMulh {d a b : Reg} {s : State} (h : MemWf s) : NextWf (execMulh d a b s) :=
  h.intOp

theorem MemWf.execMulhu {d a b : Reg} {s : State} (h : MemWf s) : NextWf (execMulhu d a b s) :=
  h.intOp

theorem MemWf.execAnd {d a b : Reg} {s : State} (h : MemWf s) : NextWf (execAnd d a b s) :=
  h.intOp

theorem MemWf.execOr {d a b : Reg} {s : State} (h : MemWf s) : NextWf (execOr d a b s) :=
  h.intOp

theorem MemWf.execXor {d a b : Reg} {s : State} (h : MemWf s) : NextWf (execXor d a b s) :=
  h.intOp

theorem MemWf.execAndn {d a b : Reg} {s : State} (h : MemWf s) : NextWf (execAndn d a b s) :=
  h.intOp

theorem MemWf.execOrn {d a b : Reg} {s : State} (h : MemWf s) : NextWf (execOrn d a b s) :=
  h.intOp

theorem MemWf.execSll {d a b : Reg} {s : State} (h : MemWf s) : NextWf (execSll d a b s) :=
  h.intOp

theorem MemWf.execSrl {d a b : Reg} {s : State} (h : MemWf s) : NextWf (execSrl d a b s) :=
  h.intOp

theorem MemWf.execSra {d a b : Reg} {s : State} (h : MemWf s) : NextWf (execSra d a b s) :=
  h.intOp

theorem MemWf.execRol {d a b : Reg} {s : State} (h : MemWf s) : NextWf (execRol d a b s) :=
  h.intOp

theorem MemWf.execRor {d a b : Reg} {s : State} (h : MemWf s) : NextWf (execRor d a b s) :=
  h.intOp

theorem MemWf.execMin {d a b : Reg} {s : State} (h : MemWf s) : NextWf (execMin d a b s) :=
  h.intOp

theorem MemWf.execMax {d a b : Reg} {s : State} (h : MemWf s) : NextWf (execMax d a b s) :=
  h.intOp

theorem MemWf.execMinu {d a b : Reg} {s : State} (h : MemWf s) : NextWf (execMinu d a b s) :=
  h.intOp

theorem MemWf.execMaxu {d a b : Reg} {s : State} (h : MemWf s) : NextWf (execMaxu d a b s) :=
  h.intOp

theorem MemWf.execSeq {d a b : Reg} {s : State} (h : MemWf s) : NextWf (execSeq d a b s) :=
  h.intOp

theorem MemWf.execSne {d a b : Reg} {s : State} (h : MemWf s) : NextWf (execSne d a b s) :=
  h.intOp

theorem MemWf.execSlt {d a b : Reg} {s : State} (h : MemWf s) : NextWf (execSlt d a b s) :=
  h.intOp

theorem MemWf.execSltu {d a b : Reg} {s : State} (h : MemWf s) : NextWf (execSltu d a b s) :=
  h.intOp

theorem MemWf.execSle {d a b : Reg} {s : State} (h : MemWf s) : NextWf (execSle d a b s) :=
  h.intOp

theorem MemWf.execSleu {d a b : Reg} {s : State} (h : MemWf s) : NextWf (execSleu d a b s) :=
  h.intOp

theorem MemWf.execDiv {d a b : Reg} {s : State} (h : MemWf s) : NextWf (execDiv d a b s) :=
  h.divOp

theorem MemWf.execDivu {d a b : Reg} {s : State} (h : MemWf s) : NextWf (execDivu d a b s) :=
  h.divOp

theorem MemWf.execRem {d a b : Reg} {s : State} (h : MemWf s) : NextWf (execRem d a b s) :=
  h.divOp

theorem MemWf.execRemu {d a b : Reg} {s : State} (h : MemWf s) : NextWf (execRemu d a b s) :=
  h.divOp

theorem MemWf.execClz {d a : Reg} {s : State} (h : MemWf s) : NextWf (execClz d a s) :=
  h.intOp1

theorem MemWf.execCtz {d a : Reg} {s : State} (h : MemWf s) : NextWf (execCtz d a s) :=
  h.intOp1

theorem MemWf.execPopc {d a : Reg} {s : State} (h : MemWf s) : NextWf (execPopc d a s) :=
  h.intOp1

theorem MemWf.execSext8 {d a : Reg} {s : State} (h : MemWf s) : NextWf (execSext8 d a s) :=
  h.intOp1

theorem MemWf.execSext16 {d a : Reg} {s : State} (h : MemWf s) : NextWf (execSext16 d a s) :=
  h.intOp1

theorem MemWf.execSext32 {d a : Reg} {s : State} (h : MemWf s) : NextWf (execSext32 d a s) :=
  h.intOp1

theorem MemWf.execZext32 {d a : Reg} {s : State} (h : MemWf s) : NextWf (execZext32 d a s) :=
  h.intOp1

theorem MemWf.execBswap {d a : Reg} {s : State} (h : MemWf s) : NextWf (execBswap d a s) :=
  h.intOp1

theorem MemWf.execAddi {d a : Reg} {imm : BitVec 14} {s : State} (h : MemWf s) : NextWf (execAddi d a imm s) :=
  h.intOp1

theorem MemWf.execAndi {d a : Reg} {imm : BitVec 14} {s : State} (h : MemWf s) : NextWf (execAndi d a imm s) :=
  h.intOp1

theorem MemWf.execOri {d a : Reg} {imm : BitVec 14} {s : State} (h : MemWf s) : NextWf (execOri d a imm s) :=
  h.intOp1

theorem MemWf.execXori {d a : Reg} {imm : BitVec 14} {s : State} (h : MemWf s) : NextWf (execXori d a imm s) :=
  h.intOp1

theorem MemWf.execSlti {d a : Reg} {imm : BitVec 14} {s : State} (h : MemWf s) : NextWf (execSlti d a imm s) :=
  h.intOp1

theorem MemWf.execSltui {d a : Reg} {imm : BitVec 14} {s : State} (h : MemWf s) : NextWf (execSltui d a imm s) :=
  h.intOp1

theorem MemWf.execSlli {d a : Reg} {n : BitVec 6} {s : State} (h : MemWf s) : NextWf (execSlli d a n s) :=
  h.intOp1

theorem MemWf.execSrli {d a : Reg} {n : BitVec 6} {s : State} (h : MemWf s) : NextWf (execSrli d a n s) :=
  h.intOp1

theorem MemWf.execSrai {d a : Reg} {n : BitVec 6} {s : State} (h : MemWf s) : NextWf (execSrai d a n s) :=
  h.intOp1

theorem MemWf.execLui {d : Reg} {imm : BitVec 19} {s : State} (h : MemWf s) : NextWf (execLui d imm s) :=
  h.finish

theorem MemWf.execLi {d : Reg} {lit : Word} {s : State} (h : MemWf s) : NextWf (execLi d lit s) :=
  h.finish

theorem MemWf.execLih {d : Reg} {lit : Word} {s : State} (h : MemWf s) : NextWf (execLih d lit s) :=
  h.finish

theorem MemWf.execAddli {d a : Reg} {lit : Word} {s : State} (h : MemWf s) : NextWf (execAddli d a lit s) :=
  h.finish

/-! ### Loads and stores -/

theorem MemWf.loadAt {s : State} {i : Instr} {w : LoadWidth} {d : Reg} {ea n : Nat} (h : MemWf s) :
    NextWf (s.loadAt i w d ea n) :=
  h.advance.issueLoad

theorem MemWf.storeAt {s : State} {i : Instr} {w : StoreWidth} {ea : Nat} {v : Dword} {n : Nat} (h : MemWf s) :
    NextWf (s.storeAt i w ea v n) :=
  h.advance.issueStore

theorem MemWf.execLd8 {d a : Reg} {imm : BitVec 14} {s : State} (h : MemWf s) : NextWf (execLd8 d a imm s) :=
  h.loadAt

theorem MemWf.execLd16 {d a : Reg} {imm : BitVec 14} {s : State} (h : MemWf s) : NextWf (execLd16 d a imm s) :=
  h.loadAt

theorem MemWf.execLd32 {d a : Reg} {imm : BitVec 14} {s : State} (h : MemWf s) : NextWf (execLd32 d a imm s) :=
  h.loadAt

theorem MemWf.execLd64 {d a : Reg} {imm : BitVec 14} {s : State} (h : MemWf s) : NextWf (execLd64 d a imm s) :=
  h.loadAt

theorem MemWf.execLds8 {d a : Reg} {imm : BitVec 14} {s : State} (h : MemWf s) : NextWf (execLds8 d a imm s) :=
  h.loadAt

theorem MemWf.execLds16 {d a : Reg} {imm : BitVec 14} {s : State} (h : MemWf s) : NextWf (execLds16 d a imm s) :=
  h.loadAt

theorem MemWf.execLds32 {d a : Reg} {imm : BitVec 14} {s : State} (h : MemWf s) : NextWf (execLds32 d a imm s) :=
  h.loadAt

theorem MemWf.execSt8 {a d : Reg} {imm : BitVec 14} {s : State} (h : MemWf s) : NextWf (execSt8 a d imm s) :=
  h.storeAt

theorem MemWf.execSt16 {a d : Reg} {imm : BitVec 14} {s : State} (h : MemWf s) : NextWf (execSt16 a d imm s) :=
  h.storeAt

theorem MemWf.execSt32 {a d : Reg} {imm : BitVec 14} {s : State} (h : MemWf s) : NextWf (execSt32 a d imm s) :=
  h.storeAt

theorem MemWf.execSt64 {a d : Reg} {imm : BitVec 14} {s : State} (h : MemWf s) : NextWf (execSt64 a d imm s) :=
  h.storeAt

theorem MemWf.execLdl {w : LoadWidth} {d a : Reg} {lit : Word} {s : State} (h : MemWf s) :
    NextWf (execLdl w d a lit s) :=
  h.loadAt

theorem MemWf.execStl {w : StoreWidth} {a d : Reg} {lit : Word} {s : State} (h : MemWf s) :
    NextWf (execStl w a d lit s) :=
  h.storeAt

theorem MemWf.execKmov {k : KReg} {a b : Reg} {s : State} (h : MemWf s) : NextWf (execKmov k a b s) :=
  h.setKreg.advance

theorem MemWf.execKld {k : KReg} {a : Reg} {s : State} (h : MemWf s) : NextWf (execKld k a s) :=
  h.advance.issueKld

theorem MemWf.execKst {k : KReg} {a : Reg} {s : State} (h : MemWf s) : NextWf (execKst k a s) :=
  h.advance.issueKst

/-! ### What happens outside the core -/

theorem MemWf.outsideJoin {s : State} {t : TaskKey} {id count : Nat} (h : MemWf s) :
    MemWf (s.outsideJoin t id count) := by
  unfold State.outsideJoin
  split
  · exact h
  · split
    · exact h
    · split
      · exact MemWf.ite h h.joinCohort
      · exact h.joinCohort

theorem MemWf.outsideLeave {s : State} {t : TaskKey} (h : MemWf s) : MemWf (s.outsideLeave t) :=
  MemWf.ite h.leaveCohort h

theorem MemWf.outsideCbar {s : State} {t : TaskKey} (h : MemWf s) : MemWf (s.outsideCbar t) := by
  unfold State.outsideCbar
  split
  · exact MemWf.ite h.updCohort h
  · exact h

theorem MemWf.outsideLoan {s : State} {t : TaskKey} {base len : Nat} (h : MemWf s) :
    MemWf (s.outsideLoan t base len) := by
  unfold State.outsideLoan
  split
  · exact h
  · exact MemWf.ite h h.updRec

theorem MemWf.outsideTouch {s : State} {t : TaskKey} {i : Nat} {write : Bool} (h : MemWf s) :
    MemWf (s.outsideTouch t i write) := by
  unfold State.outsideTouch
  split
  · split
    · split
      · rename_i e4
        exact h.touchDecl.ok e4
      · rename_i e4
        exact h.touchDecl.wait e4
      · exact h
    · exact h
  · exact h

theorem MemWf.outsideSpawn {s : State} {t : TaskKey} {tcb : Nat} (h : MemWf s) : MemWf (s.outsideSpawn t tcb) :=
  MemWf.ite h (MemWf.ite h.launchTask (MemWf.ite h h.updRec))

theorem MemWf.outsideTend {s : State} {t : TaskKey} (h : MemWf s) : MemWf (s.outsideTend t) := by
  unfold State.outsideTend
  split
  · exact h
  · exact h.endSteps.frame

theorem MemWf.outsideWrite {s : State} {key n v : Nat} (h : MemWf s) : MemWf (s.outsideWrite key n v) :=
  MemWf.ite h (MemWf.ite h.eccHit h.wr)

theorem MemWf.outsideStore {s : State} {key n v : Nat} (h : MemWf s) : MemWf (s.outsideStore key n v) :=
  MemWf.ite h h.outsideWrite

theorem MemWf.otherWrite {s : State} {t : TaskKey} {kind : AccKind} {va n : Nat} {act : Place → State → State} (h :
    MemWf s) (h2 : ∀ (a : Place) (t : State), MemWf t → MemWf (act a t)) :
    MemWf (s.otherWrite t kind va n act) := by
  unfold State.otherWrite
  dsimp only
  split
  · exact h
  · split
    · exact h
    · split
      · exact h
      · split
        · exact h
        · split
          · rename_i e3
            split
            · rename_i e4
              exact h2 _ _ ((h.touchOf.ok e3).undoLogOf.ok e4)
            · exact h.touchOf.ok e3
          · rename_i e3
            exact h.touchOf.wait e3
          · rename_i e3
            exact h.touchOf.fault e3
          · rename_i e3
            exact h.touchOf.stall e3

theorem MemWf.outsideTaskStore {s : State} {t : TaskKey} {va n v : Nat} (h : MemWf s) :
    MemWf (s.outsideTaskStore t va n v) := by
  unfold State.outsideTaskStore
  refine MemWf.otherWrite h ?_
  intro a s2 h2
  split
  · split
    · rename_i e
      exact h2.placeWrite.ok e
    · rename_i e
      exact h2.placeWrite.wait e
    · rename_i e
      exact h2.placeWrite.stall e
    · rename_i e
      exact h2.placeWrite.fail e
  · exact h2.outsideWrite

theorem MemWf.outsideAtomic {s : State} {t : TaskKey} {va n v : Nat} (h : MemWf s) :
    MemWf (s.outsideAtomic t va n v) := by
  unfold State.outsideAtomic
  split
  · exact h
  · refine MemWf.otherWrite h ?_
    intro a s2 h2
    split
    · exact h2
    · split
      · exact h2.eccHit
      · split
        · exact MemWf.ite h2.wr (MemWf.ite h2 h2.wr.watchAtomic)
        · exact h2.wr

theorem MemWf.niPut {s : State} {len : Nat} (h : MemWf s) : MemWf (s.niPut len) :=
  MemWf.ite h h.frame

theorem MemWf.niBytes {s : State} {n : Nat} (h : MemWf s) : MemWf (s.niBytes n) :=
  h

theorem MemWf.corrected {s : State} {w : Nat} (h : MemWf s) : MemWf (s.corrected w) :=
  h.updWing

theorem MemWf.poisonUnit {s : State} {key : Nat} (h : MemWf s) : MemWf (s.poisonUnit key) :=
  MemWf.ite h h.frame

theorem MemWf.unitError {s : State} {u : UnitRef} (h : MemWf s) : MemWf (s.unitError u) := by
  unfold State.unitError
  split
  · exact MemWf.ite h.eccHit.contain h.eccHit
  · exact MemWf.ite h.eccHit h.eccHit.portFault
  · exact MemWf.ite h.eccHit h.eccHit.portFault
  · exact h.eccHit.meFault
  · exact h.eccHit.meFault
  · exact h.eccHit.tmuFault
  · exact h

theorem MemWf.outsideStep {o : Outside} {s : State} (h : MemWf s) : MemWf (outsideStep o s) := by
  unfold Machine.outsideStep
  split
  · exact h
  · split
    · exact h.outsideJoin
    · exact h.outsideLeave
    · exact h.outsideCbar
    · exact h.outsideLoan
    · exact h.outsideTouch
    · exact h.outsideSpawn
    · exact h.outsideTend
    · exact h.outsideTaskStore
    · exact h.outsideAtomic
    · exact h.outsideStore
    · exact h.nvmeReadBad
    · exact h.niPut
    · exact h.niBytes
    · exact h.corrected
    · exact h.poisonUnit
    · exact h.unitError

/-! ### The round of the agents -/

theorem MemWf.refill {s : State} (h : MemWf s) : MemWf s.refill := by
  unfold State.refill
  split
  · exact h
  · exact h

theorem MemWf.execWatchdogExpiry {s : State} (h : MemWf s) : NextWf (execWatchdogExpiry s) :=
  MemWf.ite h.pendCause h

theorem MemWf.placeWord {s : State} {bs : List Byte} (h : MemWf s) : MemWf (s.placeWord bs) :=
  memWriteBytes_wf _ _ _ h

theorem MemWf.placeCommand {s : State} {w : Nat} (h : MemWf s) : MemWf (s.placeCommand w) :=
  h.placeWord.frame

/-! ### Every instruction -/

theorem MemWf.exec {i : Instr} {s : State} (h : MemWf s) : NextWf (exec i s) := by
  unfold Machine.exec
  split
  · exact h.execAdd
  · exact h.execSub
  · exact h.execMul
  · exact h.execMulh
  · exact h.execMulhu
  · exact h.execDiv
  · exact h.execDivu
  · exact h.execRem
  · exact h.execRemu
  · exact h.execAnd
  · exact h.execOr
  · exact h.execXor
  · exact h.execAndn
  · exact h.execOrn
  · exact h.execSll
  · exact h.execSrl
  · exact h.execSra
  · exact h.execRol
  · exact h.execRor
  · exact h.execMin
  · exact h.execMax
  · exact h.execMinu
  · exact h.execMaxu
  · exact h.execSeq
  · exact h.execSne
  · exact h.execSlt
  · exact h.execSltu
  · exact h.execSle
  · exact h.execSleu
  · exact h.execClz
  · exact h.execCtz
  · exact h.execPopc
  · exact h.execSext8
  · exact h.execSext16
  · exact h.execSext32
  · exact h.execZext32
  · exact h.execBswap
  · exact h.execFadd
  · exact h.execFsub
  · exact h.execFmul
  · exact h.execFdiv
  · exact h.execFsqrt
  · exact h.execFmin
  · exact h.execFmax
  · exact h.execFeq
  · exact h.execFlt
  · exact h.execFle
  · exact h.execFma
  · exact h.execFcvtF32I64
  · exact h.execFcvtI64F32
  · exact h.execFcvtBf16F32
  · exact h.execFcvtF32Bf16
  · exact h.execFclass
  · exact h.execFabs
  · exact h.execFneg
  · exact h.execAcq
  · exact h.execAcqs
  · exact h.execRel
  · exact h.execBind
  · exact h.execUnbind
  · exact h.execWaitw
  · exact h.execJoin
  · exact h.execLeave
  · exact h.execCbar
  · exact h.execLoan
  · exact h.execLstat
  · exact h.execSpawn
  · exact h.execArm
  · exact h.execRls
  · exact h.execTend
  · exact h.execTyield
  · exact h.execTself
  · exact h.execTage
  · exact h.execTlook
  · exact h.execTins
  · exact h.execTdel
  · exact h.execXbank
  · exact h.execIssue
  · exact h.execIssuex
  · exact h.execKmov
  · exact h.execKld
  · exact h.execKst
  · exact h.execCfgld
  · exact h.execCfgwait
  · exact h.execWbar
  · exact h.execHwait
  · exact h.execHalloc
  · exact h.execHfree
  · exact h.execMfs
  · exact h.execMts
  · exact h.execTrap
  · exact h.execTrapret
  · exact h.execTack
  · exact h.execHalt
  · exact h.execWfe
  · exact h.execNop
  · exact h.execBrk
  · exact h.execIfence
  · exact h.execFence
  · exact h.execAddi
  · exact h.execAndi
  · exact h.execOri
  · exact h.execXori
  · exact h.execSlli
  · exact h.execSrli
  · exact h.execSrai
  · exact h.execSlti
  · exact h.execSltui
  · exact h.execLui
  · exact h.execLd8
  · exact h.execLd16
  · exact h.execLd32
  · exact h.execLd64
  · exact h.execLds8
  · exact h.execLds16
  · exact h.execLds32
  · exact h.execSt8
  · exact h.execSt16
  · exact h.execSt32
  · exact h.execSt64
  · exact h.execBeq
  · exact h.execBne
  · exact h.execBlt
  · exact h.execBge
  · exact h.execBltu
  · exact h.execBgeu
  · exact h.execJal
  · exact h.execJalr
  · exact h.execAmoadd
  · exact h.execAmoand
  · exact h.execAmoor
  · exact h.execAmoxor
  · exact h.execAmomin
  · exact h.execAmomax
  · exact h.execAmominu
  · exact h.execAmomaxu
  · exact h.execAmoswap
  · exact h.execAmocas
  · exact h.execAmofadd
  · exact h.execLi
  · exact h.execLih
  · exact h.execAddli
  · exact h.execLdl
  · exact h.execStl
  · exact h.execSread
  · exact h.execSwrite
  · exact h.execSgather
  · exact h.execSscatter
  · exact h.execStile
  · exact h.execSsegt
  · exact h.execScfg
  · exact h.execSbar
  · exact h.execSend
  · exact h.execSclose
  · exact h.execSgateSetPlvl
  · exact h.execSgateGate
  · exact h.execSgateUngate
  · exact h.execSreq
  · exact h.execCchain
  · exact h.execCabort
  · exact h.execMload
  · exact h.execMswap
  · exact h.execMdense
  · exact h.execMseg
  · exact h.execMbatch
  · exact h.execMgather
  · exact h.execMdrain
  · exact h.execMzero
  · exact h.execMbankClaim
  · exact h.execMbankRelease
  · exact h.execMspill
  · exact h.execMfill
  · exact h.execMstat
  · exact h.execTmatch
  · exact h.execTmerge
  · exact h.execTlogsz
  · exact h.execTunmerge
  · exact h.execTcompose
  · exact h.execTsave
  · exact h.execTload
  · exact h.execTfree
  · exact h.execTstat
  · exact h.execAsyncResultWrite
  · exact h.execAsyncTrap
  · exact h.execWfeWake
  · exact h.execAccessPerform
  · exact h.execBankAccess
  · exact h.execAtomicPerform
  · exact h.execBankTransform
  · exact h.execCompressedTileAccess
  · exact h.execPageLayoutDone
  · exact h.execPageWalkEnd
  · exact h.execTdelPerform
  · exact h.execMemoryTimeout
  · exact h.execWatchdogExpiry
  · exact h.execHostRequest
  · exact h.execObjectRequest
  · exact h.execObjectRelease
  · exact h.execRecallRollback
  · exact h.execLaunch
  · exact h.execLaunchstRead
  · exact h.execDeskctlWrite
  · exact h.execDispatch
  · exact h.execQuantumPreempt
  · exact h.execPreemptSave
  · exact h.execPreemptionTimeout
  · exact h.execFaultend
  · exact h.execPartitionSwap
  · exact h.execPartitionSwapDone
  · exact h.execPartcurClearError
  · exact h.execCorerstDhalt
  · exact h.execTokenHop
  · exact h.execMapFire
  · exact h.execSfnFire
  · exact h.execRedFire
  · exact h.execSteerFire
  · exact h.execMergeFire
  · exact h.execCarryFire
  · exact h.execGenEmit
  · exact h.execMemFire
  · exact h.execMemResponse
  · exact h.execSegFire
  · exact h.execShufFire
  · exact h.execConvFire
  · exact h.execForkFire
  · exact h.execEndTokenAlign
  · exact h.execErrorEndPass
  · exact h.execBarrierAlign
  · exact h.execFeConfigApply
  · exact h.execFeGoLive
  · exact h.execFolioChange
  · exact h.execLaneEmitToken
  · exact h.execLaneAbsorbToken
  · exact h.execLaneCommandComplete
  · exact h.execHandleClaim
  · exact h.execSpctlUnseal
  · exact h.execMeAToken
  · exact h.execMePlaneToken
  · exact h.execMeProductCommit
  · exact h.execMeCommandComplete
  · exact h.execMesealEnd
  · exact h.execTmuInToken
  · exact h.execTmuCommandComplete
  · exact h.execTmsealEnd
  · exact h.execCeChainStart
  · exact h.execCeClearError
  · exact h.execCeAbort
  · exact h.execCeResume
  · exact h.execCeKick
  · exact h.execCopyRecordRead
  · exact h.execCopyHandleReady
  · exact h.execCopyRecordComplete
  · exact h.execCopyRecordStop
  · exact h.execCopyBoundaryStop
  · exact h.execXinvWrite
  · exact h.execXinvComplete
  · exact h.execXinvstatClearError
  · exact h.execCtxkillGo
  · exact h.execCtxkillDone
  · exact h.execCtxkillClearError
  · exact h.execTagcfgWrite
  · exact h.execCpdescWrite
  · exact h.execOwnreqRequest
  · exact h.execOwnreqClrerr
  · exact h.execOwnpass
  · exact h.execOwnershipGrant
  · exact h.execMasterLinkDown
  · exact h.execWpwrWrite
  · exact h.execClockChangeEffect
  · exact h.execPowerLimitStepDown
  · exact h.execAttestationRequest
  · exact h.execAttestationReportDone
  · exact h.execBootFirmwareCheck
  · exact h.execEccstatRead
  · exact h.execSpanFlitReceive
  · exact h.execSpanPortTrain
  · exact h.execNvmeWriteComplete
  · exact h.execNiMessageSend
  · exact h.execNiMessageDeliver
  · exact h.execControlRegisterWrite
  · exact h.execDebugInterfaceResume

/-! ### The step -/

theorem MemWf.clerkStep {s : State} (h : MemWf s) : NextWf (clerkStep s) := by
  unfold Machine.clerkStep
  split
  · rename_i e
    exact h.clerkTurn.error e
  · rename_i i t e
    have ht : MemWf t := h.clerkTurn.ok e
    have hx : NextWf (Machine.exec i (t.prepare i)) := ht.prepare.exec
    split
    · rename_i e2
      exact (hx.next e2).settle
    · trivial
    · trivial

theorem MemWf.agentStep {i : Instr} {s : State} (h : MemWf s) : NextWf (agentStep i s) :=
  NextWf.ite trivial (NextWf.ite h h.exec)

theorem NextWf.afterTurn {o : Host.Outcome State Fault Refusal} (h : NextWf o) : NextWf (afterTurn o) := by
  unfold Machine.afterTurn
  split
  · exact h.refill
  · exact trivial
  · exact trivial

theorem MemWf.innerStep {s : State} (h : MemWf s) : NextWf (innerStep s) := by
  unfold Machine.innerStep
  split
  · exact h.frame.tick.agentStep
  · exact h.frame.tick.clerkStep
  · exact h.tick.clerkStep.afterTurn

theorem MemWf.step {s : State} (h : MemWf s) : NextWf (step s) := by
  unfold Machine.step
  split
  · exact h.frame.tick.outsideStep
  · exact h.innerStep

theorem MemWf.withFetchWord {s : State} {nbits w : Nat} (h : MemWf s) : MemWf (s.withFetchWord nbits w) :=
  MemWf.ite h.placeCommand h.placeWord

end Sys2Proof.Machine

namespace Sys2Proof.Claims
open Sys2Proof.Machine

/-- Settles O59: each function of the model writes memory only through writes that keep its canonical form,
from the single write up to the step. -/
theorem memoryCanonicalKept : Obligations.MemoryCanonicalKept := by
  unfold Obligations.MemoryCanonicalKept
  intro s t h e
  exact (MemWf.step h).next e

end Sys2Proof.Claims
end

section
/-!
# Loads and stores performed at their homes (O39)

An access that is due goes on by the step of its place (`performStep_of_due`), the checks at its home let it through
(`atHome_of_passesHome`), and what is left is a read or a write of its place.
-/

namespace Sys2Proof.Claims
open Sys2Proof.Machine

/-! ### Bytes -/

theorem ofBytes_toBytes_memRead (m : Mem) (a n : Nat) : ofBytes (toBytes (memRead m a n) n) = memRead m a n := by
  induction n generalizing a with
  | zero => rfl
  | succ n ih =>
    have hb : (memGet m a).toNat < 256 := (memGet m a).isLt
    simp only [memRead, toBytes, ofBytes, BitVec.toNat_ofNat]
    rw [show ((memGet m a).toNat + 256 * memRead m (a + 1) n) / 256 = memRead m (a + 1) n by omega, ih]
    omega

theorem overlay_eq_of_unseen (s : State) {before : List Unfin} (key n v : Nat)
    (h : ∀ e ∈ before, e.work.seen = false) : overlay s before key n v = ofBytes (toBytes v n) := by
  unfold overlay
  generalize toBytes v n = bs
  induction before generalizing bs with
  | nil => rfl
  | cons e l ih =>
    have hl : ∀ e ∈ l, e.work.seen = false := fun x hx => h x (List.mem_cons_of_mem e hx)
    have he : e.work.seen = false := h e List.mem_cons_self
    rw [List.foldl_cons, ih hl]
    split
    · rename_i hw
      rw [hw] at he
      rw [if_neg (by simpa [Work.seen] using he)]
    · rfl

theorem overlay_memRead_of_unseen (s : State) {before : List Unfin} (m : Mem) (key n : Nat)
    (h : ∀ e ∈ before, e.work.seen = false) : overlay s before key n (memRead m key n) = memRead m key n := by
  rw [overlay_eq_of_unseen s key n _ h, ofBytes_toBytes_memRead]

theorem length_notifyFrom (s : State) (read : Place → Nat) (at_ : Place → Bool) (before l : List Unfin) :
    (notifyFrom s read at_ before l).length = l.length := by
  induction l generalizing before with
  | nil => rfl
  | cons u l ih => simp only [notifyFrom, List.length_cons, ih]

theorem wr_unfin_length (s : State) (key n v : Nat) :
    (s.wr key n v).core.clerk.unfin.length = s.core.clerk.unfin.length :=
  length_notifyFrom ..

/-! ### The step of an access and the checks at its home -/

theorem exec_stepAt (k : Nat) (pl : Place) (s : State) :
    exec (stepAt k pl) s = .next (s.performStep (.clerk k) (stepAt k pl)) := by
  cases pl <;> rfl

/-- The works that go on by the step of their place. -/
def AtPlace (w : Work) (pl : Place) : Prop :=
  (∃ x, w = .load x pl) ∨ w = .loadK pl ∨ ∃ n v, w = .store n pl v

theorem unfinStep_of_atPlace (k : Nat) {u : Unfin} {pl : Place} (hd : u.done = none) (hc : u.unchecked = false)
    (hw : AtPlace u.work pl) : unfinStep k u = some (stepAt k pl) := by
  have hs : placeStep (.clerk k) pl = stepAt k pl := by cases pl <;> rfl
  obtain ⟨x, hw⟩ | hw | ⟨n, v, hw⟩ := hw <;> simp [unfinStep, hd, hc, hw, hs]

/-- An access that is due, with a port to go out by, is performed by the step of its place. -/
theorem exec_stepAt_of_due {k : Nat} {u : Unfin} {s : State} {pl : Place} (hdue : Due s k u) (hport : s.hasPort u = true)
    (hw : AtPlace u.work pl) : exec (stepAt k pl) s = .next (s.performClerk k) := by
  obtain ⟨hu, hd, hc, hm⟩ := hdue
  have hgo : s.goesOn k (stepAt k pl) = true := by
    simp [State.goesOn, hu, unfinStep_of_atPlace k hd hc hw, hm, hport]
  rw [exec_stepAt, State.performStep, if_pos hgo]

/-- What is done at a home is done in the state that the checks there leave. -/
theorem atHome_of_passesHome {s t : State} {k n : Nat} {u : Unfin} {kind : AccKind} {pl : Place} {act : State → State}
    (hk : kind ≠ .fetch) (hp : PassesHome s t u kind n pl) : s.atHome k u kind n pl act = act t := by
  obtain ⟨hwin, hpage, -, a, ha, hwatch, ht⟩ := hp
  rw [State.atHome, hwin, hpage, ha]
  cases kind with
  | load => simp only [if_true] at ht; simp [hwatch, AccKind.writes, ht]
  | store => simp only [reduceCtorEq, if_false] at ht; simp [hwatch, AccKind.writes, ht]
  | atomic => simp only [reduceCtorEq, if_false] at ht; simp [hwatch, AccKind.writes, ht]
  | fetch => exact absurd rfl hk

theorem exec_load {k n : Nat} {u : Unfin} {s t : State} {pl : Place} {w : LoadWidth} (hdue : Due s k u)
    (hw : u.work = .load w pl) (hp : PassesHome s t u .load n pl) :
    exec (stepAt k pl) s = .next (s.loadAtHome k u pl w.bytes fun v => (w.extend v).setWidth 128) := by
  obtain ⟨-, -, hport, -⟩ := hp
  obtain ⟨hu, -, hc, -⟩ := id hdue
  rw [exec_stepAt_of_due hdue hport (.inl ⟨w, hw⟩), State.performClerk]
  simp [hu, hc, hw]

theorem exec_loadK {k n : Nat} {u : Unfin} {s t : State} {pl : Place} (hdue : Due s k u) (hw : u.work = .loadK pl)
    (hp : PassesHome s t u .load n pl) :
    exec (stepAt k pl) s = .next (s.loadAtHome k u pl 16 (BitVec.ofNat 128)) := by
  obtain ⟨-, -, hport, -⟩ := hp
  obtain ⟨hu, -, hc, -⟩ := id hdue
  rw [exec_stepAt_of_due hdue hport (.inr (.inl hw)), State.performClerk]
  simp [hu, hc, hw]

theorem exec_store {k n : Nat} {u : Unfin} {s t : State} {pl : Place} {v : Nat} (hdue : Due s k u)
    (hw : u.work = .store n pl v) (hp : PassesHome s t u .store n pl) :
    exec (stepAt k pl) s = .next (s.storeAtHome k u pl n v) := by
  obtain ⟨-, -, hport, -⟩ := hp
  obtain ⟨hu, -, hc, -⟩ := id hdue
  rw [exec_stepAt_of_due hdue hport (.inr (.inr ⟨n, v, hw⟩)), State.performClerk]
  simp [hu, hc, hw]

/-! ### Loads -/

section
variable {s t : State} {k n : Nat} {u : Unfin} {pl : Place} {ext : Nat → Qword} (hp : PassesHome s t u .load n pl)
include hp

theorem loadAtHome_ctrl {off : Nat} (hpl : pl = .ctrl off) :
    s.loadAtHome k u pl n ext = (t.ctrlRead off n).2.finishUnfin k (ext (t.ctrlRead off n).1) := by
  subst hpl
  rw [State.loadAtHome, atHome_of_passesHome (by decide) hp]

/-- Away from the control registers a load takes the bytes that its place reads, under the clerk's own stores, or
those stores alone where one holds all of it. -/
theorem loadAtHome_of_ne_ctrl (hpl : ∀ off, pl ≠ .ctrl off) :
    s.loadAtHome k u pl n ext =
      let seen (s : State) (v : Nat) : State :=
        s.finishUnfin k (ext (overlay s (t.core.clerk.unfin.take k) (pl.key s) n v))
      if t.covered (t.core.clerk.unfin.take k) u then seen t 0
      else t.homeGot k u (t.placeRead pl u.ea n) fun v s => seen s v := by
  rw [State.loadAtHome, atHome_of_passesHome (by decide) hp]
  cases pl with
  | ctrl off => exact absurd rfl (hpl off)
  | mem | peer | bank | own | page => rfl

theorem loadAtHome_covered (hpl : ∀ off, pl ≠ .ctrl off) (hc : t.covered (t.core.clerk.unfin.take k) u = true) :
    s.loadAtHome k u pl n ext =
      t.finishUnfin k (ext (overlay t (t.core.clerk.unfin.take k) (pl.key t) n 0)) := by
  rw [loadAtHome_of_ne_ctrl hp hpl]
  exact if_pos hc

end

theorem ByteHome.ne_ctrl {pl : Place} (h : ByteHome pl) (off : Nat) : pl ≠ .ctrl off := by
  rintro rfl
  simp [ByteHome] at h

theorem PlaceHolds.ne_ctrl {t : State} {pl : Place} {n v : Nat} (h : PlaceHolds t pl n v) (off : Nat) : pl ≠ .ctrl off := by
  obtain ⟨-, ⟨hb, -⟩ | ⟨c, p, o, rfl, -⟩ | ⟨o, rfl, -⟩⟩ := h
  · exact hb.ne_ctrl off
  · simp
  · simp

theorem PlaceHolds.eq_memRead {t : State} {pl : Place} {n v : Nat} (h : PlaceHolds t pl n v) (hb : ByteHome pl) :
    v = memRead t.mem (pl.key t) n := by
  obtain ⟨-, ⟨-, hv⟩ | ⟨c, p, off, rfl, -⟩ | ⟨off, rfl, -⟩⟩ := h
  · exact hv
  · simp [ByteHome] at hb
  · simp [ByteHome] at hb

theorem PlaceHolds.placeRead {t : State} {pl : Place} {n v : Nat} (h : PlaceHolds t pl n v) (va : Nat) :
    t.placeRead pl va n = .ok v t := by
  obtain ⟨hpoison, ⟨hb, rfl⟩ | ⟨c, p, off, rfl, hlock, hread⟩ | ⟨off, rfl, rfl⟩⟩ := h
  · obtain ⟨pa, rfl⟩ | ⟨m, pa, rfl⟩ | ⟨c, off, rfl⟩ := hb <;>
      simp only [State.placeRead, hpoison, State.rd]
  · rw [State.placeRead, hpoison]
    simp [hlock, hread]
  · rw [State.placeRead, hpoison]

theorem loadAtHome_of_placeHolds {s t : State} {k n v : Nat} {u : Unfin} {pl : Place} {ext : Nat → Qword}
    (hp : PassesHome s t u .load n pl) (hv : PlaceHolds t pl n v)
    (hc : t.covered (t.core.clerk.unfin.take k) u = false) :
    s.loadAtHome k u pl n ext =
      t.finishUnfin k (ext (overlay t (t.core.clerk.unfin.take k) (pl.key t) n v)) := by
  rw [loadAtHome_of_ne_ctrl hp hv.ne_ctrl, hv.placeRead]
  simp [hc, State.homeGot]

/-! ### Stores -/

/-- A store whose place takes the write leaves the state that the write gives, its instruction gone. -/
theorem storeAtHome_of_placeWrite {s t x : State} {k n v : Nat} {u : Unfin} {pl : Place}
    (hp : PassesHome s t u .store n pl) (hpl : ∀ off, pl ≠ .ctrl off) (hw : t.placeWrite pl u.ea n v = .ok () x) :
    s.storeAtHome k u pl n v = x.dropUnfin k := by
  rw [State.storeAtHome, atHome_of_passesHome (by decide) hp]
  cases pl with
  | ctrl off => exact absurd rfl (hpl off)
  | mem | peer | bank | own | page => simp only [hw, State.homeGot]

theorem ByteHome.placeWrite {t : State} {pl : Place} {va n v : Nat} (h : ByteHome pl)
    (ho : t.objProtected (pl.key t) n = false) (hpart : t.partPoisoned (pl.key t) n = false) :
    t.placeWrite pl va n v = .ok () (t.wr (pl.key t) n v) := by
  obtain ⟨pa, rfl⟩ | ⟨m, pa, rfl⟩ | ⟨c, off, rfl⟩ := h <;> simp [State.placeWrite, State.placePut, ho, hpart]

theorem placeWrite_page {t y : State} {c p off va n v : Nat} {bs : List Byte} (hn : n < 1024)
    (hlock : (t.pageAt c p).lock = false) (hpoison : t.placePoison (.page c p off) 1 = none)
    (hbs : t.tileRead c p (off / 1024) = some bs)
    (hy : t.tileWrite c p (off / 1024) (patch bs (off % 1024) n v) = some y) :
    t.placeWrite (.page c p off) va n v = .ok () y := by
  have hne : n ≠ 1024 := Nat.ne_of_lt hn
  simp [State.placeWrite, State.placePut, hlock, hne, hpoison, hbs, hy]

theorem placeWrite_own {t : State} {off va n v : Nat} (ho : t.ownStoreRefused off = false)
    (hpart : t.partPoisoned ((Place.own off).key t) n = false) :
    t.placeWrite (.own off) va n v = .ok () (t.ownWrite off n v) := by
  have hpart : t.partPoisoned (scratchKey t.coreId off) n = false := hpart
  simp [State.placeWrite, State.placePut, ho, hpart]

/-- Settles O39: an access that is due and passes the checks at its home reads or writes its place and finishes. -/
theorem accessesPerformed : Obligations.AccessesPerformed := by
  unfold Obligations.AccessesPerformed
  intro k u s t hdue
  refine ⟨fun w pl hw hp => ⟨fun v hv hc => ?_, fun hc hpl => ?_, fun off hpl => ?_⟩, fun pl v hw hp hv hc => ?_,
    fun n pl v hw hp => ⟨fun hb ho hpart hwf => ?_, fun c p off bs y hpl hn hlock hpoison hbs hy => ?_,
      fun off hpl ho hpart => ?_⟩⟩
  · have hgives := exec_load hdue hw hp
    rw [loadAtHome_of_placeHolds hp hv hc] at hgives
    refine ⟨hgives, fun hb hseen => ?_⟩
    rwa [hv.eq_memRead hb, overlay_memRead_of_unseen t t.mem _ _ hseen] at hgives
  · rw [exec_load hdue hw hp, loadAtHome_covered hp hpl hc]
  · rw [exec_load hdue hw hp, loadAtHome_ctrl hp hpl]
  · rw [exec_loadK hdue hw hp, loadAtHome_of_placeHolds hp hv hc]
  · refine ⟨(t.wr (pl.key t) n v).dropUnfin k, ?_, ?_, fun a ha => memGet_memWrite_other _ _ _ _ _ hwf ha,
      rfl, rfl, rfl, ?_⟩
    · rw [exec_store hdue hw hp, storeAtHome_of_placeWrite hp hb.ne_ctrl (hb.placeWrite ho hpart)]
    · rw [Nat.pow_mul]
      exact memRead_memWrite_same _ _ _ _ hwf
    · simp [State.dropUnfin, List.length_eraseIdx, wr_unfin_length]
  · subst hpl
    rw [exec_store hdue hw hp, storeAtHome_of_placeWrite hp (by simp) (placeWrite_page hn hlock hpoison hbs hy)]
  · subst hpl
    rw [exec_store hdue hw hp, storeAtHome_of_placeWrite hp (by simp) (placeWrite_own ho hpart)]

end Sys2Proof.Claims
end

section
/-!
# A task dispatched to its entry (O46)

With one task in the orders, DISPATCH is that task given to its core (`execDispatch_of_single`). Where no image is named,
the entry is the clerk as R11 and R319 give it, in a state that bank selection changes in memory and banks only
(`BanksMoved`).
-/

namespace Sys2Proof.Claims
open Sys2Proof.Machine

/-! ### The desk's orders -/

theorem length_insertReady (now period : Nat) (r : Ready) (l : List Ready) :
    (insertReady now period r l).length = l.length + 1 := by
  induction l with
  | nil => rfl
  | cons x t ih =>
    unfold insertReady
    split
    · rfl
    · simp [ih]

theorem length_order (s : State) (w : Nat) : (s.order w).length = (s.wing w).ready.length := by
  suffices ∀ (rs l : List Ready), (rs.foldl (fun l r => insertReady s.timer (s.wing w).period.toNat r l) l).length =
      l.length + rs.length from
    (this (s.wing w).ready []).trans (Nat.zero_add _)
  intro rs
  induction rs with
  | nil => simp
  | cons r rs ih =>
    intro l
    rw [List.foldl_cons, ih, length_insertReady, List.length_cons]
    omega

theorem order_eq_nil_iff (s : State) (w : Nat) : s.order w = [] ↔ (s.wing w).ready = [] := by
  rw [← List.length_eq_zero_iff, length_order, List.length_eq_zero_iff]

/-! ### What each part of DISPATCH leaves unchanged -/

theorem keepPromises_of_none_kept {s : State} {w : Nat} (h : ∀ x ∈ s.nextTask, s.freeCoreAt x.1 = false) :
    s.keepPromises w = s := by
  have hkept : s.nextTask.filter (fun x => x.1 / 20 == w && s.freeCoreAt x.1) = [] :=
    List.filter_eq_nil_iff.mpr fun x hx => by simp [h x hx]
  rw [State.keepPromises, hkept, List.foldl_nil]

theorem popOwn_of_no_coreFor {s : State} {w : Nat} (h : ∀ r, s.coreFor r w = none) (l : List Ready) :
    popOwn w l s = s := by
  induction l with
  | nil => rfl
  | cons r t ih => simpa only [popOwn, h r] using ih

theorem coreFor_of_no_free {s : State} (h : ∀ c, s.freeCoreAt c = false) (r : Ready) (w : Nat) :
    s.coreFor r w = none :=
  List.find?_eq_none.mpr fun c _ => by simp [h c]

theorem popOther_of_not_free {s : State} {w c : Nat} (h : s.freeCoreAt c = false) : s.popOther w c = s := by
  simp [State.popOther, h]

theorem popOther_of_orders_nil {s : State} {w c : Nat} (h : ∀ v, v ≠ w → s.order v = []) : s.popOther w c = s := by
  have hnil : ((List.range 8).flatMap fun v => if v == w then [] else s.order v) = [] :=
    List.flatMap_eq_nil_iff.mpr fun v _ => by
      by_cases hv : v = w
      · simp [hv]
      · simp [hv, h v hv]
  rw [State.popOther, hnil]
  split <;> rfl

/-- With no free core there is nothing for the desk to do (R152). -/
theorem execDispatch_of_no_free {s : State} (w : BitVec 3) (h : ∀ c, s.freeCoreAt c = false) :
    execDispatch w s = .next s := by
  rw [execDispatch, keepPromises_of_none_kept fun x _ => h x.1, popOwn_of_no_coreFor (coreFor_of_no_free h · _)]
  exact congrArg _ (List.foldl_fixed' (fun c => popOther_of_not_free (h _)) _)

/-- With no core kept for a task, the core for a task is the lowest free one for which it is eligible (R152). -/
theorem coreFor_of_find {s : State} {r : Ready} {w c : Nat} (hkeep : s.nextTask = [])
    (h : (List.range 20).find? (fun c => s.freeCoreAt (20 * w + c) && s.eligible r (20 * w + c)) = some c) :
    s.coreFor r w = some (20 * w + c) := by
  have hfind : (fun c => s.freeCoreAt c && s.eligible r c && s.promised r c) ∘ (20 * w + ·) =
      fun c => s.freeCoreAt (20 * w + c) && s.eligible r (20 * w + c) := by
    funext c
    simp [State.promised, hkeep]
  rw [State.coreFor, List.find?_map, hfind, h]
  rfl

/-- A task that stands alone in the orders goes to its core, and nothing is left for the other wings' cores. -/
theorem execDispatch_of_single {s : State} {w : BitVec 3} {r : Ready} {c : Nat} (hkeep : s.nextTask = [])
    (hord : s.order w.toNat = [r]) (hcore : s.coreFor r w.toNat = some c) (hwaits : s.startWaits r c = false)
    (hothers : ∀ v, v ≠ w.toNat → (s.dispatchTo r c).order v = []) :
    execDispatch w s = .next (s.dispatchTo r c) := by
  have hkept : s.keepPromises w.toNat = s := keepPromises_of_none_kept (by simp [hkeep])
  have hown : popOwn w.toNat [r] s = s.dispatchTo r c := by simp [popOwn, hcore, State.giveCore, hwaits]
  rw [execDispatch, hkept, hord, hown]
  exact congrArg _ (List.foldl_fixed' (fun c => popOther_of_orders_nil hothers) _)

/-! ### The task taken out of the orders -/

/-- A wing with a task taken out of its order. -/
def withoutTask (k : TaskKey) (g : Wing) : Wing := { g with ready := g.ready.filter fun x => !(x.key = k) }

/-- A task taken out of the desks' orders, with no core kept for it and none other kept on core `c`. -/
def takenOut (s : State) (k : TaskKey) (c : Nat) : State :=
  { s with
    wings := s.wings.map (withoutTask k)
    nextTask := s.nextTask.filter fun x => !(x.2 = k) && x.1 != c }

theorem takenOut_wing (s : State) (k : TaskKey) (c w : Nat) : (takenOut s k c).wing w = withoutTask k (s.wing w) :=
  List.getD_map s.wings Wing.reset (withoutTask k)

theorem takenOut_corePart (s : State) (k : TaskKey) (c x : Nat) : (takenOut s k c).corePart x = s.corePart x := by
  simp only [State.corePart, takenOut_wing, withoutTask]

theorem takenOut_inCxl (s : State) (k : TaskKey) (c pa : Nat) : (takenOut s k c).inCxl pa = s.inCxl pa := by
  simp only [State.inCxl, takenOut_wing, withoutTask]

theorem takenOut_leafFault (s : State) (k : TaskKey) (c : Nat) (ctx : BitVec 12) (e lvl : Nat) :
    (takenOut s k c).leafFault ctx e lvl = s.leafFault ctx e lvl := by
  simp only [State.leafFault, takenOut_corePart, takenOut_inCxl]
  rfl

theorem walkFrom_takenOut (s : State) (k : TaskKey) (c : Nat) (ctx : BitVec 12) (va tbl fuel : Nat) :
    walkFrom (takenOut s k c) ctx va tbl fuel = walkFrom s ctx va tbl fuel := by
  have hrd : ∀ key n, (takenOut s k c).rd key n = s.rd key n := fun _ _ => rfl
  induction fuel generalizing tbl with
  | zero => rfl
  | succ fuel ih => simp only [walkFrom, hrd, takenOut_leafFault, ih]

theorem takenOut_walk (s : State) (k : TaskKey) (c : Nat) (ctx : BitVec 12) (va : Nat) :
    (takenOut s k c).walk ctx va = s.walk ctx va := by
  simp only [State.walk, walkFrom_takenOut]
  rfl

/-- The translation of a TCB does not look at the orders. -/
theorem takenOut_tcbPa (s : State) (k : TaskKey) (c : Nat) (ctx : BitVec 12) (addr : Nat) :
    (takenOut s k c).tcbPa ctx addr = s.tcbPa ctx addr := by
  simp only [State.tcbPa, State.lookup, takenOut_walk]
  rfl

theorem order_nil_of_takenOut {s t : State} {v : Nat} {k : TaskKey} {c : Nat} (ht : t.wings = (takenOut s k c).wings)
    (h : s.order v = []) : t.order v = [] := by
  have hwing : t.wing v = withoutTask k (s.wing v) := by rw [State.wing, ht, ← State.wing, takenOut_wing]
  rw [order_eq_nil_iff] at h ⊢
  simp [hwing, withoutTask, h]

/-! ### The task given the core -/

/-- The state in which a task enters or goes on at core `c`: out of the orders, its TCB RUNNING, and the core occupied by it. -/
def givenCore (s : State) (r : Ready) (c pa : Nat) : State :=
  let s := (takenOut s r.key c).tcbSet pa 3 10 8 3
  let s : State := { s with occ := s.occ ++ [Occ.mk c r.key r.prio s.timer] }
  (s.updRec r.key fun x => { x with core := c }).memberRuns r.key true

theorem dispatchTo_of_entry {s : State} {r : Ready} {pa : Nat} (hpa : s.tcbPa r.key.ctx r.key.tcb = some pa)
    (hshadow : s.shadow.find? (fun e => e.1 = r.key) = none) :
    s.dispatchTo r s.coreId = (givenCore s r s.coreId pa).enterTask r pa := by
  have hpa' : (takenOut s r.key s.coreId).tcbPa r.key.ctx r.key.tcb = some pa := by rw [takenOut_tcbPa, hpa]
  unfold State.dispatchTo
  dsimp only
  split
  · rename_i h
    exact absurd (h.symm.trans hpa') (by simp)
  · rename_i pa' h
    obtain rfl : pa' = pa := Option.some.inj (h.symm.trans hpa')
    refine (if_neg (c := (s.coreId != s.coreId) = true) (by simp)).trans ?_
    split
    · rename_i e he
      exact absurd (he.symm.trans hshadow) (by simp)
    · rfl

/-- Every word of the TCB but the one that holds its STATE reads as before. -/
theorem givenCore_tcbRd {s : State} (r : Ready) (c pa : Nat) {i : Nat} (hwf : Memory.wf s.mem = true) (hi : i < 3) :
    (givenCore s r c pa).tcbRd pa i = s.tcbRd pa i :=
  State.rd_wr_other (takenOut s r.key c) (pa + 8 * 3) 8 _ (pa + 8 * i) 8 hwf (.inl (by omega))

/-! ### Bank selection -/

/-- `t` is `s` after accumulator banks have been spilled, filled or given to a context: only the engines, memory, the errors
known in it and the values that a `waitw` may have found there differ. -/
def BanksMoved (s t : State) : Prop :=
  ∃ m p l es, l.length = s.core.clerk.unfin.length ∧ t = { s with
    mem := m, poison := p, core := { s.core with mes := es, clerk := { s.core.clerk with unfin := l } } }

theorem BanksMoved.refl (s : State) : BanksMoved s s := ⟨_, _, _, _, rfl, rfl⟩

theorem BanksMoved.trans {s t u : State} (h : BanksMoved s t) (h' : BanksMoved t u) : BanksMoved s u := by
  obtain ⟨m, p, l, es, hl, rfl⟩ := h
  obtain ⟨m', p', l', es', hl', rfl⟩ := h'
  exact ⟨m', p', l', es', hl'.trans hl, rfl⟩

theorem BanksMoved.ite {s t u : State} {c : Prop} [Decidable c] (ht : BanksMoved s t) (hu : BanksMoved s u) :
    BanksMoved s (if c then t else u) := by
  split <;> assumption

theorem BanksMoved.keeps {s t : State} (h : BanksMoved s t) :
    t.wings = s.wings ∧ t.task = s.task ∧ t.preempting = s.preempting ∧ t.occ = s.occ ∧ t.core.ports = s.core.ports ∧
      t.core.tmu = s.core.tmu ∧ t.core.fab = s.core.fab := by
  obtain ⟨m, p, l, es, -, rfl⟩ := h
  exact ⟨rfl, rfl, rfl, rfl, rfl, rfl, rfl⟩

theorem banksMoved_updMe (s : State) (e : Nat) (f : Me → Me) : BanksMoved s (s.updMe e f) :=
  ⟨_, _, _, _, rfl, rfl⟩

theorem banksMoved_wrBytes (s : State) (key : Nat) (bs : List Byte) : BanksMoved s (s.wrBytes key bs) :=
  ⟨_, _, _, _, length_notifyFrom .., rfl⟩

theorem banksMoved_takeBank (s : State) (e : Nat) (j : Bool) (x : BitVec 12) (second : Bool) :
    BanksMoved s (s.takeBank e j x second) := by
  have hspill : BanksMoved s (s.spillOut e j) := by
    unfold State.spillOut
    dsimp only
    split
    · exact .refl s
    · exact (banksMoved_wrBytes ..).trans (banksMoved_updMe ..)
  exact hspill.trans (banksMoved_updMe ..)

theorem banksMoved_fillBank (s : State) (e : Nat) (j : Bool) (x : BitVec 12) (second : Bool) :
    BanksMoved s (s.fillBank e j x second) := by
  unfold State.fillBank
  split
  · exact banksMoved_updMe ..
  · exact .refl s

theorem banksMoved_selectBank (s : State) (x : BitVec 12) (fill second : Bool) (e : Nat) :
    BanksMoved s (s.selectBank x fill second e) := by
  unfold State.selectBank
  extract_lets owned take r u
  have htake : ∀ t j snd, BanksMoved t (take t j snd) := fun t j snd =>
    .ite ((banksMoved_takeBank ..).trans (banksMoved_fillBank ..)) (banksMoved_takeBank ..)
  have hr : BanksMoved s r.2 := by
    unfold r
    split
    · exact .refl s
    · split
      · exact .refl s
      · exact htake ..
  have hu : BanksMoved s u := .ite (hr.trans (htake ..)) hr
  exact hu.trans (banksMoved_updMe ..)

/-! ### The entry -/

theorem unpin_eq (s : State) (reqs : List Req) : ∃ tags, s.unpin reqs = { s with tags := tags } := by
  unfold State.unpin
  refine List.foldlRecOn reqs _ (motive := fun t : State => ∃ tags, t = { s with tags := tags }) ⟨s.tags, rfl⟩ ?_
  rintro _ ⟨tags, rfl⟩ q -
  split
  · exact ⟨_, rfl⟩
  · exact ⟨_, rfl⟩
  · exact ⟨_, rfl⟩

/-- A task entering the core, before its banks are selected: the clerk and the units as R11 and R319 give them. -/
def entering (s : State) (r : Ready) (pa : Nat) (tags : List (Nat × TagEntry)) : State :=
  { s with
    tags := tags, task := some r.key, preempting := none
    core := { s.core with
      clerk := Clerk.entered (s.tcbRd pa 0 % 2 ^ 48) (s.tcbRd pa 1 % 2 ^ 48) r.key.tcb (s.modl.ptvec.getD r.part.toNat 0)
      ports := List.replicate 16 Port.reset, mes := s.core.mes.map Me.entered, tmu := Tmu.reset
      fab := Fabric.noImage { s.core.fab with reqs := [], bars := [] } } }

/-- A task whose TCB names no image enters with no more than its banks selected. -/
theorem enterTask_of_no_image {s : State} {r : Ready} {pa : Nat} (himage : s.tcbRd pa 2 % 2 ^ 48 = 0) :
    ∃ tags u, BanksMoved (entering s r pa tags) u ∧ s.enterTask r pa = u.ranLast (s.taskCtx r.key) := by
  obtain ⟨tags, htags⟩ := unpin_eq s (s.core.fab.reqs.filter fun _ => true)
  have hdrop : s.dropReqs (fun _ => true) =
      { s with tags := tags, core := { s.core with fab := { s.core.fab with reqs := [] } } } := by
    rw [State.dropReqs, htags]
    simp [State.updFab]
  refine ⟨tags, _, (banksMoved_selectBank _ (s.taskCtx r.key) false false 0).trans
    (banksMoved_selectBank _ (s.taskCtx r.key) false false 1), ?_⟩
  unfold State.enterTask
  simp only [hdrop, himage, beq_self_eq_true, if_true]
  rfl

/-! ### The clerk at its entry -/

section
variable {entry arg tcb : Nat} {tvec : Dword}

theorem entered_reg_one : (Clerk.entered entry arg tcb tvec).reg 1 = BitVec.ofNat 64 arg := by
  refine (Clerk.reg_setReg_other _ 2 1 _ (by decide)).trans ?_
  exact Clerk.reg_setReg_same _ 1 _

theorem entered_reg_two : (Clerk.entered entry arg tcb tvec).reg 2 = BitVec.ofNat 64 tcb :=
  Clerk.reg_setReg_same _ 2 _

theorem entered_reg_other {d : Reg} (h1 : d ≠ 1) (h2 : d ≠ 2) : (Clerk.entered entry arg tcb tvec).reg d = 0 := by
  refine (Clerk.reg_setReg_other _ 2 d _ h2).trans ((Clerk.reg_setReg_other _ 1 d _ h1).trans ?_)
  simp [Clerk.reg, Clerk.reset, Vector.get]

theorem entered_present (d : Reg) : (Clerk.entered entry arg tcb tvec).present d = true := by
  have hd : d.toNat < 32 := d.isLt
  have hpres : (Clerk.entered entry arg tcb tvec).pres = BitVec.allOnes 32 := by simp [Clerk.entered, Clerk.reset]
  rw [Clerk.present, hpres, BitVec.getLsbD_allOnes]
  simp [hd]

theorem entered_pc : (Clerk.entered (entry % 2 ^ 48) arg tcb tvec).pc = BitVec.ofNat 48 entry &&& ~~~3 := by
  have hmod : BitVec.ofNat 48 (entry % 2 ^ 48) = BitVec.ofNat 48 entry :=
    BitVec.eq_of_toNat_eq (by simp only [BitVec.toNat_ofNat, Nat.mod_mod])
  rw [Clerk.entered, Clerk.setPc_pc, hmod]

theorem entered_unfin : (Clerk.entered entry arg tcb tvec).unfin = [] := by
  simp [Clerk.entered, Clerk.reset]

/-- In task mode, running, with the cause registers not frozen and nothing pending or held. -/
theorem entered_state :
    let c := Clerk.entered entry arg tcb tvec
    c.mode = .task ∧ c.run = .running ∧ c.frozen = false ∧ c.tvec = tvec ∧
      c.cmdbase = BitVec.ofNat 64 (entry / 2 ^ 21 * 2 ^ 21) ∧ c.pend = [] ∧ c.holds = [] := by
  simp [Clerk.entered, Clerk.reset]

end

/-- Bank selection leaves the entered clerk as it is. -/
theorem BanksMoved.clerk_of_entering {s u : State} {r : Ready} {pa : Nat} {tags : List (Nat × TagEntry)}
    (h : BanksMoved (entering s r pa tags) u) : u.core.clerk = (entering s r pa tags).core.clerk := by
  have hnone : (entering s r pa tags).core.clerk.unfin = [] := entered_unfin
  obtain ⟨m, p, l, es, hl, rfl⟩ := h
  rw [hnone, List.length_nil, List.length_eq_zero_iff, ← hnone] at hl
  rw [hl]

/-- A task whose TCB names no image, and of which no state is saved, given the modelled core: its clerk and units are as R11
and R319 give them, and it has left the orders. -/
theorem dispatchTo_entry {s : State} {r : Ready} {pa : Nat} (hpa : s.tcbPa r.key.ctx r.key.tcb = some pa)
    (hshadow : s.shadow.find? (fun e => e.1 = r.key) = none) (himage : s.tcbRd pa 2 % 2 ^ 48 = 0)
    (hwf : Memory.wf s.mem = true) :
    let t := s.dispatchTo r s.coreId
    t.core.clerk = Clerk.entered (s.tcbRd pa 0 % 2 ^ 48) (s.tcbRd pa 1 % 2 ^ 48) r.key.tcb
      (s.modl.ptvec.getD r.part.toNat 0) ∧
    t.wings = (takenOut s r.key s.coreId).wings ∧ t.task = some r.key ∧ t.preempting = none ∧
    t.occ = s.occ ++ [Occ.mk s.coreId r.key r.prio s.timer] ∧ t.core.ports = List.replicate 16 Port.reset ∧
    t.core.tmu = Tmu.reset ∧ t.core.fab.image = none := by
  have hword : ∀ i < 3, (givenCore s r s.coreId pa).tcbRd pa i = s.tcbRd pa i := fun i => givenCore_tcbRd r s.coreId pa hwf
  have himage' : (givenCore s r s.coreId pa).tcbRd pa 2 % 2 ^ 48 = 0 := by rw [hword 2 (by omega), himage]
  obtain ⟨tags, u, hu, henter⟩ := enterTask_of_no_image (r := r) himage'
  obtain ⟨hwings, htask, hpre, hocc, hports, htmu, hfab⟩ := hu.keeps
  rw [dispatchTo_of_entry hpa hshadow, henter]
  refine ⟨?_, hwings, htask, hpre, hocc, hports, htmu, congrArg Fabric.image hfab⟩
  refine hu.clerk_of_entering.trans ?_
  simp only [entering, hword 0 (by omega), hword 1 (by omega)]
  rfl

/-- Settles O46: without a free core DISPATCH does nothing, and a task that stands alone in the orders enters its core. -/
theorem taskEntry : Obligations.TaskEntry := by
  unfold Obligations.TaskEntry
  intro w r pa s free
  refine ⟨execDispatch_of_no_free w, ?_⟩
  intro hkeep hwaits hord hothers hfind hcore hpa hshadow himage hwf
  have hfor : s.coreFor r w.toNat = some s.coreId := by rw [coreFor_of_find hkeep hfind, hcore]
  obtain ⟨hclerk, hwings, htask, hpre, hocc, hports, htmu, hfab⟩ := dispatchTo_entry hpa hshadow himage hwf
  have hexec := execDispatch_of_single hkeep hord hfor hwaits fun v hv => order_nil_of_takenOut hwings (hothers v hv)
  generalize s.dispatchTo r s.coreId = t at *
  refine ⟨t, hexec, htask, hpre, ?_⟩
  simp only [State.reg, hclerk]
  obtain ⟨hmode, hrun, hfrozen, htvec, hcmdbase, hpend, hholds⟩ := entered_state (entry := s.tcbRd pa 0 % 2 ^ 48)
    (arg := s.tcbRd pa 1 % 2 ^ 48) (tcb := r.key.tcb) (tvec := s.modl.ptvec.getD r.part.toNat 0)
  exact ⟨entered_pc, entered_reg_one, entered_reg_two, fun d => entered_reg_other, entered_present, hmode, hrun, hfrozen,
    htvec, hcmdbase, hpend, entered_unfin, hholds, hports, htmu, hfab, _, by rw [hocc]; exact List.mem_concat_self, rfl, rfl⟩

end Sys2Proof.Claims
end

section
/-! # The machine after reset (O58) -/

namespace Sys2Proof.Claims
open Sys2Proof.Machine

/-- Settles O58: each wing, channel, handle and compressed page stands at its reset value, and so does every other field. -/
theorem resetState : Obligations.ResetState := by
  unfold Obligations.ResetState
  have hwings : ∀ g ∈ State.reset.wings, g = Wing.reset := fun _ => List.eq_of_mem_replicate
  have hhandles : ∀ h ∈ State.reset.core.handles, h = Handle.reset := fun _ => List.eq_of_mem_replicate
  have hpages : ∀ p ∈ State.reset.pages, p = CPage.reset := fun _ => List.eq_of_mem_replicate
  have hces : ∀ c ∈ State.reset.core.ces, c = Ce.reset := fun _ => List.eq_of_mem_replicate (n := 2)
  refine ⟨rfl, rfl, rfl, rfl, rfl, rfl, rfl, fun g hg => ?_, rfl, rfl, rfl, rfl, rfl, fun c hc => ?_, fun h hh => ?_,
    fun p hp => ?_, State.reset_wf, rfl⟩
  · rw [hwings g hg]
    exact ⟨rfl, rfl, rfl, rfl, rfl, rfl, rfl⟩
  · rw [hces c hc]
    exact ⟨rfl, rfl, rfl⟩
  · rw [hhandles h hh]
    rfl
  · rw [hpages p hp]
    exact ⟨rfl, rfl⟩

end Sys2Proof.Claims
end

section
/-!
# Steps of the banks, the tag table and the page walks (O41)

A step is taken where the clerk's instruction goes on by it (`goesOn_of_due`). A layout of a page ends in the writes of its
tiles, which leave every page as it is (`layOut_page`). A walk reads memory and the context table alone (`walk_eraseIdx`), and
where no request walks none is started (`startWalks_of_none_walking`).
-/

namespace Sys2Proof.Claims
open Sys2Proof.Machine

/-! ### Transforms and `tdel` -/

/-- An instruction that is due, with a port to go out by where it needs one, goes on by its step. -/
theorem goesOn_of_due {s : State} {k : Nat} {u : Unfin} {i : Instr} (hdue : Due s k u) (hstep : unfinStep k u = some i)
    (hport : s.hasPort u = true) : s.goesOn k i = true := by
  obtain ⟨hu, -, -, hm⟩ := hdue
  simp [State.goesOn, hu, hstep, hm, hport]

theorem exec_bankTransform_of_due {s : State} {k : Nat} {u : Unfin} {w : BitVec 128} (hdue : Due s k u)
    (hw : u.work = .xbank w) : exec (.bankTransform (.clerk k)) s = .next (s.xbankAtHome k u w.toNat) := by
  obtain ⟨hu, hd, hc, -⟩ := id hdue
  have hgo : s.goesOn k (.bankTransform (.clerk k)) = true :=
    goesOn_of_due hdue (by simp [unfinStep, hd, hc, hw]) (by simp [State.hasPort, hw, Work.place])
  show execBankTransform (.clerk k) s = _
  simp [execBankTransform, hgo, hu, hw]

theorem exec_tdelPerform_of_due {s : State} {k a : Nat} {u : Unfin} (hdue : Due s k u) (hw : u.work = .tag .del a) :
    exec (.tdelPerform k) s = .next (s.tdelAt k a) := by
  obtain ⟨hu, hd, hc, -⟩ := id hdue
  have hgo : s.goesOn k (.tdelPerform k) = true :=
    goesOn_of_due hdue (by simp [unfinStep, hd, hc, hw]) (by simp [State.hasPort, hw, Work.place])
  show execTdelPerform k s = _
  simp [execTdelPerform, hgo, hu, hw]

theorem xbankAtHome_of_performed {s t x : State} {k w : Nat} {u : Unfin} (hl : s.xfLoans s.taskMode w u.ea = .ok t)
    (hprot : t.xfProtected w = false) (hpois : t.xfPoisoned w = false) (hx : t.xfPerform w = .ok x) :
    s.xbankAtHome k u w = x.dropUnfin k := by
  simp [State.xbankAtHome, hl, hprot, hpois, hx]

/-! ### Layouts of compressed pages -/

theorem getD_updAt_same {α : Type} (l : List α) (k : Nat) (f : α → α) (d : α) (h : k < l.length) :
    (updAt l k f).getD k d = f (l.getD k d) := by
  induction l generalizing k with
  | nil => simp at h
  | cons x l ih =>
    cases k with
    | zero => rfl
    | succ k => exact ih k (Nat.lt_of_succ_lt_succ h)

/-- Writing tiles leaves the pages of the core as they are. -/
theorem pages_foldl_wrBytes {α : Type} (key : α → Nat) (bytes : α → List Byte) (l : List α) (s : State) :
    (l.foldl (fun s d => s.wrBytes (key d) (bytes d)) s).pages = s.pages ∧
      (l.foldl (fun s d => s.wrBytes (key d) (bytes d)) s).coreId = s.coreId := by
  induction l generalizing s with
  | nil => exact ⟨rfl, rfl⟩
  | cons d l ih => exact ih (s.wrBytes (key d) (bytes d))

theorem page_eq (s : State) (t : Nat) : s.page t = s.pages.getD t CPage.reset := by
  simp [State.page, State.pageAt]

/-- A page of this core that is laid out again is not locked any more, and has no layout under way (R50). -/
theorem layOut_page (s : State) (t i : Nat) (bs : List Byte) (h : t < s.pages.length) :
    ((s.layOut s.coreId t i bs).page t).lock = false ∧ ((s.layOut s.coreId t i bs).page t).grow = none := by
  rw [page_eq]
  simp only [State.layOut, pages_foldl_wrBytes, State.updPage, beq_self_eq_true, if_true]
  rw [getD_updAt_same _ _ _ _ h]
  exact ⟨rfl, rfl⟩

/-! ### Page walks -/

theorem walkFrom_eraseIdx (s : State) (k : Nat) (ctx : BitVec 12) (va tbl fuel : Nat) :
    walkFrom { s with walks := s.walks.eraseIdx k } ctx va tbl fuel = walkFrom s ctx va tbl fuel := by
  induction fuel generalizing tbl with
  | zero => rfl
  | succ fuel ih =>
    simp only [walkFrom, ih]
    rfl

/-- A walk reads memory and the context table alone. -/
theorem walk_eraseIdx (s : State) (k : Nat) (ctx : BitVec 12) (va : Nat) :
    State.walk { s with walks := s.walks.eraseIdx k } ctx va = s.walk ctx va := by
  simp only [State.walk, walkFrom_eraseIdx]
  rfl

theorem sentReq_stage (s : State) (q : Req) : (s.sentReq q).stage = q.stage := by
  unfold State.sentReq
  split
  · split <;> rfl
  · rfl

theorem startWalks_of_none_walking (s : State) (l : List Req) (h : ∀ q ∈ l, q.stage ≠ .walking) : startWalks s l = s := by
  induction l with
  | nil => rfl
  | cons q l ih =>
    have hq : q.stage ≠ .walking := h q List.mem_cons_self
    rw [startWalks]
    simp only [hq, decide_false, Bool.false_and, Bool.false_eq_true, if_false]
    exact ih fun x hx => h x (List.mem_cons_of_mem q hx)

/-- What a request does when a walk of its page ends well: it waits for its turn again. -/
def goneOn (q : Req) : Req := if q.stage = .walking then { q with stage := .waiting } else q

theorem goneOn_stage (q : Req) : (goneOn q).stage ≠ .walking := by
  unfold goneOn
  split
  · simp
  · assumption

/-- The requests of a state all of whose walking requests have gone on. -/
theorem sendReqs_none_walking (s : State) :
    ∀ q ∈ (s.updFab fun f => { f with reqs := f.reqs.map goneOn }).sendReqs.core.fab.reqs, q.stage ≠ .walking := by
  intro q hq
  obtain ⟨p, hp, rfl⟩ := List.mem_map.1 hq
  obtain ⟨r, -, rfl⟩ := List.mem_map.1 hp
  rw [sentReq_stage]
  exact goneOn_stage r

theorem updFab_reqs_congr {t : State} {f g : Req → Req} (h : ∀ q ∈ t.core.fab.reqs, f q = g q) :
    (t.updFab fun b => { b with reqs := b.reqs.map f }) = t.updFab fun b => { b with reqs := b.reqs.map g } := by
  simp only [State.updFab, List.map_congr_left h]

theorem inWalk_of_page {s : State} {w : Walk} {va : Nat} (hctx : w.ctx = s.ctx) (hva : va / 2 ^ 16 = w.page) :
    s.inWalk w s.ctx va = true := by
  simp only [State.inWalk, hctx, hva, decide_true, beq_self_eq_true, Bool.true_or, Bool.and_self]

theorem exec_pageWalkEnd_of_ok {s : State} {k : Nat} {w : Walk} {e : Tlb} (hw : s.walks[k]? = some w)
    (he : s.walk w.ctx (w.page * 2 ^ 16) = .ok e) (hctx : w.ctx = s.ctx)
    (hreqs : ∀ q ∈ s.core.fab.reqs, q.stage = .walking → q.va / 2 ^ 16 = w.page) :
    exec (.pageWalkEnd k) s = .next ((State.fill { s with walks := s.walks.eraseIdx k } e).updFab fun f => { f with
      reqs := f.reqs.map goneOn }).sendReqs := by
  show execPageWalkEnd k s = _
  rw [execPageWalkEnd]
  simp only [hw, walk_eraseIdx, he]
  rw [updFab_reqs_congr (g := goneOn), startWalks_of_none_walking _ _ (sendReqs_none_walking _)]
  intro q hq
  by_cases hs : q.stage = .walking
  · simp only [goneOn, hs, inWalk_of_page hctx (hreqs q hq hs), decide_true, Bool.and_self, if_true]
  · simp only [goneOn, hs, decide_false, Bool.false_and, Bool.false_eq_true, if_false]

/-- Settles O41: each step goes on by its own condition, and leaves what its operation leaves. -/
theorem bankAndTableSteps : Obligations.BankAndTableSteps := by
  unfold Obligations.BankAndTableSteps
  intro k u s t x p
  refine ⟨fun hdue => ⟨fun w hw hl hprot hpois hx => ?_, fun a hw => ?_⟩, fun g hg hp => ?_,
    fun w e hw he hctx hreqs => exec_pageWalkEnd_of_ok hw he hctx hreqs⟩
  · rw [exec_bankTransform_of_due hdue hw, xbankAtHome_of_performed hl hprot hpois hx]
  · rw [exec_tdelPerform_of_due hdue hw, State.tdelAt]
    refine ⟨fun ha => ?_, fun i ha hpin => ?_, fun i ha hpin => ?_⟩
    · rw [ha]
    · simp [ha, hpin]
    · simp [ha, hpin]
  · obtain ⟨hlock, hgrow⟩ := layOut_page s p.toNat g.1 g.2 hp
    exact ⟨s.layOut s.coreId p.toNat g.1 g.2, by
      show execPageLayoutDone p s = _
      simp [execPageLayoutDone, State.layoutDone, hg], hlock, hgrow⟩

end Sys2Proof.Claims
end

section
/-!
# A refused `bind` that fills a TLB (O23)

`bind` resolves its object before it looks for an overlap, and the state that it answers −4 in is the one that the object's
translation has left: a hit in the wing's TLB has filled the core's (log 131). The statement names the state before.
-/

namespace Sys2Proof.Claims
open Sys2Proof.Machine

/-- The task that runs. -/
def bindingTask : TaskKey := ⟨5, 0x20000⟩

/-- The page of the object at 0x10000: readable and writable, of type normal. -/
def objectPage : Tlb := ⟨5, 0x10000, 0x10000, 0x1000F⟩

/-- `bind` of the region [0, 64) to that object, issued. -/
def bindIssued : Unfin :=
  { op := 8, func := 3, w1 := 0, pc := 0x1000, kd := false, dest := 5, ea := 0x10000, b := 0, c := 64, canon := 0
    work := .bind 0x10000 0 64, done := none, port := none, lost := false, behind := false, unchecked := false }

/-- The region [0, 64) is bound to another object, and the object's page stands in the wing's TLB and not in the core's. -/
def rebinding : State :=
  State.updClerk { State.reset with
      task := some bindingTask, binds := [⟨5, 0, 0x10008, .mem 0x10008, 0, 64⟩], l2tlb := [objectPage] }
    fun c => { c with run := .running, pc := 0x1004, unfin := [bindIssued] }

/-- The object's word is at its page's physical address. -/
def objectWord : Res := ⟨.mem 0x10000, some objectPage⟩

theorem rebinding_objPlace : rebinding.objPlace 0x10000 = .ok objectWord := by decide

/-- The step answers −4 in the state whose TLBs the object's translation has filled. -/
theorem rebinding_fills :
    exec (.accessPerform (.clerk 0)) rebinding =
      .next ((rebinding.fillRes objectWord).finishUnfin 0 ((-4 : Dword).setWidth 128)) := by rfl

/-- Refutes O23: a `bind` that overlaps a bound region, whose object's page is in the wing's TLB alone, answers −4 in a
state whose core TLB has been filled, and not in the state before. -/
theorem not_bindings : ¬ Obligations.Bindings := by
  unfold Obligations.Bindings
  intro h
  obtain ⟨-, -, -, -, hdue⟩ := h 0 0 0 rebinding
  obtain ⟨hbind, -⟩ := hdue 0 bindIssued (by decide)
  obtain ⟨-, hshape⟩ := (hbind 0x10000 0 64 rfl).2 (by decide)
  obtain ⟨-, -, hallowed⟩ := hshape (by decide)
  obtain ⟨hoverlap, -⟩ := hallowed objectWord (.inl (by decide)) rebinding_objPlace
  have hunfilled := hoverlap ⟨_, ⟨List.mem_cons_self, rfl⟩, by decide, by decide⟩
  rw [rebinding_fills] at hunfilled
  injection hunfilled with hstate
  exact absurd (congrArg State.tlb hstate) (by decide)

end Sys2Proof.Claims
end

section
/-!
# Requests of the host (O43)

A request goes to its place where that resolves and is reached (`hostPlace_ok`), waits for a walk (`hostPlace_waits`), or is
refused by a fault, which leaves the state as it is (`hostPlace_refused`); what a read and a write do follows from these.
-/

namespace Sys2Proof.Claims
open Sys2Proof.Machine

theorem exec_hostRequest (q : HostReq) (s : State) : exec (.hostRequest q) s = execHostRequest q s := rfl

/-! ### While the firmware check has failed -/

theorem exec_hostRequest_of_bootstat {s : State} {q : HostReq} (hboot : s.modl.bootstat = true)
    (hq : ∀ m off wide, q ≠ .readCtrl m off wide) : exec (.hostRequest q) s = .next s := by
  rw [exec_hostRequest]
  cases q with
  | readCtrl m off wide => exact absurd rfl (hq m off wide)
  | writeCtrl m off wide v => simp only [execHostRequest, hboot, if_true]
  | readMem ctx va n => simp only [execHostRequest, hboot, if_true]
  | writeMem ctx va n v => simp only [execHostRequest, hboot, if_true]

/-! ### Writes of control registers -/

/-- Beside OWNREQ and OWNPASS an aligned register is the owner's to write (R335). -/
theorem masterWrite_of_owned {s : State} {m : BitVec 2} {off n : Nat} (v : Nat) (halign : off % n = 0)
    (hreq : off / 8 * 8 ≠ 0x140) (hpass : off / 8 * 8 ≠ 0x148) :
    s.masterWrite m off n v = if s.modl.owner = some m then (s.ctrlWrite off n v none).state s else s := by
  simp [State.masterWrite, halign, hreq, hpass]

/-! ### What the module acts on -/

section
variable {s : State} (hboot : s.modl.bootstat = false)
include hboot

theorem exec_writeCtrl (m : BitVec 2) (off : Nat) (wide : Bool) (v : Dword) :
    exec (.hostRequest (.writeCtrl m off wide v)) s = .next (s.masterWrite m off (if wide then 8 else 4) v.toNat) := by
  simp only [exec_hostRequest, execHostRequest, hboot, Bool.false_eq_true, if_false]

theorem exec_readMem (ctx : BitVec 12) (va n : Nat) :
    exec (.hostRequest (.readMem ctx va n)) s = .next (s.hostLoad ctx va n) := by
  simp only [exec_hostRequest, execHostRequest, hboot, Bool.false_eq_true, if_false]

theorem exec_writeMem (ctx : BitVec 12) (va n : Nat) (v : Dword) :
    exec (.hostRequest (.writeMem ctx va n v)) s = .next (s.hostStore ctx va n v.toNat) := by
  simp only [exec_hostRequest, execHostRequest, hboot, Bool.false_eq_true, if_false]

end

/-! ### Reads and writes of memory -/

section
variable {s : State} {ctx : BitVec 12} {va n : Nat}

theorem hostPlace_waits (kind : AccKind) (halign : va % n = 0) (hheld : s.walkHeld ctx va = true) :
    s.hostPlace ctx kind va n = .wait s := by
  simp [State.hostPlace, halign, hheld]

theorem hostPlace_ok {kind : AccKind} {r : Res} (halign : va % n = 0) (hheld : s.walkHeld ctx va = false)
    (hr : s.resolve ctx ⟨.fabric, kind, n, false⟩ va = .ok r) (hreach : s.reaches ctx r.pl va = true) :
    s.hostPlace ctx kind va n = .ok r.pl s := by
  simp [State.hostPlace, hostAcc, halign, hheld, hr, hreach]

theorem hostPlace_refused {kind : AccKind} {f : Flt} (halign : va % n = 0) (hheld : s.walkHeld ctx va = false)
    (hf : s.resolve ctx ⟨.fabric, kind, n, false⟩ va = .error f) : s.hostPlace ctx kind va n = f.got s := by
  simp [State.hostPlace, hostAcc, halign, hheld, hf]

/-- A fault as a party meets it is a stall or a failure, and in the state that met it. -/
theorem got_cases {α : Type} (f : Flt) (s : State) :
    (∃ a r l, (f.got s : Got α) = .stall a r l s) ∨ ∃ c a d, (f.got s : Got α) = .fail c a d s := by
  unfold Flt.got
  split
  · exact .inl ⟨_, _, _, rfl⟩
  · split
    · exact .inr ⟨_, _, _, rfl⟩
    · split <;> exact .inr ⟨_, _, _, rfl⟩

theorem hostLoad_of_refused {f : Flt} (h : s.hostPlace ctx .load va n = f.got s) :
    s.hostLoad ctx va n = { s with hostRead := none } := by
  obtain ⟨a, r, l, hg⟩ | ⟨c, a, d, hg⟩ := got_cases (α := Place) f s <;> simp only [State.hostLoad, h, hg]

end

/-- Settles O43: each request by the clause of its place, a master's write by whose the module is. -/
theorem hostRequests : Obligations.HostRequests := by
  unfold Obligations.HostRequests
  intro m off wide v ctx va n w q s
  refine ⟨rfl, exec_hostRequest_of_bootstat, fun hboot => ⟨fun halign hreq hpass => ⟨fun howner => ?_, fun howner => ?_⟩,
    fun hheld halign => ⟨?_, ?_⟩, fun hheld halign => ⟨fun r x t hr hreach hx => ?_, fun f hf => ?_,
      fun r t hr hreach ht => ?_⟩⟩, rfl, rfl⟩
  · rw [exec_writeCtrl hboot, masterWrite_of_owned _ halign hreq hpass, if_pos howner]
    rfl
  · rw [exec_writeCtrl hboot, masterWrite_of_owned _ halign hreq hpass, if_neg howner]
  · rw [exec_readMem hboot, State.hostLoad, hostPlace_waits _ halign hheld]
  · rw [exec_writeMem hboot, State.hostStore, hostPlace_waits _ halign hheld]
  · rw [exec_readMem hboot, State.hostLoad, hostPlace_ok halign hheld hr hreach]
    simp only [hx]
  · rw [exec_readMem hboot, hostLoad_of_refused (hostPlace_refused halign hheld hf)]
  · rw [exec_writeMem hboot, State.hostStore, hostPlace_ok halign hheld hr hreach]
    simp only [ht]

end Sys2Proof.Claims
end

section
/-!
# Writes of control registers by the owner (O44)

A control offset lies in the module block, in a wing's or in a core's (`ctrlAt_modl`, `ctrlAt_wing`, `ctrlAt_core`). A whole
write of a multiple of 8 gives its register the value itself (`merged_whole`), and goes to the block's own write.
-/

namespace Sys2Proof.Claims
open Sys2Proof.Machine

theorem exec_controlRegisterWrite (off : Nat) (wide : Bool) (v : Dword) (s : State) :
    exec (.controlRegisterWrite off wide v) s = .next ((s.ctrlWrite off (if wide then 8 else 4) v.toNat none).state s) := rfl

/-! ### Fields of a value -/

theorem bitsOf_eq (x hi lo : Nat) : bitsOf x hi lo = x / 2 ^ lo % 2 ^ (hi + 1 - lo) := by
  rw [bitsOf, Nat.shiftRight_eq_div_pow]

/-- An eight-byte write gives a register its whole value, whatever it held. -/
theorem merged_whole (off : Nat) (v : Dword) : (fun cur => merged cur off 8 v.toNat) = fun _ => v.toNat := by
  funext cur
  exact Nat.mod_eq_of_lt v.isLt

theorem ofNat_toNat_dword (v : Dword) : BitVec.ofNat 64 v.toNat = v := by
  rw [BitVec.ofNat_toNat, BitVec.setWidth_eq]

/-! ### Where an offset lies -/

theorem ctrlAt_modl {o : Nat} (ho : o < 0x1000_0000) : ctrlAt o = .modl o := by
  simp [ctrlAt, Nat.div_eq_of_lt ho, Nat.mod_eq_of_lt ho]

theorem ctrlAt_wing (w : Nat) {o : Nat} (ho : o < 0x80_0000) : ctrlAt (wingBlock w + o) = .wing w o := by
  have hdiv : (wingBlock w + o) / 0x1000_0000 = w + 1 := by unfold wingBlock; omega
  have hmod : (wingBlock w + o) % 0x1000_0000 = o := by unfold wingBlock; omega
  simp [ctrlAt, hdiv, hmod, ho]

theorem ctrlAt_core (c : Nat) {o : Nat} (ho : o < 0x80_0000) : ctrlAt (coreBlock c + o) = .core c o := by
  have hdiv : (coreBlock c + o) / 0x1000_0000 = c / 20 + 1 := by unfold coreBlock; omega
  have hmod : (coreBlock c + o) % 0x1000_0000 = (c % 20 + 1) * 0x80_0000 + o := by unfold coreBlock; omega
  have hblock : ((c % 20 + 1) * 0x80_0000 + o) / 0x80_0000 = c % 20 + 1 := by omega
  have hoff : ((c % 20 + 1) * 0x80_0000 + o) % 0x80_0000 = o := by omega
  have hpast : ¬ (c % 20 + 1) * 0x80_0000 + o < 0x80_0000 := by omega
  have hfew : c % 20 + 1 ≤ 20 := by omega
  have hcore : 20 * (c / 20) + c % 20 = c := Nat.div_add_mod c 20
  simp [ctrlAt, hdiv, hmod, hblock, hoff, hpast, hfew, hcore]

/-! ### A whole write of a block's register -/

section
variable (s : State) (v : Dword)

theorem put_of_modl {off o : Nat} (h : ctrlAt (off / 8 * 8) = .modl o) :
    exec (.controlRegisterWrite off true v) s = .next (s.modlWrite o fun _ => v.toNat) := by
  rw [exec_controlRegisterWrite, State.ctrlWrite, h, if_pos rfl, merged_whole, Got.state]

theorem put_of_wing {off w o : Nat} (h : ctrlAt (off / 8 * 8) = .wing w o) (hw : s.hasWing w = true) :
    exec (.controlRegisterWrite off true v) s = .next (s.wingWrite w o (fun _ => v.toNat) none) := by
  rw [exec_controlRegisterWrite, State.ctrlWrite, h, if_pos rfl, merged_whole, Got.state, if_pos hw]

theorem put_of_core {off o : Nat} (h : ctrlAt (off / 8 * 8) = .core s.coreId o) :
    exec (.controlRegisterWrite off true v) s =
      .next ((s.coreWrite o (0xF000_0000_0000 + off) fun _ => v.toNat).state s) := by
  rw [exec_controlRegisterWrite, State.ctrlWrite, h, if_pos rfl, merged_whole]
  simp only [beq_self_eq_true, if_true]

theorem put_modl {o : Nat} (ho : o < 0x1000_0000) (halign : o % 8 = 0) :
    exec (.controlRegisterWrite o true v) s = .next (s.modlWrite o fun _ => v.toNat) := by
  have hbase : o / 8 * 8 = o := by omega
  exact put_of_modl s v (hbase.symm ▸ ctrlAt_modl ho)

theorem put_wing {w o : Nat} (hw : s.hasWing w = true) (ho : o < 0x80_0000) (halign : o % 8 = 0) :
    exec (.controlRegisterWrite (wingBlock w + o) true v) s = .next (s.wingWrite w o (fun _ => v.toNat) none) := by
  have hbase : (wingBlock w + o) / 8 * 8 = wingBlock w + o := by unfold wingBlock; omega
  exact put_of_wing s v (hbase.symm ▸ ctrlAt_wing w ho) hw

theorem put_core {o : Nat} (ho : o < 0x80_0000) (halign : o % 8 = 0) :
    exec (.controlRegisterWrite (coreBlock s.coreId + o) true v) s =
      .next ((s.coreWrite o (0xF000_0000_0000 + (coreBlock s.coreId + o)) fun _ => v.toNat).state s) := by
  have hbase : (coreBlock s.coreId + o) / 8 * 8 = coreBlock s.coreId + o := by unfold coreBlock; omega
  exact put_of_core s v (hbase.symm ▸ ctrlAt_core s.coreId ho)

/-! ### The registers -/

theorem modlWrite_partcur {o : Nat} (full : Nat → Nat) (hlo : 0x200 ≤ o) (hhi : o < 0x280) :
    s.modlWrite o full = s.partcurWrite ((o - 0x200) / 8) (BitVec.ofNat 64 (full 0)) := by
  unfold State.modlWrite
  simp only [hlo, hhi, decide_true, Bool.and_self, if_true]

theorem put_partcur (p : BitVec 4) :
    exec (.controlRegisterWrite (0x200 + 8 * p.toNat) true v) s = exec (.partitionSwap p v) s := by
  have hp : p.toNat < 16 := p.isLt
  have hidx : (0x200 + 8 * p.toNat - 0x200) / 8 = p.toNat := by omega
  rw [put_modl s v (by omega) (by omega), modlWrite_partcur s _ (by omega) (by omega), hidx, ofNat_toNat_dword]
  rfl

theorem put_ptimeout {w : Nat} (hw : s.hasWing w = true) (hpos : 0 < v.toNat) (hlt : v.toNat < 2 ^ 16) :
    exec (.controlRegisterWrite (wingBlock w + 0x18) true v) s =
      .next (s.updWing w fun g => { g with ptimeout := BitVec.ofNat 16 v.toNat }) := by
  have hrange : (v.toNat / 2 ^ 16 != 0 || v.toNat == 0) = false := by
    rw [Nat.div_eq_of_lt hlt]
    simpa using Nat.pos_iff_ne_zero.1 hpos
  rw [put_wing s v hw (by omega) (by omega)]
  simp only [State.wingWrite, hrange, Bool.false_eq_true, if_false]

/-- The seal bit of port `p` stands at 0x18 of its registers (R269). -/
theorem coreWrite_spctl {p : Nat} (va : Nat) (full : Nat → Nat) (hp : p < 16) (hone : full 0 = 1) :
    s.coreWrite (0x818 + 0x20 * p) va full = .ok () (s.updPort p fun q => { q with sealed := false }) := by
  have hce : (decide (0x400 ≤ 0x818 + 0x20 * p) && decide (0x818 + 0x20 * p < 0x500)) = false := by
    simp only [Bool.and_eq_false_iff, decide_eq_false_iff_not]; omega
  have hport : (decide (0x800 ≤ 0x818 + 0x20 * p) && decide (0x818 + 0x20 * p < 0xA00)) = true := by
    simp only [Bool.and_eq_true, decide_eq_true_eq]; omega
  have hreg : (0x818 + 0x20 * p - 0x800) % 0x20 = 0x18 := by omega
  have hidx : (0x818 + 0x20 * p - 0x800) / 0x20 = p := by omega
  unfold State.coreWrite
  simp only [hce, hport, hreg, hidx, hone, Bool.false_eq_true, if_false, if_true, beq_self_eq_true]

/-- A write to CPDESC of page `t` waits while LOCK is 1, and changes nothing where it is refused (R43, R44). -/
theorem coreWrite_cpdesc {t : Nat} (va x : Nat) (ht : t < 64) :
    (s.coreWrite (0x1000 + 8 * t) va fun _ => x).state s =
      if (s.page t).lock then s else (s.cpdescWrite s.coreId t x).getD s := by
  have hce : (decide (0x400 ≤ 0x1000 + 8 * t) && decide (0x1000 + 8 * t < 0x500)) = false := by
    simp only [Bool.and_eq_false_iff, decide_eq_false_iff_not]; omega
  have hport : (decide (0x800 ≤ 0x1000 + 8 * t) && decide (0x1000 + 8 * t < 0xA00)) = false := by
    simp only [Bool.and_eq_false_iff, decide_eq_false_iff_not]; omega
  have hwatch : (decide (0xC00 ≤ 0x1000 + 8 * t) && decide (0x1000 + 8 * t < 0xC40)) = false := by
    simp only [Bool.and_eq_false_iff, decide_eq_false_iff_not]; omega
  have hpage : (decide (0x1000 ≤ 0x1000 + 8 * t) && decide (0x1000 + 8 * t < 0x1200)) = true := by
    simp only [Bool.and_eq_true, decide_eq_true_eq]; omega
  have hidx : (0x1000 + 8 * t - 0x1000) / 8 = t := by omega
  unfold State.coreWrite
  simp only [hce, hport, hwatch, hpage, hidx, Bool.false_eq_true, if_false, if_true]
  split
  · rfl
  · cases s.cpdescWrite s.coreId t x <;> rfl

end

/-- Settles O44: each offset lies in its block, and the block's write is the register's event or its stored field. -/
theorem controlRegisterWrites : Obligations.ControlRegisterWrites := by
  unfold Obligations.ControlRegisterWrites
  intro v w p e t s
  dsimp only
  refine ⟨?_, ?_, ?_, ?_, put_partcur s v p, fun hw => ⟨?_, ?_, put_ptimeout s v hw, ?_⟩,
    fun hc => ⟨fun hv => ⟨?_, ?_, ?_⟩, ?_⟩⟩
  · rw [put_modl s v (by omega) rfl, ← bitsOf_eq v.toNat 51 16]
    rfl
  · rw [put_modl s v (by omega) rfl, ← bitsOf_eq v.toNat 51 11]
    rfl
  · rw [put_modl s v (by omega) rfl]
    rfl
  · rw [put_modl s v (by omega) rfl]
    rfl
  · rw [← Nat.add_zero (wingBlock w.toNat), put_wing s v hw (by omega) rfl, State.wingWrite, ofNat_toNat_dword]
    rfl
  · rw [put_wing s v hw (by omega) rfl, State.wingWrite, ofNat_toNat_dword]
    rfl
  · rw [put_wing s v hw (by omega) rfl, State.wingWrite, ofNat_toNat_dword]
    rfl
  · subst hv
    rw [Nat.add_assoc, put_core s 1 (by have := p.isLt; omega) (by omega), coreWrite_spctl s _ _ p.isLt rfl]
    rfl
  · subst hv
    rw [Nat.add_assoc, put_core s 1 (by have := e.isLt; omega) (by omega)]
    obtain he | he : e = 0 ∨ e = 1 := by revert e; decide
    · subst he
      rfl
    · subst he
      rfl
  · subst hv
    rw [put_core s 1 (by omega) (by omega)]
    rfl
  · rw [Nat.add_assoc, put_core s v (by have := t.isLt; omega) (by omega), coreWrite_cpdesc s _ _ t.isLt]
    rfl

end Sys2Proof.Claims
end

section
/-!
# Invalidation, the end of a context, and the tables of a core (O49)

Each write is taken or refused by one check of its value (`xinv_taken`, `tagcfgBad_iff`). A GO puts every channel of its
context that runs no record to rest (`kill_rests`) and leaves no deferred start of it (`ctxkill_recs`).
-/

namespace Sys2Proof.Claims
open Sys2Proof.Machine

/-! ### XINV -/

/-- What XINV refuses: a write while it is busy, a reserved SCOPE, a reserved bit (R33). -/
theorem xinv_refused_iff (s : State) (x : Nat) :
    (s.modl.xinvBusy || bitsOf x 1 0 == 3 || bitsOf x 51 48 != 0 || bitsOf x 15 2 != 0) = true ↔
      s.modl.xinvBusy = true ∨ x % 4 = 3 ∨ x / 2 ^ 2 % 2 ^ 14 ≠ 0 ∨ x / 2 ^ 48 % 2 ^ 4 ≠ 0 := by
  have hscope : bitsOf x 1 0 = x % 4 := by simp [bitsOf_eq]
  rw [hscope, bitsOf_eq x 51 48, bitsOf_eq x 15 2]
  simp only [Bool.or_eq_true, beq_iff_eq, bne_iff_ne]
  tauto

theorem xinv_refused {s : State} {x : Nat}
    (h : s.modl.xinvBusy = true ∨ x % 4 = 3 ∨ x / 2 ^ 2 % 2 ^ 14 ≠ 0 ∨ x / 2 ^ 48 % 2 ^ 4 ≠ 0) :
    s.xinv x = s.updMod fun m => { m with xinvErr := true } := if_pos ((xinv_refused_iff s x).2 h)

theorem xinv_taken {s : State} {x : Nat} (hbusy : s.modl.xinvBusy = false) (hlow : x / 2 ^ 2 % 2 ^ 14 = 0)
    (hhigh : x / 2 ^ 48 % 2 ^ 4 = 0) (hscope : x % 4 ≠ 3) :
    s.xinv x = State.updMod { s with
      tlb := s.tlb.filter fun y => !xinvClears x y, l2tlb := s.l2tlb.filter fun y => !xinvClears x y }
        fun m => { m with xinvBusy := true } := by
  refine if_neg fun h => ?_
  obtain h | h | h | h := (xinv_refused_iff s x).1 h
  · rw [hbusy] at h
    cases h
  · exact hscope h
  · exact h hlow
  · exact h hhigh

theorem exec_xinvComplete (s : State) : exec .xinvComplete s =
    if s.core.clerk.unfin.any Unfin.translated then .next s
    else .next (s.updMod fun m => { m with xinvBusy := false }) := rfl

/-! ### CTXKILL -/

/-- A channel of a killed context runs a record, or is idle with CEHEAD 0 (R90). -/
theorem kill_rests (ctx : BitVec 12) (c : Ce) (h : (c.kill ctx).ctx = ctx) :
    (c.kill ctx).state = .run ∨ (c.kill ctx).state = .wait ∨ ((c.kill ctx).state = .idleEnd ∧ (c.kill ctx).head = 0) := by
  unfold Ce.kill at h ⊢
  split
  · exact .inr (.inr ⟨rfl, rfl⟩)
  · rename_i hkeeps
    rw [if_neg hkeeps] at h
    simp only [h, decide_true, Bool.true_and, Bool.not_eq_true', Bool.or_eq_false_iff, decide_eq_false_iff_not] at hkeeps
    tauto

theorem ctxkill_taken {s : State} {ctx : BitVec 12} (h : s.modl.killDone = true) :
    (s.ctxkill ctx).modl.killCtx = ctx ∧ (s.ctxkill ctx).modl.killDone = false ∧ (s.ctxkill ctx).mem = s.mem ∧
      (s.ctxkill ctx).core.ces = s.core.ces.map (Ce.kill ctx) := by
  simp only [State.ctxkill, h, Bool.not_true, Bool.false_eq_true, if_false]
  split <;> exact ⟨rfl, rfl, rfl, rfl⟩

/-- No record of the context keeps a deferred start (R90). -/
theorem ctxkill_recs {s : State} {ctx : BitVec 12} (h : s.modl.killDone = true) {r : TaskRec}
    (hr : r ∈ (s.ctxkill ctx).recs) (hctx : r.ctx = ctx) (e : BitVec 1) (a : Nat) : Deferred.chain e a ∉ r.deferred := by
  simp only [State.ctxkill, h, Bool.not_true, Bool.false_eq_true, if_false] at hr
  obtain ⟨q, -, rfl⟩ := List.mem_map.1 hr
  split at hctx
  · rename_i hq
    rw [if_pos hq]
    simp
  · rename_i hq
    exact absurd hctx hq

theorem ctxkill_refused {s : State} {ctx : BitVec 12} (h : s.modl.killDone = false) :
    s.ctxkill ctx = s.updMod fun m => { m with killErr := true } := by
  simp only [State.ctxkill, h, Bool.not_false, if_true]

theorem exec_ctxkillDone (s : State) : exec .ctxkillDone s =
    if s.core.ces.any fun c => c.ctx = s.modl.killCtx && (c.state = .run || c.state = .wait) then .next s
    else .next (s.updMod fun m => { m with killDone := true }) := rfl

/-! ### TAGCFG -/

/-- The values that TAGCFG takes (R38). -/
theorem tagcfgBad_iff (v : Dword) : tagcfgBad v.toNat = false ↔
    v.toNat % 2 ^ 4 ≤ 9 ∧ v.toNat / 2 ^ 25 = 0 ∧ v.toNat / 2 ^ 4 % 2 ^ 8 = 0 ∧
      (v.toNat / 2 ^ 12 % 2 ^ 13 + 8 * 2 ^ (v.toNat % 2 ^ 4)) * 0x1000 ≤ 0x180_0000 := by
  have hsets : bitsOf v.toNat 3 0 = v.toNat % 2 ^ 4 := by rw [bitsOf_eq, pow_zero, Nat.div_one]
  have htop : v.toNat / 2 ^ 25 % 2 ^ 39 = v.toNat / 2 ^ 25 := Nat.mod_eq_of_lt (by have := v.isLt; omega)
  unfold tagcfgBad bankBytes
  rw [hsets, bitsOf_eq _ 63 25, bitsOf_eq _ 11 4, bitsOf_eq _ 24 12, htop]
  simp only [Bool.or_eq_false_iff, decide_eq_false_iff_not, bne_eq_false_iff_eq, Nat.not_lt, and_assoc, Nat.reduceAdd,
    Nat.reduceSub]

/-- TAGCFG in range holds the value, and no entry is valid any more (R38). -/
theorem tagcfgSet_taken (s : State) {v : Dword} (h : tagcfgBad v.toNat = false) :
    ∃ y, s.tagcfgSet v = some y ∧ y.tagcfg = v ∧ (∀ e ∈ y.tags, e.2.v = false) ∧ y.mem = s.mem ∧ y.core = s.core := by
  rw [State.tagcfgSet, h]
  refine ⟨_, rfl, rfl, fun e he => ?_, rfl, rfl⟩
  obtain ⟨x, -, rfl⟩ := List.mem_map.1 he
  rfl

theorem tagcfgSet_refused (s : State) {v : Dword} (h : tagcfgBad v.toNat = true) : s.tagcfgSet v = none := if_pos h

theorem exec_tagcfgWrite (v : Dword) (s : State) : exec (.tagcfgWrite v) s = .next ((s.tagcfgSet v).getD s) := rfl

/-! ### CPDESC -/

theorem exec_cpdescWrite (t : BitVec 6) (v : Dword) (s : State) : exec (.cpdescWrite t v) s =
    .next (if (s.page t.toNat).lock then s else (s.cpdescWrite s.coreId t.toNat v.toNat).getD s) := rfl

theorem killCtx_runs_iff (s : State) :
    (s.core.ces.any fun c => decide (c.ctx = s.modl.killCtx) && (decide (c.state = .run) || decide (c.state = .wait))) = true ↔
      ∃ c ∈ s.core.ces, c.ctx = s.modl.killCtx ∧ (c.state = .run ∨ c.state = .wait) := by
  simp only [List.any_eq_true, Bool.and_eq_true, Bool.or_eq_true, decide_eq_true_eq]

/-- Settles O49: each write by its check, each end by what it waits for. -/
theorem invalidationAndTables : Obligations.InvalidationAndTables := by
  unfold Obligations.InvalidationAndTables
  intro v ctx t s
  dsimp only
  refine ⟨fun hbusy hlow hhigh hscope => congrArg _ (xinv_taken hbusy hlow hhigh hscope), fun h => congrArg _ (xinv_refused h),
    fun h => ?_, fun h => ?_, rfl, fun hdone => ?_, fun hdone => congrArg _ (ctxkill_refused hdone), fun hnone => ?_,
    fun ⟨c, hc, hctx, hrun⟩ => ?_, rfl, fun hfits => ?_, fun hbad => ?_, fun hlock => ?_, fun hlock => ⟨fun y hy => ?_,
    fun hnone => ?_⟩⟩
  · rw [exec_xinvComplete, h]
    rfl
  · rw [exec_xinvComplete, h]
    rfl
  · obtain ⟨hkill, hgoing, hmem, hces⟩ := ctxkill_taken (ctx := ctx) hdone
    refine ⟨s.ctxkill ctx, rfl, hkill, hgoing, hmem, fun c hc hctx => ?_, fun r hr hctx e a => ctxkill_recs hdone hr hctx e a⟩
    rw [hces] at hc
    obtain ⟨c, -, rfl⟩ := List.mem_map.1 hc
    exact kill_rests ctx c hctx
  · rw [exec_ctxkillDone, if_neg]
    rw [killCtx_runs_iff]
    rintro ⟨c, hc, hctx, hrun⟩
    obtain ⟨hnrun, hnwait⟩ := hnone c hc hctx
    exact hrun.elim hnrun hnwait
  · rw [exec_ctxkillDone, if_pos ((killCtx_runs_iff s).2 ⟨c, hc, hctx, .inl hrun⟩)]
  · obtain ⟨y, hy, hcfg, htags, hmem, hcore⟩ := tagcfgSet_taken s ((tagcfgBad_iff v).2 hfits)
    exact ⟨y, by rw [exec_tagcfgWrite, hy]; rfl, hcfg, htags, hmem, hcore⟩
  · rw [exec_tagcfgWrite, tagcfgSet_refused s (Bool.of_not_eq_false fun h => hbad ((tagcfgBad_iff v).1 h))]
    rfl
  · rw [exec_cpdescWrite, if_pos hlock]
  · rw [exec_cpdescWrite, hlock, hy]
    rfl
  · rw [exec_cpdescWrite, hlock, hnone]
    rfl

end Sys2Proof.Claims
end

section
/-!
# Instructions of the tag table and in-bank transforms, at issue and at the table (O29)

What issues stands at the end of the list with its destination empty (`issued_push`); what fails its checks enters the trap
from the state in which it has issued (`traps_trapSrc`). At the table `tins` has three cases: its tag is there, a way is free, or
every way is valid (`tagInsert_of_hit`, `tagInsert_of_free`, `tagInsert_of_full`).
-/

namespace Sys2Proof.Claims
open Sys2Proof.Machine

/-! ### An instruction that issues -/

theorem present_setPresent_false (c : Clerk) {d : Reg} (hd : d ≠ 0) : (c.setPresent d false).present d = false := by
  rw [Clerk.present, Clerk.setPresent, if_neg hd, decide_eq_false hd]
  simp [putBit]

/-- A request that goes out differs from the instruction by its Span port alone. -/
theorem sent_eq (s : State) (u : Unfin) : ∃ p, s.sent u = { u with port := p } := by
  unfold State.sent
  split
  · exact ⟨_, rfl⟩
  · exact ⟨u.port, rfl⟩

/-- Issuing an instruction with a scalar destination changes the clerk alone. -/
theorem push_eq (t : State) {x : Src} (hkd : x.kd = false) (u : Unfin) : ∃ p, t.push x u =
    t.updClerk fun c => { c.setPresent x.dest false with unfin := c.unfin ++ [{ u with port := p }] } := by
  obtain ⟨p, hp⟩ := sent_eq t u
  refine ⟨p, ?_⟩
  rw [State.push, hp, State.emptyDest, hkd]
  simp [State.updClerk]

/-- The instruction at the PC of `s`, pushed from the state that it has reached, has issued there. -/
theorem issued_push (s t : State) (i : Instr) (d : Reg) (ea : Nat) (b c : Dword) (canon : Nat) (w : Work) :
    Issued s t (.next (t.push (s.src i d) ((s.src i d).unfin ea b c canon w))) false d (ea % 2 ^ 48) w none := by
  obtain ⟨p, hp⟩ := push_eq t (x := s.src i d) rfl ((s.src i d).unfin ea b c canon w)
  rw [hp]
  refine ⟨_, _, rfl, rfl, rfl, rfl, rfl, rfl, rfl, rfl, ?_, ?_, ?_, ?_, rfl⟩
  · exact fun hd => present_setPresent_false t.core.clerk hd
  · exact t.core.clerk.setPresent_regs d false
  · exact t.core.clerk.setPresent_kregs d false
  · exact t.core.clerk.setPresent_pc d false

/-! ### An instruction that traps at issue -/

theorem notRedone_keeps (c : Clerk) (pc : BitVec 48) : (c.notRedone pc).regs = c.regs ∧ (c.notRedone pc).tvec = c.tvec ∧
    (c.notRedone pc).frozen = c.frozen ∧ (c.notRedone pc).unfin = c.unfin := by
  unfold Clerk.notRedone
  split
  · split <;> exact ⟨rfl, rfl, rfl, rfl⟩
  · exact ⟨rfl, rfl, rfl, rfl⟩

/-- An instruction that has issued and has left the replay that it may have stood in: what the trap that it takes finds. -/
theorem push_notRedone_keeps (t : State) {x : Src} (hkd : x.kd = false) (u : Unfin) (pc : BitVec 48) :
    let y := (t.push x u).updClerk (·.notRedone pc)
    y.mem = t.mem ∧ y.coreId = t.coreId ∧ y.core.clerk.regs = t.core.clerk.regs ∧
      y.core.clerk.tvec = t.core.clerk.tvec ∧ y.core.clerk.frozen = t.core.clerk.frozen ∧
      ∃ p, y.core.clerk.unfin = t.core.clerk.unfin ++ [{ u with port := p }] := by
  obtain ⟨p, hp⟩ := push_eq t hkd u
  rw [hp]
  obtain ⟨hregs, htvec, hfrozen, hunfin⟩ := notRedone_keeps
    { t.core.clerk.setPresent x.dest false with unfin := t.core.clerk.unfin ++ [{ u with port := p }] } pc
  exact ⟨rfl, rfl, hregs.trans (Clerk.setPresent_regs ..), htvec.trans (Clerk.setPresent_tvec ..),
    hfrozen.trans (Clerk.setPresent_frozen ..), p, hunfin⟩

/-- A cause found at its issue traps the instruction at the PC. It has issued, but with no value, so that the trap writes no
register where nothing else was unfinished. -/
theorem traps_trapSrc {s : State} (i : Instr) (d : Reg) (n ea : Nat) (b c : Dword) {f : Flt} (hcause : f.cause < 256)
    (hfrozen : s.core.clerk.frozen = false) :
    Traps s (.next ((s.advance n).trapSrc (s.src i d) ea b c f)) f.cause (f.addr % 2 ^ 48) := by
  obtain ⟨hmem, hcore, hregs, htvec, hfrz, p, hunfin⟩ := push_notRedone_keeps (s.advance n) (x := s.src i d) rfl
    ((s.src i d).unfin ea b c 0 (.result 0)) (s.src i d).pc
  rw [State.trapSrc]
  generalize State.updClerk _ _ = t at *
  obtain ⟨m, q, henter, hother⟩ := t.enterTrap_spec
    ⟨f.cause, f.addr % 2 ^ 48, f.detail, false, (s.src i d).pc, (s.src i d).rpc⟩
    (some (s.advance n).core.clerk.unfin.length) (s.src i d).rest (hfrz.trans hfrozen)
  rw [henter]
  refine ⟨_, rfl, rfl, rfl, ?_, ?_, ?_, rfl, fun hnil r => ?_, fun hwf a ha => ?_⟩
  · simp only [htvec, State.advance_clerk]
  · simp [b2n, Nat.mod_eq_of_lt hcause]
  · rw [Nat.mod_mod]
  · have hdrain : t.core.clerk.drain = t.core.clerk := Clerk.drain_none _ fun u hu => by
      rw [hunfin, State.advance_clerk, hnil, List.nil_append, List.mem_singleton] at hu
      rw [hu]
      rfl
    simp only [State.reg, Clerk.reg, hdrain, hregs, State.advance_clerk]
  · rw [hmem, hcore] at hother
    exact (hother hwf).2 a ha

/-! ### The table -/

theorem exec_tlook (d a : Reg) (s : State) :
    exec (.tlook d a) s = .next ((s.advance 4).issueTag (s.src (.tlook d a) d) .look (s.reg a).toNat) := rfl

theorem exec_tins (d a : Reg) (s : State) :
    exec (.tins d a) s = .next ((s.advance 4).issueTag (s.src (.tins d a) d) .ins (s.reg a).toNat) := rfl

theorem exec_tdel (d a : Reg) (s : State) :
    exec (.tdel d a) s = .next ((s.advance 4).issueTag (s.src (.tdel d a) d) .del (s.reg a).toNat) := rfl

/-- An operation of the tag table that is due is performed at once, but for `tdel`, which has a step of its own. -/
theorem exec_accessPerform_of_tag {s : State} {k a : Nat} {u : Unfin} {op : TagOp} (hdue : Due s k u)
    (hw : u.work = .tag op a) (hop : op ≠ .del) : exec (.accessPerform (.clerk k)) s = .next (s.performClerk k) := by
  obtain ⟨-, hdone, hchecked, -⟩ := id hdue
  have hstep : unfinStep k u = some (.accessPerform (.clerk k)) := by
    cases op with
    | look => simp [unfinStep, hdone, hchecked, hw]
    | ins => simp [unfinStep, hdone, hchecked, hw]
    | del => exact absurd rfl hop
  have hgo : s.goesOn k (.accessPerform (.clerk k)) = true :=
    goesOn_of_due hdue hstep (by simp [State.hasPort, hw, Work.place])
  exact congrArg _ (if_pos hgo)

theorem exec_tlookAtTable {s : State} {k a : Nat} {u : Unfin} (hdue : Due s k u) (hw : u.work = .tag .look a) :
    exec (.accessPerform (.clerk k)) s = .next (s.finishUnfin k ((slotWord (s.tagHit a)).setWidth 128)) := by
  obtain ⟨hu, -, hchecked, -⟩ := id hdue
  rw [exec_accessPerform_of_tag hdue hw (by simp)]
  simp [State.performClerk, hu, hchecked, hw, State.answer]

theorem exec_tinsAtTable {s : State} {k a : Nat} {u : Unfin} (hdue : Due s k u) (hw : u.work = .tag .ins a) :
    exec (.accessPerform (.clerk k)) s = .next ((s.tagInsert a).2.finishUnfin k ((s.tagInsert a).1.setWidth 128)) := by
  obtain ⟨hu, -, hchecked, -⟩ := id hdue
  rw [exec_accessPerform_of_tag hdue hw (by simp)]
  simp [State.performClerk, hu, hchecked, hw, State.answer]

theorem tagInsert_of_hit {s : State} {a i : Nat} (h : s.tagHit a = some i) : s.tagInsert a = (BitVec.ofNat 64 i, s) := by
  simp [State.tagInsert, h]

section
variable {s : State} {a : Nat} (hmiss : s.tagHit a = none)
include hmiss

theorem tagInsert_of_free {i : Nat}
    (hfree : ((List.range 8).map (8 * s.tagSet a + ·)).find? (fun i => !(s.tag i).v) = some i) :
    s.tagInsert a = (BitVec.ofNat 64 i,
      s.setTag i { s.tag i with user := 0, tag := BitVec.ofNat 36 (a / 2 ^ 12 % 2 ^ 36), v := true }) := by
  unfold State.tagInsert
  simp only [hmiss, hfree, bitsOf_eq]

/-- A full set names its victim and fills nothing (R41). -/
theorem tagInsert_of_full (hfull : ∀ i ∈ (List.range 8).map (8 * s.tagSet a + ·), (s.tag i).v = true) :
    s.tagInsert a = (-(BitVec.ofNat 64 (2 + s.tagVictim.getD (s.tagSet a) 0)),
      { s with tagVictim := updAt (s.tagVictim ++ List.replicate (s.tagSet a + 1 - s.tagVictim.length) 0) (s.tagSet a)
                 fun w => (w + 1) % 8 }) := by
  have hnone : ((List.range 8).map (8 * s.tagSet a + ·)).find? (fun i => !(s.tag i).v) = none :=
    List.find?_eq_none.mpr fun i hi => by simp [hfull i hi]
  unfold State.tagInsert
  simp only [hmiss, hnone]

end

theorem getD_append_replicate (l : List Nat) (n k : Nat) : (l ++ List.replicate n 0).getD k 0 = l.getD k 0 := by
  obtain hk | hk := Nat.lt_or_ge k l.length
  · rw [List.getD_append _ _ _ _ hk]
  · rw [List.getD_append_right _ _ _ _ hk, List.getD_eq_default _ _ hk]
    exact List.getElem?_getD_replicate_default_eq ..

/-- The victim of a set moves on, whether its counter is kept yet or not. -/
theorem getD_movedVictim (l : List Nat) (set : Nat) (f : Nat → Nat) :
    (updAt (l ++ List.replicate (set + 1 - l.length) 0) set f).getD set 0 = f (l.getD set 0) := by
  rw [getD_updAt_same _ _ _ _ (by rw [List.length_append, List.length_replicate]; omega), getD_append_replicate]

/-! ### Transforms -/

theorem exec_xbank (a b : Reg) (s : State) :
    exec (.xbank a b) s = .next ((s.advance 4).issueXbank (s.src (.xbank a b) 0) (s.reg a) (s.reg b)) := rfl

theorem xfTrap_lt (code : Nat) : xfTrap code < 256 := by
  unfold xfTrap
  split <;> decide

/-- A word that fails a check traps before anything else is looked at. -/
theorem issueXbank_of_failed {t : State} (x : Src) {lo hi : Dword} (h : xfCheck (hi ++ lo).toNat ≠ 0) :
    t.issueXbank x lo hi = t.trapSrc x (selfAlias + xfOff (hi ++ lo).toNat) lo hi
      ⟨xfTrap (xfCheck (hi ++ lo).toNat), selfAlias + xfOff (hi ++ lo).toNat, xfCheck (hi ++ lo).toNat⟩ :=
  if_pos (bne_iff_ne.mpr h)

/-- A word that passes them issues from the state that its touches leave, whether these wait for a loan or not. -/
theorem issueXbank_of_passed {t v : State} (x : Src) {lo hi : Dword} (h : xfCheck (hi ++ lo).toNat = 0)
    (hnow : ChecksNow t none)
    (hloans : t.xfLoans t.taskMode (hi ++ lo).toNat (selfAlias + xfOff (hi ++ lo).toNat) = .ok v ∨
      t.xfLoans t.taskMode (hi ++ lo).toNat (selfAlias + xfOff (hi ++ lo).toNat) = .wait v) :
    t.issueXbank x lo hi = v.push x (x.unfin (selfAlias + xfOff (hi ++ lo).toNat) lo hi 0 (.xbank (hi ++ lo))) := by
  obtain ⟨hwalk, hrules⟩ := hnow
  unfold State.issueXbank
  simp only [h, bne_self_eq_false, Bool.false_eq_true, if_false, State.checked_now _ _ _ _ _ _ _ hwalk hrules]
  obtain hok | hwait := hloans
  · rw [hok]
  · rw [hwait]

/-- Settles O29: each instruction by its issue, `tlook` and `tins` by what the table holds of the tag. -/
theorem tagAndTransformInstructions : Obligations.TagAndTransformInstructions := by
  unfold Obligations.TagAndTransformInstructions
  intro d a b s v
  dsimp only
  refine ⟨?_, ?_, ?_, fun k e x hdue => ⟨fun hw i hhit => ?_, fun hw hmiss => ?_, fun hw hmiss => ⟨fun i hfree => ?_,
    fun hfull => ?_⟩⟩, fun hpass hnow hloans => ?_, fun hfail hfrozen => ?_⟩
  · rw [exec_tlook]
    exact issued_push ..
  · rw [exec_tins]
    exact issued_push ..
  · rw [exec_tdel]
    exact issued_push ..
  · obtain hlook | hins := hw
    · rw [exec_tlookAtTable hdue hlook, hhit]
      rfl
    · rw [exec_tinsAtTable hdue hins, tagInsert_of_hit hhit]
  · rw [exec_tlookAtTable hdue hw, hmiss]
    rfl
  · rw [exec_tinsAtTable hdue hw, tagInsert_of_free hmiss hfree]
  · rw [exec_tinsAtTable hdue hw, tagInsert_of_full hmiss hfull]
    exact ⟨_, rfl, rfl, rfl, getD_movedVictim ..⟩
  · rw [exec_xbank, issueXbank_of_passed _ hpass hnow hloans]
    exact issued_push ..
  · rw [exec_xbank, issueXbank_of_failed _ hfail]
    exact traps_trapSrc _ _ _ _ _ _ (xfTrap_lt _) hfrozen

end Sys2Proof.Claims
end

section
/-!
# A precise cause taken by the instruction at the PC (R214, R231, R318)

An instruction that writes its destination before the next one issues traps from the state in which it stands, without a
value, at the end of the list (`trapEntry`): its trap writes no destination, and its detail is word 4 of the frame.
-/

namespace Sys2Proof.Claims
open Sys2Proof.Machine

/-- What the trap of the instruction at the PC finds: the instruction itself at the end of the list, what its entry has no
place for in a latch. -/
def trapEntry (s : State) (i : Instr) (d : Reg) (ea : Nat) (b : Dword) : State :=
  s.updClerk fun c => { c.latched (s.latchOf i) with
    unfin := c.unfin ++ [s.unfinOf i false d ea b 0 0 (.result 0) none] }

theorem trapInstr_eq (s : State) (i : Instr) (d : Reg) (ea : Nat) (b : Dword) (f : Flt) :
    s.trapInstr i d ea b f = (trapEntry s i d ea b).enterTrap
      ⟨f.cause, f.addr, f.detail, false, s.core.clerk.pc, s.nextPc (Instr.bytes i)⟩
      (some s.core.clerk.unfin.length) s.core.clerk.redoRest :=
  rfl

/-- Where nothing else was unfinished, the trap has no register to write. -/
theorem drain_trapEntry {s : State} (i : Instr) (d : Reg) (ea : Nat) (b : Dword) (hnil : s.core.clerk.unfin = []) :
    (trapEntry s i d ea b).core.clerk.drain = (trapEntry s i d ea b).core.clerk := by
  refine Clerk.drain_none _ fun u hu => ?_
  have hunfin : (trapEntry s i d ea b).core.clerk.unfin = [s.unfinOf i false d ea b 0 0 (.result 0) none] :=
    congrArg (· ++ _) hnil
  rw [hunfin, List.mem_singleton] at hu
  rw [hu]
  rfl

theorem traps_trapInstr {s : State} (i : Instr) (d : Reg) (ea : Nat) (b : Dword) {f : Flt} (hcause : f.cause < 256)
    (hfrozen : s.core.clerk.frozen = false) :
    Traps s (.next (s.trapInstr i d ea b f)) f.cause (f.addr % 2 ^ 48) := by
  obtain ⟨m, p, henter, hother⟩ := (trapEntry s i d ea b).enterTrap_spec
    ⟨f.cause, f.addr, f.detail, false, s.core.clerk.pc, s.nextPc (Instr.bytes i)⟩
    (some s.core.clerk.unfin.length) s.core.clerk.redoRest hfrozen
  rw [trapInstr_eq, henter]
  refine ⟨_, rfl, rfl, rfl, rfl, ?_, rfl, rfl, fun hnil r => ?_, fun hwf a ha => (hother hwf).2 a ha⟩
  · simp [b2n, Nat.mod_eq_of_lt hcause]
  · simp only [State.reg, Clerk.reg, drain_trapEntry i d ea b hnil]
    rfl

/-- The flags that stand in FPSTAT at a trap stay there, where no instruction had flags still to bring. -/
theorem fpstat_trapInstr {s : State} (i : Instr) (d : Reg) (ea : Nat) (b : Dword) (f : Flt)
    (hfrozen : s.core.clerk.frozen = false) (hnil : s.core.clerk.unfin = []) :
    (s.trapInstr i d ea b f).core.clerk.fpstat = s.core.clerk.fpstat := by
  obtain ⟨m, p, henter, -⟩ := (trapEntry s i d ea b).enterTrap_spec
    ⟨f.cause, f.addr, f.detail, false, s.core.clerk.pc, s.nextPc (Instr.bytes i)⟩
    (some s.core.clerk.unfin.length) s.core.clerk.redoRest hfrozen
  rw [trapInstr_eq, henter]
  simp only [drain_trapEntry i d ea b hnil]
  rfl

/-- Word 4 of the frame is the detail (R316): the replay queue is written behind the frame's eight words. -/
theorem trapRd_enterTrap_detail {s : State} (t : Trap) (k : Option Nat) (rest : List (List Nat))
    (hwf : Memory.wf s.mem = true) (hfrozen : s.core.clerk.frozen = false) :
    (s.enterTrap t k rest).trapRd 32 8 = t.detail % 2 ^ 64 := by
  unfold State.enterTrap
  simp only [hfrozen, Bool.false_eq_true, if_false]
  generalize hframe : [_, _, _, _, t.detail % 2 ^ 64, (0 : Nat), 0, 0] = frame
  generalize List.take 64 _ = queue
  obtain ⟨hlength, hword⟩ : ∃ h : 4 < frame.length, frame[4] = t.detail % 2 ^ 64 := by
    subst hframe
    exact ⟨by simp, rfl⟩
  have hdrained : Memory.wf (s.updClerk Clerk.drain).mem = true := hwf
  change (((s.updClerk Clerk.drain).trapWords 0 frame).trapWords 0x40 queue).trapRd 32 8 = _
  rw [State.trapRd_trapWords_other _ _ _ _ _ (State.trapWords_wf _ _ _ hdrained) (.inl (by decide)),
    State.trapRd_trapWords _ 0 4 frame hdrained hlength, hword, Nat.mod_mod]

theorem trapRd_trapInstr_detail {s : State} (i : Instr) (d : Reg) (ea : Nat) (b : Dword) (f : Flt)
    (hwf : Memory.wf s.mem = true) (hfrozen : s.core.clerk.frozen = false) :
    (s.trapInstr i d ea b f).trapRd 32 8 = f.detail % 2 ^ 64 :=
  trapRd_enterTrap_detail _ _ _ (s := trapEntry s i d ea b) hwf hfrozen

end Sys2Proof.Claims
end

section
/-!
# Writes of system registers (O15)

`mts` in a mode that may name its register writes it (`exec_mts_of_some`) or refuses the value (`traps_mts_of_none`), by what
`sysregWrite` answers.
-/

namespace Sys2Proof.Claims
open Sys2Proof.Machine

/-- The clerk's mode lets it name the register (R206). -/
def MayName (s : State) (n : BitVec 10) : Prop := n.toNat < 0x100 ∨ s.core.clerk.mode = .supervisor

theorem exec_mts_of_mayName {s : State} {n : BitVec 10} (d : Reg) (hname : MayName s n) :
    exec (.mts n d) s = match s.sysregWrite n.toNat (s.reg d) with
      | none => .next (s.trapInstr (.mts n d) 0 0 (s.reg d) ⟨0x02, s.core.clerk.pc.toNat, 0⟩)
      | some t => .next (t.advance 4) := by
  have hguard : ¬ (0x100 ≤ n.toNat && s.taskMode) = true := by
    obtain hlow | hmode := hname
    · simp [Nat.not_le.mpr hlow]
    · simp [State.taskMode, hmode]
  exact if_neg hguard

theorem exec_mts_of_some {s t : State} {n : BitVec 10} {d : Reg} (hname : MayName s n)
    (hwrite : s.sysregWrite n.toNat (s.reg d) = some t) : exec (.mts n d) s = .next (t.advance 4) := by
  rw [exec_mts_of_mayName d hname, hwrite]

theorem traps_mts_of_none {s : State} {n : BitVec 10} {d : Reg} (hname : MayName s n)
    (hfrozen : s.core.clerk.frozen = false) (hwrite : s.sysregWrite n.toNat (s.reg d) = none) :
    Traps s (exec (.mts n d) s) 0x02 s.core.clerk.pc.toNat := by
  rw [exec_mts_of_mayName d hname, hwrite]
  have htraps := traps_trapInstr (f := ⟨0x02, s.core.clerk.pc.toNat, 0⟩) (.mts n d) 0 0 (s.reg d) (by simp) hfrozen
  rwa [Nat.mod_eq_of_lt s.core.clerk.pc.isLt] at htraps

/-- Settles O15: each register by its clause of `sysregWrite`. -/
theorem systemRegisterWrites : Obligations.SystemRegisterWrites := by
  unfold Obligations.SystemRegisterWrites
  intro d s
  dsimp only
  refine ⟨?_, fun hv => ?_, fun hv => ?_, fun hmode hv => ?_, fun hmode hv => ?_, fun hfrozen =>
    ⟨fun hv => ?_, fun hv => ?_, fun hmode => ⟨fun hv => ?_, fun hv => ?_, fun n hn => ?_⟩, ?_, ?_⟩⟩
  · exact exec_mts_of_some (.inl (by decide)) rfl
  · exact exec_mts_of_some (.inl (by decide)) (if_pos hv)
  · exact exec_mts_of_some (.inl (by decide)) (if_pos hv)
  · exact exec_mts_of_some (.inr hmode) (if_pos hv)
  · exact exec_mts_of_some (.inr hmode) (if_pos hv)
  · exact traps_mts_of_none (.inl (by decide)) hfrozen (if_neg hv)
  · exact traps_mts_of_none (.inl (by decide)) hfrozen (if_neg hv)
  · exact traps_mts_of_none (.inr hmode) hfrozen (if_neg hv)
  · exact traps_mts_of_none (.inr hmode) hfrozen (if_neg hv)
  · have hnone : s.sysregWrite n.toNat (s.reg d) = none := by
      simp only [List.mem_cons, List.not_mem_nil, or_false] at hn
      obtain rfl | rfl | rfl | rfl := hn <;> rfl
    exact traps_mts_of_none (.inr hmode) hfrozen hnone
  · exact traps_mts_of_none (.inl (by decide)) hfrozen rfl
  · exact traps_mts_of_none (.inl (by decide)) hfrozen rfl

end Sys2Proof.Claims
end

section
/-!
# Scalar floating point (O11)

Every operation that can raise a flag ends in `finishFp` (`FpForm`), so what it completes with and what it traps with are said
once for all of them. `fclass` packs four fields into a word; its integral bit is the inexact flag of a rounding toward zero,
which for a biased exponent `k` asks whether 2^150 divides the significand times 2^k.
-/

namespace Sys2Proof.Claims
open Sys2Proof.Machine

/-! ### The end of an operation -/

/-- The operation ends with value `v` and the flags `f`. -/
def FpForm (s : State) (o : Result) (d : Reg) (v : Nat) (f : FFlags) : Prop :=
  ∃ (i : Instr) (b : Dword), o = .next (s.finishFp i d b (BitVec.ofNat 64 v) f)

theorem finishFp_of_disabled {s : State} {f : FFlags} (i : Instr) (d : Reg) (b v : Dword)
    (h : f &&& s.core.clerk.fpctl.extractLsb' 8 5 = 0) : s.finishFp i d b v f = (s.orFlags f).finish d v 4 :=
  if_neg fun hne => bne_iff_ne.mp hne h

theorem finishFp_of_enabled {s : State} {f : FFlags} (i : Instr) (d : Reg) (b v : Dword)
    (h : f &&& s.core.clerk.fpctl.extractLsb' 8 5 ≠ 0) :
    s.finishFp i d b v f = (s.orFlags f).trapInstr i d 0 b ⟨0x09, 0, f.toNat⟩ :=
  if_pos (bne_iff_ne.mpr h)

/-- With no flag enabled it completes, whatever it raises. -/
theorem FpForm.completes {s : State} {o : Result} {d : Reg} {v : Nat} {f : FFlags} (h : FpForm s o d v f)
    (hoff : s.core.clerk.fpctl.extractLsb' 8 5 = 0) : o = .next ((s.orFlags f).finish d (BitVec.ofNat 64 v) 4) := by
  obtain ⟨i, b, rfl⟩ := h
  rw [finishFp_of_disabled i d b _ (by rw [hoff]; exact BitVec.and_zero)]

theorem writesReg_finish (s : State) (d : Reg) (v : Dword) (n : Nat) : WritesReg s (.next (s.finish d v n)) d v n :=
  ⟨_, rfl, s.finish_spec d v n⟩

theorem FpForm.fpResult {s : State} {o : Result} {d : Reg} {v : Nat} {f : FFlags} (h : FpForm s o d v f) :
    FpResult s o d v f := by
  obtain ⟨i, b, rfl⟩ := h
  refine ⟨fun hoff => ?_, fun hon hfrozen => ?_⟩
  · rw [finishFp_of_disabled i d b _ hoff]
    exact writesReg_finish (s.orFlags f) d _ 4
  · rw [finishFp_of_enabled i d b _ hon]
    refine ⟨traps_trapInstr (s := s.orFlags f) i d 0 b (by simp) hfrozen, _, rfl, fun hwf => ?_, fun hnil => ?_⟩
    · rw [trapRd_trapInstr_detail (s := s.orFlags f) i d 0 b _ hwf hfrozen]
      exact Nat.mod_eq_of_lt (f.isLt.trans (by decide))
    · exact fpstat_trapInstr (s := s.orFlags f) i d 0 b _ hfrozen hnil

/-! ### The operands -/

theorem fp_eq (s : State) (r : Reg) : s.fp r = (s.reg r).toNat % 2 ^ 32 := BitVec.toNat_setWidth ..

theorem rm_eq (s : State) : s.rm = Rnd.ofCode (s.core.clerk.fpctl.toNat % 4) := by
  rw [State.rm, bitsOf_eq]
  simp

theorem signedOf_toNat (x : Dword) : signedOf 64 x.toNat = x.toInt := by
  simp only [signedOf, BitVec.toInt_eq_toNat_cond]
  have := x.isLt
  split <;> split <;> omega

/-! ### The operations -/

section
variable (i : Instr) (d a b : Reg) (s : State)

theorem fpForm_op2 (f : Rnd → Nat → Nat → Nat × FFlags) :
    let r := f (Rnd.ofCode (s.core.clerk.fpctl.toNat % 4)) ((s.reg a).toNat % 2 ^ 32) ((s.reg b).toNat % 2 ^ 32)
    FpForm s (fpOp2 i f d a b s) d r.1 r.2 := by
  rw [← rm_eq, ← fp_eq, ← fp_eq]
  exact ⟨i, s.reg b, rfl⟩

theorem fpForm_op1 (f : Rnd → Nat → Nat × FFlags) :
    let r := f (Rnd.ofCode (s.core.clerk.fpctl.toNat % 4)) (s.reg a).toNat
    FpForm s (fpOp1 i f d a s) d r.1 r.2 := by
  rw [← rm_eq]
  exact ⟨i, 0, rfl⟩

theorem fpForm_cmp (f : Nat → Nat → Bool × FFlags) :
    let r := f ((s.reg a).toNat % 2 ^ 32) ((s.reg b).toNat % 2 ^ 32)
    FpForm s (fpCmp i f d a b s) d (if r.1 then 1 else 0) r.2 := by
  rw [← fp_eq, ← fp_eq]
  refine ⟨i, s.reg b, ?_⟩
  rw [apply_ite (BitVec.ofNat 64)]
  rfl

theorem fpForm_fma :
    let r := fFma fp32 (Rnd.ofCode (s.core.clerk.fpctl.toNat % 4)) ((s.reg a).toNat % 2 ^ 32)
      ((s.reg b).toNat % 2 ^ 32) ((s.reg d).toNat % 2 ^ 32)
    FpForm s (exec (.fma d a b) s) d r.1 r.2 := by
  rw [← rm_eq, ← fp_eq, ← fp_eq, ← fp_eq]
  exact ⟨.fma d a b, s.reg b, rfl⟩

theorem fpForm_fcvtF32I64 :
    let r := intToF fp32 (Rnd.ofCode (s.core.clerk.fpctl.toNat % 4)) (s.reg a).toInt
    FpForm s (exec (.fcvtF32I64 d a) s) d r.1 r.2 := by
  rw [← signedOf_toNat]
  exact fpForm_op1 (.fcvtF32I64 d a) d a s fun m x => intToF fp32 m (signedOf 64 x)

end

/-! ### Sign and class -/

theorem exec_fabs (d a : Reg) (s : State) :
    exec (.fabs d a) s = .next (s.finish d ((((s.reg a).setWidth 32) &&& 0x7FFFFFFF).setWidth 64) 4) := by
  have hvalue : BitVec.ofNat 64 (s.fp a % 2 ^ 31) = (((s.reg a).setWidth 32) &&& 0x7FFFFFFF).setWidth 64 := by
    apply BitVec.eq_of_toNat_eq
    rw [BitVec.toNat_ofNat, BitVec.toNat_setWidth, BitVec.toNat_and,
      show (0x7FFFFFFF : Word).toNat = 2 ^ 31 - 1 from rfl, Nat.and_two_pow_sub_one_eq_mod]
    rfl
  rw [← hvalue]
  rfl

theorem toNat_xor_two_pow_31 (w : Word) :
    (w ^^^ 0x80000000).toNat = if w.toNat < 2 ^ 31 then w.toNat + 2 ^ 31 else w.toNat - 2 ^ 31 := by
  have hlt := w.isLt
  have hlow : (w.toNat ^^^ 2 ^ 31) % 2 ^ 31 = w.toNat % 2 ^ 31 := by
    rw [Nat.xor_mod_two_pow, Nat.mod_self, Nat.xor_zero]
  have hhigh : (w.toNat ^^^ 2 ^ 31) / 2 ^ 31 = w.toNat / 2 ^ 31 ^^^ 1 := Nat.xor_div_two_pow
  rw [BitVec.toNat_xor, show (0x80000000 : Word).toNat = 2 ^ 31 from rfl]
  split
  case isTrue h =>
    rw [Nat.div_eq_of_lt h, Nat.zero_xor] at hhigh
    omega
  case isFalse h =>
    rw [show w.toNat / 2 ^ 31 = 1 by omega, Nat.xor_self] at hhigh
    omega

theorem fp32_sign_eq (w : Word) : fp32.sign w.toNat = decide (2 ^ 31 ≤ w.toNat) :=
  BitVec.msb_eq_decide w

/-- A pattern's sign flipped is its top bit flipped. -/
theorem fp32_neg_toNat (w : Word) : fp32.neg w.toNat = (w ^^^ 0x80000000).toNat := by
  have htop : fp32.signBit true = 2 ^ 31 := rfl
  rw [toNat_xor_two_pow_31, Fmt.neg, fp32_sign_eq, htop]
  by_cases h : w.toNat < 2 ^ 31
  · simp only [h, Nat.not_le.mpr h, decide_false, Bool.false_eq_true, if_false, if_true]
  · simp only [h, Nat.not_lt.mp h, decide_true, if_false, if_true]

theorem exec_fneg (d a : Reg) (s : State) :
    exec (.fneg d a) s = .next (s.finish d ((((s.reg a).setWidth 32) ^^^ 0x80000000).setWidth 64) 4) := by
  have hvalue : BitVec.ofNat 64 (fp32.neg (s.fp a)) = (((s.reg a).setWidth 32) ^^^ 0x80000000).setWidth 64 := by
    rw [State.fp, fp32_neg_toNat, BitVec.ofNat_toNat]
  rw [← hvalue]
  rfl

/-- Rounding a significand `m` of biased exponent `k` to an integer is exact where 2^150 divides m·2^k. -/
theorem toInteger_inexact_iff (r : Rnd) (sg : Bool) (m k : Nat) :
    (toInteger r sg m ((k : Int) - 150)).2 = false ↔ m * 2 ^ k % 2 ^ 150 = 0 := by
  simp only [toInteger, roundAt, scale2, sub_zero, bne_eq_false_iff_eq]
  split
  case isTrue h =>
    have hdvd : 2 ^ 150 ∣ m * 2 ^ k := (pow_dvd_pow 2 (by omega)).mul_left m
    simp only [Nat.mod_one, Nat.mod_eq_zero_of_dvd hdvd]
  case isFalse h =>
    obtain ⟨j, hj⟩ : ∃ j, 150 = j + k := ⟨150 - k, by omega⟩
    rw [show (-((k : Int) - 150)).toNat = j by omega, hj, pow_add, Nat.mul_mod_mul_right]
    simp

/-- A pattern of FP32 that is no infinity and no NaN, as a significand and a biased exponent (R58). -/
theorem fp32_val_of_finite {x : Nat} (h : fp32.efield x ≠ 255) :
    fp32.val x = .fin (fp32.sign x) (if fp32.efield x = 0 then fp32.frac x else 2 ^ 23 + fp32.frac x)
      ((max (fp32.efield x) 1 : Nat) - 150) := by
  rw [Fmt.val, if_neg (show ¬ (fp32.efield x == 2 ^ fp32.eb - 1) = true from fun heq => h (beq_iff_eq.mp heq)),
    Fmt.finite]
  by_cases h0 : fp32.efield x = 0
  · rw [if_pos (beq_iff_eq.mpr h0), if_pos h0, h0]
    rfl
  · have hmax : max (fp32.efield x) 1 = fp32.efield x := by omega
    simp only [h0, hmax, beq_iff_eq, if_false]
    congr 1
    · exact Nat.add_comm ..
    · simp only [fp32]
      omega

theorem fp32_val_of_special {x : Nat} (h : fp32.efield x = 255) :
    fp32.val x = if fp32.frac x == 0 then .inf (fp32.sign x) else .nan :=
  if_pos (beq_iff_eq.mpr h)

/-- The integral bit and the class of `fclass`, by their names. -/
def fp32Integral (x : Nat) : Bool :=
  match fp32.val x with
  | .fin s m e => !(toInteger .rtz s m e).2
  | _ => false

def fp32Class (x : Nat) : Nat :=
  if fp32.efield x == 0 then (if fp32.frac x == 0 then 0 else 1)
  else if fp32.efield x == 255 then (if fp32.frac x == 0 then 3 else if x.testBit 22 then 4 else 5)
  else 2

theorem fClass_eq (x : Nat) : fClass x =
    fp32.efield x * 256 + b2n (fp32Integral x) * 16 + b2n (fp32.sign x) * 8 + fp32Class x :=
  rfl

theorem fp32Integral_iff (x : Nat) : fp32Integral x = true ↔ fp32.efield x ≠ 255 ∧
    (if fp32.efield x = 0 then fp32.frac x else 2 ^ 23 + fp32.frac x) * 2 ^ max (fp32.efield x) 1 % 2 ^ 150 = 0 := by
  rw [fp32Integral]
  by_cases h : fp32.efield x = 255
  · rw [fp32_val_of_special h]
    split_ifs <;> simp [h]
  · rw [fp32_val_of_finite h]
    simp only [Bool.not_eq_true', toInteger_inexact_iff, ne_eq, h, not_false_eq_true, true_and]

theorem fp32Class_eq (x : Nat) : fp32Class x =
    if fp32.efield x = 0 then (if fp32.frac x = 0 then 0 else 1)
    else if fp32.efield x ≠ 255 then 2
    else if fp32.frac x = 0 then 3 else if x.testBit 22 then 4 else 5 := by
  simp only [fp32Class, beq_iff_eq, ite_not]

theorem fp32Class_lt (x : Nat) : fp32Class x < 8 := by
  unfold fp32Class
  split_ifs <;> decide

theorem b2n_le_one (b : Bool) : b2n b ≤ 1 := by
  cases b <;> decide

theorem decide_b2n (b : Bool) : decide (b2n b = 1) = b := by
  cases b <;> rfl

/-- The fields of a word that packs an exponent, two bits and a class, as `fclass` lays them out (R225). -/
theorem packed_fields (integral sg : Bool) {e c : Nat} (he : e < 256) (hc : c < 8) :
    let v := BitVec.ofNat 64 (e * 256 + b2n integral * 16 + b2n sg * 8 + c)
    v >>> 16 = 0 ∧ (v.extractLsb' 8 8).toNat = e ∧ v.extractLsb' 5 3 = 0 ∧ v.getLsbD 3 = sg ∧
      v.getLsbD 4 = integral ∧ (v.extractLsb' 0 3).toNat = c := by
  have hint := b2n_le_one integral
  have hsg := b2n_le_one sg
  dsimp only
  generalize hn : e * 256 + b2n integral * 16 + b2n sg * 8 + c = n
  have hlt : n < 2 ^ 64 := by omega
  simp only [BitVec.toNat_eq, BitVec.toNat_ushiftRight, BitVec.extractLsb'_toNat, BitVec.toNat_ofNat, BitVec.getLsbD_ofNat,
    Nat.mod_eq_of_lt hlt, Nat.shiftRight_eq_div_pow, Nat.testBit_eq_decide_div_mod_eq]
  refine ⟨?_, ?_, ?_, ?_, ?_, ?_⟩
  · exact Nat.div_eq_of_lt (by omega)
  · omega
  · change n / 2 ^ 5 % 2 ^ 3 = 0
    omega
  · rw [show n / 2 ^ 3 % 2 = b2n sg by omega, decide_b2n]
    rfl
  · rw [show n / 2 ^ 4 % 2 = b2n integral by omega, decide_b2n]
    rfl
  · omega

theorem toNat_exponent (w : Word) : (w.extractLsb' 23 8).toNat = fp32.efield w.toNat := BitVec.extractLsb'_toNat ..

theorem toNat_fraction (w : Word) : (w.extractLsb' 0 23).toNat = fp32.frac w.toNat := BitVec.extractLsb'_toNat ..

theorem fClass_fields (w : Word) :
    let v := BitVec.ofNat 64 (fClass w.toNat)
    v >>> 16 = 0 ∧ v.extractLsb' 8 8 = w.extractLsb' 23 8 ∧ v.extractLsb' 5 3 = 0 ∧ v.getLsbD 3 = w.getLsbD 31 ∧
      (let ex := (w.extractLsb' 23 8).toNat; let fr := (w.extractLsb' 0 23).toNat
       v.getLsbD 4 = true ↔ ex ≠ 255 ∧ (if ex = 0 then fr else 2 ^ 23 + fr) * 2 ^ max ex 1 % 2 ^ 150 = 0) ∧
      (v.extractLsb' 0 3).toNat =
        (if w.extractLsb' 23 8 = 0 then (if w.extractLsb' 0 23 = 0 then 0 else 1)
         else if w.extractLsb' 23 8 ≠ 255 then 2
         else if w.extractLsb' 0 23 = 0 then 3 else if w.getLsbD 22 then 4 else 5) := by
  obtain ⟨hhigh, hexp, hzero, hsign, hint, hclass⟩ := packed_fields (fp32Integral w.toNat) (fp32.sign w.toNat)
    (toNat_exponent w ▸ (w.extractLsb' 23 8).isLt) (fp32Class_lt w.toNat)
  rw [fClass_eq]
  refine ⟨hhigh, BitVec.eq_of_toNat_eq (hexp.trans (toNat_exponent w).symm), hzero, hsign, ?_, ?_⟩
  · rw [hint, toNat_exponent, toNat_fraction]
    exact fp32Integral_iff w.toNat
  · rw [hclass, fp32Class_eq]
    simp only [BitVec.toNat_eq, toNat_exponent, toNat_fraction, ne_eq]
    rfl

/-- Settles O11: each operation ends in `finishFp`, and the others write a register. -/
theorem floatForms : Obligations.FloatForms := by
  unfold Obligations.FloatForms
  intro d a b s
  have hadd := fpForm_op2 (.fadd d a b) d a b s (fAdd fp32)
  have hsub := fpForm_op2 (.fsub d a b) d a b s (fSub fp32)
  have hmul := fpForm_op2 (.fmul d a b) d a b s (fMul fp32)
  have hdiv := fpForm_op2 (.fdiv d a b) d a b s (fDiv fp32)
  have hsqrt := fpForm_op1 (.fsqrt d a) d a s fun m x => fSqrt fp32 m (x % 2 ^ 32)
  have hfma := fpForm_fma d a b s
  have hmin := fpForm_op2 (.fmin d a b) d a b s fun _ x y => fMinMax fp32 false x y
  have hmax := fpForm_op2 (.fmax d a b) d a b s fun _ x y => fMinMax fp32 true x y
  have heq := fpForm_cmp (.feq d a b) d a b s (fEq fp32)
  have hlt := fpForm_cmp (.flt d a b) d a b s (fLt fp32)
  have hle := fpForm_cmp (.fle d a b) d a b s (fLe fp32)
  have hfromInt := fpForm_fcvtF32I64 d a s
  have htoInt := fpForm_op1 (.fcvtI64F32 d a) d a s fun m x => fToInt 64 m true (x % 2 ^ 32)
  have hnarrow := fpForm_op1 (.fcvtBf16F32 d a) d a s fun m x => fConv fp32 bf16 m (x % 2 ^ 32)
  have hwiden := fpForm_op1 (.fcvtF32Bf16 d a) d a s fun m x => fConv bf16 fp32 m (x % 2 ^ 16)
  refine ⟨fun h => ⟨hadd.completes h, hsub.completes h, hmul.completes h, hdiv.completes h, hsqrt.completes h,
      hfma.completes h, hmin.completes h, hmax.completes h, heq.completes h, hlt.completes h, hle.completes h,
      hfromInt.completes h, htoInt.completes h, hnarrow.completes h, hwiden.completes h⟩,
    hadd.fpResult, hsub.fpResult, hmul.fpResult, hdiv.fpResult, hsqrt.fpResult, hfma.fpResult, hmin.fpResult,
    hmax.fpResult, heq.fpResult, hlt.fpResult, hle.fpResult, hfromInt.fpResult, htoInt.fpResult, hnarrow.fpResult,
    hwiden.fpResult, ?_, ?_, ?_⟩
  · rw [exec_fabs]
    exact writesReg_finish ..
  · rw [exec_fneg]
    exact writesReg_finish ..
  · exact ⟨_, writesReg_finish .., fClass_fields _⟩

end Sys2Proof.Claims
end

section
/-!
# Copy channels and buffer handles: what each update leaves (chapter 5)

An update of a channel or of a handle changes that entry alone (`ce_updCe`, `handle_updHandle`). A read of an engine changes the
TLBs at most (`TlbOnly`); a write leaves the number of channels and the PC (`KeepsShape`), and so does the mark of a status in
word 0. A record whose status can be marked stops with it (`ceStop_stopped`).
-/

namespace Sys2Proof.Claims
open Sys2Proof.Machine

/-! ### Lists with one entry changed -/

@[simp] theorem length_updAt {α : Type} (l : List α) (k : Nat) (f : α → α) : (updAt l k f).length = l.length := by
  induction l generalizing k with
  | nil => rfl
  | cons x l ih =>
    cases k with
    | zero => rfl
    | succ k => exact congrArg (· + 1) (ih k)

theorem updAt_updAt {α : Type} (l : List α) (k : Nat) (f g : α → α) :
    updAt (updAt l k f) k g = updAt l k fun x => g (f x) := by
  induction l generalizing k with
  | nil => rfl
  | cons x l ih =>
    cases k with
    | zero => rfl
    | succ k => exact congrArg (x :: ·) (ih k)

/-- Only the entry that is changed matters to a change. -/
theorem updAt_congr {α : Type} {l : List α} {k : Nat} {f g : α → α} {d : α} (h : f (l.getD k d) = g (l.getD k d)) :
    updAt l k f = updAt l k g := by
  induction l generalizing k with
  | nil => rfl
  | cons x l ih =>
    cases k with
    | zero => exact congrArg (· :: l) h
    | succ k => exact congrArg (x :: ·) (ih h)

/-- What a change leaves of each entry it leaves of the one that it changes, if there is one. -/
theorem getD_updAt_field {α β : Type} (p : α → β) (l : List α) (k : Nat) {f : α → α} (d : α) (h : ∀ x, p (f x) = p x) :
    p ((updAt l k f).getD k d) = p (l.getD k d) := by
  induction l generalizing k with
  | nil => rfl
  | cons x l ih =>
    cases k with
    | zero => exact h x
    | succ k => exact ih k

/-! ### Channels -/

theorem ce_updCe {s : State} {e : Nat} (f : Ce → Ce) (h : e < s.core.ces.length) : (s.updCe e f).ce e = f (s.ce e) :=
  getD_updAt_same _ _ _ _ h

theorem ce_updCe_field {α : Type} (p : Ce → α) (s : State) (e : Nat) {f : Ce → Ce} (h : ∀ c, p (f c) = p c) :
    p ((s.updCe e f).ce e) = p (s.ce e) :=
  getD_updAt_field p _ _ _ h

theorem updCe_updCe (s : State) (e : Nat) (f g : Ce → Ce) : (s.updCe e f).updCe e g = s.updCe e fun c => g (f c) := by
  simp only [State.updCe, updAt_updAt]

theorem updCe_congr {s : State} {e : Nat} {f g : Ce → Ce} (h : f (s.ce e) = g (s.ce e)) : s.updCe e f = s.updCe e g := by
  simp only [State.updCe, updAt_congr (d := Ce.reset) h]

theorem length_ces_updCe (s : State) (e : Nat) (f : Ce → Ce) :
    (s.updCe e f).core.ces.length = s.core.ces.length :=
  length_updAt ..

@[simp] theorem wake_ce (s : State) (e : Nat) : s.wake.ce e = s.ce e := rfl
@[simp] theorem wake_handle (s : State) (h : Nat) : s.wake.handle h = s.handle h := rfl
@[simp] theorem updCe_handle (s : State) (e h : Nat) (f : Ce → Ce) : (s.updCe e f).handle h = s.handle h := rfl
@[simp] theorem ceState_mem (s : State) (e : Nat) (st : CeState) : (s.ceState e st).mem = s.mem := rfl
@[simp] theorem ceState_handles (s : State) (e : Nat) (st : CeState) : (s.ceState e st).core.handles = s.core.handles := rfl

theorem ce_ceState {s : State} {e : Nat} (st : CeState) (h : e < s.core.ces.length) :
    (s.ceState e st).ce e = { s.ce e with state := st } :=
  ce_updCe _ h

/-- A channel that stands at the head of a chain (R81, R83). -/
def onRecord (head : Nat) (c : Ce) : Ce :=
  { c with head, state := .run, rcd := [], counted := false, bytes := 0, outPos := 0, held := [], scan := none, out := []
           formed := none, stage := .payload, stop := none, progRows := 0, progElems := 0, nvme := false, chain := true }

theorem ceGo_eq (s : State) (e head : Nat) : s.ceGo e head = (s.updCe e (onRecord head)).wake :=
  congrArg State.wake (updCe_updCe ..)

/-! ### Handles -/

theorem handle_updHandle {s : State} {h : Nat} (f : Handle → Handle) (hh : h < s.core.handles.length) :
    (s.updHandle h f).handle h = f (s.handle h) := by
  unfold State.updHandle
  dsimp only
  split <;> exact getD_updAt_same _ _ _ _ hh

/-- A change of a handle leaves the rest, but for the event that a change of its STATE is to a `wfe` (R255). -/
theorem updHandle_eq (s : State) (h : Nat) (f : Handle → Handle) : ∃ w, s.updHandle h f = { s with core := { s.core with
    handles := updAt s.core.handles h f, clerk := { s.core.clerk with wfeEvent := w } } } := by
  unfold State.updHandle
  dsimp only
  split
  · exact ⟨s.core.clerk.wfeEvent, rfl⟩
  · exact ⟨true, rfl⟩

@[simp] theorem updHandle_mem (s : State) (h : Nat) (f : Handle → Handle) : (s.updHandle h f).mem = s.mem := by
  obtain ⟨w, hw⟩ := updHandle_eq s h f
  rw [hw]

@[simp] theorem updHandle_ces (s : State) (h : Nat) (f : Handle → Handle) : (s.updHandle h f).core.ces = s.core.ces := by
  obtain ⟨w, hw⟩ := updHandle_eq s h f
  rw [hw]

@[simp] theorem updHandle_ce (s : State) (h e : Nat) (f : Handle → Handle) : (s.updHandle h f).ce e = s.ce e :=
  congrArg (·.getD e Ce.reset) (updHandle_ces s h f)

@[simp] theorem updHandle_pc (s : State) (h : Nat) (f : Handle → Handle) :
    (s.updHandle h f).core.clerk.pc = s.core.clerk.pc := by
  obtain ⟨w, hw⟩ := updHandle_eq s h f
  rw [hw]

@[simp] theorem updHandle_ctx (s : State) (h : Nat) (f : Handle → Handle) : (s.updHandle h f).ctx = s.ctx := by
  obtain ⟨w, hw⟩ := updHandle_eq s h f
  rw [hw]
  rfl

/-! ### Reads -/

/-- From `s` to `t` nothing changes but the TLBs. -/
def TlbOnly (s t : State) : Prop := ∃ a b, t = { s with tlb := a, l2tlb := b }

theorem TlbOnly.refl (s : State) : TlbOnly s s := ⟨s.tlb, s.l2tlb, rfl⟩

theorem TlbOnly.trans {s t u : State} (h : TlbOnly s t) (h' : TlbOnly t u) : TlbOnly s u := by
  obtain ⟨a, b, rfl⟩ := h
  obtain ⟨a', b', rfl⟩ := h'
  exact ⟨a', b', rfl⟩

theorem TlbOnly.core {s t : State} (h : TlbOnly s t) : t.core = s.core := by
  obtain ⟨a, b, rfl⟩ := h
  rfl

theorem TlbOnly.ce {s t : State} (h : TlbOnly s t) (e : Nat) : t.ce e = s.ce e :=
  congrArg (·.ces.getD e Ce.reset) h.core

theorem TlbOnly.mem {s t : State} (h : TlbOnly s t) : t.mem = s.mem := by
  obtain ⟨a, b, rfl⟩ := h
  rfl

theorem tlbOnly_fillRes (s : State) (r : Res) : TlbOnly s (s.fillRes r) := by
  unfold State.fillRes
  split
  · exact ⟨_, _, rfl⟩
  · exact .refl s

theorem tlbOnly_filled (s : State) (ctx : BitVec 12) (va : Nat) : TlbOnly s (s.filled ctx va) := by
  unfold State.filled
  split
  · split
    · exact ⟨_, _, rfl⟩
    · exact .refl s
  · exact .refl s

theorem tlbOnly_cePlace (s : State) (k : AccKind) (ctx : BitVec 12) (va n : Nat) :
    ExceptWf (fun p => TlbOnly s p.2) (fun _ => True) (s.cePlace k ctx va n) := by
  unfold State.cePlace
  split
  · exact .refl s
  · split
    · exact tlbOnly_filled s ctx va
    · exact ExceptWf.ite trivial (tlbOnly_fillRes s _)

theorem tlbOnly_ceRead (s : State) (ctx : BitVec 12) (va n : Nat) :
    ExceptWf (fun p => TlbOnly s p.2) (fun p => TlbOnly s p.2) (s.ceRead ctx va n) := by
  unfold State.ceRead
  split
  · rename_i hplace
    exact (tlbOnly_cePlace s .load ctx va n).error hplace
  · split <;> exact tlbOnly_fillRes s _

theorem tlbOnly_of_ceRead {s u : State} {ctx : BitVec 12} {va n : Nat} {bs : List Byte}
    (h : s.ceRead ctx va n = .ok (bs, u)) : TlbOnly s u :=
  (tlbOnly_ceRead s ctx va n).ok h

theorem tlbOnly_cePeek (s : State) (ctx : BitVec 12) (va n : Nat) :
    ExceptWf (fun p => TlbOnly s p.2) (fun p => TlbOnly s p.2) (s.cePeek ctx va n) := by
  induction n generalizing s va with
  | zero => exact .refl s
  | succ n ih =>
    rw [State.cePeek]
    split
    · rename_i hread
      exact (tlbOnly_ceRead s ctx va 1).error hread
    · rename_i b hread
      have hb : TlbOnly s b.2 := (tlbOnly_ceRead s ctx va 1).ok hread
      split
      · rename_i hpeek
        exact hb.trans ((ih b.2 _).error hpeek)
      · rename_i hpeek
        have ht := (ih b.2 _).ok hpeek
        exact hb.trans ht

theorem tlbOnly_packedSpan (s : State) (ctx : BitVec 12) (va n : Nat) :
    ExceptWf (TlbOnly s) (fun p => TlbOnly s p.2) (s.packedSpan ctx va n) := by
  induction n generalizing s va with
  | zero => exact .refl s
  | succ n ih =>
    rw [State.packedSpan]
    split
    · rename_i hpeek
      exact (tlbOnly_cePeek s ctx va 4).error hpeek
    · rename_i hpeek
      exact (tlbOnly_cePeek s ctx va 4).error hpeek
    · rename_i b hpeek
      have hb : TlbOnly s b.2 := (tlbOnly_cePeek s ctx va 4).ok hpeek
      dsimp only
      split
      · rename_i hspan
        exact hb.trans ((ih b.2 _).error hspan)
      · rename_i hspan
        have ht := (ih b.2 _).ok hspan
        exact hb.trans ht

theorem tlbOnly_compressSpan (s : State) (ctx : BitVec 12) (r : List Dword) (n : Nat) :
    ExceptWf (TlbOnly s) (fun p => TlbOnly s p.2) (s.compressSpan ctx r n) := by
  induction n with
  | zero => exact .refl s
  | succ n ih =>
    rw [State.compressSpan]
    split
    · rename_i hspan
      exact ih.error hspan
    · rename_i b hspan
      have hb : TlbOnly s b.2 := ih.ok hspan
      split
      · rename_i hpeek
        exact hb.trans ((tlbOnly_cePeek b.2 _ _ _).error hpeek)
      · rename_i hpeek
        exact hb.trans ((tlbOnly_cePeek b.2 _ _ _).error hpeek)
      · rename_i hpeek
        exact hb.trans ((tlbOnly_cePeek b.2 _ _ _).ok hpeek)

/-- The look at a record's extents reads (R85). -/
theorem tlbOnly_of_recOverlap {s u : State} {ctx : BitVec 12} {r : List Dword} {a : Option Nat}
    (h : s.recOverlap ctx r = .ok (a, u)) : TlbOnly s u := by
  have hspan : ExceptWf (TlbOnly s) (fun p => TlbOnly s p.2) (s.recSpan ctx r) := by
    unfold State.recSpan
    split
    · exact ExceptWf.map (fun _ hp => hp) (tlbOnly_compressSpan s ctx r _)
    · exact tlbOnly_packedSpan s ctx _ _
    · exact .refl s
  have hover : ExceptWf (TlbOnly s) (fun p => TlbOnly s p.2) (s.recOverlap ctx r) := ExceptWf.map (fun _ hp => hp) hspan
  exact hover.ok h

/-! ### Writes -/

/-- From `s` to `t` the core keeps its number of channels, and the clerk its PC. -/
def KeepsShape (s t : State) : Prop :=
  t.core.ces.length = s.core.ces.length ∧ t.core.clerk.pc = s.core.clerk.pc

theorem KeepsShape.refl (s : State) : KeepsShape s s := ⟨rfl, rfl⟩

theorem KeepsShape.trans {s t u : State} (h : KeepsShape s t) (h' : KeepsShape t u) : KeepsShape s u :=
  ⟨h'.1.trans h.1, h'.2.trans h.2⟩

theorem TlbOnly.keepsShape {s t : State} (h : TlbOnly s t) : KeepsShape s t :=
  ⟨congrArg (·.ces.length) h.core, congrArg (·.clerk.pc) h.core⟩

theorem keepsShape_updCe (s : State) (e : Nat) (f : Ce → Ce) : KeepsShape s (s.updCe e f) :=
  ⟨length_ces_updCe s e f, rfl⟩

theorem pendCause_pc (s : State) (code faddr detail : Nat) :
    (s.pendCause code faddr detail).core.clerk.pc = s.core.clerk.pc := by
  unfold State.pendCause Clerk.pendCause
  dsimp only [State.updClerk]
  split
  · rfl
  · split <;> rfl

theorem keepsShape_pendCause (s : State) (code faddr detail : Nat) : KeepsShape s (s.pendCause code faddr detail) :=
  ⟨rfl, pendCause_pc s code faddr detail⟩

theorem keepsShape_watchEngine (s : State) (e va n : Nat) : KeepsShape s (s.watchEngine e va n) := by
  unfold State.watchEngine
  split
  · refine KeepsShape.trans (t := s.pendWatch va _) ?_ (keepsShape_updCe _ e _)
    refine KeepsShape.trans ?_ (keepsShape_pendCause _ 0x11 va _)
    split
    · exact .refl s
    · exact ⟨List.length_map _, rfl⟩
  · exact .refl s

theorem keepsShape_ownWrite (s : State) (off n v : Nat) : KeepsShape s (s.ownWrite off n v) := by
  unfold State.ownWrite
  split
  · dsimp only
    split <;> exact .refl s
  · split <;> exact .refl s

theorem keepsShape_clearRun (s : State) (key n va : Nat) (cover : Nat × Nat) :
    ExceptWf (fun _ => True) (KeepsShape s) (s.clearRun key n va cover) := by
  unfold State.clearRun
  dsimp only
  split
  · trivial
  · exact .refl s

/-- A write of an engine may make a watchpoint pending and give a `waitw` its value; the shape of the core stays. -/
theorem keepsShape_ceWrite (s : State) (e : Nat) (ctx : BitVec 12) (va : Nat) (bs : List Byte) (cover : Nat × Nat) :
    ExceptWf (fun p => KeepsShape s p.2) (KeepsShape s) (s.ceWrite e ctx va bs cover) := by
  unfold State.ceWrite
  dsimp only
  split
  · rename_i hplace
    exact ((tlbOnly_cePlace s .store ctx va bs.length).error hplace).keepsShape
  · rename_i r hplace
    have hfilled := (tlbOnly_fillRes s r).keepsShape
    split
    · exact hfilled
    · split
      · exact hfilled
      · split
        · exact hfilled
        · rename_i x hclear
          have hx : KeepsShape s x := hfilled.trans ((keepsShape_clearRun _ _ _ _ _).ok hclear)
          refine hx.trans ((keepsShape_watchEngine x e va bs.length).trans ?_)
          split
          · exact keepsShape_ownWrite ..
          · exact ⟨rfl, rfl⟩

theorem keepsShape_ceWord0 (s : State) (e v : Nat) :
    ExceptWf (fun p => KeepsShape s p.2) (KeepsShape s) (s.ceWord0 e v) :=
  keepsShape_ceWrite ..

/-- The status is marked in word 0, or word 0 stays as it is (R86). -/
theorem keepsShape_ceMark (s : State) (e st : Nat) : SomeWf (KeepsShape s) (s.ceMark e st) := by
  unfold State.ceMark
  refine SomeWf.ite (KeepsShape.refl s) ?_
  extract_lets w0
  have hw0 : ExceptWf (fun p => KeepsShape s p.2) (fun p => KeepsShape s p.2) w0 := by
    unfold w0
    split
    · exact .refl s
    · refine ExceptWf.map (fun _ hp => hp) (q := fun p => KeepsShape s p.2) ?_
      cases hread : s.ceRead (s.ce e).ctx (s.ce e).head 8 with
      | error x => exact ((tlbOnly_ceRead s _ _ _).error hread).keepsShape
      | ok b => exact ((tlbOnly_ceRead s _ _ _).ok hread).keepsShape
  generalize w0 = r at hw0 ⊢
  match r, hw0 with
  | .error (.wait, _), _ => trivial
  | .error (.stop _ _, t), ht => exact ht
  | .error (.miss _ _, t), ht => exact ht
  | .ok w, hw =>
    have hw : KeepsShape s w.2 := hw
    dsimp only
    split
    · trivial
    · rename_i hword
      exact hw.trans ((keepsShape_ceWord0 w.2 e _).error hword)
    · rename_i hword
      exact hw.trans ((keepsShape_ceWord0 w.2 e _).ok hword)

/-! ### A record that stops -/

/-- The channel stands in STATE 4 with a status and the address that it logs (R86). -/
def StoppedWith (t : State) (e st addr : Nat) : Prop :=
  (t.ce e).state = .stopped ∧ (t.ce e).status = BitVec.ofNat 8 st ∧ (t.ce e).erra = addr

theorem ceEcc_core (s : State) (ctx : BitVec 12) (va : Nat) : (s.ceEcc ctx va).core = s.core := by
  unfold State.ceEcc
  split
  · split <;> rfl
  · rfl

/-- Before a record's end is told to its channel, an error is counted at the wing and the handle counts the record. -/
def beforeStop (s : State) (e st addr : Nat) : State :=
  let t := if st == 0x09 then s.ceEcc (s.ce e).ctx addr else s
  if (s.ce e).counted && !resumable st && st != 0x0B then
    t.updHandle (recHandle (s.ce e).rcd) (·.failed (BitVec.ofNat 8 st)) else t

theorem beforeStop_keeps (s : State) (e st addr : Nat) :
    (beforeStop s e st addr).core.ces = s.core.ces ∧ (beforeStop s e st addr).core.clerk.pc = s.core.clerk.pc := by
  unfold beforeStop
  extract_lets t
  have ht : t.core = s.core := by
    unfold t
    split
    · exact ceEcc_core ..
    · rfl
  split
  · exact ⟨(updHandle_ces ..).trans (congrArg Core.ces ht), (updHandle_pc ..).trans (congrArg (·.clerk.pc) ht)⟩
  · exact ⟨congrArg Core.ces ht, congrArg (·.clerk.pc) ht⟩

/-- How the channel of a record that stops stands. -/
def stopped (st addr : Nat) (c : Ce) : Ce :=
  { c with status := BitVec.ofNat 8 st, erra := if st == 0x0B then c.erra else addr, counted := c.counted && resumable st
           stop := none, nvme := false, state := .stopped }

/-- The channel told that its record has stopped, before the clerk is. -/
def afterStop (s : State) (e st addr : Nat) : State := ((beforeStop s e st addr).updCe e (stopped st addr)).wake

theorem ceStopped_of_silent {s : State} {e st addr : Nat} (h : statusCause st = none) :
    s.ceStopped e st addr = afterStop s e st addr := by
  simp only [State.ceStopped, h, State.ceState, updCe_updCe]
  rfl

theorem ceStopped_of_cause {s : State} {e st addr cause : Nat} (h : statusCause st = some cause) : s.ceStopped e st addr =
    (afterStop s e st addr).pendCause cause addr (st + e * 2 ^ 8 + bitsOf (s.ce e).head 47 6 * 2 ^ 9) := by
  simp only [State.ceStopped, h, State.ceState, updCe_updCe]
  rfl

/-- A cause made pending touches neither the channel nor the PC. -/
theorem ceStopped_keeps (s : State) (e st addr : Nat) : (s.ceStopped e st addr).ce e = (afterStop s e st addr).ce e ∧
    (s.ceStopped e st addr).core.clerk.pc = (afterStop s e st addr).core.clerk.pc := by
  cases h : statusCause st with
  | none =>
    rw [ceStopped_of_silent h]
    exact ⟨rfl, rfl⟩
  | some cause =>
    rw [ceStopped_of_cause h]
    exact ⟨rfl, pendCause_pc ..⟩

theorem ce_ceStopped {s : State} {e : Nat} (st addr : Nat) (h : e < s.core.ces.length) :
    (s.ceStopped e st addr).ce e = stopped st addr (s.ce e) := by
  obtain ⟨hces, -⟩ := beforeStop_keeps s e st addr
  rw [(ceStopped_keeps s e st addr).1, afterStop, wake_ce, ce_updCe _ (by rw [hces]; exact h)]
  exact congrArg (fun l => stopped st addr (l.getD e Ce.reset)) hces

theorem ceStopped_pc (s : State) (e st addr : Nat) : (s.ceStopped e st addr).core.clerk.pc = s.core.clerk.pc :=
  (ceStopped_keeps s e st addr).2.trans (beforeStop_keeps s e st addr).2

/-- A record whose status can be marked stops with it; the PC stays. -/
theorem ceStop_stopped {s : State} {e st : Nat} (addr : Nat) (hst : st ≠ 0x0B) (h : e < s.core.ces.length)
    (hmark : (s.ceMark e st).isSome = true) :
    StoppedWith (s.ceStop e st addr) e st addr ∧ (s.ceStop e st addr).core.clerk.pc = s.core.clerk.pc := by
  obtain ⟨t, ht⟩ := Option.isSome_iff_exists.1 hmark
  obtain ⟨hlength, hpc⟩ := (keepsShape_ceMark s e st).some ht
  have hstop : s.ceStop e st addr = t.ceStopped e st addr := by
    simp [State.ceStop, hst, ht]
  rw [hstop, StoppedWith, ce_ceStopped _ _ (hlength ▸ h)]
  exact ⟨⟨rfl, rfl, if_neg (by simpa using hst)⟩, (ceStopped_pc ..).trans hpc⟩

/-- A record whose word 0 must wait stops later. -/
theorem ceStop_waits {s : State} {e st : Nat} (addr : Nat) (hst : st ≠ 0x0B) (hmark : s.ceMark e st = none) :
    s.ceStop e st addr = s.updCe e fun c => { c with stop := some (st, addr), nvme := false } := by
  simp [State.ceStop, hst, hmark]

/-- A record that a recall or a kill ends writes nothing, and its handle is not told (R90, R123). -/
theorem ceStop_killed (s : State) (e addr : Nat) : s.ceStop e 0x0B addr = (s.updCe e (stopped 0x0B addr)).wake := by
  have hbefore : beforeStop s e 0x0B addr = s := by simp [beforeStop]
  have hstop : s.ceStop e 0x0B addr = s.ceStopped e 0x0B addr := rfl
  rw [hstop, ceStopped_of_silent rfl, afterStop, hbefore]

end Sys2Proof.Claims
end

section
/-!
# The handle instructions (O30)

`halloc` and `hfree` change the state of their handle or trap (`traps_halloc`, `traps_hfree`), both by the same fault
(`handleFlt`); `hwait` issues, or traps at its issue.
-/

namespace Sys2Proof.Claims
open Sys2Proof.Machine

/-! ### The faults of `halloc` and `hfree` -/

theorem handleFlt_of_state (s : State) {n : Nat} (hn : n ≤ 63) : handleFlt s n = ⟨0x0F, 0, n⟩ :=
  if_neg (Nat.not_lt.mpr hn)

theorem handleFlt_of_number (s : State) {n : Nat} (hn : 63 < n) : handleFlt s n = ⟨0x08, s.core.clerk.pc.toNat, 0⟩ :=
  if_pos hn

/-- An instruction on a handle in a state that the table does not list for it traps with 0x0F (R89). -/
theorem traps_handleFlt_of_state {s : State} {n : Nat} (i : Instr) (hn : n ≤ 63) (hfrozen : s.core.clerk.frozen = false) :
    Traps s (.next (s.trapInstr i 0 n 0 (handleFlt s n))) 0x0F 0 := by
  rw [handleFlt_of_state s hn]
  exact traps_trapInstr i 0 n 0 (by simp) hfrozen

/-- One that names no handle traps with 0x08 at its own address (R253). -/
theorem traps_handleFlt_of_number {s : State} {n : Nat} (i : Instr) (hn : 63 < n) (hfrozen : s.core.clerk.frozen = false) :
    Traps s (.next (s.trapInstr i 0 n 0 (handleFlt s n))) 0x08 s.core.clerk.pc.toNat := by
  rw [handleFlt_of_number s hn]
  have htraps := traps_trapInstr (f := ⟨0x08, s.core.clerk.pc.toNat, 0⟩) i 0 n 0 (by simp) hfrozen
  rwa [Nat.mod_eq_of_lt s.core.clerk.pc.isLt] at htraps

/-! ### The instructions -/

section
variable {s : State} {a : Reg}

theorem exec_halloc_of_free (hn : (s.reg a).toNat ≤ 63) (hst : (s.handle (s.reg a).toNat).st = .free) :
    exec (.halloc a) s =
      .next ((s.updHandle (s.reg a).toNat fun _ => { Handle.reset with st := .filling }).advance 4) :=
  if_pos (by simp [hn, hst])

theorem exec_halloc_of_refused (h : ¬ ((s.reg a).toNat ≤ 63 ∧ (s.handle (s.reg a).toNat).st = .free)) :
    exec (.halloc a) s = .next (s.trapInstr (.halloc a) 0 (s.reg a).toNat 0 (handleFlt s (s.reg a).toNat)) :=
  if_neg (by simpa using h)

theorem exec_hfree_of_listed (hn : (s.reg a).toNat ≤ 63)
    (hst : (s.handle (s.reg a).toNat).st = .full ∨ (s.handle (s.reg a).toNat).st = .draining) :
    exec (.hfree a) s = if s.core.clerk.waitsOn (s.reg a).toNat then .next s
      else .next ((s.updHandle (s.reg a).toNat fun e => { e with st := .free }).advance 4) :=
  if_pos (by simp [hn, hst])

theorem exec_hfree_of_refused (h : ¬ ((s.reg a).toNat ≤ 63 ∧
      ((s.handle (s.reg a).toNat).st = .full ∨ (s.handle (s.reg a).toNat).st = .draining))) :
    exec (.hfree a) s = .next (s.trapInstr (.hfree a) 0 (s.reg a).toNat 0 (handleFlt s (s.reg a).toNat)) :=
  if_neg (by simpa using h)

theorem exec_hwait (d : Reg) : exec (.hwait d a) s =
    .next ((s.advance 4).issueHwait (s.src (.hwait d a) d) (s.reg a).toNat) := rfl

end

theorem issueHwait_of_number (t : State) (x : Src) {n : Nat} (hn : 63 < n) :
    t.issueHwait x n = t.trapSrc x n 0 0 (formatAt x) := if_pos hn

theorem issueHwait_of_free {t : State} (x : Src) {n : Nat} (hn : n ≤ 63) (hst : (t.handle n).st = .free) :
    t.issueHwait x n = t.trapSrc x n 0 0 ⟨0x0F, 0, n⟩ := by
  rw [State.issueHwait, if_neg (Nat.not_lt.mpr hn), hst]

theorem issueHwait_of_not_free {t : State} (x : Src) {n : Nat} (hn : n ≤ 63) (hst : (t.handle n).st ≠ .free) :
    t.issueHwait x n = t.push x (x.unfin n 0 0 0 (.hwait n)) := by
  rw [State.issueHwait, if_neg (Nat.not_lt.mpr hn)]
  split
  · exact absurd ‹_› hst
  · rfl

/-- Settles O30: each instruction by the number and the state of its handle. -/
theorem handleInstructions : Obligations.HandleInstructions := by
  unfold Obligations.HandleInstructions
  intro d a s
  dsimp only
  refine ⟨exec_halloc_of_free, fun hn hst => ⟨fun hnone => ?_, fun hwaits => ?_⟩, fun hn hst => ?_,
    fun hfrozen hn => ⟨fun hst => ?_, fun hst => ?_, fun hst => ?_⟩, fun hfrozen hn => ⟨?_, ?_, ?_⟩⟩
  · rw [exec_hfree_of_listed hn hst, if_neg (by simp [hnone])]
  · rw [exec_hfree_of_listed hn hst, if_pos hwaits]
  · rw [exec_hwait, issueHwait_of_not_free (t := s.advance 4) _ hn hst]
    have hissued := issued_push s (s.advance 4) (.hwait d a) d (s.reg a).toNat 0 0 0 (.hwait (s.reg a).toNat)
    rwa [Nat.mod_eq_of_lt (by omega)] at hissued
  · rw [exec_halloc_of_refused fun h => hst h.2]
    exact traps_handleFlt_of_state _ hn hfrozen
  · have hrefused : ¬ ((s.handle (s.reg a).toNat).st = .full ∨ (s.handle (s.reg a).toNat).st = .draining) := by
      obtain hfree | hfilling := hst
      · simp [hfree]
      · simp [hfilling]
    rw [exec_hfree_of_refused fun h => hrefused h.2]
    exact traps_handleFlt_of_state _ hn hfrozen
  · rw [exec_hwait, issueHwait_of_free (t := s.advance 4) _ hn hst]
    exact traps_trapSrc _ _ _ _ _ _ (by simp) hfrozen
  · rw [exec_halloc_of_refused fun h => Nat.not_lt.mpr h.1 hn]
    exact traps_handleFlt_of_number _ hn hfrozen
  · rw [exec_hfree_of_refused fun h => Nat.not_lt.mpr h.1 hn]
    exact traps_handleFlt_of_number _ hn hfrozen
  · rw [exec_hwait, issueHwait_of_number _ _ hn]
    have htraps := traps_trapSrc (f := formatAt (s.src (.hwait d a) d)) (.hwait d a) d 4 (s.reg a).toNat 0 0
      (by simp [formatAt]) hfrozen
    simpa only [formatAt, State.src, Nat.mod_eq_of_lt s.core.clerk.pc.isLt] using htraps

end Sys2Proof.Claims
end

section
/-!
# A result returns (O37)

A finished instruction writes nothing, a scalar register or a command register (`complete_cases`). Every other register stands
(`complete_other`); one with a scalar result leaves it in its destination (`complete_of_returns`).
-/

namespace Sys2Proof.Claims
open Sys2Proof.Machine

/-! ### A register that gets its value -/

theorem present_setPresent_true (c : Clerk) (d : Reg) : (c.setPresent d true).present d = true := by
  unfold Clerk.setPresent Clerk.present
  split
  · rename_i hd
    simp [hd]
  · simp [putBit, d.isLt]

theorem present_setPresent_other (c : Clerk) {d r : Reg} (b : Bool) (hr : r ≠ d) :
    (c.setPresent d b).present r = c.present r := by
  have hne : d.toNat ≠ r.toNat := fun h => hr (BitVec.eq_of_toNat_eq h.symm)
  unfold Clerk.setPresent Clerk.present putBit
  split
  · rfl
  · split <;> simp [hne.symm, r.isLt]

theorem nowPresent_eq (c : Clerk) (d : Reg) : ∃ w, c.nowPresent d = { c.setPresent d true with wfeEvent := w } := by
  unfold Clerk.nowPresent
  split
  · rename_i hd
    exact ⟨c.wfeEvent, by rw [hd]; rfl⟩
  · exact ⟨true, rfl⟩

/-- The destination of a result: its value, but for `s0`, and its presence bit (R199, R200). -/
theorem setReg_nowPresent_same (c : Clerk) (d : Reg) (v : Dword) :
    ((c.setReg d v).nowPresent d).reg d = (if d = 0 then 0 else v) ∧ ((c.setReg d v).nowPresent d).present d = true ∧
      ((c.setReg d v).nowPresent d).kregs = c.kregs := by
  obtain ⟨w, hw⟩ := nowPresent_eq (c.setReg d v) d
  rw [hw]
  refine ⟨?_, present_setPresent_true .., ?_⟩
  · exact (Clerk.setPresent_reg ..).trans (c.reg_setReg_same d v)
  · exact (Clerk.setPresent_kregs ..).trans (Clerk.setReg_kregs ..)

theorem setReg_nowPresent_other (c : Clerk) {d r : Reg} (v : Dword) (hr : r ≠ d) :
    ((c.setReg d v).nowPresent d).reg r = c.reg r ∧ ((c.setReg d v).nowPresent d).present r = c.present r := by
  obtain ⟨w, hw⟩ := nowPresent_eq (c.setReg d v) d
  rw [hw]
  refine ⟨(Clerk.setPresent_reg ..).trans (c.reg_setReg_other d r v hr), ?_⟩
  refine (present_setPresent_other _ _ hr).trans ?_
  simp only [Clerk.present, Clerk.setReg_pres]

/-! ### The end of an instruction -/

/-- What an instruction that has finished leaves in a command register. -/
def kregWritten (c : Clerk) (k : KReg) (v : Qword) : Clerk := ((c.setKreg k v).setKpresent k true).wake

/-- An instruction that has finished writes nothing; or a scalar register, with flags where it has some; or a command
register. -/
theorem complete_cases (c : Clerk) (u : Unfin) (v : Qword) : c.complete u v = c ∨
    (∃ f, c.complete u v = ({ c with fpstat := f }.setReg u.dest (v.setWidth 64)).nowPresent u.dest) ∨
    c.complete u v = kregWritten c (u.dest.setWidth 3) v := by
  unfold Clerk.complete
  split
  · exact .inl rfl
  · exact .inl rfl
  · exact .inl rfl
  · exact .inr (.inl ⟨_, rfl⟩)
  · split
    · exact .inr (.inr rfl)
    · exact .inr (.inl ⟨c.fpstat, rfl⟩)

/-- The registers beside the destination stand. -/
theorem complete_other (c : Clerk) (u : Unfin) (v : Qword) {r : Reg} (hr : r ≠ u.dest) :
    (c.complete u v).reg r = c.reg r ∧ (c.complete u v).present r = c.present r := by
  obtain h | ⟨f, h⟩ | h := complete_cases c u v <;> rw [h]
  · exact ⟨rfl, rfl⟩
  · exact setReg_nowPresent_other _ _ hr
  · exact ⟨rfl, rfl⟩

/-- An instruction that has a destination. -/
def returns : Work → Bool
  | .store _ _ _ | .release _ | .xbank _ => false
  | _ => true

theorem complete_of_returns (c : Clerk) {u : Unfin} (v : Qword) (hwork : returns u.work = true) (hkd : u.kd = false) :
    (c.complete u v).reg u.dest = (if u.dest = 0 then 0 else v.setWidth 64) ∧
      (c.complete u v).present u.dest = true ∧ (c.complete u v).kregs = c.kregs := by
  have hscalar : ∃ f, c.complete u v = ({ c with fpstat := f }.setReg u.dest (v.setWidth 64)).nowPresent u.dest := by
    unfold Clerk.complete
    split
    · simp [returns, *] at hwork
    · simp [returns, *] at hwork
    · simp [returns, *] at hwork
    · exact ⟨_, rfl⟩
    · exact ⟨c.fpstat, by rw [hkd]; rfl⟩
  obtain ⟨f, h⟩ := hscalar
  rw [h]
  exact setReg_nowPresent_same ..

/-- A command register read from memory holds its value, and is present (R250). -/
theorem complete_of_loadK (c : Clerk) {u : Unfin} (v : Qword) {pl : Place} (hwork : u.work = .loadK pl) (hkd : u.kd = true) :
    (c.complete u v).kreg (u.dest.setWidth 3) = v ∧ (c.complete u v).kpresent (u.dest.setWidth 3) = true ∧
      (c.complete u v).regs = c.regs := by
  have hwritten : c.complete u v = kregWritten c (u.dest.setWidth 3) v := by
    simp only [Clerk.complete, hwork, hkd, if_true]
    rfl
  rw [hwritten]
  refine ⟨?_, ?_, rfl⟩
  · simp [kregWritten, Clerk.wake, Clerk.setKpresent, Clerk.setKreg, Clerk.kreg, Vector.get_eq_getElem]
  · simp [kregWritten, Clerk.wake, Clerk.setKpresent, Clerk.setKreg, Clerk.kpresent, putBit, Nat.mod_lt]

/-- The clerk without its `k`-th unfinished instruction. -/
def without (c : Clerk) (k : Nat) : Clerk := { c with unfin := c.unfin.eraseIdx k }

theorem writeResult_clerk (s : State) (k : Nat) (u : Unfin) (v : Qword) :
    (s.writeResult k u v).core.clerk = (without s.core.clerk k).complete u v := rfl

/-! ### The step -/

/-- The handle after the claim of an `hwait` (R89). -/
def claimed (s : State) (h : Nat) : State := s.updHandle h fun e => { e with st := .draining }

section
variable {s : State} {k : Nat} {u : Unfin} (hu : s.unfin k = some u)
include hu

theorem exec_asyncResultWrite_of_done {v : Qword} (hdone : u.done = some v) :
    exec (.asyncResultWrite k) s = .next (s.writeResult k u v) := by
  show execAsyncResultWrite k s = _
  simp only [execAsyncResultWrite, hu, hdone]

theorem exec_asyncResultWrite_of_hwait {h : Nat} (hdone : u.done = none) (hwork : u.work = .hwait h) :
    exec (.asyncResultWrite k) s =
      if s.mayPerform k && ((s.handle h).st = .full || (s.handle h).st = .draining) then
        .next ((claimed s h).writeResult k u ((s.handle h).result.setWidth 128))
      else .next s := by
  show execAsyncResultWrite k s = _
  simp only [execAsyncResultWrite, hu, hdone, hwork]
  rfl

theorem exec_asyncResultWrite_of_refused {i : Nat} (hdone : u.done = none) (hwork : u.work = .join i .refused) :
    exec (.asyncResultWrite k) s = .next (s.trapUnfin k ⟨0x08, u.pc.toNat, 0⟩) := by
  show execAsyncResultWrite k s = _
  simp only [execAsyncResultWrite, hu, hdone, hwork]

/-- An unfinished instruction that traps takes the exception at its own PC (R231, R318). -/
theorem traps_trapUnfin {f : Flt} (hcause : f.cause < 256) (hfrozen : s.core.clerk.frozen = false) :
    Traps s (.next (s.trapUnfin k f)) f.cause (f.addr % 2 ^ 48) := by
  have hdrop : s.core.clerk.unfin.drop k = u :: s.core.clerk.unfin.drop (k + 1) := by
    obtain ⟨hk, hget⟩ := List.getElem?_eq_some_iff.1 hu
    rw [List.drop_eq_getElem_cons hk, hget]
  obtain ⟨m, p, henter, hother⟩ :=
    s.enterTrap_spec ⟨f.cause, f.addr, f.detail, false, u.pc, s.resumePc⟩ (some k) [] hfrozen
  rw [State.trapUnfin, hdrop]
  simp only [henter]
  refine ⟨_, rfl, rfl, rfl, rfl, ?_, rfl, rfl, fun hnil => ?_, fun hwf a ha => (hother hwf).2 a ha⟩
  · simp [b2n, Nat.mod_eq_of_lt hcause]
  · rw [hnil] at hdrop
    simp at hdrop

end

/-- Settles O37: each result by what `Clerk.complete` writes. -/
theorem resultsReturn : Obligations.ResultsReturn := by
  unfold Obligations.ResultsReturn
  intro k u s hu
  refine ⟨fun v hdone => ?_, fun h hdone hwork hkd => ⟨fun hheld => ?_, fun hmay hst hh => ?_, fun hst => ?_⟩,
    fun i hdone hwork hfrozen => ?_⟩
  · obtain ⟨hpc, -, -, -, hunfin, -, -, -⟩ := (without s.core.clerk k).complete_keeps u v
    refine ⟨_, exec_asyncResultWrite_of_done hu hdone, hunfin, rfl, hpc, fun r hr => complete_other _ u v hr,
      fun hwork hkd => complete_of_returns _ v ?_ hkd, fun pl hwork hkd => complete_of_loadK _ v hwork hkd⟩
    obtain ⟨w, pl, h⟩ | ⟨op, pl, b, c, o, h⟩ | ⟨x, h⟩ | ⟨o, e, q, h⟩ := hwork <;> rw [h] <;> rfl
  · rw [exec_asyncResultWrite_of_hwait hu hdone hwork, hheld]
    rfl
  · obtain ⟨hreg, hpresent, -⟩ := complete_of_returns
      (without (claimed s h).core.clerk k) ((s.handle h).result.setWidth 128)
      (by rw [hwork]; rfl) hkd
    refine ⟨(claimed s h).writeResult k u ((s.handle h).result.setWidth 128), ?_,
      congrArg Handle.st (handle_updHandle _ hh), hpresent, hreg.trans ?_⟩
    · rw [exec_asyncResultWrite_of_hwait hu hdone hwork, if_pos (by simpa [hmay] using hst)]
    · rw [BitVec.setWidth_setWidth_of_le _ (by decide), BitVec.setWidth_eq]
      rfl
  · rw [exec_asyncResultWrite_of_hwait hu hdone hwork, if_neg]
    obtain h | h := hst <;> simp [h]
  · rw [exec_asyncResultWrite_of_refused hu hdone hwork]
    have htraps := traps_trapUnfin hu (f := ⟨0x08, u.pc.toNat, 0⟩) (by simp) hfrozen
    rwa [Nat.mod_eq_of_lt u.pc.isLt] at htraps

end Sys2Proof.Claims
end

section
/-!
# Copy channels started, aborted, resumed and kicked (O35)

Each control goes by the STATE of its channel. Where no set is borrowed a start is made at once (`ceStart_now`); `cchain` and
`cabort` do what a write of CEHEAD and an ABORT do, as they are accepted (`exec_cchain_of_acceptable`).
-/

namespace Sys2Proof.Claims
open Sys2Proof.Machine

/-- A channel in STATE 2 or 3. -/
def Running (c : Ce) : Prop := c.state = .run ∨ c.state = .wait

/-! ### Starts -/

theorem exec_ceChainStart_of_ok {s t : State} {e : BitVec 1} {v : Dword} (h : s.ceStart e.toNat v.toNat = .ok t) :
    exec (.ceChainStart e v) s = .next t := by
  show execCeChainStart e v s = _
  rw [execCeChainStart, h]

/-- Outside a borrow a chain starts at once, and counts as started by the task (R81). -/
theorem ceStart_now {s : State} {e head : Nat} (h : ∀ k, s.task = some k → s.borrows k = false) :
    s.ceStart e head = .ok (s.ceStartNow s.task e head) := by
  unfold State.ceStart
  cases htask : s.task with
  | none => rfl
  | some k => simp [h k htask]

/-- Within a borrow it is deferred (R127). -/
theorem ceStart_deferred {s : State} {k : TaskKey} {q : TaskRec} (e : BitVec 1) {head : Nat} (htask : s.task = some k)
    (hborrows : s.borrows k = true) (hq : s.findRec k = some q) (hroom : q.deferred.length < 16) :
    s.ceStart e.toNat head = .ok (s.updRec k fun y => { y with deferred := y.deferred ++ [.chain e head] }) := by
  simp [State.ceStart, htask, hborrows, hq, Nat.not_le.mpr hroom]

section
variable {s : State} {e head : Nat} (starter : Option TaskKey)

theorem ceStartNow_misused (h : Running (s.ce e) ∨ head % 64 ≠ 0) :
    s.ceStartNow starter e head = s.updCe e fun y => { y with err := true } :=
  if_pos (by simpa [Running, or_assoc] using h)

/-- A start of a context that is being killed is discarded (R90). -/
theorem ceStartNow_killed (hidle : ¬ Running (s.ce e)) (halign : head % 64 = 0)
    (hkill : s.modl.killDone = false ∧ s.modl.killCtx = s.ctx) : s.ceStartNow starter e head = s := by
  unfold State.ceStartNow
  dsimp only
  rw [if_neg (by simpa [Running, halign] using hidle), if_pos (by simpa using hkill)]

/-- A stopped record that is abandoned leaves the count of its handle (R81). -/
def abandoned (s : State) (e : Nat) : State :=
  if (s.ce e).state = .stopped ∧ (s.ce e).counted = true then
    s.updHandle (recHandle (s.ce e).rcd) fun y => { y with pend := y.pend - 1 } else s

theorem ceStartNow_taken (hidle : ¬ Running (s.ce e)) (halign : head % 64 = 0)
    (hkill : ¬ (s.modl.killDone = false ∧ s.modl.killCtx = s.ctx)) :
    s.ceStartNow starter e head = (State.updCe ((abandoned s e).updCe e fun y => { y with
      ctx := s.ctx, owner := starter, status := 0 }) e (onRecord (head % 2 ^ 48))).wake := by
  unfold State.ceStartNow abandoned
  dsimp only
  rw [if_neg (by simpa [Running, halign] using hidle), if_neg (by simpa using hkill), ceGo_eq]
  simp only [Bool.and_eq_true, decide_eq_true_eq]
  split
  · rw [updHandle_ctx]
  · rfl

end

/-! ### Commands -/

/-- A command for a channel that passes everything acts as it is accepted (R268). -/
theorem acceptCmd_of_acceptable {s t : State} {i c : Instr} (h : Acceptable s i c) (ht : s.cmdAccept c = .ok t) :
    s.acceptCmd (.issue 0) 0 i = t.advance 4 := by
  obtain ⟨hrefs, hsample, hcheck, hperformed, hroom⟩ := h
  simp [State.acceptCmd, hrefs, hsample, hcheck, hperformed, hroom, ht]
  rfl

theorem exec_cchain_of_acceptable {s t : State} {e : BitVec 1} {r : Reg} {h h' : BitVec 48}
    (haccept : Acceptable s (.cchain e r h) (.cchain e r h')) (ht : s.ceStart e.toNat h'.toNat = .ok t) :
    exec (.cchain e r h) s = .next (t.advance 4) :=
  congrArg _ (acceptCmd_of_acceptable haccept ht)

theorem exec_cabort_of_acceptable {s : State} {e : BitVec 1} (haccept : Acceptable s (.cabort e) (.cabort e)) :
    exec (.cabort e) s = .next ((s.ceAbort e.toNat).advance 4) :=
  congrArg _ (acceptCmd_of_acceptable haccept rfl)

/-! ### ABORT -/

section
variable {s : State} {e : Nat}

theorem ceAbort_of_running (hrun : Running (s.ce e)) (hstop : (s.ce e).stop = none) (hkill : s.ceKilled e = false) :
    s.ceAbort e = s.ceStop e 0x0A (s.ce e).head :=
  if_pos (by simpa [hstop, hkill, Running] using hrun)

theorem ceAbort_of_idle (hidle : ¬ Running (s.ce e)) : s.ceAbort e = s := by
  refine if_neg fun h => hidle ?_
  simp only [Bool.and_eq_true, Bool.or_eq_true, decide_eq_true_eq] at h
  obtain ⟨⟨hrun, -⟩, -⟩ := h
  exact hrun

theorem ceAbort_of_killed (hkill : s.ceKilled e = true) : s.ceAbort e = s :=
  if_neg (by simp [hkill])

/-! ### RESUME -/

theorem resumable_iff (st : Byte) : resumable st.toNat = true ↔ st = 0x01 ∨ st = 0x0C := by
  simp [resumable, BitVec.toNat_eq]

theorem ceResume_of_resumable (hstate : (s.ce e).state = .stopped) (hst : (s.ce e).status = 0x01 ∨ (s.ce e).status = 0x0C) :
    s.ceResume e = (s.updCe e fun c => { Ce.reread { c with status := 0 } with state := .run }).wake := by
  have hgo : s.ceResume e = (s.updCe e fun c => Ce.reread { c with status := 0 }).ceState e .run :=
    if_pos (by simp [hstate, (resumable_iff _).2 hst])
  rw [hgo, State.ceState, updCe_updCe]

theorem ceResume_misused (h : ¬ ((s.ce e).state = .stopped ∧ ((s.ce e).status = 0x01 ∨ (s.ce e).status = 0x0C))) :
    s.ceResume e = s.updCe e fun y => { y with err := true } :=
  if_neg (by simpa [resumable_iff] using h)

/-- What a channel has still to read goes by its record and the bytes that it holds. -/
theorem unread_congr {c d : Ce} (hrcd : c.rcd = d.rcd) (hheld : c.held = d.held) (n i : Nat) : c.unread n i = d.unread n i := by
  induction n generalizing i with
  | zero => rfl
  | succ n ih =>
    unfold Ce.unread
    simp only [hrcd, hheld, ih]

theorem scanFrom_running (c : Ce) (i : Nat) :
    { Ce.scanFrom c i with state := .run } = Ce.scanFrom { c with state := .run } i := by
  unfold Ce.scanFrom
  rw [unread_congr (c := { c with state := .run }) (d := c) rfl rfl]
  rfl

/-! ### KICK -/

theorem ceKick_of_running (hrun : Running (s.ce e)) : s.ceKick e = s.updCe e fun c => { c with kick := true } := by
  obtain h | h := hrun <;> simp only [State.ceKick, h]

theorem ceKick_of_idleOwn (h : (s.ce e).state = .idleOwn) : s.ceKick e = s.ceGo e (s.ce e).head := by
  simp only [State.ceKick, State.ceLook, h]

theorem ceKick_of_idleEnd (h : (s.ce e).state = .idleEnd) :
    s.ceKick e = if (s.ce e).chain then s.ceNext e else s.updCe e fun c => { c with kick := false } := by
  simp only [State.ceKick, State.ceLook, h]

theorem ceKick_of_stopped (h : (s.ce e).state = .stopped) : s.ceKick e = s := by
  simp only [State.ceKick, h]

theorem ceNext_of_none {u : State} {b : List Byte} (hread : s.ceRead (s.ce e).ctx (addrPlus (s.ce e).head 56) 8 = .ok (b, u))
    (hb : ofBytes b = 0) : s.ceNext e = u.updCe e fun c => { c with kick := false } := by
  simp only [State.ceNext, hread, hb, beq_self_eq_true, if_true]

theorem ceNext_of_some {u : State} {b : List Byte} (hread : s.ceRead (s.ce e).ctx (addrPlus (s.ce e).head 56) 8 = .ok (b, u))
    (hb : ofBytes b ≠ 0) (hlow : ofBytes b < 2 ^ 48) (halign : ofBytes b % 64 = 0) :
    s.ceNext e = (u.updCe e fun c => { c with kick := false }).ceGo e (ofBytes b) := by
  have hword : (ofBytes b / 2 ^ 48 != 0 || ofBytes b % 64 != 0) = false := by
    rw [Nat.div_eq_of_lt hlow, halign]
    rfl
  simp only [State.ceNext, hread, beq_eq_false_iff_ne.mpr hb, hword, Bool.false_eq_true, if_false]

end

/-- Settles O35: each control by the STATE that it finds. -/
theorem copyChannelControl : Obligations.CopyChannelControl := by
  unfold Obligations.CopyChannelControl
  intro e r h h' v s
  dsimp only
  refine ⟨fun hborrows => ⟨fun hidle halign hkill => ?_, fun hidle halign hkill => ?_, fun hbad => ?_,
      fun haccept => ⟨fun hidle halign hkill => ?_, fun hbad => ?_⟩⟩,
    fun k q htask hborrows hq hroom => exec_ceChainStart_of_ok (ceStart_deferred e htask hborrows hq hroom), rfl,
    fun hrun hstop hkill hlen => ⟨fun hmark => ⟨?_, fun haccept => ?_⟩, fun hmark => ?_⟩,
    fun hrun hkill => congrArg _ (ceAbort_of_killed hkill), fun hidle => ⟨congrArg _ (ceAbort_of_idle hidle), fun haccept => ?_⟩,
    fun hstate hst => ⟨fun hscan => ?_, fun hscan => ?_⟩, fun hbad => congrArg _ (ceResume_misused hbad),
    fun hrun => congrArg _ (ceKick_of_running hrun), fun hstate => ?_,
    fun hstate hkick hchain b u hread => ⟨fun hb => ?_, fun hb hlow halign => ?_⟩,
    fun hstate => congrArg _ (ceKick_of_stopped hstate), fun hstate hkick hchain => ?_⟩
  · exact exec_ceChainStart_of_ok ((ceStart_now hborrows).trans (congrArg _ (ceStartNow_killed _ hidle halign hkill)))
  · exact exec_ceChainStart_of_ok ((ceStart_now hborrows).trans (congrArg _ (ceStartNow_taken _ hidle halign hkill)))
  · exact exec_ceChainStart_of_ok ((ceStart_now hborrows).trans (congrArg _ (ceStartNow_misused _ hbad)))
  · rw [exec_cchain_of_acceptable haccept (ceStart_now hborrows), ceStartNow_taken _ hidle halign hkill,
      Nat.mod_eq_of_lt h'.isLt]
    rfl
  · rw [exec_cchain_of_acceptable haccept (ceStart_now hborrows), ceStartNow_misused _ hbad]
  · exact ⟨_, congrArg Host.Outcome.next (ceAbort_of_running hrun hstop hkill), (ceStop_stopped _ (by decide) hlen hmark).1⟩
  · obtain ⟨hstopped, hpc⟩ := ceStop_stopped (s.ce e.toNat).head (by decide) hlen hmark
    refine ⟨_, exec_cabort_of_acceptable haccept, ?_⟩
    rw [ceAbort_of_running hrun hstop hkill]
    exact ⟨hstopped, congrArg (· + 4) hpc⟩
  · exact congrArg _ ((ceAbort_of_running hrun hstop hkill).trans (ceStop_waits _ (by decide) hmark))
  · rw [exec_cabort_of_acceptable haccept, ceAbort_of_idle hidle]
  · refine congrArg _ ((ceResume_of_resumable hstate hst).trans (congrArg State.wake (updCe_congr ?_)))
    simp only [Ce.reread, hscan, Option.isSome_none, Bool.false_eq_true, if_false]
  · refine congrArg _ ((ceResume_of_resumable hstate hst).trans (congrArg State.wake (updCe_congr ?_)))
    simp only [Ce.reread, hscan, if_true]
    exact scanFrom_running _ 0
  · exact congrArg _ ((ceKick_of_idleOwn hstate).trans (ceGo_eq ..))
  · exact congrArg _ ((ceKick_of_idleEnd hstate).trans ((if_pos hchain).trans (ceNext_of_none hread hb)))
  · refine congrArg _ ((ceKick_of_idleEnd hstate).trans ((if_pos hchain).trans ?_))
    rw [ceNext_of_some hread hb hlow halign, ceGo_eq]
    rfl
  · refine ⟨_, congrArg Host.Outcome.next ((ceKick_of_idleEnd hstate).trans (if_neg (by simp [hchain]))), ?_, rfl, rfl⟩
    exact (ce_updCe_field Ce.state s e.toNat (f := fun c => { c with kick := false }) fun _ => rfl).trans hstate

end Sys2Proof.Claims
end

section
/-!
# Transfer records (O48)

A channel reads its record (`ceReadRecord_of_reads`), which waits, starts or stops by its checks; goes on by one access
(`exec_copyRecordComplete_of_ok`) through its payload and then through the stages after it
(`exec_copyRecordComplete_of_paid`); and stops where an access meets an error (`exec_copyRecordStop_of_error`), or at a
boundary (`exec_copyBoundaryStop_of_aligned`).
-/

namespace Sys2Proof.Claims
open Sys2Proof.Machine

theorem bitOf_eq (x k : Nat) : bitOf x k = decide (x / 2 ^ k % 2 = 1) := Nat.testBit_eq_decide_div_mod_eq

/-! ### A record is read -/

/-- The words of the 64 bytes of a record (R82). -/
def recordWords (bs : List Byte) : List Dword :=
  (List.range 8).map fun i => BitVec.ofNat 64 (ofBytes ((bs.drop (8 * i)).take 8))

/-- OWN is bit 63 of the first word. -/
theorem own_recordWords (bs : List Byte) :
    bitOf (recW (recordWords bs) 0) 63 = decide (ofBytes (bs.take 8) / 2 ^ 63 % 2 = 1) := by
  have hword : recW (recordWords bs) 0 = ofBytes (bs.take 8) % 2 ^ 64 := by
    simp [recordWords, recW, List.range_succ]
  rw [hword, ← bitOf_eq, bitOf, bitOf, Nat.testBit_mod_two_pow]
  simp

/-- The channel holds the record that it has read. -/
def withRecord (u : State) (k : Nat) (bs : List Byte) : State := u.updCe k fun c => { c with rcd := recordWords bs }

theorem ceReadRecord_of_reads {s u : State} {k : Nat} {bs : List Byte} (h : ReadsRecord s u k bs) :
    s.ceReadRecord k = if ofBytes (bs.take 8) / 2 ^ 63 % 2 = 1 then
      (withRecord u k bs).ceCheck k (recordWords bs) else u.ceIdle k .idleOwn := by
  obtain ⟨hstate, hrcd, hstop, hstage, hfree, -, hpend, hread⟩ := h
  have hwatched : s.ceWatched k = false := by
    unfold State.ceWatched
    rw [Bool.and_eq_false_iff]
    exact .inr (by simpa using hpend)
  unfold State.ceReadRecord
  simp only [hfree, hstate, hrcd, hstop, hstage, hwatched, hread, Bool.not_true, Bool.false_eq_true, reduceCtorEq,
    decide_false, Bool.false_and, ne_eq, not_true_eq_false, Option.isSome_none, Bool.or_self, List.isEmpty_nil, if_false]
  have hown := own_recordWords bs
  unfold withRecord recordWords at *
  rw [hown]
  by_cases hbit : ofBytes (bs.take 8) / 2 ^ 63 % 2 = 1
  · rw [decide_eq_true hbit, if_pos hbit]
    rfl
  · rw [decide_eq_false hbit, if_neg hbit]
    rfl

theorem exec_copyRecordRead_of_reads {s u : State} {e : BitVec 1} {bs : List Byte} (h : ReadsRecord s u e.toNat bs) :
    exec (.copyRecordRead e) s = .next (if ofBytes (bs.take 8) / 2 ^ 63 % 2 = 1 then
      (withRecord u e.toNat bs).ceCheck e.toNat (recordWords bs) else u.ceIdle e.toNat .idleOwn) :=
  congrArg Host.Outcome.next (ceReadRecord_of_reads h)

/-- A read of a record leaves the channels and memory. -/
theorem reads_keeps {s u : State} {k : Nat} {bs : List Byte} (h : ReadsRecord s u k bs) :
    u.ce k = s.ce k ∧ k < u.core.ces.length ∧ u.mem = s.mem := by
  obtain ⟨-, -, -, -, -, hlen, -, hread⟩ := h
  have hu := tlbOnly_of_ceRead hread
  exact ⟨hu.ce k, hu.core ▸ hlen, hu.mem⟩

theorem withRecord_spec {s u : State} {k : Nat} {bs : List Byte} (h : ReadsRecord s u k bs) :
    (withRecord u k bs).ce k = { s.ce k with rcd := recordWords bs } ∧ k < (withRecord u k bs).core.ces.length := by
  obtain ⟨hce, hlen, -⟩ := reads_keeps h
  rw [withRecord, ce_updCe _ hlen, hce]
  exact ⟨rfl, by simpa using hlen⟩

/-- A channel that becomes idle with no KICK latched stays so (R81). -/
theorem ceIdle_of_no_kick {s : State} {e : Nat} (st : CeState) (hkick : (s.ce e).kick = false)
    (hlen : e < s.core.ces.length) :
    (s.ceIdle e st).ce e = { s.ce e with kick := false, state := st } ∧ (s.ceIdle e st).mem = s.mem := by
  have hidle : s.ceIdle e st = (s.updCe e fun c => { c with kick := false, state := st }).wake := by
    simp only [State.ceIdle, hkick, Bool.false_eq_true, if_false, State.ceState, updCe_updCe]
  rw [hidle]
  exact ⟨ce_updCe _ hlen, rfl⟩

/-- A record that breaks a limit of R82 stops. -/
theorem ceCheck_of_malformed {s : State} {e : Nat} {r : List Dword} (h : recOk r = false) :
    s.ceCheck e r = s.ceStop e 0x03 (s.ce e).head := by
  simp [State.ceCheck, h]

/-- A record that passes its checks, and need not read its whole source first, starts or waits. -/
theorem ceCheck_of_passed {s x : State} {e : Nat} {r : List Dword} (hok : recOk r = true) (hbad : s.nvmeBad e = none)
    (hover : s.recOverlap (s.ce e).ctx r = .ok (none, x)) (hdest : x.nvmeDest e = false) : s.ceCheck e r = x.ceBegin e := by
  simp [State.ceCheck, hok, hbad, hover, hdest]

/-- After the checks the channel stands as before them, but for the TLBs. -/
theorem exec_copyRecordRead_of_passed {s u x : State} {e : BitVec 1} {bs : List Byte} (hreads : ReadsRecord s u e.toNat bs)
    (hown : ofBytes (bs.take 8) / 2 ^ 63 % 2 = 1) (hok : recOk (recordWords bs) = true)
    (hbad : (withRecord u e.toNat bs).nvmeBad e.toNat = none)
    (hover : (withRecord u e.toNat bs).recOverlap (s.ce e.toNat).ctx (recordWords bs) = .ok (none, x))
    (hdest : x.nvmeDest e.toNat = false) : exec (.copyRecordRead e) s = .next (x.ceBegin e.toNat) ∧
      x.ce e.toNat = { s.ce e.toNat with rcd := recordWords bs } ∧ e.toNat < x.core.ces.length := by
  obtain ⟨hce, hlen⟩ := withRecord_spec hreads
  have hx := tlbOnly_of_recOverlap hover
  refine ⟨?_, (hx.ce _).trans hce, hx.core ▸ hlen⟩
  rw [exec_copyRecordRead_of_reads hreads, if_pos hown, ceCheck_of_passed hok hbad (by rw [hce]; exact hover) hdest]

theorem exec_copyRecordRead_of_malformed {s u : State} {e : BitVec 1} {bs : List Byte} (hreads : ReadsRecord s u e.toNat bs)
    (hown : ofBytes (bs.take 8) / 2 ^ 63 % 2 = 1) (hbad : recOk (recordWords bs) = false) :
    exec (.copyRecordRead e) s = .next ((withRecord u e.toNat bs).ceStop e.toNat 0x03 (s.ce e.toNat).head) := by
  obtain ⟨hce, -⟩ := withRecord_spec hreads
  rw [exec_copyRecordRead_of_reads hreads, if_pos hown, ceCheck_of_malformed hbad, hce]

/-! ### A record starts -/

section
variable {s : State} {e : Nat}

theorem ceBegin_of_plain (h : recHv (s.ce e).rcd = false) : s.ceBegin e = s := if_pos (by simp [h])

theorem ceBegin_of_filling (h : recHv (s.ce e).rcd = true) (hst : (s.handle (recHandle (s.ce e).rcd)).st = .filling) :
    s.ceBegin e = (s.updHandle (recHandle (s.ce e).rcd) Handle.start).updCe e fun c => { c with counted := true } := by
  simp [State.ceBegin, h, hst]

theorem ceBegin_of_waiting (h : recHv (s.ce e).rcd = true) (hst : (s.handle (recHandle (s.ce e).rcd)).st ≠ .filling) :
    s.ceBegin e = s.ceState e .wait := by
  simp [State.ceBegin, h, hst]

/-- A start leaves the record, its address and memory; which of its three ways it goes, the handle says (R83, R89). -/
theorem ceBegin_spec (hlen : e < s.core.ces.length) {r : List Dword} (hr : (s.ce e).rcd = r) :
    ((s.ceBegin e).ce e).rcd = r ∧ ((s.ceBegin e).ce e).head = (s.ce e).head ∧ (s.ceBegin e).mem = s.mem ∧
      (recHv r = false → ((s.ceBegin e).ce e).state = (s.ce e).state ∧ (s.ceBegin e).core.handles = s.core.handles) ∧
      (recHv r = true → (s.handle (recHandle r)).st = .filling → recHandle r < s.core.handles.length →
        ((s.ceBegin e).ce e).state = (s.ce e).state ∧ ((s.ceBegin e).ce e).counted = true ∧
          ((s.ceBegin e).handle (recHandle r)).pend = (s.handle (recHandle r)).pend + 1) ∧
      (recHv r = true → (s.handle (recHandle r)).st ≠ .filling →
        ((s.ceBegin e).ce e).state = .wait ∧ (s.ceBegin e).core.handles = s.core.handles) := by
  subst hr
  cases hv : recHv (s.ce e).rcd with
  | false =>
    rw [ceBegin_of_plain hv]
    simp
  | true =>
    by_cases hst : (s.handle (recHandle (s.ce e).rcd)).st = .filling
    · rw [ceBegin_of_filling hv hst, ce_updCe _ (by simpa using hlen)]
      simp only [updHandle_ce, State.updCe_mem, updHandle_mem, updCe_handle, Bool.true_eq_false, false_implies, true_and,
        forall_const, hst, not_true_eq_false, ne_eq, and_true]
      exact fun hh => congrArg Handle.pend (handle_updHandle _ hh)
    · rw [ceBegin_of_waiting hv hst, ce_ceState _ hlen]
      simp [hst]

/-- A record in STATE 3 whose handle is FILLING starts. -/
theorem exec_copyHandleReady_of_filling {e : BitVec 1} (hstate : (s.ce e.toNat).state = .wait)
    (hstop : (s.ce e.toNat).stop = none) (hfree : s.ceFree e.toNat = true)
    (hst : (s.handle (recHandle (s.ce e.toNat).rcd)).st = .filling) :
    exec (.copyHandleReady e) s = .next (((s.updHandle (recHandle (s.ce e.toNat).rcd) Handle.start).updCe e.toNat
      fun c => { c with counted := true, state := .run }).wake) := by
  show Host.Outcome.next (s.ceHandleReady e.toNat) = _
  simp only [State.ceHandleReady, hstate, hstop, hfree, hst, decide_true, Option.isNone_none, Bool.and_self, if_true,
    State.ceState, updCe_updCe]

end

/-! ### A record goes on -/

section
variable {s : State} {e : Nat}

theorem exec_copyRecordComplete_of_ok {e : BitVec 1} {t : State} (hrun : s.ceRunning e.toNat = true)
    (hstep : s.ceStep e.toNat = .ok t) : exec (.copyRecordComplete e) s = .next t := by
  show Host.Outcome.next (s.ceComplete e.toNat) = _
  simp only [State.ceComplete, hrun, if_true, hstep]

theorem stop_of_ceRunning (hrun : s.ceRunning e = true) : (s.ce e).stop = none := by
  simp only [State.ceRunning, Bool.and_eq_true, Option.isNone_iff_eq_none] at hrun
  obtain ⟨⟨⟨⟨-, hstop⟩, -⟩, -⟩, -⟩ := hrun
  exact hstop

theorem exec_copyRecordStop_of_error {e : BitVec 1} {u : State} {st a : Nat} (hrun : s.ceRunning e.toNat = true)
    (hstep : s.ceStep e.toNat = .error (.stop st a, u)) (hkill : u.ceKilled e.toNat = false) :
    exec (.copyRecordStop e) s = .next (u.ceStop e.toNat st a) := by
  show Host.Outcome.next (s.ceFail e.toNat) = _
  simp [State.ceFail, stop_of_ceRunning hrun, hrun, hstep, hkill]

/-- A payload goes on by one access (log 10). -/
theorem ceStep_of_unpaid (hrows : (s.ce e).progRows.toNat < recRows (s.ce e).rcd) (hbad : s.nvmeBad e = none)
    (hdest : s.nvmeDest e = false) : s.ceStep e = s.cePay e (s.ceHalts e) := by
  simp [State.ceStep, Ce.paid, Nat.not_le.mpr hrows, hbad, hdest]

/-- A record to an NVMe namespace that has read its source waits for the controller (R341). -/
theorem ceStep_of_scanned {i : Nat} (hrows : (s.ce e).progRows.toNat < recRows (s.ce e).rcd) (hbad : s.nvmeBad e = none)
    (hdest : s.nvmeDest e = true) (hscan : (s.ce e).scan = some i)
    (hi : recRows (s.ce e).rcd * recElems (s.ce e).rcd ≤ i) :
    s.ceStep e = .ok (s.updCe e fun c => { c with nvme := true }) := by
  have htotal : ¬ i < (s.ce e).total := Nat.not_lt.mpr hi
  simp [State.ceStep, Ce.paid, Nat.not_le.mpr hrows, hbad, hdest, hscan, htotal]

/-- After the payload a record goes on by what follows it. -/
theorem exec_copyRecordComplete_of_paid {e : BitVec 1} {t : State} (hrun : s.ceRunning e.toNat = true)
    (hrows : recRows (s.ce e.toNat).rcd ≤ (s.ce e.toNat).progRows.toNat) (hfinish : s.ceFinish e.toNat = .ok t) :
    exec (.copyRecordComplete e) s = .next t :=
  exec_copyRecordComplete_of_ok hrun (by simp [State.ceStep, Ce.paid, hrows, hfinish])

/-! ### What follows the payload (R83) -/

theorem ceFinish_payload (h : (s.ce e).stage = .payload) :
    s.ceFinish e = .ok (s.updCe e fun y => { y with stage := .completion }) := by
  simp only [State.ceFinish, h]

theorem ceFinish_completion_of_silent (h : (s.ce e).stage = .completion) (hcw : recW (s.ce e).rcd 0 / 2 ^ 62 % 2 = 0) :
    s.ceFinish e = .ok (s.updCe e fun y => { y with stage := .handle }) := by
  simp only [State.ceFinish, h, bitOf_eq, hcw, Nat.zero_ne_one, decide_false, Bool.false_eq_true, if_false]

theorem ceFinish_completion_of_written {u : State} (h : (s.ce e).stage = .completion)
    (hcw : recW (s.ce e).rcd 0 / 2 ^ 62 % 2 = 1)
    (hwrite : s.ceWrite e (s.ce e).ctx (recW (s.ce e).rcd 6 % 2 ^ 48) (toBytes (recW (s.ce e).rcd 3 / 2 ^ 32) 4)
      (recW (s.ce e).rcd 6 % 2 ^ 48, recW (s.ce e).rcd 6 % 2 ^ 48 + 4) = .ok u) :
    s.ceFinish e = .ok (u.updCe e fun y => { y with stage := .handle }) := by
  simp only [State.ceFinish, h, bitOf_eq, hcw, decide_true, if_true, hwrite]

/-- The handle told of a record that has ended with status 0 (R89). -/
def told (s : State) (e : Nat) : State :=
  if (s.ce e).counted then
    s.updHandle (recHandle (s.ce e).rcd) (·.ended (bitOf (recW (s.ce e).rcd 0) 60) (s.ce e).bytes) else s

theorem ceFinish_handle (h : (s.ce e).stage = .handle) :
    s.ceFinish e = .ok ((told s e).updCe e fun c => { c with counted := false, stage := .word0 }) := by
  simp only [State.ceFinish, h, told]

theorem told_keeps (s : State) (e : Nat) : (told s e).mem = s.mem ∧ (told s e).core.ces = s.core.ces := by
  unfold told
  split <;> simp

theorem told_handle (hcounted : (s.ce e).counted = true) (hh : recHandle (s.ce e).rcd < s.core.handles.length) :
    (told s e).handle (recHandle (s.ce e).rcd) =
      (s.handle (recHandle (s.ce e).rcd)).ended (bitOf (recW (s.ce e).rcd 0) 60) (s.ce e).bytes := by
  rw [told, if_pos hcounted, handle_updHandle _ hh]

theorem ended_spec (h : Handle) (fin : Bool) (n : Nat) : (h.ended fin n).pend = h.pend - 1 ∧
    (h.ended fin n).bytes = h.bytes + BitVec.ofNat 32 n ∧
    ((h.ended fin n).st = .full ↔ h.st = .full ∨ ((h.fseen = true ∨ fin = true) ∧ h.pend - 1 = 0)) := by
  unfold Handle.ended
  dsimp only
  split
  · rename_i hlast
    simp only [Bool.and_eq_true, Bool.or_eq_true, decide_eq_true_eq] at hlast
    exact ⟨rfl, rfl, iff_of_true rfl (.inr hlast)⟩
  · rename_i hlast
    simp only [Bool.and_eq_true, Bool.or_eq_true, decide_eq_true_eq] at hlast
    exact ⟨rfl, rfl, (or_iff_left hlast).symm⟩

/-- The channel after the last write of its record (R83). -/
def recordEnded (u : State) (e next : Nat) : State :=
  let t := (u.updCe e fun c => { c with rcd := [], held := [] }).wake
  if next == 0 then t.ceIdle e .idleEnd else t.ceGo e next

theorem ceFinish_word0 {u : State} (h : (s.ce e).stage = .word0)
    (hwrite : s.ceWord0 e (setBits (setBits (recW (s.ce e).rcd 0) 63 63 0) 55 48 0) = .ok u) :
    s.ceFinish e = .ok (recordEnded u e (recW (s.ce e).rcd 7 % 2 ^ 48)) := by
  simp only [State.ceFinish, h, hwrite, recordEnded]

/-- The last record leaves its channel in STATE 1, where no KICK is latched. -/
theorem recordEnded_last {u : State} (hkick : (u.ce e).kick = false) (hlen : e < u.core.ces.length) :
    ((recordEnded u e 0).ce e).state = .idleEnd ∧ ((recordEnded u e 0).ce e).rcd = [] ∧ (recordEnded u e 0).mem = u.mem := by
  have hce : (u.updCe e fun c => { c with rcd := [], held := [] }).wake.ce e = { u.ce e with rcd := [], held := [] } :=
    ce_updCe _ hlen
  obtain ⟨hidle, hmem⟩ := ceIdle_of_no_kick (s := (u.updCe e fun c => { c with rcd := [], held := [] }).wake) (e := e) .idleEnd
    (by rw [hce]; exact hkick) (by simpa using hlen)
  have hended : (recordEnded u e 0).ce e = { u.ce e with rcd := [], held := [], kick := false, state := .idleEnd } := by
    rw [hce] at hidle
    exact hidle
  rw [hended]
  exact ⟨rfl, rfl, hmem⟩

/-- Every other record leaves it on the next one. -/
theorem recordEnded_next {u : State} {next : Nat} (hnext : next ≠ 0) (hlen : e < u.core.ces.length) :
    ((recordEnded u e next).ce e).state = .run ∧ ((recordEnded u e next).ce e).head = next ∧
      ((recordEnded u e next).ce e).rcd = [] ∧ (recordEnded u e next).mem = u.mem := by
  have hended : recordEnded u e next = (State.updCe (u.updCe e fun c => { c with rcd := [], held := [] }).wake e
      (onRecord next)).wake := by
    simp [recordEnded, hnext, ceGo_eq]
  rw [hended, wake_ce, ce_updCe _ (by simpa using hlen)]
  exact ⟨rfl, rfl, rfl, rfl⟩

end

/-! ### Boundaries (R87, R90, R123) -/

section
variable {s : State} {e : Nat}

/-- The handle of a record that a recall ends is free (R89, R123). -/
def recalledHandle (s : State) (e : Nat) : State :=
  if (s.ce e).counted then s.updHandle (recHandle (s.ce e).rcd) fun _ => Handle.reset else s

/-- A channel that is to stop and stands at a 128-byte boundary makes no access before. -/
theorem exec_copyBoundaryStop_of_aligned {e : BitVec 1} (hstate : (s.ce e.toNat).state = .run)
    (hhalts : s.ceHalts e.toNat = true) (hnvme : (s.ce e.toNat).nvme = false) (hstop : (s.ce e.toNat).stop = none)
    (hbytes : (s.ce e.toNat).bytes % 128 = 0) (n : Nat) : exec (.copyBoundaryStop e n) s =
      .next (if s.ceKilled e.toNat then s.ceEndKilled e.toNat
        else if s.ceRecalled e.toNat then (recalledHandle s e.toNat).ceStop e.toNat 0x0B (s.ce e.toNat).head else s) := by
  have hbound : (s.ce e.toNat).atBoundary = true := by
    simp [Ce.atBoundary, hnvme, hstop, hbytes]
  have hstay : State.ceToBoundary e.toNat n s = s := by
    cases n with
    | zero => rfl
    | succ n => simp [State.ceToBoundary, hbound]
  show Host.Outcome.next ((State.ceToBoundary e.toNat n s).ceBoundary e.toNat) = _
  rw [hstay]
  simp only [State.ceBoundary, hstate, hhalts, hbound, decide_true, Bool.true_or, Bool.and_self, if_true, recalledHandle]

theorem ce_recalledStop (addr : Nat) (hlen : e < s.core.ces.length) :
    (((recalledHandle s e).ceStop e 0x0B addr).ce e).state = .stopped ∧
      (((recalledHandle s e).ceStop e 0x0B addr).ce e).status = 0x0B := by
  have hlen' : e < (recalledHandle s e).core.ces.length := by
    unfold recalledHandle
    split <;> simpa using hlen
  rw [ceStop_killed, wake_ce, ce_updCe _ hlen']
  exact ⟨rfl, rfl⟩

theorem handle_recalledStop (addr : Nat) (hcounted : (s.ce e).counted = true)
    (hh : recHandle (s.ce e).rcd < s.core.handles.length) :
    ((recalledHandle s e).ceStop e 0x0B addr).handle (recHandle (s.ce e).rcd) = Handle.reset := by
  rw [ceStop_killed, wake_handle, updCe_handle, recalledHandle, if_pos hcounted, handle_updHandle _ hh]

/-- The channel of a killed context is idle with CEHEAD 0 (R90). -/
theorem ce_ceEndKilled (hlen : e < s.core.ces.length) :
    ((s.ceEndKilled e).ce e).state = .idleEnd ∧ ((s.ceEndKilled e).ce e).head = 0 ∧ ((s.ceEndKilled e).ce e).rcd = [] := by
  rw [State.ceEndKilled, ceStop_killed, ce_updCe _ (by simpa using hlen)]
  exact ⟨rfl, rfl, rfl⟩

/-! ### NVMe writes (R341) -/

theorem nvmeDone_of_bad (hstate : (s.ce e).state = .run) (hnvme : (s.ce e).nvme = true) (hkill : s.ceKilled e = false) :
    s.nvmeDone e false = s.ceStop e 0x02 (recDst (s.ce e).rcd) := by
  simp [State.nvmeDone, hstate, hnvme, hkill]

theorem nvmeDone_of_good {u : State} (hstate : (s.ce e).state = .run) (hnvme : (s.ce e).nvme = true)
    (hpay : payAll e (recRows (s.ce e).rcd * recElems (s.ce e).rcd) s = .ok u) (hkill : u.ceKilled e = false) :
    s.nvmeDone e true = u.updCe e fun c => { c with nvme := false } := by
  have hstill : (u.updCe e fun c => { c with nvme := false }).ceKilled e = false := by
    unfold State.ceKilled at hkill ⊢
    rw [ce_updCe_field Ce.ctx u e (f := fun c => { c with nvme := false }) fun _ => rfl]
    exact hkill
  have htotal : payAll e (s.ce e).total s = .ok u := hpay
  simp [State.nvmeDone, hstate, hnvme, htotal, hstill]

theorem nvmeDone_of_none (good : Bool) (hnvme : (s.ce e).nvme = false) : s.nvmeDone e good = s :=
  if_neg (by simp [hnvme])

end

/-- Settles O48: each step by the state of its channel and of its record's handle. -/
theorem copyRecords : Obligations.CopyRecords := by
  unfold Obligations.CopyRecords
  intro e s u bs
  dsimp only
  refine ⟨fun hreads hown hkick => ?_, fun hreads hown => ⟨fun x hok hbad hover hdest => ?_, fun hbad hmark => ?_⟩,
    fun hstate hstop hfree hlen hst => ?_,
    fun hrun hlen => ⟨fun hrows hbad => ⟨fun hdest hscan => ?_, fun hdest hpay => ?_⟩,
      fun hrows => ⟨fun hstage => ?_, fun hstage => ⟨fun hcw => ?_, fun hcw hwrite => ?_⟩, fun hstage => ?_,
        fun hstage hwrite hkick hulen => ?_⟩,
      fun st a hstep hst hkill hulen hmark => ?_⟩,
    fun hstate hhalts hnvme hstop hbytes => ⟨fun hkill hrecall n => ?_, fun hkill hrecall hlen n => ?_, fun hkill hlen n => ?_⟩,
    fun hstate hnvme hkill => ⟨fun hmark hlen => ?_, fun hpay hukill => ?_⟩, fun good hnvme => ?_⟩
  · obtain ⟨hce, hulen, hmem⟩ := reads_keeps hreads
    obtain ⟨hidle, hstill⟩ := ceIdle_of_no_kick .idleOwn (hce ▸ hkick) hulen
    refine ⟨u.ceIdle e.toNat .idleOwn, ?_, ?_, ?_, hstill.trans hmem⟩
    · rw [exec_copyRecordRead_of_reads hreads, if_neg (by rw [hown]; exact Nat.zero_ne_one)]
    · rw [hidle]
    · rw [hidle]
  · obtain ⟨hexec, hce, hxlen⟩ := exec_copyRecordRead_of_passed hreads hown hok hbad hover hdest
    obtain ⟨hrcd, hhead, hmem, hplain, hfilling, hwaiting⟩ := ceBegin_spec hxlen (congrArg Ce.rcd hce)
    obtain ⟨hstate, -⟩ := hreads
    have hrun : (x.ce e.toNat).state = .run := (congrArg Ce.state hce).trans hstate
    rw [hrun] at hplain hfilling
    exact ⟨_, hexec, hrcd, hhead.trans (by rw [hce]), hmem, hplain, hfilling, hwaiting⟩
  · obtain ⟨-, hvlen⟩ := withRecord_spec hreads
    exact ⟨_, exec_copyRecordRead_of_malformed hreads hown hbad, (ceStop_stopped _ (by decide) hvlen hmark).1⟩
  · refine ⟨_, exec_copyHandleReady_of_filling hstate hstop hfree hst, ?_⟩
    rw [wake_ce, ce_updCe _ (by simpa using hlen)]
    exact ⟨rfl, rfl, updHandle_mem ..⟩
  · obtain ⟨i, hi, htotal⟩ := hscan
    exact exec_copyRecordComplete_of_ok hrun (ceStep_of_scanned hrows hbad hdest hi htotal)
  · exact exec_copyRecordComplete_of_ok hrun ((ceStep_of_unpaid hrows hbad hdest).trans hpay)
  · exact exec_copyRecordComplete_of_paid hrun hrows (ceFinish_payload hstage)
  · exact exec_copyRecordComplete_of_paid hrun hrows (ceFinish_completion_of_silent hstage hcw)
  · exact exec_copyRecordComplete_of_paid hrun hrows (ceFinish_completion_of_written hstage hcw hwrite)
  · obtain ⟨hmem, hces⟩ := told_keeps s e.toNat
    refine ⟨_, exec_copyRecordComplete_of_paid hrun hrows (ceFinish_handle hstage), ?_, ?_, hmem,
      fun hcounted => ?_, fun hcounted hh => ?_⟩
    · rw [ce_updCe _ (by rw [hces]; exact hlen)]
    · rw [ce_updCe _ (by rw [hces]; exact hlen)]
    · rw [State.updCe_handles, told, if_neg (by simp [hcounted])]
    · rw [updCe_handle, told_handle hcounted hh, ← decide_eq_true_eq (p := recW (s.ce e.toNat).rcd 0 / 2 ^ 60 % 2 = 1),
        ← bitOf_eq]
      exact ended_spec ..
  · refine ⟨_, exec_copyRecordComplete_of_paid hrun hrows (ceFinish_word0 hstage hwrite), ?_⟩
    by_cases hnext : recW (s.ce e.toNat).rcd 7 % 2 ^ 48 = 0
    · obtain ⟨hidle, hrcd, hmem⟩ := recordEnded_last hkick hulen
      rw [hnext]
      exact ⟨hmem, hrcd, fun _ => hidle, fun h => absurd rfl h⟩
    · obtain ⟨hgoes, hhead, hrcd, hmem⟩ := recordEnded_next hnext hulen
      exact ⟨hmem, hrcd, fun h => absurd h hnext, fun _ => ⟨hgoes, hhead⟩⟩
  · exact ⟨_, exec_copyRecordStop_of_error hrun hstep hkill, (ceStop_stopped _ hst hulen hmark).1⟩
  · rw [exec_copyBoundaryStop_of_aligned hstate hhalts hnvme hstop hbytes, hkill, hrecall]
    rfl
  · obtain ⟨hstopped, hstatus⟩ := ce_recalledStop (s.ce e.toNat).head hlen
    rw [exec_copyBoundaryStop_of_aligned hstate hhalts hnvme hstop hbytes, hkill, hrecall]
    exact ⟨_, rfl, hstopped, hstatus, handle_recalledStop _⟩
  · rw [exec_copyBoundaryStop_of_aligned hstate hhalts hnvme hstop hbytes, hkill]
    exact ⟨_, rfl, ce_ceEndKilled hlen⟩
  · exact ⟨_, congrArg Host.Outcome.next (nvmeDone_of_bad hstate hnvme hkill), (ceStop_stopped _ (by decide) hlen hmark).1⟩
  · exact congrArg Host.Outcome.next (nvmeDone_of_good hstate hnvme hpay hukill)
  · exact congrArg Host.Outcome.next (nvmeDone_of_none good hnvme)

end Sys2Proof.Claims
end

section
/-!
# Atomics performed at their homes (O40)

An atomic that is due and passes the checks at its home is one read and one write of its place (`amo_of_byteHome`); what a
watchpoint notes of it beside (`sameCourse_amoWatched`) changes neither memory nor registers.
-/

namespace Sys2Proof.Claims
open Sys2Proof.Machine

/-! ### Values -/

theorem memRead_lt (m : Mem) (a n : Nat) : memRead m a n < 2 ^ (8 * n) := by
  induction n generalizing a with
  | zero => simp [memRead]
  | succ n ih =>
    have hb : (memGet m a).toNat < 256 := (memGet m a).isLt
    have hp : 2 ^ (8 * (n + 1)) = 256 * 2 ^ (8 * n) := by rw [Nat.mul_succ, Nat.pow_add]; omega
    have hr := ih (a + 1)
    rw [memRead, hp]
    omega

/-- The value that an atomic writes is of the place's width; the sum of `amofadd` is cut to it (R235). -/
theorem amoValue_mod {op : AtomicOp} {n old b c x : Nat} (hold : old < 2 ^ (8 * n)) (hop : op ≠ .fadd)
    (hx : (amoValue op n old b c).1 = some x) : x % 2 ^ (8 * n) = x := by
  have hb : b % 2 ^ (8 * n) < 2 ^ (8 * n) := Nat.mod_lt _ (Nat.two_pow_pos _)
  refine Nat.mod_eq_of_lt ?_
  cases op with
  | fadd => exact absurd rfl hop
  | cas =>
    simp only [amoValue] at hx
    split at hx
    · exact Option.some.inj hx ▸ hb
    · cases hx
  | add => exact Option.some.inj hx ▸ Nat.mod_lt _ (Nat.two_pow_pos _)
  | and => exact Option.some.inj hx ▸ Nat.and_lt_two_pow _ hb
  | or => exact Option.some.inj hx ▸ Nat.or_lt_two_pow hold hb
  | xor => exact Option.some.inj hx ▸ Nat.xor_lt_two_pow hold hb
  | min | max =>
    obtain rfl := Option.some.inj hx
    split <;> assumption
  | minu => exact Option.some.inj hx ▸ Nat.lt_of_le_of_lt (Nat.min_le_left ..) hold
  | maxu => exact Option.some.inj hx ▸ Nat.max_lt.2 ⟨hold, hb⟩
  | swap => exact Option.some.inj hx ▸ hb

/-- What an atomic leaves at its place: the value that it writes, or the old one where it writes none. -/
def amoLeaves (op : AtomicOp) (n old b c : Nat) : Nat :=
  match (amoValue op n old b c).1 with
  | some x => x % 2 ^ (8 * n)
  | none => old

theorem amoLeaves_of_writes {op : AtomicOp} {n old b c x : Nat} (hold : old < 2 ^ (8 * n)) (hop : op ≠ .fadd)
    (hx : (amoValue op n old b c).1 = some x) : amoLeaves op n old b c = x := by
  simp only [amoLeaves, hx, amoValue_mod hold hop hx]

theorem amoLeaves_cas (n old b c : Nat) :
    amoLeaves .cas n old b c = if old = c % 2 ^ (8 * n) then b % 2 ^ (8 * n) else old := by
  by_cases h : old = c % 2 ^ (8 * n)
  · simp [amoLeaves, amoValue, ← h]
  · simp [amoLeaves, amoValue, h]

/-! ### The place -/

/-- The state after the write of an atomic that wrote `x`, or nothing. -/
def amoWritten (t : State) (key n : Nat) : Option Nat → State
  | some x => t.wr key n x
  | none => t

/-- At bytes of memory that may be written, an atomic gives the old value, under its flags, and writes the new one. -/
theorem amo_of_byteHome {t : State} {pl : Place} {n : Nat} (va : Nat) (op : AtomicOp) (b c : Nat) (h : ByteHome pl)
    (ho : t.objProtected (pl.key t) n = false) (hpois : t.placePoison pl n = none)
    (hpart : t.partPoisoned (pl.key t) n = false) :
    let r := amoValue op n (memRead t.mem (pl.key t) n) b c
    t.amo pl va n op b c = .ok (r.2.toNat * 2 ^ 64 + memRead t.mem (pl.key t) n) (amoWritten t (pl.key t) n r.1) := by
  have hread : t.placeRead pl va n = .ok (memRead t.mem (pl.key t) n) t := PlaceHolds.placeRead ⟨hpois, .inl ⟨h, rfl⟩⟩ va
  simp only [State.amo, ho, Bool.and_false, Bool.false_eq_true, if_false, hread]
  cases (amoValue op n (memRead t.mem (pl.key t) n) b c).1 with
  | none => rfl
  | some x => simp only [h.placeWrite ho hpart, amoWritten]

section
variable (t : State) (key n : Nat) (r : Option Nat)

theorem amoWritten_keeps : (amoWritten t key n r).core.clerk.regs = t.core.clerk.regs ∧
    (amoWritten t key n r).core.clerk.pc = t.core.clerk.pc ∧
    (amoWritten t key n r).core.clerk.unfin.length = t.core.clerk.unfin.length := by
  cases r with
  | none => exact ⟨rfl, rfl, rfl⟩
  | some x => exact ⟨rfl, rfl, wr_unfin_length ..⟩

variable {t}

theorem amoWritten_other (hwf : Memory.wf t.mem = true) {a : Nat} (ha : a < key ∨ key + n ≤ a) :
    memGet (amoWritten t key n r).mem a = memGet t.mem a := by
  cases r with
  | none => rfl
  | some x => exact memGet_memWrite_other _ _ _ _ _ hwf ha

theorem memRead_amoWritten (hwf : Memory.wf t.mem = true) (op : AtomicOp) (b c : Nat) :
    let old := memRead t.mem key n
    memRead (amoWritten t key n (amoValue op n old b c).1).mem key n = amoLeaves op n old b c := by
  intro old
  unfold amoLeaves
  split
  · rename_i x hx
    rw [hx, Nat.pow_mul]
    exact memRead_memWrite_same _ _ _ _ hwf
  · rename_i hx
    rw [hx]
    rfl

end

/-! ### What a watchpoint notes -/

/-- Memory, the scalar registers, the PC and the list of unfinished instructions are the same. -/
def SameCourse (s t : State) : Prop :=
  t.mem = s.mem ∧ t.core.clerk.regs = s.core.clerk.regs ∧ t.core.clerk.pc = s.core.clerk.pc ∧
    t.core.clerk.unfin = s.core.clerk.unfin

theorem SameCourse.refl (s : State) : SameCourse s s := ⟨rfl, rfl, rfl, rfl⟩

theorem SameCourse.trans {s t u : State} (h : SameCourse s t) (h' : SameCourse t u) : SameCourse s u := by
  obtain ⟨hmem, hregs, hpc, hunfin⟩ := h
  obtain ⟨hmem', hregs', hpc', hunfin'⟩ := h'
  exact ⟨hmem'.trans hmem, hregs'.trans hregs, hpc'.trans hpc, hunfin'.trans hunfin⟩

theorem sameCourse_pendCause (s : State) (code faddr detail : Nat) : SameCourse s (s.pendCause code faddr detail) := by
  unfold State.pendCause Clerk.pendCause
  dsimp only [State.updClerk]
  split
  · exact .refl s
  · split <;> exact .refl s

theorem sameCourse_pendWatch (s : State) (va detail : Nat) : SameCourse s (s.pendWatch va detail) := by
  refine SameCourse.trans ?_ (sameCourse_pendCause _ 0x11 va detail)
  split <;> exact .refl s

theorem sameCourse_watchAtomic (s : State) (off va n : Nat) : SameCourse s (s.watchAtomic off va n) := by
  unfold State.watchAtomic
  dsimp only
  split
  · exact sameCourse_pendWatch ..
  · exact .refl s

/-- A watchpoint with ENG takes note of an atomic at this core's banks (R332). -/
def amoWatched (pl : Place) (va n : Nat) (s : State) : State :=
  match pl with
  | .bank c off => if c == s.coreId then s.watchAtomic off va n else s
  | _ => s

theorem sameCourse_amoWatched (pl : Place) (va n : Nat) (s : State) : SameCourse s (amoWatched pl va n s) := by
  unfold amoWatched
  split
  · split
    · exact sameCourse_watchAtomic ..
    · exact .refl s
  · exact .refl s

/-! ### The step -/

section
variable {s t : State} {k : Nat} {u : Unfin} {op : AtomicOp} {pl : Place} {b c : Dword} {o : AmoOrder}

/-- One that the skid of a watchpoint holds back stays (R332), whether or not it could go on. -/
theorem exec_atomicPerform_of_skid (hu : s.unfin k = some u) (hw : u.work = .atomic op pl b c o)
    (hskid : s.skidWaits pl = true) : exec (.atomicPerform (.clerk k)) s = .next s := by
  show execAtomicPerform (.clerk k) s = _
  simp [execAtomicPerform, hu, hw, State.atomicAtHome, hskid]

theorem exec_atomicPerform_of_due (hdue : Due s k u) (hport : s.hasPort u = true) (hw : u.work = .atomic op pl b c o) :
    exec (.atomicPerform (.clerk k)) s = .next (s.atomicAtHome k u op pl b c (if o.wide then 8 else 4)) := by
  obtain ⟨hu, hd, hc, -⟩ := id hdue
  have hgo : s.goesOn k (.atomicPerform (.clerk k)) = true :=
    goesOn_of_due hdue (by simp [unfinStep, hd, hc, hw]) hport
  show execAtomicPerform (.clerk k) s = _
  simp [execAtomicPerform, hgo, hu, hw]

/-- An atomic that passes the checks at its home finishes with the old value, its place written. -/
theorem atomicAtHome_of_passesHome {n : Nat} (hskid : s.skidWaits pl = false) (hp : PassesHome s t u .atomic n pl)
    (hb : ByteHome pl) (ho : t.objProtected (pl.key t) n = false) (hpois : t.placePoison pl n = none)
    (hpart : t.partPoisoned (pl.key t) n = false) :
    let r := amoValue op n (memRead t.mem (pl.key t) n) b.toNat c.toNat
    s.atomicAtHome k u op pl b c n = (amoWatched pl u.ea n (amoWritten t (pl.key t) n r.1)).finishUnfin k
      (BitVec.ofNat 128 (r.2.toNat * 2 ^ 64 + memRead t.mem (pl.key t) n)) := by
  simp only [State.atomicAtHome, hskid, Bool.false_eq_true, if_false]
  rw [atHome_of_passesHome (by decide) hp]
  simp only [amo_of_byteHome u.ea op b.toNat c.toNat hb ho hpois hpart, State.homeGot]
  cases pl <;> rfl

end

/-- The flags above the old value do not show in the register. -/
theorem setWidth_flags_old (f old : Nat) : (BitVec.ofNat 128 (f * 2 ^ 64 + old)).setWidth 64 = BitVec.ofNat 64 old := by
  apply BitVec.eq_of_toNat_eq
  simp only [BitVec.toNat_setWidth, BitVec.toNat_ofNat]
  omega

theorem unfin_finishUnfin {s : State} {k : Nat} (v : Qword) (h : k < s.core.clerk.unfin.length) :
    ∃ w, (s.finishUnfin k v).unfin k = some w ∧ w.done = some v := by
  have hlen : k < (s.finishUnfin k v).core.clerk.unfin.length := by simpa [State.finishUnfin] using h
  refine ⟨(s.finishUnfin k v).core.clerk.unfin[k], List.getElem?_eq_getElem hlen, ?_⟩
  rw [← List.getD_eq_getElem _ s.core.clerk.unfin[k] hlen]
  exact congrArg Unfin.done (getD_updAt_same _ _ _ _ h)

/-- Settles O40: an atomic that is due and passes the checks at its home reads and writes its place in one step. -/
theorem atomicsPerformed : Obligations.AtomicsPerformed := by
  unfold Obligations.AtomicsPerformed
  intro k u op pl b c o s t hdue hw
  obtain ⟨hu, -⟩ := id hdue
  refine ⟨exec_atomicPerform_of_skid hu hw, ?_⟩
  intro hskid n hp hb hsome ho hpois hpart hwf old m y new
  obtain ⟨-, -, hport, -⟩ := id hp
  have hk : k < t.core.clerk.unfin.length := by
    obtain ⟨x, hx⟩ := Option.isSome_iff_exists.1 hsome
    exact (List.getElem?_eq_some_iff.1 hx).1
  let r := amoValue op n old b.toNat c.toNat
  let w := amoWritten t (pl.key t) n r.1
  obtain ⟨hregs, hpc, hlen⟩ := amoWritten_keeps t (pl.key t) n r.1
  obtain ⟨hmem', hregs', hpc', hunfin'⟩ := sameCourse_amoWatched pl u.ea n w
  obtain ⟨v, hv, hdone⟩ := unfin_finishUnfin (s := amoWatched pl u.ea n w)
    (BitVec.ofNat 128 (r.2.toNat * 2 ^ 64 + old)) (by rw [hunfin', hlen]; exact hk)
  refine ⟨(amoWatched pl u.ea n w).finishUnfin k (BitVec.ofNat 128 (r.2.toNat * 2 ^ 64 + old)), v, ?_, hv,
    ⟨_, hdone, setWidth_flags_old ..⟩, ?_, ?_, ?_, ?_⟩
  · rw [exec_atomicPerform_of_due hdue hport hw, atomicAtHome_of_passesHome hskid hp hb ho hpois hpart]
  · have hread : memRead ((amoWatched pl u.ea n w).finishUnfin k (BitVec.ofNat 128 (r.2.toNat * 2 ^ 64 + old))).mem
        (pl.key t) n = amoLeaves op n old b.toNat c.toNat :=
      (congrArg (memRead · (pl.key t) n) hmem').trans (memRead_amoWritten _ _ hwf op b.toNat c.toNat)
    have hold : old < 2 ^ (8 * n) := memRead_lt ..
    refine hread.trans ?_
    cases op with
    | fadd => rfl
    | cas => exact amoLeaves_cas ..
    | add | and | or | xor | min | max | minu | maxu | swap => exact amoLeaves_of_writes hold (by decide) rfl
  · intro a ha
    exact (congrArg (memGet · a) hmem').trans (amoWritten_other _ _ _ hwf ha)
  · exact hregs'.trans hregs
  · exact hpc'.trans hpc

end Sys2Proof.Claims
end

section
/-!
# `cfgld`, `cfgwait` and `wbar` (O36)

A folio is sent in three parts: the image becomes resident, the elements that the folio names lose their configuration
(`unconfigured_eq`), and each row's words join the queue of the row's port (`port_sentRows`).
-/

namespace Sys2Proof.Claims
open Sys2Proof.Machine

/-! ### One entry of a list changed -/

theorem getD_updAt_other {α : Type} (l : List α) {j k : Nat} (f : α → α) (d : α) (h : j ≠ k) :
    (updAt l k f).getD j d = l.getD j d := by
  induction l generalizing j k with
  | nil => rfl
  | cons x l ih =>
    cases k with
    | zero =>
      cases j with
      | zero => exact absurd rfl h
      | succ j => rfl
    | succ k =>
      cases j with
      | zero => rfl
      | succ j => exact ih fun e => h (congrArg (· + 1) e)

/-! ### The rows' ports -/

/-- The words of a folio for the port of row `p + 1`, as they stand in its queue. -/
def rowItems (id : Nat) (ws : List Nat) (p : Nat) : List PortItem :=
  if (ws.filter fun w => cfgRow w = p + 1) = [] then []
  else [PortItem.cfg id ((ws.filter fun w => cfgRow w = p + 1).map (BitVec.ofNat 64))]

/-- A row's words put into the queue of its port (R166). -/
def sentRow (id : Nat) (ws : List Nat) (s : State) (p : Nat) : State :=
  if (ws.filter fun w => cfgRow w = p + 1).isEmpty then s
  else s.updPort p fun q =>
    { q with queue := q.queue ++ [PortItem.cfg id ((ws.filter fun w => cfgRow w = p + 1).map (BitVec.ofNat 64))] }

/-- The words of rows 1 to `n` put into the queues of their ports. -/
def sentRows (id : Nat) (ws : List Nat) (n : Nat) (s : State) : State := (List.range n).foldl (sentRow id ws) s

theorem sentRows_succ (id : Nat) (ws : List Nat) (n : Nat) (s : State) :
    sentRows id ws (n + 1) s = sentRow id ws (sentRows id ws n s) n := by
  simp only [sentRows, List.range_succ, List.foldl_append, List.foldl_cons, List.foldl_nil]

theorem sentRow_eq (id : Nat) (ws : List Nat) (s : State) (p : Nat) : ∃ l, l.length = s.core.ports.length ∧
    sentRow id ws s p = { s with core := { s.core with ports := l } } := by
  unfold sentRow
  split
  · exact ⟨s.core.ports, rfl, rfl⟩
  · exact ⟨_, length_updAt .., rfl⟩

theorem port_sentRow_same (id : Nat) (ws : List Nat) {s : State} {p : Nat} (hp : p < s.core.ports.length) :
    ((sentRow id ws s p).port p).queue = (s.port p).queue ++ rowItems id ws p := by
  unfold sentRow rowItems
  split
  · rename_i h
    rw [if_pos (List.isEmpty_iff.1 h), List.append_nil]
  · rename_i h
    rw [if_neg fun e => h (List.isEmpty_iff.2 e)]
    exact congrArg Port.queue (getD_updAt_same _ _ _ _ hp)

theorem port_sentRow_other (id : Nat) (ws : List Nat) (s : State) {j p : Nat} (h : j ≠ p) :
    (sentRow id ws s p).port j = s.port j := by
  unfold sentRow
  split
  · rfl
  · exact getD_updAt_other _ _ _ h

theorem sentRows_eq (id : Nat) (ws : List Nat) (n : Nat) (s : State) : ∃ l, l.length = s.core.ports.length ∧
    sentRows id ws n s = { s with core := { s.core with ports := l } } := by
  induction n with
  | zero => exact ⟨s.core.ports, rfl, rfl⟩
  | succ n ih =>
    obtain ⟨l, hlen, hl⟩ := ih
    obtain ⟨l', hlen', hl'⟩ := sentRow_eq id ws (sentRows id ws n s) n
    rw [hl] at hlen'
    exact ⟨l', hlen'.trans hlen, by rw [sentRows_succ, hl', hl]⟩

/-- Each port has its row's words behind what stood in its queue, once its row has been sent. -/
theorem port_sentRows (id : Nat) (ws : List Nat) (n : Nat) {s : State} {p : Nat} (hp : p < s.core.ports.length) :
    ((sentRows id ws n s).port p).queue = (s.port p).queue ++ if p < n then rowItems id ws p else [] := by
  induction n with
  | zero => exact (List.append_nil _).symm
  | succ n ih =>
    rw [sentRows_succ]
    by_cases hpn : p = n
    · subst hpn
      obtain ⟨l, hlen, hl⟩ := sentRows_eq id ws p s
      rw [port_sentRow_same id ws (by rw [hl]; exact hlen ▸ hp), ih, if_neg (Nat.lt_irrefl p), List.append_nil,
        if_pos (Nat.lt_succ_self p)]
    · rw [port_sentRow_other id ws _ hpn, ih]
      simp only [show p < n + 1 ↔ p < n by omega]

/-! ### A folio sent -/

/-- The elements that a folio names stand unconfigured until they have applied its words. -/
def unconfigured (s : State) (named : List (Nat × Nat)) : State :=
  named.foldl (fun s x => s.updFe x.1 x.2 fun f => { f with configured := false }) s

theorem unconfigured_eq (s : State) (named : List (Nat × Nat)) :
    ∃ l, unconfigured s named = s.updFab fun f => { f with fes := l } := by
  refine List.foldlRecOn named _ (motive := fun t : State => ∃ l, t = s.updFab fun f => { f with fes := l })
    ⟨s.core.fab.fes, rfl⟩ ?_
  rintro _ ⟨l, rfl⟩ x -
  exact ⟨_, rfl⟩

/-- A folio sent: it is resident, and each row's words stand in the queue of the row's port (R166, R168). -/
theorem sendFolio_spec (s : State) (image folio : Nat) (ws : List Nat) (qs : List EntryQ) :
    let t := s.sendFolio image folio ws qs
    t.core.clerk = s.core.clerk ∧ t.mem = s.mem ∧ t.core.fab.image = some image ∧ t.core.fab.folio = some folio ∧
      ∀ p, p < 16 → p < s.core.ports.length →
        (t.port p).queue = (s.port p).queue ++ rowItems t.core.fab.loadId ws p := by
  intro t
  obtain ⟨f, named, himage, hfolio, hid, ht⟩ : ∃ (f : Fabric) (named : List (Nat × Nat)), f.image = some image ∧
      f.folio = some folio ∧ f.loadId = s.core.fab.loadId + 1 ∧
      t = sentRows (s.core.fab.loadId + 1) ws 16 (unconfigured (s.updFab fun _ => f) named) :=
    ⟨_, _, rfl, rfl, rfl, rfl⟩
  obtain ⟨l, hl⟩ := unconfigured_eq (s.updFab fun _ => f) named
  obtain ⟨q, hqlen, hq⟩ := sentRows_eq (s.core.fab.loadId + 1) ws 16 (unconfigured (s.updFab fun _ => f) named)
  have hloaded : t.core.fab.loadId = s.core.fab.loadId + 1 := by rw [ht, hq, hl]; exact hid
  refine ⟨?_, ?_, ?_, ?_, fun p hp hlen => ?_⟩
  · rw [ht, hq, hl]
    rfl
  · rw [ht, hq, hl]
    rfl
  · rw [ht, hq, hl]
    exact himage
  · rw [ht, hq, hl]
    exact hfolio
  · rw [hloaded, ht, port_sentRows _ _ _ (by rw [hl]; exact hlen), if_pos hp, hl]
    rfl

/-! ### The instructions -/

/-- The address of a cause that lies within 48 bits is reported whole. -/
theorem traps_trapInstr_of_fits {s : State} {cause addr : Nat} (i : Instr) (d : Reg) (ea : Nat) (b : Dword)
    (hcause : cause < 256) (haddr : addr < 2 ^ 48) (hfrozen : s.core.clerk.frozen = false) :
    Traps s (.next (s.trapInstr i d ea b ⟨cause, addr, 0⟩)) cause addr := by
  have htraps := traps_trapInstr (f := ⟨cause, addr, 0⟩) i d ea b hcause hfrozen
  rwa [Nat.mod_eq_of_lt haddr] at htraps

section
variable {a b : Reg} {s : State}

theorem exec_cfgld_of_high (h : 2 ^ 48 ≤ (s.reg a).toNat) : exec (.cfgld a b) s =
    .next (s.trapInstr (.cfgld a b) 0 (s.reg a).toNat (s.reg b) (reasonFlt (s.reg a).toNat 9 0)) :=
  if_pos h

variable (hfits : (s.reg a).toNat < 2 ^ 48)
include hfits

theorem exec_cfgld_of_misaligned (h : (s.reg a).toNat % 64 ≠ 0) : exec (.cfgld a b) s =
    .next (s.trapInstr (.cfgld a b) 0 (s.reg a).toNat (s.reg b) ⟨0x03, (s.reg a).toNat, 0⟩) := by
  refine (if_neg (Nat.not_le.2 hfits)).trans ?_
  simp [h]

variable (halign : (s.reg a).toNat % 64 = 0)
include halign

theorem exec_cfgld_of_sending (h : s.cfgSending = true) : exec (.cfgld a b) s = .next s := by
  refine (if_neg (Nat.not_le.2 hfits)).trans ?_
  simp [halign, h]

variable (hidle : s.cfgSending = false) {ws : List Nat} {qs : List EntryQ} {u : State}
  (hfetch : s.fetchFolio ⟨.fabric, .load, 8, s.taskMode⟩ (s.reg a).toNat (s.reg b).toNat = .ok (ws, qs, u))
include hidle hfetch

theorem exec_cfgld_of_entry
    (h : u.core.fab.image = some (s.reg a).toNat ∧ u.core.fab.entryPending = some (s.reg b).toNat) :
    exec (.cfgld a b) s = .next ((u.updFab fun f => { f with folio := some (s.reg b).toNat }).advance 4) := by
  refine (if_neg (Nat.not_le.2 hfits)).trans ?_
  simp [halign, hidle, hfetch, h]

/-- A folio that is not the entry folio of the resident image, or not while that is pending, is sent; the choice of the folio
scheduler counts for a resident image (R138). -/
theorem exec_cfgld_of_sent
    (h : ¬ (u.core.fab.image = some (s.reg a).toNat ∧ u.core.fab.entryPending = some (s.reg b).toNat)) :
    exec (.cfgld a b) s = .next ((((if u.core.fab.image = some (s.reg a).toNat then
      u.updFab (·.passOver (s.reg b).toNat) else u).sendFolio (s.reg a).toNat (s.reg b).toNat ws qs).updFab fun f =>
        { f with entryPending := none }).advance 4) := by
  refine (if_neg (Nat.not_le.2 hfits)).trans ?_
  simp [halign, hidle, hfetch, h]

end

theorem exec_wbar_of_id {a : Reg} {s : State} (h : s.reg a >>> 8 = 0) : exec (.wbar a) s =
    if s.barrierDone ((s.reg a).setWidth 8) && s.pointsDone then .next (s.advance 4) else .next s := by
  show execWbar a s = _
  simp [execWbar, h]

theorem exec_wbar_of_no_id {a : Reg} {s : State} (h : s.reg a >>> 8 ≠ 0) : exec (.wbar a) s =
    .next (s.trapInstr (.wbar a) 0 0 (s.reg a) ⟨0x08, s.core.clerk.pc.toNat, 0⟩) :=
  if_pos (by simpa using h)

/-- Settles O36: by what each branch of the three instructions leaves. -/
theorem configurationInstructions : Obligations.ConfigurationInstructions := by
  unfold Obligations.ConfigurationInstructions
  intro a b s image folio o
  refine ⟨exec_cfgld_of_sending, fun ws qs u hfits halign hidle hfetch => ⟨?_, fun hsent => ?_⟩,
    fun hfrozen => ⟨fun hhigh => ?_, fun hfits hmis => ?_⟩, fun h => if_pos h, fun h => ?_,
    fun hid => ⟨fun hbar hpts => ?_, fun hwait => ?_⟩, fun hno hfrozen => ?_⟩
  · exact exec_cfgld_of_entry hfits halign hidle hfetch
  · refine ⟨_, exec_cfgld_of_sent hfits halign hidle hfetch hsent, ?_⟩
    generalize hv : (if u.core.fab.image = some image then u.updFab (·.passOver folio) else u) = v
    obtain ⟨hclerk, hmem, hports⟩ : v.core.clerk = u.core.clerk ∧ v.mem = u.mem ∧ v.core.ports = u.core.ports := by
      subst hv
      split <;> exact ⟨rfl, rfl, rfl⟩
    obtain ⟨hclerk', hmem', himage, hfolio, hrows⟩ := sendFolio_spec v image folio ws qs
    refine ⟨?_, hmem'.trans hmem, himage, hfolio, rfl, fun hlen p hp => ?_⟩
    · exact congrArg (fun c => c.pc + 4) (hclerk'.trans hclerk)
    · refine (hrows p hp (by rw [hports, hlen]; exact hp)).trans ?_
      rw [show v.port p = u.port p from congrArg (·.getD p Port.reset) hports]
      rfl
  · rw [show o = _ from exec_cfgld_of_high hhigh]
    have htraps := traps_trapInstr (f := reasonFlt image 9 0) (.cfgld a b) 0 image (s.reg b) (by simp [reasonFlt]) hfrozen
    rwa [show (reasonFlt image 9 0).addr % 2 ^ 48 = image % 2 ^ 48 from Nat.mod_mod ..] at htraps
  · rw [show o = _ from exec_cfgld_of_misaligned hfits hmis]
    exact traps_trapInstr_of_fits _ _ _ _ (by decide) hfits hfrozen
  · exact if_neg (by simp [h])
  · rw [exec_wbar_of_id hid, hbar, hpts]
    rfl
  · rw [exec_wbar_of_id hid]
    refine if_neg ?_
    obtain h | h := hwait <;> simp [h]
  · rw [exec_wbar_of_no_id hno]
    exact traps_trapInstr_of_fits _ _ _ _ (by decide) s.core.clerk.pc.isLt hfrozen

end Sys2Proof.Claims
end

section
/-!
# Requests and releases at an object's home (O42)

A request that its object admits joins the queue, a release lowers HOLD, and what either does is said by the queue and the
word that the object is left with (`ObjStands`): the head that stays (`stands_of_waits`), one exclusive request granted
(`stands_of_excl`), or the shared requests at the head (`stands_of_shared`).
-/

namespace Sys2Proof.Claims
open Sys2Proof.Machine

/-! ### Object words (R105) -/

theorem objMode_eq (w : Nat) : objMode w = w / 2 ^ 62 % 4 := by
  simp only [objMode, bitsOf, Nat.shiftRight_eq_div_pow, Nat.reduceAdd, Nat.reduceSub, Nat.reducePow]

theorem objHold_eq (w : Nat) : objHold w = w / 2 ^ 48 % 2 ^ 14 := by
  simp only [objHold, bitsOf, Nat.shiftRight_eq_div_pow, Nat.reduceAdd, Nat.reduceSub, Nat.reducePow]

theorem objMode_lt (w : Nat) : objMode w < 4 := objMode_eq w ▸ Nat.mod_lt _ (by decide)

theorem objHold_lt (w : Nat) : objHold w < 2 ^ 14 := objHold_eq w ▸ Nat.mod_lt _ (by decide)

theorem objGen_lt (w : Nat) : objGen w < 2 ^ 32 := Nat.mod_lt _ (by decide)

section
variable {mode : Nat} (hmode : mode < 4) (hold wait gen : Nat)

theorem objHold_objWord : objHold (objWord mode hold wait gen) = hold % 2 ^ 14 := by
  rw [objHold_eq, objWord]
  omega

theorem objGen_objWord : objGen (objWord mode hold wait gen) = gen % 2 ^ 32 := by
  rw [objGen, objWord]
  omega

include hmode

theorem objMode_objWord : objMode (objWord mode hold wait gen) = mode := by
  rw [objMode_eq, objWord]
  omega

theorem objWord_mod : objWord mode hold wait gen % 256 ^ 8 = objWord mode hold wait gen := by
  refine Nat.mod_eq_of_lt ?_
  rw [objWord]
  omega

end

theorem objWord_of_fits (mode wait : Nat) {hold gen : Nat} (hhold : hold < 2 ^ 14) (hgen : gen < 2 ^ 32) :
    objWord mode hold wait gen = mode * 2 ^ 62 + hold * 2 ^ 48 + min wait 65535 * 2 ^ 32 + gen := by
  rw [objWord, Nat.mod_eq_of_lt hhold, Nat.mod_eq_of_lt hgen]

/-- A word written with fields that fit has them. -/
theorem objWord_fields {v mode hold gen wait : Nat} (hv : v = objWord mode hold wait gen) (hmode : mode < 4)
    (hhold : hold < 2 ^ 14) (hgen : gen < 2 ^ 32) : objMode v = mode ∧ objHold v = hold ∧ objGen v = gen := by
  subst hv
  exact ⟨objMode_objWord hmode .., (objHold_objWord ..).trans (Nat.mod_eq_of_lt hhold),
    (objGen_objWord ..).trans (Nat.mod_eq_of_lt hgen)⟩

/-! ### What an object is left with -/

/-- The object `home`, with its word at `key`, stands in `t` with queue `q` and word `w`. -/
def ObjStands (t : State) (home : Place) (key : Nat) (q : List ObjWait) (w : Nat) : Prop :=
  t.objQueue home = q ∧ t.rd key 8 = w

theorem objQueue_setObj (s : State) (home : Place) (q : List ObjWait) (mode hold gen : Nat) :
    (s.setObj home q mode hold gen).objQueue home = q := by
  have hrest : (s.objs.filter fun o => !(o.home = home)).find? (·.home = home) = none :=
    List.find?_eq_none.2 fun o ho => by simpa using (List.mem_filter.1 ho).2
  simp only [State.setObj, State.objQueue, State.wr_objs]
  split_ifs with h
  · obtain ⟨-, hq⟩ := Bool.and_eq_true_iff.1 h
    rw [hrest, List.isEmpty_iff.1 hq]
  · rw [List.find?_append, hrest]
    simp

theorem stands_setObj {s : State} (home : Place) (q : List ObjWait) {mode : Nat} (hold gen : Nat)
    (hwf : Memory.wf s.mem = true) (hmode : mode < 4) :
    ObjStands (s.setObj home q mode hold gen) home (home.key s) q (objWord mode hold q.length gen) := by
  refine ⟨objQueue_setObj .., ?_⟩
  exact (State.rd_wr_same _ _ _ _ hwf).trans (objWord_mod hmode ..)

theorem length_giveFirst (p : Unfin → Bool) (v : Qword) (l : List Unfin) : (giveFirst p v l).length = l.length := by
  induction l with
  | nil => rfl
  | cons u l ih =>
    unfold giveFirst
    split
    · rfl
    · exact congrArg (· + 1) ih

/-- A grant reaches its requester in a core, or in shadow storage; no object changes by it. -/
theorem granted_cases (s : State) (home : Place) (k : TaskKey) (gen : Nat) :
    (∃ c, c.clerk.unfin.length = s.core.clerk.unfin.length ∧ s.granted home k gen = { s with core := c }) ∨
      ∃ l, s.granted home k gen = { s with shadow := l } := by
  unfold State.granted State.updTaskCore
  dsimp only
  split
  · exact .inl ⟨_, length_giveFirst .., rfl⟩
  · exact .inr ⟨_, rfl⟩

theorem length_unfin_granted (s : State) (home : Place) (k : TaskKey) (gen : Nat) :
    (s.granted home k gen).core.clerk.unfin.length = s.core.clerk.unfin.length := by
  obtain ⟨c, hlen, h⟩ | ⟨l, h⟩ := granted_cases s home k gen <;> rw [h]
  exact hlen

theorem granted_mem (s : State) (home : Place) (k : TaskKey) (gen : Nat) : (s.granted home k gen).mem = s.mem := by
  obtain ⟨c, -, h⟩ | ⟨l, h⟩ := granted_cases s home k gen <;> rw [h]

theorem key_granted (s : State) (home at_ : Place) (k : TaskKey) (gen : Nat) :
    at_.key (s.granted home k gen) = at_.key s := by
  obtain ⟨c, -, h⟩ | ⟨l, h⟩ := granted_cases s home k gen <;> rw [h] <;> rfl

theorem ObjStands.granted {s : State} {home at_ : Place} {key : Nat} {q : List ObjWait} {w : Nat}
    (h : ObjStands s home key q w) (k : TaskKey) (gen : Nat) : ObjStands (s.granted at_ k gen) home key q w := by
  obtain ⟨c, -, e⟩ | ⟨l, e⟩ := granted_cases s at_ k gen <;> rw [e] <;> exact h

/-! ### Grants from the head of a queue (R107) -/

section
variable {s : State} {home : Place} {r : ObjWait} {l : List ObjWait} {mode hold : Nat} (gen : Nat)

/-- Whether the head of a queue stays queued: it wants a held object alone, or one that is held alone. -/
def HeadWaits (mode : Nat) (r : ObjWait) : Prop := (r.excl = true ∧ mode ≠ 0) ∨ (r.excl = false ∧ 2 ≤ mode)

theorem grantFrom_of_waits (h : HeadWaits mode r) : grantFrom home (r :: l) mode hold gen s =
    s.setObj home (r :: l) mode hold gen := by
  obtain ⟨hx, hm⟩ | ⟨hx, hm⟩ := h
  · simp [grantFrom, hx, hm]
  · simp [grantFrom, hx, Nat.not_lt.2 hm]

theorem grantFrom_of_excl (hx : r.excl = true) : grantFrom home (r :: l) 0 hold gen s =
    (s.setObj home l 2 1 ((gen + 1) % 2 ^ 32)).granted home r.key ((gen + 1) % 2 ^ 32) := by
  simp [grantFrom, hx]

theorem grantFrom_of_shared (hx : r.excl = false) (hmode : mode < 2) (hhold : hold < 16383) :
    grantFrom home (r :: l) mode hold gen s = grantFrom home l 1 (hold + 1) gen (s.granted home r.key gen) := by
  simp [grantFrom, hx, hmode, hhold]

variable (hwf : Memory.wf s.mem = true)
include hwf

theorem stands_of_waits (hmode : mode < 4) (h : HeadWaits mode r) :
    ObjStands (grantFrom home (r :: l) mode hold gen s) home (home.key s) (r :: l)
      (objWord mode hold (l.length + 1) gen) := by
  rw [grantFrom_of_waits gen h]
  exact stands_setObj _ _ _ _ hwf hmode

theorem stands_of_excl (hx : r.excl = true) : ObjStands (grantFrom home (r :: l) 0 hold gen s) home (home.key s) l
    (objWord 2 1 l.length ((gen + 1) % 2 ^ 32)) := by
  rw [grantFrom_of_excl gen hx]
  exact (stands_setObj home l 1 _ hwf (by decide)).granted ..

end

/-- The shared requests at the head of a queue. -/
def sharedHead (l : List ObjWait) : Nat := (l.takeWhile fun x => !x.excl).length

@[simp] theorem sharedHead_nil : sharedHead [] = 0 := rfl

theorem sharedHead_cons_excl {r : ObjWait} (l : List ObjWait) (hx : r.excl = true) : sharedHead (r :: l) = 0 := by
  simp [sharedHead, hx]

theorem sharedHead_cons_shared {r : ObjWait} (l : List ObjWait) (hx : r.excl = false) :
    sharedHead (r :: l) = sharedHead l + 1 := by
  simp [sharedHead, hx]

/-- A shared object takes all the shared requests at the head of its queue, where HOLD has room for them. -/
theorem stands_of_shared {s : State} {home : Place} {l : List ObjWait} {hold : Nat} (gen : Nat)
    (hwf : Memory.wf s.mem = true) (hroom : hold + sharedHead l ≤ 16383) :
    ObjStands (grantFrom home l 1 hold gen s) home (home.key s) (l.drop (sharedHead l))
      (objWord 1 (hold + sharedHead l) (l.length - sharedHead l) gen) := by
  induction l generalizing hold s with
  | nil => exact stands_setObj _ _ _ _ hwf (by decide)
  | cons r l ih =>
    cases hx : r.excl with
    | true =>
      rw [sharedHead_cons_excl l hx]
      exact stands_of_waits gen hwf (by decide) (.inl ⟨hx, by decide⟩)
    | false =>
      rw [sharedHead_cons_shared l hx] at hroom ⊢
      have hstands := ih (s := s.granted home r.key gen) (hold := hold + 1) (by rw [granted_mem]; exact hwf) (by omega)
      rw [key_granted, Nat.add_right_comm, Nat.add_assoc] at hstands
      rw [grantFrom_of_shared gen hx (by decide) (by omega), List.drop_succ_cons, List.length_cons, Nat.add_sub_add_right]
      exact hstands

/-- An object that is not held alone takes a shared request at the head of its queue, and those behind it. -/
theorem stands_of_shared_cons {s : State} {home : Place} {r : ObjWait} {l : List ObjWait} {mode hold : Nat} (gen : Nat)
    (hwf : Memory.wf s.mem = true) (hx : r.excl = false) (hmode : mode < 2) (hroom : hold + 1 + sharedHead l ≤ 16383) :
    ObjStands (grantFrom home (r :: l) mode hold gen s) home (home.key s) (l.drop (sharedHead l))
      (objWord 1 (hold + 1 + sharedHead l) (l.length - sharedHead l) gen) := by
  have hstands := stands_of_shared (s := s.granted home r.key gen) (home := home) gen (by rw [granted_mem]; exact hwf) hroom
  rw [key_granted] at hstands
  rw [grantFrom_of_shared gen hx hmode (by omega)]
  exact hstands

theorem length_unfin_setObj (s : State) (home : Place) (q : List ObjWait) (mode hold gen : Nat) :
    (s.setObj home q mode hold gen).core.clerk.unfin.length = s.core.clerk.unfin.length :=
  wr_unfin_length ..

theorem length_unfin_grantFrom (s : State) (home : Place) (l : List ObjWait) (mode hold gen : Nat) :
    (grantFrom home l mode hold gen s).core.clerk.unfin.length = s.core.clerk.unfin.length := by
  induction l generalizing s mode hold with
  | nil => exact length_unfin_setObj ..
  | cons r l ih =>
    unfold grantFrom
    split
    · split
      · exact (length_unfin_granted ..).trans (length_unfin_setObj ..)
      · exact length_unfin_setObj ..
    · split
      · exact (ih ..).trans (length_unfin_granted ..)
      · exact length_unfin_setObj ..

theorem length_unfin_objRelease (s : State) (home : Place) :
    (s.objRelease home).core.clerk.unfin.length = s.core.clerk.unfin.length := by
  unfold State.objRelease
  dsimp only
  split
  · exact length_unfin_grantFrom ..
  · exact length_unfin_setObj ..

/-! ### The steps -/

section
variable {s : State} {k : Nat} {u : Unfin} {home : Place}

theorem exec_objectRequest_of_due {excl : Bool} (hdue : Due s k u) (hport : s.hasPort u = true)
    (hw : u.work = .acquire home excl false) :
    exec (.objectRequest (.own k)) s = .next (s.requestAtHome k u home excl) := by
  obtain ⟨hu, hd, hc, -⟩ := id hdue
  have hgo : s.goesOn k (.objectRequest (.own k)) = true := goesOn_of_due hdue (by simp [unfinStep, hd, hc, hw]) hport
  show execObjectRequest (.own k) s = _
  simp [execObjectRequest, hgo, hu, hw]

/-- The request has arrived: its instruction waits for the grant. -/
def requested (s : State) (k : Nat) (home : Place) (excl : Bool) : State :=
  s.updClerk fun c => { c with unfin := updAt c.unfin k fun u => { u with work := .acquire home excl true } }

theorem requestAtHome_of_admitted {excl : Bool} {q : TaskKey} (htask : s.task = some q) (hwin : s.windowShut home = false)
    (hpois : s.poisoned (home.key s) 8 = false) (hadmit : objRefuses (s.rd (home.key s) 8) excl = false) :
    s.requestAtHome k u home excl =
      grantFrom home (s.objQueue home ++ [ObjWait.mk q excl]) (objMode (s.rd (home.key s) 8))
        (objHold (s.rd (home.key s) 8)) (objGen (s.rd (home.key s) 8)) (requested s k home excl) := by
  simp only [State.requestAtHome, htask, hwin, hpois, hadmit, Bool.false_eq_true, if_false]
  rfl

/-- A refused request leaves its place in the hold list and traps (R105; log 48). -/
theorem requestAtHome_of_refused {excl : Bool} {q : TaskKey} (htask : s.task = some q) (hwin : s.windowShut home = false)
    (hpois : s.poisoned (home.key s) 8 = false) (hrefuse : objRefuses (s.rd (home.key s) 8) excl = true) :
    s.requestAtHome k u home excl = (s.updClerk fun c => c.unrequest home).trapUnfin k ⟨0x08, u.ea, 0⟩ := by
  simp [State.requestAtHome, htask, hwin, hpois, hrefuse]

/-- What an object's release leaves, its instruction gone and the object struck from the hold list. -/
def released (s : State) (k : Nat) (home : Place) : State :=
  ((s.objRelease home).updClerk fun c => { c with holds := c.holds.filter fun h => !(h.home = home && h.held) }).dropUnfin k

theorem exec_objectRelease_of_due (hdue : Due s k u) (hport : s.hasPort u = true) (hw : u.work = .release home)
    (hpois : s.poisoned (home.key s) 8 = false) : exec (.objectRelease (.own k)) s = .next (released s k home) := by
  obtain ⟨hu, hd, hc, -⟩ := id hdue
  have hgo : s.goesOn k (.objectRelease (.own k)) = true := goesOn_of_due hdue (by simp [unfinStep, hd, hc, hw]) hport
  show execObjectRelease (.own k) s = _
  simp [execObjectRelease, hgo, hu, hw, hpois, released]

theorem length_unfin_released (hu : s.unfin k = some u) :
    (released s k home).core.clerk.unfin.length + 1 = s.core.clerk.unfin.length := by
  obtain ⟨hk, -⟩ := List.getElem?_eq_some_iff.1 hu
  have hlen := length_unfin_objRelease s home
  show ((s.objRelease home).core.clerk.unfin.eraseIdx k).length + 1 = _
  rw [List.length_eraseIdx_of_lt (hlen ▸ hk), hlen]
  omega

theorem ObjStands.released {key w : Nat} {q : List ObjWait} (h : ObjStands (s.objRelease home) home key q w) :
    ObjStands (released s k home) home key q w := by
  unfold Claims.released
  generalize s.objRelease home = t at h
  exact h

/-! ### What a release leaves -/

/-! ### What a release leaves -/

theorem objRelease_of_held (h : 1 < objHold (s.rd (home.key s) 8)) : s.objRelease home =
    s.setObj home (s.objQueue home) (objMode (s.rd (home.key s) 8)) (objHold (s.rd (home.key s) 8) - 1)
      (objGen (s.rd (home.key s) 8)) :=
  if_neg (by simp; omega)

theorem objRelease_of_last (h : objHold (s.rd (home.key s) 8) = 1) : s.objRelease home =
    grantFrom home (s.objQueue home) 0 0 (objGen (s.rd (home.key s) 8)) s :=
  if_pos (by simp [h])

variable (hwf : Memory.wf s.mem = true)
include hwf

theorem stands_objRelease_of_held (h : 1 < objHold (s.rd (home.key s) 8)) :
    ObjStands (s.objRelease home) home (home.key s) (s.objQueue home) (objWord (objMode (s.rd (home.key s) 8))
      (objHold (s.rd (home.key s) 8) - 1) (s.objQueue home).length (objGen (s.rd (home.key s) 8))) := by
  rw [objRelease_of_held h]
  exact stands_setObj _ _ _ _ hwf (objMode_lt _)

variable (h : objHold (s.rd (home.key s) 8) = 1)
include h

theorem stands_objRelease_of_last (hq : s.objQueue home = []) :
    ObjStands (s.objRelease home) home (home.key s) [] (objWord 0 0 0 (objGen (s.rd (home.key s) 8))) := by
  rw [objRelease_of_last h, hq]
  exact stands_setObj _ _ _ _ hwf (by decide)

variable {x : ObjWait} {rest : List ObjWait} (hq : s.objQueue home = x :: rest)
include hq

theorem stands_objRelease_of_excl (hx : x.excl = true) : ObjStands (s.objRelease home) home (home.key s) rest
    (objWord 2 1 rest.length ((objGen (s.rd (home.key s) 8) + 1) % 2 ^ 32)) := by
  rw [objRelease_of_last h, hq]
  exact stands_of_excl _ hwf hx

theorem stands_objRelease_of_shared (hx : x.excl = false) (hroom : sharedHead (s.objQueue home) ≤ 16383) :
    ObjStands (s.objRelease home) home (home.key s) ((s.objQueue home).drop (sharedHead (s.objQueue home)))
      (objWord 1 (sharedHead (s.objQueue home)) ((s.objQueue home).length - sharedHead (s.objQueue home))
        (objGen (s.rd (home.key s) 8))) := by
  rw [hq, sharedHead_cons_shared rest hx] at hroom
  have hstands := stands_of_shared_cons (l := rest) (home := home) (hold := 0) (objGen (s.rd (home.key s) 8)) hwf hx
    (mode := 0) (by decide) (by omega)
  rw [objRelease_of_last h, hq, sharedHead_cons_shared rest hx, List.drop_succ_cons, List.length_cons,
    Nat.add_sub_add_right]
  rwa [Nat.zero_add, Nat.add_comm 1] at hstands

end

/-! ### Requests that are admitted -/

theorem objRefuses_eq_false {w : Nat} {excl : Bool} (hmode : objMode w ≠ 3) (hhold : excl = true ∨ objHold w ≠ 16383) :
    objRefuses w excl = false := by
  obtain rfl | hhold := hhold <;> simp [objRefuses, *]

/-- The head of a queue that a request joins waits, where the object is held alone, or where it is shared and the head, if not
the request, wants it alone. -/
theorem headWaits_of_joined {mode : Nat} {q : List ObjWait} {y : ObjWait}
    (h : mode = 2 ∨ (mode = 1 ∧ ((q = [] ∧ y.excl = true) ∨ ∃ x rest, q = x :: rest ∧ x.excl = true))) :
    ∃ x rest, q ++ [y] = x :: rest ∧ HeadWaits mode x := by
  obtain rfl | ⟨rfl, ⟨rfl, hy⟩ | ⟨x, rest, rfl, hx⟩⟩ := h
  · have hwaits : ∀ x, HeadWaits 2 x := fun x => by
      cases hx : x.excl with
      | true => exact .inl ⟨hx, by decide⟩
      | false => exact .inr ⟨hx, le_rfl⟩
    cases q with
    | nil => exact ⟨y, [], rfl, hwaits y⟩
    | cons x rest => exact ⟨x, rest ++ [y], rfl, hwaits x⟩
  · exact ⟨y, [], rfl, .inl ⟨hy, by decide⟩⟩
  · exact ⟨x, rest ++ [y], rfl, .inl ⟨hx, by decide⟩⟩

/-- Settles O42: by what a request or a release leaves of its object. -/
theorem objectsAtHome : Obligations.ObjectsAtHome := by
  unfold Obligations.ObjectsAtHome
  intro k u q s hdue htask hwf
  obtain ⟨hu, -⟩ := id hdue
  refine ⟨?_, ?_⟩
  · intro home excl hw hwin hport hpois w o
    have ho : o = .next (s.requestAtHome k u home excl) := exec_objectRequest_of_due hdue hport hw
    have hadmitted : objRefuses w excl = false → o = .next (grantFrom home (s.objQueue home ++ [ObjWait.mk q excl])
        (objMode w) (objHold w) (objGen w) (requested s k home excl)) := fun h =>
      ho.trans (congrArg _ (requestAtHome_of_admitted htask hwin hpois h))
    refine ⟨fun hmode hfree hqueue => ?_, fun hmode hroom hqueue hshared => ?_, fun hjoin hadmit => ?_,
      fun hrefuse hfrozen => ?_⟩
    · rw [hadmitted (objRefuses_eq_false (by omega) (.inr (by omega))), hqueue, hmode, hfree]
      cases excl with
      | true =>
        obtain ⟨hq, hword⟩ := stands_of_excl (s := requested s k home true) (home := home) (r := ⟨q, true⟩) (l := [])
          (hold := 0) (objGen w) hwf rfl
        exact ⟨_, rfl, hq, hword.trans (objWord_of_fits 2 0 (by decide) (Nat.mod_lt _ (by decide)))⟩
      | false =>
        obtain ⟨hq, hword⟩ := stands_of_shared_cons (s := requested s k home false) (home := home) (r := ⟨q, false⟩)
          (l := []) (mode := 0) (hold := 0) (objGen w) hwf rfl (by decide) (by decide)
        exact ⟨_, rfl, hq, hword.trans (objWord_of_fits 1 0 (by decide) (objGen_lt w))⟩
    · subst hshared
      rw [hadmitted (objRefuses_eq_false (by omega) (.inr (by omega))), hqueue, hmode]
      obtain ⟨hq, hword⟩ := stands_of_shared_cons (s := requested s k home false) (home := home) (r := ⟨q, false⟩)
        (l := []) (mode := 1) (hold := objHold w) (objGen w) hwf rfl (by decide) hroom
      rw [sharedHead_nil] at hword
      exact ⟨_, rfl, hq, (hword.trans (objWord_of_fits 1 0 (by omega) (objGen_lt w))).trans (by simp)⟩
    · obtain ⟨x, rest, hqueue, hwaits⟩ := headWaits_of_joined (y := ⟨q, excl⟩) hjoin
      rw [hadmitted (objRefuses_eq_false (by omega) hadmit), hqueue]
      obtain ⟨hq, hword⟩ := stands_of_waits (s := requested s k home excl) (home := home) (l := rest) (hold := objHold w)
        (objGen w) hwf (objMode_lt w) hwaits
      exact ⟨_, rfl, hq, objWord_fields hword (objMode_lt w) (objHold_lt w) (objGen_lt w)⟩
    · have hrefused : objRefuses w excl = true := by
        obtain h | ⟨rfl, h⟩ := hrefuse <;> simp [objRefuses, h]
      rw [ho, requestAtHome_of_refused htask hwin hpois hrefused]
      exact traps_trapUnfin (s := s.updClerk fun c => c.unrequest home) (f := ⟨0x08, u.ea, 0⟩) hu (by simp) hfrozen
  · intro home hw hport hpois w queue shared
    refine ⟨_, exec_objectRelease_of_due hdue hport hw hpois, length_unfin_released hu, fun hheld => ?_,
      fun hlast hempty => ?_, fun hlast x rest hqueue => ⟨fun hx => ?_, fun hx hroom => ?_⟩⟩
    · obtain ⟨hq, hword⟩ := (stands_objRelease_of_held hwf hheld).released (k := k)
      exact ⟨hq, objWord_fields hword (objMode_lt w) (Nat.lt_of_le_of_lt (Nat.sub_le ..) (objHold_lt w)) (objGen_lt w)⟩
    · obtain ⟨-, hword⟩ := (stands_objRelease_of_last hwf hlast hempty).released (k := k)
      exact (hword.trans (objWord_of_fits 0 0 (by decide) (objGen_lt w))).trans (by simp [w])
    · obtain ⟨hq, hword⟩ := (stands_objRelease_of_excl hwf hlast hqueue hx).released (k := k)
      exact ⟨hq, hword.trans (objWord_of_fits 2 _ (by decide) (Nat.mod_lt _ (by decide)))⟩
    · obtain ⟨hq, hword⟩ := (stands_objRelease_of_shared hwf hlast hqueue hx hroom).released (k := k)
      exact ⟨hq, hword.trans (objWord_of_fits 1 _ (Nat.lt_succ_of_le hroom) (objGen_lt w))⟩

end Sys2Proof.Claims
end

section
/-!
# Issue of loads, stores and atomics (O12)

Every access of R233 to R235 and R250 issues through `State.access` (`accessForm_exec`). Whatever issues, now checked or to be
checked later, stands at the end of the list with its destination empty (`issued_pushed`).
-/

namespace Sys2Proof.Claims
open Sys2Proof.Machine

/-! ### An instruction pushed -/

/-- The entry to push is that of the instruction `x` at the PC of `s`. -/
def IsEntryOf (s : State) (x : Src) (u : Unfin) : Prop := u.pc = s.core.clerk.pc ∧ u.kd = x.kd ∧ u.dest = x.dest

theorem kpresent_setKpresent_false (c : Clerk) (k : KReg) : (c.setKpresent k false).kpresent k = false := by
  simp [Clerk.setKpresent, Clerk.kpresent, putBit]

/-- Emptying a destination changes presence bits alone. -/
theorem emptyDest_keeps (t : State) (x : Src) : (t.emptyDest x).core.clerk.regs = t.core.clerk.regs ∧
    (t.emptyDest x).core.clerk.kregs = t.core.clerk.kregs ∧ (t.emptyDest x).core.clerk.pc = t.core.clerk.pc ∧
    (t.emptyDest x).core.clerk.unfin = t.core.clerk.unfin ∧ (t.emptyDest x).mem = t.mem := by
  unfold State.emptyDest State.updClerk
  dsimp only
  split
  · exact ⟨rfl, rfl, rfl, rfl, rfl⟩
  · exact ⟨Clerk.setPresent_regs .., Clerk.setPresent_kregs .., Clerk.setPresent_pc .., Clerk.setPresent_unfin .., rfl⟩

theorem emptyDest_empties (t : State) (x : Src) :
    if x.kd then (t.emptyDest x).core.clerk.kpresent (x.dest.setWidth 3) = false
    else x.dest ≠ 0 → (t.emptyDest x).core.clerk.present x.dest = false := by
  unfold State.emptyDest State.updClerk
  dsimp only
  split
  · exact kpresent_setKpresent_false ..
  · exact fun hd => present_setPresent_false _ hd

/-- An instruction pushed has issued, whatever its destination is. -/
theorem issued_pushed {s : State} (t : State) {x : Src} {u : Unfin} (hentry : IsEntryOf s x u) :
    Issued s t (.next (t.push x u)) x.kd x.dest u.ea u.work u.done := by
  obtain ⟨hpc, hkd, hdest⟩ := hentry
  obtain ⟨p, hp⟩ := sent_eq t u
  obtain ⟨hregs, hkregs, hpc', hunfin, hmem⟩ := emptyDest_keeps t x
  refine ⟨t.push x u, { u with port := p }, rfl, ?_, rfl, rfl, hpc, hkd, hdest, rfl, emptyDest_empties t x,
    hregs, hkregs, hpc', hmem⟩
  rw [State.push, hp, ← hunfin]
  rfl

theorem issued_behind {s : State} (t : State) {x : Src} (hpc : x.pc = s.core.clerk.pc) (ea : Nat) (b c : Dword) (canon : Nat)
    (w : Work) (behind : Bool) :
    Issued s t (.next (t.push x { x.unfin ea b c canon w with behind })) x.kd x.dest (ea % 2 ^ 48) w none :=
  issued_pushed t ⟨hpc, rfl, rfl⟩

theorem unchecked_pushed (t : State) (x : Src) (u : Unfin) :
    (t.push x u).core.clerk.unfin.getLast?.map (·.unchecked) = some u.unchecked := by
  obtain ⟨p, hp⟩ := sent_eq t u
  rw [State.push, hp]
  simp [State.updClerk]

/-! ### Accesses -/

/-- The instruction at the PC of `s` issues as the access `x`. -/
def AccessForm (s : State) (o : Result) (x : Access) : Prop :=
  ∃ (y : Src) (b c : Dword), y.pc = s.core.clerk.pc ∧ y.kd = x.kd ∧ y.dest = x.dest ∧ y.kept = none ∧
    o = .next ((s.advance x.len).access y x.kind x.ea x.n b c x.work)

section
variable (s : State) (i : Instr) (d : Reg) (ea n : Nat)

theorem accessForm_loadAt (w : LoadWidth) : AccessForm s (s.loadAt i w d ea n) (loadForm w d ea n) :=
  ⟨s.src i d, 0, 0, rfl, rfl, rfl, rfl, rfl⟩

theorem accessForm_storeAt (w : StoreWidth) : AccessForm s (s.storeAt i w ea (s.reg d) n) (storeForm s w.bytes d ea n) :=
  ⟨s.src i 0, s.reg d, 0, rfl, rfl, rfl, rfl, rfl⟩

theorem accessForm_atomicAt (op : AtomicOp) (a b : Reg) (m : BitVec 16) (c : Dword) (o : AmoOrder) :
    AccessForm s (s.atomicAt i op d (s.ea a m) (s.reg b) c o) (atomicForm s op d a b m c o) :=
  ⟨s.src i d, s.reg b, c, rfl, rfl, rfl, rfl, rfl⟩

end

theorem accessForm_kld (k : KReg) (a : Reg) (s : State) :
    AccessForm s (exec (.kld k a) s) ⟨.load, 16, (s.reg a).toNat, 4, true, k.setWidth 5, .loadK⟩ :=
  ⟨{ s.src (.kld k a) (k.setWidth 5) with kd := true }, 0, 0, rfl, rfl, rfl, rfl, rfl⟩

theorem halves_append (v : Qword) : v.extractLsb' 64 64 ++ v.setWidth 64 = v := by
  rw [BitVec.setWidth_eq_extractLsb' (by decide), BitVec.extractLsb'_append_extractLsb'_eq_extractLsb' (by rfl)]
  exact BitVec.extractLsb'_eq_self

theorem accessForm_kst (k : KReg) (a : Reg) (s : State) :
    AccessForm s (exec (.kst k a) s)
      ⟨.store, 16, (s.reg a).toNat, 4, false, 0, fun pl => .store 16 pl (s.kreg k).toNat⟩ := by
  refine ⟨s.src (.kst k a) 0, (s.kreg k).setWidth 64, (s.kreg k).extractLsb' 64 64, rfl, rfl, rfl, rfl, ?_⟩
  rw [← congrArg BitVec.toNat (halves_append (s.kreg k))]
  rfl

theorem accessForm_exec {i : Instr} {s : State} {x : Access} (h : access s i = some x) : AccessForm s (exec i s) x := by
  cases i with
  | ld8 | ld16 | ld32 | ld64 | lds8 | lds16 | lds32 | ldl =>
    obtain rfl := Option.some.inj h
    exact accessForm_loadAt ..
  | st8 =>
    obtain rfl := Option.some.inj h
    exact accessForm_storeAt (w := .b8) ..
  | st16 =>
    obtain rfl := Option.some.inj h
    exact accessForm_storeAt (w := .b16) ..
  | st32 =>
    obtain rfl := Option.some.inj h
    exact accessForm_storeAt (w := .b32) ..
  | st64 =>
    obtain rfl := Option.some.inj h
    exact accessForm_storeAt (w := .b64) ..
  | stl =>
    obtain rfl := Option.some.inj h
    exact accessForm_storeAt ..
  | amoadd | amoand | amoor | amoxor | amomin | amomax | amominu | amomaxu | amoswap | amocas | amofadd =>
    obtain rfl := Option.some.inj h
    exact accessForm_atomicAt ..
  | kld =>
    obtain rfl := Option.some.inj h
    exact accessForm_kld ..
  | kst =>
    obtain rfl := Option.some.inj h
    exact accessForm_kst ..
  | _ => exact nomatch h

/-! ### The checks, now or later -/

theorem lt_of_checkAccess {s : State} {kind : AccKind} {n ea : Nat} {r : Res} (h : s.checkAccess kind n ea = .ok r) :
    ea < 2 ^ 48 := by
  unfold State.checkAccess at h
  split at h
  · exact absurd h (by simp)
  · omega

/-- Checks have to wait where they cannot be made now. -/
theorem checksWait_of_not_now {s : State} {x : Src} {page : Option Nat} (hkept : x.kept = none) (h : ¬ ChecksNow s page) :
    s.checksWait x page = true := by
  rw [ChecksNow] at h
  rw [State.checksWait, hkept]
  by_contra hfalse
  exact h (by simpa using hfalse)

section
variable {s t : State} {x : Src} {kind : AccKind} {ea n : Nat} {r : Res} (b c : Dword) (work : Place → Work)

/-- An access that passes its checks is pushed from the state that they leave, whether a loan makes it wait or not. -/
theorem access_of_passed (hkept : x.kept = none) (hnow : ChecksNow s (some ea)) (hcheck : s.checkAccess kind n ea = .ok r)
    (hloans : (s.fillRes r).loanChecks false kind ea n r.pl = .ok t ∨
      (s.fillRes r).loanChecks false kind ea n r.pl = .wait t) :
    s.access x kind ea n b c work = t.push x
      { x.unfin ea b c ((s.fillRes r).canon ea) (work r.pl) with behind := (s.fillRes r).behind x } := by
  obtain ⟨hwalk, hrules⟩ := hnow
  rw [State.access, State.checked_now _ _ _ _ _ _ _ hwalk hrules, hcheck]
  simp only [hkept, Option.isSome_none]
  obtain hok | hwait := hloans
  · rw [hok]
  · rw [hwait]

theorem access_of_later (hkept : x.kept = none) (h : ¬ ChecksNow s (some ea)) :
    s.access x kind ea n b c work = s.push x { x.unfin ea b c 0 (.result 0) with unchecked := true } :=
  State.checked_later _ _ _ _ _ _ _ (checksWait_of_not_now hkept h)

end

/-- Settles O12: each access issues through `State.access`, which pushes it whether its checks are made now or later. -/
theorem accessesIssue : Obligations.AccessesIssue := by
  unfold Obligations.AccessesIssue
  intro i s t x r haccess
  obtain ⟨y, b, c, hpc, hkd, hdest, hkept, hexec⟩ := accessForm_exec haccess
  rw [hexec, ← hkd, ← hdest]
  refine ⟨fun hnow hcheck hloans => ?_, fun hlater => ⟨?_, fun z hz => ?_⟩⟩
  · rw [access_of_passed b c x.work hkept hnow hcheck hloans]
    have hissued := issued_behind t hpc x.ea b c (((s.advance x.len).fillRes r).canon x.ea) (x.work r.pl)
      (((s.advance x.len).fillRes r).behind y)
    rwa [Nat.mod_eq_of_lt (lt_of_checkAccess hcheck)] at hissued
  · rw [access_of_later b c x.work hkept hlater]
    exact issued_pushed _ ⟨hpc, rfl, rfl⟩
  · rw [access_of_later b c x.work hkept hlater] at hz
    obtain rfl := Host.Outcome.next.inj hz
    exact unchecked_pushed ..

end Sys2Proof.Claims
end

section
/-!
# `loan` and `lstat` (O26)

`loan` compares its set with the declared ones: it is refused, stands declared already, overlaps another, or is new. `lstat`
reads a declaration, or the counts of the task.
-/

namespace Sys2Proof.Claims
open Sys2Proof.Machine

/-- An instruction with a scalar destination whose value is known has issued with it. -/
theorem answered_pushDone (s t : State) (i : Instr) (d : Reg) (ea : Nat) (b c v : Dword) :
    Answered s t (.next (t.pushDone (s.src i d) ea b c v)) d (ea % 2 ^ 48) v :=
  issued_pushed t ⟨rfl, rfl, rfl⟩

theorem exec_loan (d a b : Reg) (s : State) : exec (.loan d a b) s =
    .next ((s.advance 4).issueLoan (s.src (.loan d a b) d) (s.reg a).toNat (s.reg b).toNat) := rfl

theorem exec_lstat (d a : Reg) (s : State) : exec (.lstat d a) s =
    .next ((s.advance 4).issueLstat (s.src (.lstat d a) d) (s.reg a).toNat) := rfl

/-- A set whose base and length R118 allows. -/
def SetFits (base len : Nat) : Prop :=
  base % 64 = 0 ∧ len % 64 = 0 ∧ 64 ≤ len ∧ len ≤ 2 ^ 22 ∧ base + len ≤ 2 ^ 48

/-- The word of R128 by its fields. -/
theorem word_eq (y : Decl) : y.word = y.st.code * 2 ^ 62 + (y.len / 64 - 1) * 2 ^ 42 + y.base / 64 % 2 ^ 42 := by
  rw [Decl.word, bitsOf_eq]
  rfl

section
variable {u : State} {k : TaskKey} {r : TaskRec} (htask : u.task = some k) (hrec : u.findRec k = some r)
  (hnow : ChecksNow u none) (x : Src)
include htask hrec hnow

/-! ### `loan` -/

section
variable {base len : Nat}

theorem issueLoan_of_misfit (h : base % 64 ≠ 0 ∨ len % 64 ≠ 0 ∨ len < 64 ∨ 2 ^ 22 < len) :
    u.issueLoan x base len = u.trapSrc x base (BitVec.ofNat 64 len) 0 ⟨0x08, base, 0⟩ := by
  obtain ⟨hwalk, hrules⟩ := hnow
  rw [State.issueLoan, State.checked_now _ _ _ _ _ _ _ hwalk hrules]
  simp only [htask, hrec]
  refine if_pos ?_
  simp only [Bool.or_eq_true, bne_iff_ne, decide_eq_true_eq]
  tauto

variable (hfits : SetFits base len)
include hfits

omit htask hrec hnow in
/-- A set that fits passes the first check of `loan`. -/
theorem SetFits.check : (base % 64 != 0 || len % 64 != 0 || decide (len < 64) || decide (2 ^ 22 < len) ||
    decide (2 ^ 48 < base + len)) = false := by
  obtain ⟨hbase, hlen, hmin, hmax, hend⟩ := hfits
  simp only [hbase, hlen, Nat.not_lt.2 hmin, Nat.not_lt.2 hmax, Nat.not_lt.2 hend, bne_self_eq_false, decide_false,
    Bool.or_self]

/-- Declared once more, a set answers its number. -/
theorem issueLoan_of_again {j : Nat} {y : Decl} (hhead : (declsMet r.decls (u.canon base) len).head? = some (j, y))
    (hsame : ∀ z ∈ declsMet r.decls (u.canon base) len, z.2.base = u.canon base ∧ z.2.len = len) :
    u.issueLoan x base len = u.pushDone x base (BitVec.ofNat 64 len) 0 (BitVec.ofNat 64 j) := by
  obtain ⟨hwalk, hrules⟩ := hnow
  obtain ⟨t, hcons⟩ := List.head?_eq_some_iff.1 hhead
  have hnone : ((j, y) :: t).find? (fun p => !(p.2.base == u.canon base && p.2.len == len)) = none :=
    List.find?_eq_none.mpr fun z hz => by simp [hsame z (hcons ▸ hz)]
  rw [State.issueLoan, State.checked_now _ _ _ _ _ _ _ hwalk hrules]
  simp only [htask, hrec, hfits.check, Bool.false_eq_true, if_false, hcons, hnone]

theorem issueLoan_of_overlap
    (hother : ∃ z ∈ declsMet r.decls (u.canon base) len, z.2.base ≠ u.canon base ∨ z.2.len ≠ len) :
    ∃ i, u.issueLoan x base len = u.trapSrc x base (BitVec.ofNat 64 len) 0 ⟨0x0C, base, i⟩ := by
  obtain ⟨hwalk, hrules⟩ := hnow
  obtain ⟨z, hz, hne⟩ := hother
  have hsome : ((declsMet r.decls (u.canon base) len).find? fun p =>
      !(p.2.base == u.canon base && p.2.len == len)).isSome = true :=
    List.find?_isSome.2 ⟨z, hz, by simpa [Classical.or_iff_not_imp_left] using hne⟩
  obtain ⟨p, hp⟩ := Option.isSome_iff_exists.1 hsome
  refine ⟨p.1, ?_⟩
  rw [State.issueLoan, State.checked_now _ _ _ _ _ _ _ hwalk hrules]
  simp only [htask, hrec, hfits.check, Bool.false_eq_true, if_false, hp]

variable (hmet : declsMet r.decls (u.canon base) len = [])
include hmet

theorem issueLoan_of_new (hroom : r.decls.length < 8) : u.issueLoan x base len =
    (u.updRec k fun r => { r with decls := r.decls ++ [Decl.mk (u.canon base) len .declared] }).pushDone x base
      (BitVec.ofNat 64 len) 0 (BitVec.ofNat 64 r.decls.length) := by
  obtain ⟨hwalk, hrules⟩ := hnow
  rw [State.issueLoan, State.checked_now _ _ _ _ _ _ _ hwalk hrules]
  simp only [htask, hrec, hfits.check, Bool.false_eq_true, if_false, hmet, List.find?_nil, Nat.not_le.2 hroom]

theorem issueLoan_of_full (hfull : 8 ≤ r.decls.length) :
    u.issueLoan x base len = u.pushDone x base (BitVec.ofNat 64 len) 0 (-1) := by
  obtain ⟨hwalk, hrules⟩ := hnow
  rw [State.issueLoan, State.checked_now _ _ _ _ _ _ _ hwalk hrules]
  simp only [htask, hrec, hfits.check, Bool.false_eq_true, if_false, hmet, List.find?_nil, hfull, if_true]

end

/-! ### `lstat` -/

theorem issueLstat_of_decl {n : Nat} {y : Decl} (hn : n < 8) (hy : r.decls[n]? = some y) :
    u.issueLstat x n = u.pushDone x n 0 0 (BitVec.ofNat 64 y.word) := by
  obtain ⟨hwalk, hrules⟩ := hnow
  rw [State.issueLstat, State.checked_now _ _ _ _ _ _ _ hwalk hrules]
  simp only [htask, hrec, hn, if_true, hy]

theorem issueLstat_of_no_decl {n : Nat} (hn : n < 8) (hnone : r.decls[n]? = none) :
    u.issueLstat x n = u.pushDone x n 0 0 (BitVec.ofNat 64 0) := by
  obtain ⟨hwalk, hrules⟩ := hnow
  rw [State.issueLstat, State.checked_now _ _ _ _ _ _ _ hwalk hrules]
  simp only [htask, hrec, hn, if_true, hnone]

theorem issueLstat_of_counts : u.issueLstat x 8 =
    u.pushDone x 8 0 0 (BitVec.ofNat 64 (bitsOf (u.tcbWord5 k) 63 48 * 2 ^ 48 + r.undoUsed % 2 ^ 16)) := by
  obtain ⟨hwalk, hrules⟩ := hnow
  rw [State.issueLstat, State.checked_now _ _ _ _ _ _ _ hwalk hrules]
  simp only [htask, hrec]
  rfl

omit hrec in
theorem issueLstat_of_none {n : Nat} (hn : 8 < n) : u.issueLstat x n = u.trapSrc x n 0 0 ⟨0x02, x.pc.toNat, 0⟩ := by
  obtain ⟨hwalk, hrules⟩ := hnow
  rw [State.issueLstat, State.checked_now _ _ _ _ _ _ _ hwalk hrules]
  simp only [htask]
  refine (if_neg (by omega)).trans (if_neg ?_)
  simp only [beq_iff_eq]
  omega

end

/-- Settles O26: `loan` by the declared sets that its own meets, `lstat` by its number. -/
theorem loanDeclarations : Obligations.LoanDeclarations := by
  unfold Obligations.LoanDeclarations
  intro d a b k r s htask hrec base len u fits met hnow
  have htask' : u.task = some k := htask
  have hrec' : u.findRec k = some r := hrec
  refine ⟨fun hfits j y hhead => ⟨fun hsame => ?_, fun hother hfrozen => ?_⟩, fun hfits hmet => ⟨fun hroom => ?_,
    fun hfull => ?_⟩, fun hmisfit hfrozen => ?_, fun n y hn hlt => ⟨fun hy => ?_, fun hnone => ?_⟩, fun hlt hfrozen => ?_,
    fun h8 => ?_⟩
  · rw [exec_loan, issueLoan_of_again htask' hrec' hnow _ hfits hhead hsame]
    exact answered_pushDone ..
  · obtain ⟨i, hi⟩ := issueLoan_of_overlap htask' hrec' hnow (s.src (.loan d a b) d) hfits hother
    rw [exec_loan, hi]
    exact traps_trapSrc _ _ _ _ _ _ (f := ⟨0x0C, base, i⟩) (by simp) hfrozen
  · rw [exec_loan, issueLoan_of_new htask' hrec' hnow _ hfits hmet hroom]
    exact answered_pushDone ..
  · rw [exec_loan, issueLoan_of_full htask' hrec' hnow _ hfits hmet hfull]
    exact answered_pushDone ..
  · rw [exec_loan, issueLoan_of_misfit htask' hrec' hnow _ hmisfit]
    exact traps_trapSrc _ _ _ _ _ _ (f := ⟨0x08, base, 0⟩) (by simp) hfrozen
  · have hanswered := answered_pushDone s u (.lstat d a) d n 0 0 (BitVec.ofNat 64 y.word)
    rw [exec_lstat, hn, issueLstat_of_decl htask' hrec' hnow _ hlt hy]
    rw [Nat.mod_eq_of_lt (by omega)] at hanswered
    rwa [← word_eq]
  · have hanswered := answered_pushDone s u (.lstat d a) d n 0 0 0
    rw [exec_lstat, hn, issueLstat_of_no_decl htask' hrec' hnow _ hlt hnone]
    rwa [Nat.mod_eq_of_lt (by omega)] at hanswered
  · rw [exec_lstat, issueLstat_of_none htask' hnow _ hlt]
    have htraps := traps_trapSrc (f := ⟨0x02, s.core.clerk.pc.toNat, 0⟩) (.lstat d a) d 4 (s.reg a).toNat 0 0 (by simp)
      hfrozen
    rwa [Nat.mod_eq_of_lt s.core.clerk.pc.isLt] at htraps
  · rw [exec_lstat, h8, issueLstat_of_counts htask' hrec' hnow]
    exact answered_pushDone ..

end Sys2Proof.Claims
end

section
/-!
# `spawn`, `arm`, `rls`, `tself` and `tage` at issue (O27)

A `spawn` issues with its launch to perform, unless its task holds a borrow and nothing before it is unperformed: then its
launch is checked, and deferred where it passes (`deferSpawn`).
-/

namespace Sys2Proof.Claims
open Sys2Proof.Machine

theorem exec_spawn (d a : Reg) (s : State) : exec (.spawn d a) s =
    .next ((s.advance 4).issueSpawn (s.src (.spawn d a) d) (s.reg a).toNat) := rfl

theorem exec_arm (d a b : Reg) (s : State) : exec (.arm d a b) s =
    .next ((s.advance 4).issueArm (s.src (.arm d a b) d) (s.reg a).toNat (s.reg b)) := rfl

theorem exec_rls (d a : Reg) (s : State) : exec (.rls d a) s =
    .next ((s.advance 4).issueRls (s.src (.rls d a) d) (s.reg a).toNat) := rfl

theorem exec_tself {s : State} {k : TaskKey} (d : Reg) (htask : s.task = some k) : exec (.tself d) s =
    .next ((s.advance 4).pushDone (s.src (.tself d) d) 0 0 0 (BitVec.ofNat 64 k.tcb)) := by
  show execTself d s = _
  simp only [execTself, htask]

theorem exec_tage {s : State} {k : TaskKey} (d : Reg) (htask : s.task = some k) : exec (.tage d) s =
    .next ((s.advance 4).pushDone (s.src (.tage d) d) 0 0 0 (BitVec.ofNat 64 (s.tcbWord5 k))) := by
  show execTage d s = _
  simp only [execTage, htask]

/-! ### `spawn` -/

section
variable {u : State} {k : TaskKey} {tcb : Nat}

theorem deferSpawn_of_refused (h : u.launchCode ⟨u.taskCtx k, tcb⟩ ≠ 0) :
    u.deferSpawn k tcb = .ok (u.launchCode ⟨u.taskCtx k, tcb⟩, u) :=
  if_pos (bne_iff_ne.2 h)

section
variable {r : TaskRec} (hcode : u.launchCode ⟨u.taskCtx k, tcb⟩ = 0) (hrec : u.findRec k = some r)
include hcode hrec

theorem deferSpawn_of_room (hroom : r.deferred.length < 16) : u.deferSpawn k tcb =
    .ok (0, u.updRec k fun r => { r with deferred := r.deferred ++ [.spawn tcb] }) := by
  simp [State.deferSpawn, State.deferredOf, hcode, hrec, Nat.not_le.2 hroom]

theorem deferSpawn_of_full (hfull : 16 ≤ r.deferred.length) : u.deferSpawn k tcb = .error ⟨0x0B, tcb % 2 ^ 48, 0⟩ := by
  simp [State.deferSpawn, State.deferredOf, hcode, hrec, hfull]

end

variable {x : Src} (htask : u.task = some k) (hnow : ChecksNow u none)
include htask hnow

theorem issueSpawn_of_unborrowed (h : u.borrows k = false ∨ u.inOrder = false) : ∃ behind, u.issueSpawn x tcb =
    u.push x { x.unfin tcb 0 0 0 (.spawn tcb) with behind } := by
  obtain ⟨hwalk, hrules⟩ := hnow
  have hissues : (u.borrows k && x.kept.isNone && u.inOrder) = false := by
    obtain h | h := h <;> simp [h]
  rw [State.issueSpawn, State.checked_now _ _ _ _ _ _ _ hwalk hrules]
  simp only [htask, hissues]
  exact ⟨_, rfl⟩

variable (hkept : x.kept = none) (hborrows : u.borrows k = true) (horder : u.inOrder = true)
include hkept hborrows horder

theorem issueSpawn_of_deferred {code : Nat} {t : State} (h : u.deferSpawn k tcb = .ok (code, t)) :
    u.issueSpawn x tcb = t.pushDone x tcb 0 0 (BitVec.ofNat 64 code) := by
  obtain ⟨hwalk, hrules⟩ := hnow
  rw [State.issueSpawn, State.checked_now _ _ _ _ _ _ _ hwalk hrules]
  simp [htask, hkept, hborrows, horder, h]

theorem issueSpawn_of_undisciplined {f : Flt} (h : u.deferSpawn k tcb = .error f) :
    u.issueSpawn x tcb = u.trapSrc x tcb 0 0 f := by
  obtain ⟨hwalk, hrules⟩ := hnow
  rw [State.issueSpawn, State.checked_now _ _ _ _ _ _ _ hwalk hrules]
  simp [htask, hkept, hborrows, horder, h]

end

/-! ### `arm` and `rls` -/

section
variable {u : State} {x : Src} {tcb : Nat} {pl : Place} (hkept : x.kept = none) (hnow : ChecksNow u (some tcb))
include hkept hnow

theorem issueArm_of_checked {cnt : Dword} (h : u.tcbCheck false tcb (some cnt.toNat) = .ok pl) : u.issueArm x tcb cnt =
    (u.filled u.ctx tcb).push x { x.unfin tcb cnt 0 (tcb + 24) (.arm pl tcb cnt.toNat) with behind := u.behind x } := by
  obtain ⟨hwalk, hrules⟩ := hnow
  rw [State.issueArm, State.checked_now _ _ _ _ _ _ _ hwalk hrules]
  simp only [hkept, Option.isSome_none, h]

theorem issueRls_of_checked (h : u.tcbCheck false tcb none = .ok pl) : u.issueRls x tcb =
    (u.filled u.ctx tcb).push x { x.unfin tcb 0 0 (tcb + 24) (.rls pl tcb) with behind := u.behind x } := by
  obtain ⟨hwalk, hrules⟩ := hnow
  rw [State.issueRls, State.checked_now _ _ _ _ _ _ _ hwalk hrules]
  simp only [hkept, Option.isSome_none, h]

end

/-- What has issued from a state has issued from any that differs from it in the TLBs alone. -/
theorem Issued.of_tlbOnly {s t u : State} {o : Result} {kd : Bool} {d : Reg} {ea : Nat} {w : Work} {done : Option Qword}
    (h : Issued s t o kd d ea w done) (htlb : TlbOnly u t) : Issued s u o kd d ea w done := by
  obtain ⟨_, _, rfl⟩ := htlb
  exact h

/-- Settles O27: each instruction by its issue, `spawn` by whether its launch is deferred. -/
theorem taskInstructions : Obligations.TaskInstructions := by
  unfold Obligations.TaskInstructions
  intro d a b k s htask ea u code
  have htask' : u.task = some k := htask
  refine ⟨fun hnow hissues => ?_, fun hnow hborrows horder => ⟨fun hcode => ?_, fun r hrec hcode => ⟨fun hroom => ?_,
    fun hfull hfrozen => ?_⟩⟩, fun pl hnow hcheck => ?_, fun pl hnow hcheck => ?_, ?_, ?_⟩
  · obtain ⟨behind, hb⟩ := issueSpawn_of_unborrowed (x := s.src (.spawn d a) d) (tcb := ea) htask' hnow hissues
    rw [exec_spawn, hb]
    exact issued_behind u rfl ..
  · rw [exec_spawn, issueSpawn_of_deferred htask' hnow rfl hborrows horder (deferSpawn_of_refused hcode)]
    exact answered_pushDone ..
  · rw [exec_spawn, issueSpawn_of_deferred htask' hnow rfl hborrows horder (deferSpawn_of_room hcode hrec hroom)]
    exact answered_pushDone ..
  · rw [exec_spawn, issueSpawn_of_undisciplined htask' hnow rfl hborrows horder (deferSpawn_of_full hcode hrec hfull)]
    have htraps := traps_trapSrc (f := ⟨0x0B, ea % 2 ^ 48, 0⟩) (.spawn d a) d 4 ea 0 0 (by simp) hfrozen
    rwa [Nat.mod_mod] at htraps
  · rw [exec_arm, issueArm_of_checked rfl hnow hcheck]
    exact (issued_behind _ rfl ..).of_tlbOnly (tlbOnly_filled ..)
  · rw [exec_rls, issueRls_of_checked rfl hnow hcheck]
    exact (issued_behind _ rfl ..).of_tlbOnly (tlbOnly_filled ..)
  · rw [exec_tself d htask]
    exact answered_pushDone ..
  · rw [exec_tage d htask]
    exact answered_pushDone ..

end Sys2Proof.Claims
end

section
/-!
# Asynchronous causes, wake-ups, the watchdog and memory timeouts (O38)

The pending causes stand in ascending order, so that the first is the one with the least code; taking it leaves the others
(`pend_enterTrap`). What a cause at a state itself does is said once, for an asynchronous cause and for a timeout
(`traps_enterTrap`).
-/

namespace Sys2Proof.Claims
open Sys2Proof.Machine

/-! ### Pending causes -/

theorem exists_mem_insertPend (p : Pend) (l : List Pend) : ∃ q ∈ insertPend p l, q.code = p.code := by
  induction l with
  | nil => exact ⟨p, List.mem_singleton_self p, rfl⟩
  | cons x l ih =>
    unfold insertPend
    split
    · exact ⟨p, List.mem_cons_self, rfl⟩
    · split
      case isTrue heq => exact ⟨x, List.mem_cons_self, heq.symm⟩
      case isFalse =>
        obtain ⟨q, hq, hcode⟩ := ih
        exact ⟨q, List.mem_cons_of_mem _ hq, hcode⟩

/-- A cause made pending joins the others, but in DOUBLE-HALT (R321). -/
theorem pend_pendCause {c : Clerk} (hrun : c.run ≠ .doubleHalt) (code faddr detail : Nat) :
    (c.pendCause code faddr detail).pend =
      insertPend ⟨BitVec.ofNat 8 code, faddr % 2 ^ 48, BitVec.ofNat 64 detail⟩ c.pend := by
  unfold Clerk.pendCause
  rw [if_neg hrun]
  dsimp only
  split <;> rfl

theorem pendAscending_pendCause {s : State} (h : PendAscending s.core.clerk.pend) (code faddr detail : Nat) :
    PendAscending (s.pendCause code faddr detail).core.clerk.pend := by
  change PendAscending (s.core.clerk.pendCause code faddr detail).pend
  by_cases hrun : s.core.clerk.run = .doubleHalt
  · rwa [Clerk.pendCause, if_pos hrun]
  · rw [pend_pendCause hrun]
    exact insertPend_ascending h

/-! ### Finished instructions leave the pending causes -/

theorem nowPresent_pend (c : Clerk) (d : Reg) : (c.nowPresent d).pend = c.pend := by
  unfold Clerk.nowPresent
  split
  · rfl
  · rw [Clerk.wake_pend, Clerk.setPresent_pend]

theorem complete_pend (c : Clerk) (u : Unfin) (v : Qword) : (c.complete u v).pend = c.pend := by
  unfold Clerk.complete
  split
  · rfl
  · rfl
  · rfl
  · rw [nowPresent_pend, Clerk.setReg_pend]
  · split
    · rfl
    · rw [nowPresent_pend, Clerk.setReg_pend]

theorem drain_pend (c : Clerk) : c.drain.pend = c.pend := by
  unfold Clerk.drain
  refine List.foldlRecOn c.unfin _ (motive := fun d : Clerk => d.pend = c.pend) rfl fun d hd u _ => ?_
  split
  · rw [complete_pend, hd]
  · exact hd

/-! ### A cause taken -/

theorem pend_enterTrap {s : State} (hfrozen : s.core.clerk.frozen = false) (t : Trap) (k : Option Nat)
    (rest : List (List Nat)) : (s.enterTrap t k rest).core.clerk.pend = s.core.clerk.pend := by
  obtain ⟨m, p, henter, -⟩ := s.enterTrap_spec t k rest hfrozen
  rw [henter]
  exact drain_pend _

/-- A cause found at a state traps there. -/
theorem traps_enterTrap {s : State} (hfrozen : s.core.clerk.frozen = false) (t : Trap) (k : Option Nat)
    (rest : List (List Nat)) {cause : Nat} (hcause : b2n t.async * 2 ^ 8 + t.cause % 256 = cause) :
    Traps s (.next (s.enterTrap t k rest)) cause (t.addr % 2 ^ 48) := by
  subst hcause
  obtain ⟨m, p, henter, hother⟩ := s.enterTrap_spec t k rest hfrozen
  rw [henter]
  refine ⟨_, rfl, rfl, rfl, rfl, rfl, rfl, rfl, fun hnil r => ?_, fun hwf a ha => (hother hwf).2 a ha⟩
  have hdrain : s.core.clerk.drain = s.core.clerk := Clerk.drain_none _ (by simp [hnil])
  simp only [State.reg, Clerk.reg, hdrain]

/-! ### Asynchronous causes -/

/-- The state with `l` for its pending causes. -/
def withPend (s : State) (l : List Pend) : State := s.updClerk fun c => { c with pend := l }

theorem takeAsync_of_cons {s : State} {p : Pend} {l : List Pend} (h : s.core.clerk.pend = p :: l) : s.takeAsync =
    (withPend s l).enterTrap ⟨p.code.toNat, p.faddr, p.detail.toNat, true, s.resumePc, s.resumePc⟩ none [] := by
  rw [State.takeAsync, h]
  rfl

theorem exec_asyncTrap {s : State} (htask : s.task.isSome = true) (hgated : s.clerkGated = false)
    (hends : s.endsItself = false) (hready : s.asyncReady = true) : exec .asyncTrap s = .next s.takeAsync :=
  congrArg Host.Outcome.next (if_pos (by simp [htask, hgated, hends, hready]))

theorem asyncReady_spec {s : State} (h : s.asyncReady = true) :
    s.core.clerk.frozen = false ∧ s.core.clerk.pend ≠ [] := by
  simp only [State.asyncReady, Bool.and_eq_true, Bool.not_eq_true', List.isEmpty_eq_false_iff] at h
  obtain ⟨⟨⟨hfrozen, hpend⟩, -⟩, -⟩ := h
  exact ⟨hfrozen, hpend⟩

/-- The first cause is taken, with bit 8 of the cause set, and the others stay pending. -/
theorem takeAsync_spec {s : State} {p : Pend} {l : List Pend} (hcons : s.core.clerk.pend = p :: l)
    (hfrozen : s.core.clerk.frozen = false) : s.takeAsync.core.clerk.pend = l ∧
      Traps s (.next s.takeAsync) (256 + p.code.toNat) (p.faddr % 2 ^ 48) := by
  rw [takeAsync_of_cons hcons]
  refine ⟨pend_enterTrap (s := withPend s l) hfrozen _ _ _, ?_⟩
  have hcode : p.code.toNat < 256 := p.code.isLt
  exact traps_enterTrap (s := withPend s l) hfrozen
    ⟨p.code.toNat, p.faddr, p.detail.toNat, true, s.resumePc, s.resumePc⟩ none [] (by simp [b2n, Nat.mod_eq_of_lt hcode])

/-- In strictly ascending order the first cause has the least code, and no other is the same. -/
theorem PendAscending.cons_iff {p : Pend} {l : List Pend} (h : PendAscending (p :: l)) :
    (∀ q ∈ p :: l, q ≠ p → p.code < q.code) ∧ (∀ q, q ∈ l ↔ q ∈ p :: l ∧ q ≠ p) ∧ PendAscending l := by
  obtain ⟨hleast, hrest⟩ := List.pairwise_cons.1 h
  refine ⟨fun q hq hne => hleast q ((List.mem_cons.1 hq).resolve_left hne), fun q =>
    ⟨fun hq => ⟨List.mem_cons_of_mem p hq, ?_⟩, fun ⟨hq, hne⟩ => (List.mem_cons.1 hq).resolve_left hne⟩, hrest⟩
  rintro rfl
  exact BitVec.lt_irrefl _ (hleast q hq)

/-! ### Wake-ups -/

/-- An aligned address is its own multiple of 4 below. -/
theorem and_not_three {x : BitVec 48} (h : x.toNat % 4 = 0) : x &&& ~~~3 = x := by
  have hlow : x &&& 3 = 0 := by
    apply BitVec.eq_of_toNat_eq
    rw [BitVec.toNat_and, show (3 : BitVec 48).toNat = 2 ^ 2 - 1 from rfl, Nat.and_two_pow_sub_one_eq_mod]
    exact h
  calc x &&& ~~~3 = x &&& ~~~3 ||| x &&& 3 := by rw [hlow]; exact BitVec.or_zero.symm
    _ = x &&& (~~~3 ||| 3) := BitVec.and_or_distrib_left.symm
    _ = x := BitVec.and_allOnes

theorem woken_eq {c : Clerk} (hpc : c.pc.toNat % 4 = 0) : c.woken = { c with
    pc := c.pc + 4, run := .running, wfeEvent := false
    stepping := c.stepping && c.mode = .supervisor
    stepped := if c.stepping = true ∧ c.mode = .task then some c.pc else c.stepped } := by
  have hnext : (c.pc + 4) &&& ~~~3 = c.pc + 4 := and_not_three (by
    rw [BitVec.toNat_add]
    change (c.pc.toNat + 4) % 2 ^ 48 % 4 = 0
    omega)
  have hstepping : (c.stepping && !(c.stepping && decide (c.mode = .task))) =
      (c.stepping && decide (c.mode = .supervisor)) := by
    cases c.stepping <;> cases c.mode <;> rfl
  simp only [Clerk.woken, Clerk.setPc, hnext, hstepping, Bool.and_eq_true, decide_eq_true_eq]

/-! ### Timeouts -/

section
variable {s : State} {k : Nat} {u : Unfin} (hu : s.unfin k = some u)
include hu

theorem exec_memoryTimeout_of_held (h : s.unfinSent k u = false ∨ u.waits s = true) :
    exec (.memoryTimeout (.clerk k)) s = .next s := by
  show execMemoryTimeout (.clerk k) s = _
  simp only [execMemoryTimeout, hu]
  exact if_pos (by obtain h | h := h <;> simp [h])

theorem exec_memoryTimeout_of_sent (hdone : u.done = none) (hsent : s.unfinSent k u = true) (hwaits : u.waits s = false) :
    exec (.memoryTimeout (.clerk k)) s = .next (s.trapUnfin k ⟨0x14, u.timeoutAddr, 0⟩) := by
  show execMemoryTimeout (.clerk k) s = _
  simp only [execMemoryTimeout, hu]
  exact if_neg (by simp [hdone, hsent, hwaits])

theorem trapUnfin_eq (f : Flt) :
    s.trapUnfin k f = s.enterTrap ⟨f.cause, f.addr, f.detail, false, u.pc, s.resumePc⟩ (some k) [] := by
  obtain ⟨hk, hget⟩ := List.getElem?_eq_some_iff.1 hu
  rw [State.trapUnfin, List.drop_eq_getElem_cons hk, hget]

end

/-- A `join` times out at its own PC, any other instruction at its address. -/
theorem timeoutAddr_mod (u : Unfin) : u.timeoutAddr % 2 ^ 48 =
    if isJoinHead u.op.toNat u.func.toNat = true then u.pc.toNat else u.ea % 2 ^ 48 := by
  unfold Unfin.timeoutAddr
  split
  · exact Nat.mod_eq_of_lt u.pc.isLt
  · rfl

theorem exec_memoryTimeout_fabric {s : State} {k : Nat} {q : Req} (hq : s.req k = some q) (hstage : q.stage = .waiting)
    (hgiven : s.givenUp k q = false) : exec (.memoryTimeout (.fabric k)) s = .next (s.reqFail q 0x14 q.va 0) := by
  show execMemoryTimeout (.fabric k) s = _
  simp only [execMemoryTimeout, hq, hstage]
  exact congrArg Host.Outcome.next (if_neg (by simp [hgiven]))

theorem exec_watchdogExpiry {s : State} (htask : s.task.isSome = true) (hquiet : s.quiescent = false)
    (hnone : s.noneOutstanding = true) (hmove : s.tokensMove = false) :
    exec .watchdogExpiry s = .next (s.pendCause 0x15 0 0) :=
  congrArg Host.Outcome.next (if_pos (by simp [htask, hquiet, hnone, hmove]))

/-- Settles O38: each event by its own condition, an asynchronous cause by the order of the pending ones. -/
theorem clerkEvents : Obligations.ClerkEvents := by
  unfold Obligations.ClerkEvents
  intro s
  refine ⟨fun h code faddr detail _ => pendAscending_pendCause h .., fun hasc htask hgated hready hends => ?_,
    fun hrun hevent hpc => ?_, fun hevent => ?_, fun hrun => ?_, fun htask hquiet hnone hmove hrun => ?_,
    fun k u hu _ hsent => exec_memoryTimeout_of_held hu (.inl hsent), fun k u hu hdone hsent => ⟨fun hwaits => ?_,
    fun hwaits hfrozen => ?_⟩, fun k q r c hq hstage hgiven _ => exec_memoryTimeout_fabric hq hstage hgiven⟩
  · obtain ⟨hfrozen, hne⟩ := asyncReady_spec hready
    obtain ⟨p, l, hcons⟩ := List.exists_cons_of_ne_nil hne
    obtain ⟨hpend, htraps⟩ := takeAsync_spec hcons hfrozen
    rw [hcons] at hasc
    obtain ⟨hleast, hothers, hrest⟩ := hasc.cons_iff
    rw [exec_asyncTrap htask hgated hends hready, hcons]
    exact ⟨p, _, List.mem_cons_self, hleast, rfl, htraps, hpend ▸ hothers, hpend ▸ hrest⟩
  · refine congrArg Host.Outcome.next ((if_pos (by simp [hrun, hevent])).trans ?_)
    simp only [State.updClerk, woken_eq hpc]
  · exact congrArg Host.Outcome.next (if_neg (by simp [hevent]))
  · exact congrArg Host.Outcome.next (if_pos hrun)
  · obtain ⟨hmem, hregs, hpc, -⟩ := sameCourse_pendCause s 0x15 0 0
    refine ⟨_, exec_watchdogExpiry htask hquiet hnone hmove, ?_, hpc, hregs, hmem⟩
    obtain ⟨p, hp, hcode⟩ := exists_mem_insertPend ⟨0x15, 0, 0⟩ s.core.clerk.pend
    exact ⟨p, (pend_pendCause hrun 0x15 0 0).symm ▸ hp, hcode⟩
  · exact exec_memoryTimeout_of_held hu (.inr hwaits)
  · rw [exec_memoryTimeout_of_sent hu hdone hsent hwaits, trapUnfin_eq hu, ← timeoutAddr_mod]
    exact traps_enterTrap hfrozen ⟨0x14, u.timeoutAddr, 0, false, u.pc, s.resumePc⟩ _ _ (by simp [b2n])

end Sys2Proof.Claims
end

section
/-!
# Pre-emption, recall, partition swaps and a core's reset (O47)

A task that leaves its core is enqueued again by words of its TCB and a place in a wing's order (`DeskOnly`): where the core's
clerk has been reset, that changes nothing of the core.
-/

namespace Sys2Proof.Claims
open Sys2Proof.Machine

/-! ### What the desk changes -/

/-- From `s` to `t` memory has been written and tasks have joined the wings' orders: what else differs is the errors known in
memory and the values that a `waitw` may have found there. -/
def DeskOnly (s t : State) : Prop :=
  ∃ m p l w, l.length = s.core.clerk.unfin.length ∧ t = { s with
    mem := m, poison := p, wings := w, core := { s.core with clerk := { s.core.clerk with unfin := l } } }

theorem DeskOnly.refl (s : State) : DeskOnly s s := ⟨_, _, _, _, rfl, rfl⟩

theorem DeskOnly.trans {s t u : State} (h : DeskOnly s t) (h' : DeskOnly t u) : DeskOnly s u := by
  obtain ⟨m, p, l, w, hl, rfl⟩ := h
  obtain ⟨m', p', l', w', hl', rfl⟩ := h'
  exact ⟨m', p', l', w', hl'.trans hl, rfl⟩

theorem DeskOnly.keeps {s t : State} (h : DeskOnly s t) : t.task = s.task ∧ t.preempting = s.preempting ∧
    t.shadow = s.shadow ∧ t.occ = s.occ ∧ t.recalling = s.recalling := by
  obtain ⟨m, p, l, w, -, rfl⟩ := h
  exact ⟨rfl, rfl, rfl, rfl, rfl⟩

/-- A clerk with nothing unfinished has no `waitw` that could be given a value. -/
theorem DeskOnly.core {s t : State} (h : DeskOnly s t) (hnil : s.core.clerk.unfin = []) : t.core = s.core := by
  obtain ⟨m, p, l, w, hl, rfl⟩ := h
  rw [hnil, List.length_nil, List.length_eq_zero_iff, ← hnil] at hl
  rw [hl]

theorem deskOnly_tcbSet (s : State) (pa k hi lo v : Nat) : DeskOnly s (s.tcbSet pa k hi lo v) :=
  ⟨_, _, _, _, length_notifyFrom .., rfl⟩

theorem deskOnly_tcbWr (s : State) (pa k v : Nat) : DeskOnly s (s.tcbWr pa k v) :=
  ⟨_, _, _, _, length_notifyFrom .., rfl⟩

theorem deskOnly_updWing (s : State) (w : Nat) (f : Wing → Wing) : DeskOnly s (s.updWing w f) :=
  ⟨_, _, _, _, rfl, rfl⟩

theorem deskOnly_enqueue (s : State) (k : TaskKey) (st : Nat) (left : Option Nat) : DeskOnly s (s.enqueue k st left) := by
  unfold State.enqueue
  split
  · exact .refl s
  · exact (((deskOnly_tcbSet ..).trans (deskOnly_tcbWr ..)).trans (deskOnly_tcbWr ..)).trans (deskOnly_updWing ..)

theorem deskOnly_countRestart (s : State) (k : TaskKey) : DeskOnly s (s.countRestart k) := by
  unfold State.countRestart
  split
  · exact deskOnly_tcbSet ..
  · exact .refl s

/-- A task that restarts is recalled no more (R123, step 5). -/
theorem deskOnly_restart (s : State) (k : TaskKey) :
    DeskOnly { s with recalling := s.recalling.filter fun x => !(x = k) } (s.restart k) :=
  (deskOnly_countRestart ..).trans (deskOnly_enqueue ..)

/-- What a task leaves of the modelled core is saved in shadow storage, not with the other cores' registers (R326). -/
theorem farSave_own (s : State) (k : TaskKey) {c : Nat} (hc : c = s.coreId) : s.farSave k c = s :=
  if_pos (beq_iff_eq.2 hc)

/-- A task of the modelled core that has left it, and stands in no order yet. -/
def offCore (s : State) (k : TaskKey) : State :=
  State.memberRuns { s with occ := s.occ.filter fun o => o.core != s.coreId } k false

/-- A task of the modelled core leaves it as PREEMPTED. -/
theorem deskOnly_requeue (s : State) (k : TaskKey) : DeskOnly (offCore s k) (s.requeue k s.coreId) := by
  have hown : (offCore s k).farSave k s.coreId = offCore s k := farSave_own _ k rfl
  change DeskOnly (offCore s k) (((offCore s k).farSave k s.coreId).enqueue k 4 (some s.coreId))
  rw [hown]
  exact deskOnly_enqueue ..

/-! ### Pre-emption -/

section
variable {s : State} {k : TaskKey}

theorem exec_quantumPreempt {r : Nat × Ready} (htask : s.task = some k) (hpre : s.preempting = none)
    (htaker : s.takerOf s.coreId = some r) : exec (.quantumPreempt s.coreId) s = .next { s with
      preempting := some .quantum
      nextTask := s.nextTask.filter (fun x => x.1 != s.coreId) ++ [(s.coreId, r.2.key)] } := by
  show execQuantumPreempt s.coreId s = _
  simp [execQuantumPreempt, State.preempt, htaker, htask, hpre]

theorem exec_preemptSave (htask : s.task = some k) (hrecalled : s.recalled = false) :
    exec .preemptSave s = .next (if s.maySave = true then s.saveTask k else s) := by
  show execPreemptSave s = _
  simp only [execPreemptSave, htask, hrecalled]
  cases s.maySave <;> rfl

theorem saveTask_spec (s : State) (k : TaskKey) : (s.saveTask k).task = none ∧ (s.saveTask k).preempting = none ∧
    (s.saveTask k).shadow = s.shadow ++ [(k, s.killedCore (s.core.saved s.ctx))] ∧
    (s.saveTask k).core = s.core.left s.ctx ∧ ∀ o ∈ (s.saveTask k).occ, o.core ≠ s.coreId := by
  have hdesk := deskOnly_requeue { s with
    shadow := s.shadow ++ [(k, s.killedCore (s.core.saved s.ctx))], core := s.core.left s.ctx
    task := none, preempting := none } k
  obtain ⟨htask, hpre, hshadow, hocc, -⟩ := hdesk.keeps
  refine ⟨htask, hpre, hshadow, hdesk.core (congrArg Clerk.unfin (Core.left_clerk s.ctx s.core)), fun o ho => ?_⟩
  rw [State.saveTask, hocc] at ho
  exact bne_iff_ne.1 (List.mem_filter.1 ho).2

theorem exec_preemptionTimeout (h : s.preempting.isSome = true) : exec .preemptionTimeout s = .next (State.pendCause { s with
    preempting := none, nextTask := s.nextTask.filter fun x => x.1 != s.coreId } 0x15 0 1) :=
  if_pos h

/-! ### Recall -/

theorem exec_recallRollback_of_not_recalled (h : k ∉ s.recalling) : exec (.recallRollback k) s = .next s :=
  if_pos (by simpa using h)

theorem exec_recallRollback_of_elsewhere (h : k ∈ s.recalling) (htask : s.task ≠ some k) :
    exec (.recallRollback k) s = .next (s.rollRestart k) :=
  (if_neg (by simpa using h)).trans (if_neg htask)

theorem exec_recallRollback_of_running (h : k ∈ s.recalling) (htask : s.task = some k) (hdrained : s.recallDrained = false) :
    exec (.recallRollback k) s = .next s := by
  refine (if_neg (by simpa using h)).trans ((if_pos htask).trans (if_pos ?_))
  rw [hdrained]
  rfl

/-- The state of the core's task rolled back, with what is left of it in the core discarded. -/
def rolledBack (s : State) (k : TaskKey) : State := ((s.rollBack k).dropReqs fun _ => true).updCore Core.recalled

theorem exec_recallRollback_of_drained (h : k ∈ s.recalling) (htask : s.task = some k) (hdrained : s.recallDrained = true) :
    exec (.recallRollback k) s = .next ((State.memberRuns { (rolledBack s k).freeCore (rolledBack s k).coreId with
      preempting := none } k false).restart k) := by
  refine (if_neg (by simpa using h)).trans ((if_pos htask).trans (if_neg ?_))
  rw [hdrained]
  simp

theorem not_mem_filter_ne (l : List TaskKey) (k : TaskKey) : k ∉ l.filter fun x => !(x = k) := by
  simp [List.mem_filter]

theorem rollRestart_spec (s : State) (k : TaskKey) :
    k ∉ (s.rollRestart k).recalling ∧ ∀ o ∈ (s.rollRestart k).occ, o.key ≠ k := by
  obtain ⟨-, -, -, hocc, hrecalling⟩ := (deskOnly_restart (State.memberRuns { (s.rollBack k).unqueue k with
    occ := ((s.rollBack k).unqueue k).occ.filter fun o => !(o.key = k) } k false) k).keeps
  refine ⟨?_, fun o ho => ?_⟩
  · rw [State.rollRestart, hrecalling]
    exact not_mem_filter_ne _ k
  · rw [State.rollRestart, hocc] at ho
    simpa using (List.mem_filter.1 ho).2

theorem freeCore_own (s : State) {c : Nat} (hc : c = s.coreId) :
    s.freeCore c = { s with occ := s.occ.filter (fun o => o.core != c), task := none } :=
  if_pos (beq_iff_eq.2 hc)

theorem recalled_spec (s : State) (k : TaskKey) :
    let t := (State.memberRuns { s.freeCore s.coreId with preempting := none } k false).restart k
    t.task = none ∧ k ∉ t.recalling ∧ t.preempting = none ∧ (s.core.clerk.unfin = [] → t.core = s.core) := by
  have hdesk := deskOnly_restart (State.memberRuns { s.freeCore s.coreId with preempting := none } k false) k
  obtain ⟨htask, hpre, -, -, hrecalling⟩ := hdesk.keeps
  rw [freeCore_own s rfl] at hdesk htask hpre hrecalling ⊢
  exact ⟨htask, hrecalling ▸ not_mem_filter_ne _ k, hpre, hdesk.core⟩

/-! ### The reset of a core -/

theorem dropReqs_eq (s : State) (p : Req → Bool) : ∃ tags reqs, s.dropReqs p = { s with
    tags := tags, core := { s.core with fab := { s.core.fab with reqs := reqs } } } := by
  obtain ⟨tags, htags⟩ := unpin_eq s (s.core.fab.reqs.filter p)
  rw [State.dropReqs, htags]
  exact ⟨_, _, rfl⟩

theorem clearCore_spec (s : State) : s.clearCore.task = none ∧ s.clearCore.preempting = none ∧
    s.clearCore.core.clerk = Clerk.reset ∧ s.clearCore.core.fab = Fabric.reset ∧
    s.clearCore.core.ports = List.replicate 16 Port.reset ∧ s.clearCore.core.tmu = Tmu.reset ∧ s.clearCore.mem = s.mem := by
  obtain ⟨tags, reqs, hdrop⟩ := dropReqs_eq s fun _ => true
  have hfree := freeCore_own ((s.dropReqs fun _ => true).updCore Core.cleared) (c := s.coreId) (by rw [hdrop]; rfl)
  rw [State.clearCore, hfree, hdrop]
  exact ⟨rfl, rfl, rfl, rfl, rfl, rfl, rfl⟩

/-! ### Partition swaps -/

variable {p : BitVec 4} {v : Dword}

/-- A core of the partition has full shadow storage. -/
def ShadowFullIn (s : State) (p : Nat) : Prop :=
  ∃ x, x < 160 ∧ s.hasCore x = true ∧ s.corePart x = p ∧ s.shadowFull x = true

theorem shadowFullIn_iff (s : State) (p : Nat) :
    ((List.range 160).any fun k => s.hasCore k && s.corePart k == p && s.shadowFull k) = true ↔ ShadowFullIn s p := by
  simp [ShadowFullIn, List.any_eq_true, and_assoc]

section
variable (hv : v.getLsbD 63 = true) (hclr : v.getLsbD 61 = false)
  (hother : ¬ ((s.partcur p.toNat).v = true ∧ (s.partcur p.toNat).ctx = v.setWidth 12))
include hv hclr hother

theorem exec_partitionSwap_of_idle (hswap : (s.partcur p.toNat).swap = none) (hroom : ¬ ShadowFullIn s p.toNat)
    (hrun : s.partRunning p.toNat = []) : exec (.partitionSwap p v) s =
      .next (s.updPartcur p.toNat fun y => { y with swap := some (v.setWidth 12) }) := by
  rw [← shadowFullIn_iff, Bool.not_eq_true] at hroom
  rw [← decide_eq_true_iff (p := (s.partcur p.toNat).ctx = v.setWidth 12), ← Bool.and_eq_true, Bool.not_eq_true] at hother
  show execPartitionSwap p v s = _
  simp only [execPartitionSwap, State.partcurWrite, hv, hclr, hswap, hroom, hrun, hother, Bool.not_true, Bool.false_eq_true,
    if_false, Option.isSome_none, Bool.or_self, List.foldl_nil]

theorem exec_partitionSwap_of_refused (h : (s.partcur p.toNat).swap.isSome = true ∨ ShadowFullIn s p.toNat) :
    exec (.partitionSwap p v) s = .next (s.updPartcur p.toNat fun y => { y with err := true }) := by
  rw [← shadowFullIn_iff, ← Bool.or_eq_true] at h
  rw [← decide_eq_true_iff (p := (s.partcur p.toNat).ctx = v.setWidth 12), ← Bool.and_eq_true, Bool.not_eq_true] at hother
  show execPartitionSwap p v s = _
  simp only [execPartitionSwap, State.partcurWrite, hv, hclr, h, hother, Bool.not_true, Bool.false_eq_true, if_false, if_true,
    Bool.false_and]

end

theorem exec_partitionSwapDone_of_none (h : (s.partcur p.toNat).swap = none) :
    exec (.partitionSwapDone p) s = .next s := by
  show execPartitionSwapDone p s = _
  simp only [execPartitionSwapDone, h]

section
variable {x : BitVec 12} (hswap : (s.partcur p.toNat).swap = some x)
include hswap

theorem exec_partitionSwapDone_of_ended (hrun : s.partRunning p.toNat = []) : exec (.partitionSwapDone p) s =
    .next (s.updPartcur p.toNat fun y => { y with v := true, ctx := x, swap := none }) := by
  show execPartitionSwapDone p s = _
  simp only [execPartitionSwapDone, hswap, hrun]

theorem exec_partitionSwapDone_of_own (hrun : s.partRunning p.toNat = [s.coreId]) :
    exec (.partitionSwapDone p) s = .next (s.preempt s.coreId .swap) := by
  show execPartitionSwapDone p s = _
  simp only [execPartitionSwapDone, hswap, hrun, List.foldl_cons, List.foldl_nil]

end

theorem preempt_own (s : State) (why : PreemptWhy) : s.preempt s.coreId why =
    if s.task.isSome && s.preempting.isNone then { s with preempting := some why } else s :=
  if_pos (beq_self_eq_true s.coreId)

end

/-- Settles O47: each way out of the core by its own condition, and what it leaves of the core and the desk. -/
theorem leavingTheCore : Obligations.LeavingTheCore := by
  unfold Obligations.LeavingTheCore
  intro k p v s c ctx
  refine ⟨fun r => exec_quantumPreempt, fun htask hrecalled => ⟨fun hsave => ?_, fun hwait => ?_⟩, exec_preemptionTimeout,
    exec_recallRollback_of_not_recalled, fun hin htask => ?_, fun hin htask => ⟨?_, fun hdrained => ?_⟩,
    fun hv hclr hother => ⟨fun hswap hroom hrun => ?_, ?_⟩, fun x hswap hrun htask => ⟨fun hpre => ?_, fun hpre => ?_⟩,
    exec_partitionSwapDone_of_none, fun x => exec_partitionSwapDone_of_ended, rfl, _, rfl, clearCore_spec s⟩
  · exact ⟨_, by rw [exec_preemptSave htask hrecalled, if_pos hsave], saveTask_spec s k⟩
  · rw [exec_preemptSave htask hrecalled, if_neg (by simp [hwait])]
  · exact ⟨_, exec_recallRollback_of_elsewhere hin htask, rollRestart_spec s k⟩
  · exact exec_recallRollback_of_running hin htask
  · obtain ⟨hnone, hnot, hpre, hcore⟩ := recalled_spec (rolledBack s k) k
    have hreset := hcore rfl
    exact ⟨_, exec_recallRollback_of_drained hin htask hdrained, hnone, hnot, hpre, congrArg Core.clerk hreset,
      congrArg Core.ports hreset⟩
  · refine exec_partitionSwap_of_idle hv hclr hother hswap ?_ hrun
    rintro ⟨x, hx, hcore, hpart, hfull⟩
    exact Bool.false_ne_true ((hroom x hx hcore hpart).symm.trans hfull)
  · exact exec_partitionSwap_of_refused hv hclr hother
  · rw [exec_partitionSwapDone_of_own hswap hrun, preempt_own, if_pos (by simp [htask, hpre])]
  · rw [exec_partitionSwapDone_of_own hswap hrun, preempt_own, if_neg (by simp [Option.isSome_iff_ne_none.1 hpre])]

end Sys2Proof.Claims
end

section
/-!
# `join`, `leave` and `cbar` (O25)

A `join` has four outcomes at the desk (`State.joinAtDesk`): its task is a member already, its id is formed, its count is
another one, or the task joins. A `cbar` counts the arrival of the task's one entry in its cohort, looks whether every member
has arrived, and if so counts the entry as passed: both changes act on one member of one cohort (`withMember`), and none of
them on which cohort the task is found in (`cohortOf_updMember`).
-/

namespace Sys2Proof.Claims
open Sys2Proof.Machine

/-! ### `join` -/

/-- An id and a count that R140 allows. -/
def JoinFits (id n : Nat) : Prop := 1 ≤ id ∧ id ≤ 65535 ∧ 1 ≤ n ∧ n ≤ 160

theorem JoinFits.check {id n : Nat} :
    (id == 0 || decide (65535 < id) || n == 0 || decide (160 < n)) = true ↔ ¬ JoinFits id n := by
  simp only [JoinFits, Bool.or_eq_true, beq_iff_eq, decide_eq_true_eq]
  omega

theorem exec_join (d a b : Reg) (s : State) : exec (.join d a b) s =
    .next ((s.advance 4).issueJoin (s.src (.join d a b) d) (s.reg a).toNat (s.reg b).toNat) := rfl

section
variable {u : State} {k : TaskKey} {x : Src} {id n : Nat} (htask : u.task = some k)
include htask

theorem issueJoin_of_misfit (h : ¬ JoinFits id n) :
    u.issueJoin x id n = u.trapSrc x id (BitVec.ofNat 64 n) 0 (formatAt x) := by
  simp only [State.issueJoin, htask]
  exact if_pos (JoinFits.check.2 h)

/-- One that fits issues, whether its task is a member or not: that is looked at behind what it releases. -/
theorem issueJoin_of_fits (hkept : x.kept = none) (h : JoinFits id n) :
    u.issueJoin x id n = u.push x (x.unfin id (BitVec.ofNat 64 n) 0 0 (.join id .issued)) := by
  simp only [State.issueJoin, htask]
  refine (if_neg fun hc => JoinFits.check.1 hc h).trans ?_
  cases u.cohortOf k with
  | none => rfl
  | some c => simp [hkept]

end

/-! ### The desk -/

/-- The task's `join` waits for its id (R140). -/
def joinWaits (s : State) (j id : Nat) : State :=
  s.updClerk fun c => { c with unfin := updAt c.unfin j fun u => { u with work := .join id .waits } }

theorem exec_joinAtDesk {s : State} {j id : Nat} {u : Unfin} (hdue : Due s j u) (hw : u.work = .join id .issued) :
    exec (.accessPerform (.clerk j)) s = .next (s.joinAtDesk j u id u.b.toNat) := by
  obtain ⟨hu, hdone, hchecked, -⟩ := And.intro hdue.1 hdue.2
  have hgo : s.goesOn j (.accessPerform (.clerk j)) = true :=
    goesOn_of_due hdue (by simp [unfinStep, hdone, hchecked, hw]) (by simp [State.hasPort, hw, Work.place])
  refine (congrArg Host.Outcome.next (if_pos hgo)).trans ?_
  simp [State.performClerk, hu, hchecked, hw]

section
variable {s : State} {k : TaskKey} {j id cnt : Nat} {u : Unfin} (htask : s.task = some k)
include htask

theorem joinAtDesk_of_member (hmember : (s.cohortOf k).isSome = true) :
    s.joinAtDesk j u id cnt = s.trapUnfin j ⟨0x08, u.pc.toNat, 0⟩ := by
  simp [State.joinAtDesk, htask, hmember]

variable (hnot : s.cohortOf k = none)
include hnot

section
variable {h : Cohort} (hfind : s.cohorts.find? (fun h => h.ctx = s.taskCtx k && h.id == id) = some h)
include hfind

theorem joinAtDesk_of_formed (hformed : h.formed = true) : s.joinAtDesk j u id cnt = joinWaits s j id := by
  simp only [State.joinAtDesk, htask, hnot, hfind, hformed, Option.isSome_none, Bool.false_eq_true, if_false, if_true]
  rfl

theorem joinAtDesk_of_other_count (hforming : h.formed = false) (hcount : h.count ≠ cnt) :
    s.joinAtDesk j u id cnt = s.trapUnfin j ⟨0x08, u.pc.toNat, 0⟩ := by
  simp [State.joinAtDesk, htask, hnot, hfind, hforming, hcount]

end

theorem joinAtDesk_of_room
    (hsame : ∀ h, h ∈ s.cohorts ∧ h.ctx = s.taskCtx k ∧ h.id = id → h.formed = false ∧ h.count = cnt) :
    s.joinAtDesk j u id cnt = (joinWaits s j id).joinCohort k s.coreId id cnt true := by
  cases hfind : s.cohorts.find? (fun h => h.ctx = s.taskCtx k && h.id == id) with
  | none =>
    simp only [State.joinAtDesk, htask, hnot, hfind, Option.isSome_none, Bool.false_eq_true, if_false]
    rfl
  | some h =>
    have hfits := List.find?_some hfind
    simp only [Bool.and_eq_true, decide_eq_true_eq, beq_iff_eq] at hfits
    obtain ⟨hforming, hcount⟩ := hsame h ⟨List.mem_of_find?_eq_some hfind, hfits⟩
    simp only [State.joinAtDesk, htask, hnot, hfind, hforming, hcount, Option.isSome_none, Bool.false_eq_true, if_false,
      bne_self_eq_false]
    rfl

end

/-! ### One member of a cohort -/

/-- A cohort with the entry of task `k` changed. -/
def withMember (k : TaskKey) (f : Member → Member) (h : Cohort) : Cohort :=
  { h with members := h.members.map fun m => if m.key = k then f m else m }

/-- A member that has issued its next `cbar`. -/
def barIssued (m : Member) : Member := { m with cbars := m.passed + 1 }

theorem key_barIssued (m : Member) : (barIssued m).key = m.key := rfl

/-- A member whose `cbar` goes on. -/
def barPassed (m : Member) : Member := { m with passed := m.cbars }

section
variable {k : TaskKey} {f : Member → Member}

theorem key_withMember (hkey : ∀ m, (f m).key = m.key) (m : Member) : (if m.key = k then f m else m).key = m.key := by
  split
  · exact hkey m
  · rfl

theorem withMember_comp (g : Member → Member) (hkey : ∀ m, (f m).key = m.key) (h : Cohort) :
    withMember k g (withMember k f h) = withMember k (g ∘ f) h := by
  simp only [withMember, List.map_map, Cohort.mk.injEq, true_and]
  refine List.map_congr_left fun m _ => ?_
  by_cases hm : m.key = k <;> simp [hm, hkey]

/-- Two changes of an entry in turn are one. -/
theorem updMember_updMember (s : State) (ctx : BitVec 12) (id : Nat) (g : Member → Member) (hkey : ∀ m, (f m).key = m.key) :
    (s.updCohort ctx id (withMember k f)).updCohort ctx id (withMember k g) = s.updCohort ctx id (withMember k (g ∘ f)) := by
  simp only [State.updCohort, List.map_map, State.mk.injEq, true_and, and_true]
  refine List.map_congr_left fun h _ => ?_
  by_cases hh : (h.ctx = ctx && h.id == id) = true
  · rw [Function.comp_apply, if_pos hh, if_pos hh]
    exact (if_pos hh).trans (withMember_comp g hkey h)
  · simp only [Function.comp_apply, if_neg hh]

/-- The task is found in the same cohort as before. -/
theorem cohortOf_updMember {s : State} {h : Cohort} (hkey : ∀ m, (f m).key = m.key) (hof : s.cohortOf k = some h) :
    (s.updCohort h.ctx h.id (withMember k f)).cohortOf k = some (withMember k f h) := by
  have hany : (fun x : Cohort => x.members.any fun m => m.key = k) ∘
      (fun x : Cohort => if x.ctx = h.ctx && x.id == h.id then withMember k f x else x) =
      fun x : Cohort => x.members.any fun m => m.key = k := by
    funext x
    dsimp only [Function.comp_apply]
    split
    · simp only [withMember, List.any_map, Function.comp_def, key_withMember hkey]
    · rfl
  rw [State.cohortOf, State.updCohort, List.find?_map, hany, show List.find? _ s.cohorts = some h from hof]
  simp

end

/-- A cohort that is the only one of its context and id is the only one changed. -/
theorem updCohort_of_only {s : State} {h : Cohort} (f : Cohort → Cohort)
    (honly : ∀ x ∈ s.cohorts, x.ctx = h.ctx → x.id = h.id → x = h) :
    s.updCohort h.ctx h.id f = { s with cohorts := s.cohorts.map fun y => if y = h then f h else y } := by
  simp only [State.updCohort, State.mk.injEq, true_and, and_true]
  refine List.map_congr_left fun y hy => ?_
  by_cases hyh : y = h
  · simp [hyh]
  · rw [if_neg hyh, if_neg]
    simp only [Bool.and_eq_true, decide_eq_true_eq, beq_iff_eq]
    exact fun e => hyh (honly y hy e.1 e.2)

section
variable {k : TaskKey} {h : Cohort} {m : Member} (hone : h.members.filter (fun x => x.key = k) = [m])
include hone

/-- A task with one entry in its cohort has no other. -/
theorem eq_of_mem_of_one {x : Member} (hx : x ∈ h.members) (hk : x.key = k) : x = m := by
  have hmem : x ∈ h.members.filter (fun x => x.key = k) := List.mem_filter.2 ⟨hx, by simpa using hk⟩
  rwa [hone, List.mem_singleton] at hmem

theorem key_of_one : m.key = k := by
  have hmem : m ∈ h.members.filter (fun x => x.key = k) := by rw [hone]; exact List.mem_singleton_self m
  simpa using (List.mem_filter.1 hmem).2

theorem withMember_of_one {f g : Member → Member} (hfg : f m = g m) : withMember k f h = withMember k g h := by
  simp only [withMember, Cohort.mk.injEq, true_and]
  refine List.map_congr_left fun x hx => ?_
  split
  · rename_i hk
    rw [eq_of_mem_of_one hone hx hk, hfg]
  · rfl

/-- The entry of the task, once changed. -/
theorem find_withMember {f : Member → Member} (hkey : ∀ m, (f m).key = m.key) :
    (withMember k f h).members.find? (fun x => x.key = k) = some (f m) := by
  have hkeys : (fun x : Member => decide (x.key = k)) ∘ (fun x => if x.key = k then f x else x) =
      fun x : Member => decide (x.key = k) := by
    funext x
    simp only [Function.comp_apply, key_withMember hkey]
  have hfind : h.members.find? (fun x => x.key = k) = some m := by
    rw [← List.head?_filter, hone]
    rfl
  rw [withMember, List.find?_map, hkeys, hfind, Option.map_some, if_pos (key_of_one hone)]

/-- Once the task has issued its `cbar`, every member has arrived where every other one has (R142). -/
theorem arrived_withMember : (withMember k barIssued h).arrived (m.passed + 1) = true ↔
    ∀ x ∈ h.members, x.key ≠ k → m.passed + 1 ≤ x.cbars := by
  simp only [Cohort.arrived, withMember, List.all_map, List.all_eq_true, Function.comp_apply, decide_eq_true_eq]
  refine forall₂_congr fun x hx => ?_
  by_cases hk : x.key = k
  · obtain rfl := eq_of_mem_of_one hone hx hk
    simp [hk, barIssued]
  · simp [hk]

end

/-! ### `cbar` -/

section
variable {s : State} {k : TaskKey} (htask : s.task = some k)
include htask

theorem exec_membership_of_joinIssued (h : s.core.clerk.joinIssued = true) :
    exec .leave s = .next s ∧ exec .cbar s = .next s := by
  constructor
  · show execLeave s = _
    simp only [execLeave, htask, h, if_true]
  · show execCbar s = _
    simp only [execCbar, htask, h, if_true]

variable (hissued : s.core.clerk.joinIssued = false)
include hissued

theorem exec_leave_of_none (hnot : s.cohortOf k = none) :
    exec .leave s = .next (s.trapInstr .leave 0 0 0 ⟨0x08, s.core.clerk.pc.toNat, 0⟩) := by
  show execLeave s = _
  simp only [execLeave, htask, hissued, hnot, Bool.false_eq_true, if_false]

theorem exec_cbar_of_none (hnot : s.cohortOf k = none) :
    exec .cbar s = .next (s.trapInstr .cbar 0 0 0 ⟨0x08, s.core.clerk.pc.toNat, 0⟩) := by
  show execCbar s = _
  simp only [execCbar, htask, hissued, hnot, Bool.false_eq_true, if_false]

variable {h : Cohort} (hof : s.cohortOf k = some h)
include hof

theorem exec_leave_of_member : exec .leave s = .next (((s.updClerk fun c =>
    { c with unfin := c.unfin.filter fun u => !u.waitsIn h.id }).leaveCohort k).advance 4) := by
  show execLeave s = _
  simp only [execLeave, htask, hissued, hof, Bool.false_eq_true, if_false]

variable {m : Member} (hone : h.members.filter (fun x => x.key = k) = [m]) (hperformed : s.allPerformed = true)
include hone hperformed

/-- The arrival of the task's entry is counted; where every member has arrived, the entry passes, too. -/
theorem exec_cbar_of_member : exec .cbar s =
    if (withMember k barIssued h).arrived (m.passed + 1) then
      .next (((s.updCohort h.ctx h.id (withMember k barIssued)).updCohort h.ctx h.id (withMember k barPassed)).advance 4)
    else .next (s.updCohort h.ctx h.id (withMember k barIssued)) := by
  have hof' := cohortOf_updMember key_barIssued hof
  have hfind := find_withMember hone key_barIssued
  show execCbar s = _
  simp only [execCbar, htask, hissued, hof, hperformed, Bool.false_eq_true, if_false, Bool.not_true]
  change (match (s.updCohort h.ctx h.id (withMember k barIssued)).cohortOf k with
    | none => _
    | some h => _) = _
  rw [hof']
  simp only [hfind]
  rfl

end

/-- Settles O25: `join` by its operands and at the desk by what it finds there, `leave` and `cbar` by the cohort of the task. -/
theorem cohortMembership : Obligations.CohortMembership := by
  unfold Obligations.CohortMembership
  intro d a b k s htask id n fits
  have htask' : (s.advance 4).task = some k := htask
  refine ⟨fun hfits => ?_, fun hmisfit hfrozen => ?_, fun j u id hdue hw => ?_, fun h hof hissued => ?_,
    fun hnot hissued hfrozen => ⟨?_, ?_⟩, exec_membership_of_joinIssued htask,
    fun h m hof honly hone hperformed hissued => ⟨fun harrived => ?_, fun hlate => ?_⟩⟩
  · have hpushed := issued_push s (s.advance 4) (.join d a b) d id (BitVec.ofNat 64 n) 0 0 (.join id .issued)
    rw [exec_join, issueJoin_of_fits htask' rfl hfits]
    rwa [Nat.mod_eq_of_lt (hfits.2.1.trans_lt (by decide))] at hpushed
  · have htraps := traps_trapSrc (f := ⟨0x08, s.core.clerk.pc.toNat, 0⟩) (.join d a b) d 4 id (BitVec.ofNat 64 n) 0 (by simp)
      hfrozen
    rw [exec_join, issueJoin_of_misfit htask' hmisfit]
    rwa [Nat.mod_eq_of_lt s.core.clerk.pc.isLt] at htraps
  · have hrefused (hfrozen : s.core.clerk.frozen = false) :
        Traps s (.next (s.trapUnfin j ⟨0x08, u.pc.toNat, 0⟩)) 0x08 u.pc.toNat := by
      have htraps := traps_trapUnfin hdue.1 (f := ⟨0x08, u.pc.toNat, 0⟩) (by simp) hfrozen
      rwa [Nat.mod_eq_of_lt u.pc.isLt] at htraps
    dsimp only
    rw [exec_joinAtDesk hdue hw]
    refine ⟨fun h hfind hnot => ⟨fun hformed => ?_, fun hforming hcount hfrozen => ?_⟩, fun hmember hfrozen => ?_,
      fun hnot hsame => ?_⟩
    · rw [joinAtDesk_of_formed htask hnot hfind hformed]
      rfl
    · rw [joinAtDesk_of_other_count htask hnot hfind hforming hcount]
      exact hrefused hfrozen
    · rw [joinAtDesk_of_member htask hmember]
      exact hrefused hfrozen
    · rw [joinAtDesk_of_room htask hnot hsame]
      rfl
  · exact exec_leave_of_member htask hissued hof
  · rw [exec_leave_of_none htask hissued hnot]
    exact traps_trapInstr_of_fits _ _ _ _ (by decide) s.core.clerk.pc.isLt hfrozen
  · rw [exec_cbar_of_none htask hissued hnot]
    exact traps_trapInstr_of_fits _ _ _ _ (by decide) s.core.clerk.pc.isLt hfrozen
  · rw [exec_cbar_of_member htask hissued hof hone hperformed, if_pos ((arrived_withMember hone).2 harrived),
      updMember_updMember _ _ _ _ key_barIssued, updCohort_of_only _ honly,
      withMember_of_one hone (g := fun x => { x with cbars := m.passed + 1, passed := m.passed + 1 }) rfl]
    rfl
  · have hnot : ¬ (withMember k barIssued h).arrived (m.passed + 1) = true := by
      rw [arrived_withMember hone]
      obtain ⟨x, hx, hk, hlt⟩ := hlate
      exact fun harrived => absurd (harrived x hx hk) (Nat.not_le.2 hlt)
    rw [exec_cbar_of_member htask hissued hof hone hperformed, if_neg hnot, updCohort_of_only _ honly,
      withMember_of_one hone (g := fun x => { x with cbars := m.passed + 1, passed := m.passed }) rfl]
    rfl

end Sys2Proof.Claims
end

section
/-!
# Tokens, configuration words and folios (O51)

Each step acts on what it finds: TOKEN_HOP on the head of the register and the places that it goes to, FE_CONFIG_APPLY and
FE_GO_LIVE on one FE (`fe_updFe_same`), FOLIO_CHANGE on the folio chosen.
-/

namespace Sys2Proof.Claims
open Sys2Proof.Machine

/-! ### One FE -/

/-- What is put under a key is found there. -/
theorem find_assocPut_same {α β : Type} [DecidableEq α] (l : List (α × β)) (k : α) (v : β) :
    (assocPut l k v).find? (·.1 = k) = some (k, v) := by
  induction l with
  | nil => simp [assocPut]
  | cons e t ih =>
    by_cases he : e.1 = k
    · simp [assocPut, he]
    · simpa [assocPut, he] using ih

theorem fe_updFe_same (s : State) (r c : Nat) (f : Fe → Fe) : (s.updFe r c f).fe r c = f (s.fe r c) := by
  simp only [State.fe, State.updFe, State.updFab_fab, find_assocPut_same]

theorem fe_traceBarriers (s : State) (r c : Nat) : s.traceBarriers.fe r c = s.fe r c := rfl

/-! ### TOKEN_HOP -/

section
variable {r c : Nat} {d : Dir} {trk : BitVec 2} {s : State}

theorem exec_tokenHop_of_none (h : s.hopHead r c (dirIdx d) trk.toNat = none) :
    exec (.tokenHop r c d trk) s = .next s := by
  show execTokenHop r c d trk s = _
  simp only [execTokenHop, h]

/-- The state in which the token has left its place: a barrier that leaves a drain port is injected there (R161). -/
def tookToken (s : State) (r c d t : Nat) (x : Token) : State :=
  if c = 18 ∧ x.isBar = true then (s.hopTake r c d t).inject (.me (r / 8 - 1)) x.barId else s.hopTake r c d t

variable {x : Token} (hhead : s.hopHead r c (dirIdx d) trk.toNat = some x)
include hhead

theorem exec_tokenHop_of_some : exec (.tokenHop r c d trk) s =
    if (c == 18 && (s.dests r c (dirIdx d) trk.toNat).isEmpty) = true then .next (tookToken s r c (dirIdx d) trk.toNat x)
    else if (!(s.dests r c (dirIdx d) trk.toNat).isEmpty && (s.dests r c (dirIdx d) trk.toNat).all s.destFree) = true then
      .next ((s.dests r c (dirIdx d) trk.toNat).foldl (fun u y => u.deliver x y) (tookToken s r c (dirIdx d) trk.toNat x))
    else .next s := by
  show execTokenHop r c d trk s = _
  simp only [execTokenHop, hhead, tookToken, Bool.and_eq_true, beq_iff_eq]

theorem exec_tokenHop_of_free (hne : s.dests r c (dirIdx d) trk.toNat ≠ [])
    (hfree : ∀ y ∈ s.dests r c (dirIdx d) trk.toNat, s.destFree y = true) : exec (.tokenHop r c d trk) s =
      .next ((s.dests r c (dirIdx d) trk.toNat).foldl (fun u y => u.deliver x y)
        (tookToken s r c (dirIdx d) trk.toNat x)) := by
  rw [exec_tokenHop_of_some hhead, if_neg (by simp [hne]), if_pos]
  rw [List.all_eq_true.2 hfree]
  simp [hne]

theorem exec_tokenHop_of_no_path (hnil : s.dests r c (dirIdx d) trk.toNat = []) : exec (.tokenHop r c d trk) s =
    .next (if c = 18 then tookToken s r c (dirIdx d) trk.toNat x else s) := by
  rw [exec_tokenHop_of_some hhead, hnil]
  by_cases hc : c = 18 <;> simp [hc]

theorem exec_tokenHop_of_held (hheld : ∃ y ∈ s.dests r c (dirIdx d) trk.toNat, s.destFree y = false) :
    exec (.tokenHop r c d trk) s = .next s := by
  obtain ⟨y, hy, hfull⟩ := hheld
  rw [exec_tokenHop_of_some hhead, if_neg, if_neg]
  · rw [List.all_eq_false.2 ⟨y, hy, by simp [hfull]⟩]
    simp
  · simp [List.ne_nil_of_mem hy]

end

/-! ### FE_CONFIG_APPLY -/

/-- A word for P0 to P7 writes that register alone. -/
theorem setReg_param (f : Fe) {k : Nat} (hk : k < 8) (v : Nat) :
    f.setReg k v = { f with p := f.p.set k (BitVec.ofNat 32 v) hk } := by
  match k, hk with
  | 0, _ | 1, _ | 2, _ | 3, _ | 4, _ | 5, _ | 6, _ | 7, _ => rfl

section
variable {r c : Nat} {s : State}

theorem exec_feConfigApply_of_busy (h : s.feQuiet r c = false) : exec (.feConfigApply r c) s = .next s :=
  if_pos (by simp [h])

theorem exec_feConfigApply_of_quiet (hwords : (s.fe r c).waiting ≠ []) (hquiet : s.feQuiet r c = true) :
    ∃ fin, exec (.feConfigApply r c) s = .next (State.traceBarriers (State.updFe
      ((s.fe r c).waiting.foldl (fun s w => s.applyWord r c w) (s.updFe r c fun f => { f with waiting := [] })) r c
      fun f => { f with configured := f.configured || fin })) := by
  refine ⟨_, if_neg ?_⟩
  simp [hwords, hquiet]

/-- A word for P0 to P7 changes its register, and what is left to be applied of the folio loads. -/
theorem applyWord_param (w : Dword) (id : Option Nat) {k : Nat} (hk : k < 8) (hreg : cfgReg w.toNat = k) :
    let t := s.applyWord r c (w, id)
    t.fe r c = { s.fe r c with p := (s.fe r c).p.set k (w.setWidth 32) hk } ∧ t.mem = s.mem ∧
      t.core.clerk = s.core.clerk := by
  have hval : BitVec.ofNat 32 (cfgVal w.toNat) = w.setWidth 32 := by
    apply BitVec.eq_of_toNat_eq
    simp [cfgVal]
  have happly : s.applyWord r c (w, id) = (s.updFe r c (·.setReg k (cfgVal w.toNat))).updFab fun f =>
      { f with loads := f.loads.map (·.applied id (r, c)) } := by
    simp only [State.applyWord, hreg]
    refine if_neg ?_
    simp
    omega
  dsimp only
  rw [happly]
  refine ⟨?_, rfl, rfl⟩
  show (s.updFe r c (·.setReg k (cfgVal w.toNat))).fe r c = _
  rw [fe_updFe_same, setReg_param _ hk, hval]

end

/-! ### FE_GO_LIVE -/

/-- The first START of a folio load is taken. -/
def startTaken (s : State) (l : FolioLoad) : State :=
  s.updFab fun f => { f with loads := f.loads.map fun x => if x.id == l.id then { x with starts := x.starts.drop 1 } else x }

theorem fe_startTaken (s : State) (l : FolioLoad) (r c : Nat) : (startTaken s l).fe r c = s.fe r c := rfl

theorem exec_feGoLive_of_next {r c : Nat} {s : State} {l : FolioLoad} (hloads : s.core.fab.loads = [l]) (hleft : l.left = [])
    (hnext : l.starts.head? = some (r, c)) (hpending : (s.fe r c).startPending = true) :
    exec (.feGoLive r c) s = .next ((startTaken s l).updFe r c Fe.goLive) := by
  have hfind : s.core.fab.loads.find? (fun l => l.left.isEmpty && l.starts.head? = some (r, c)) = some l := by
    simp [hloads, hleft, hnext]
  show execFeGoLive r c s = _
  simp only [execFeGoLive, hfind]
  exact congrArg Host.Outcome.next (if_pos hpending)

/-! ### FOLIO_CHANGE -/

theorem exec_folioChange_of_none {s : State} (h : s.core.fab.image = none ∨ s.core.fab.choose = none) :
    exec .folioChange s = .next s := by
  show execFolioChange s = _
  obtain h | h := h
  · simp only [execFolioChange, h]
  · cases himage : s.core.fab.image <;> simp only [execFolioChange, himage, h]

section
variable {s : State} {image g : Nat} (himage : s.core.fab.image = some image) (hchoose : s.core.fab.choose = some g)
include himage hchoose

theorem exec_folioChange_of_busy (h : s.drained = false) : exec .folioChange s = .next s := by
  show execFolioChange s = _
  simp only [execFolioChange, himage, hchoose]
  exact if_pos (by simp [h])

theorem exec_folioChange_of_drained (htask : s.task.isSome = true) (hdrained : s.drained = true)
    (hidle : s.cfgSending = false) (hrun : s.lanesHeld = false) {ws : List Nat} {qs : List EntryQ} {t : State}
    (hfetch : s.fetchFolio ⟨.fabric, .load, 8, true⟩ image g = .ok (ws, qs, t)) : exec .folioChange s =
      .next ((t.updFab fun f => { f.passOver g with entryPending := none }).sendFolio image g ws qs) := by
  have hgoes : (s.task.isNone || !s.drained || s.cfgSending || s.lanesHeld) = false := by
    simp [← Option.not_isSome, htask, hdrained, hidle, hrun]
  show execFolioChange s = _
  simp only [execFolioChange, himage, hchoose, hgoes, Bool.false_eq_true, if_false, fabAcc, hfetch]

end

/-- Settles O51: each step by what it finds of the token, the FE or the folio that it acts on. -/
theorem gridSteps : Obligations.GridSteps := by
  unfold Obligations.GridSteps
  intro r c d trk s ds
  refine ⟨fun x hhead => ⟨exec_tokenHop_of_free hhead, exec_tokenHop_of_no_path hhead, exec_tokenHop_of_held hhead⟩,
    exec_tokenHop_of_none, fun w id k hk hword hreg hquiet => ?_, exec_feConfigApply_of_busy,
    fun l hloads hleft hnext hpending => ?_, exec_folioChange_of_none,
    fun image g himage hchoose => ⟨exec_folioChange_of_busy himage hchoose, fun htask hdrained hidle hrun ws qs t hfetch =>
      exec_folioChange_of_drained himage hchoose htask hdrained hidle hrun hfetch⟩⟩
  · obtain ⟨fin, hexec⟩ := exec_feConfigApply_of_quiet (by simp [hword]) hquiet
    obtain ⟨hfe, hmem, hclerk⟩ := applyWord_param (r := r) (c := c) (s := s.updFe r c fun f => { f with waiting := [] }) w id
      hk hreg
    rw [hword, List.foldl_cons, List.foldl_nil] at hexec
    refine ⟨_, hexec, ?_⟩
    rw [fe_traceBarriers, fe_updFe_same, hfe, fe_updFe_same]
    exact ⟨rfl, rfl, rfl, hmem, hclerk⟩
  · refine ⟨_, exec_feGoLive_of_next hloads hleft hnext hpending, ?_⟩
    rw [fe_updFe_same, fe_startTaken]
    exact ⟨rfl, rfl, rfl, rfl⟩

end Sys2Proof.Claims
end

section
/-!
# LAUNCH, DESKCTL and FAULTEND (O45)

A launch that passes its checks stamps the TCB and adds the task's record (`stamped`), and a nonzero count makes the task
ARMED (`launchTask_of_counted`). Each step writes one word of the TCB, so that the other words read as before.
-/

namespace Sys2Proof.Claims
open Sys2Proof.Machine

theorem exec_launch (w : BitVec 3) (v : Dword) (s : State) : exec (.launch w v) s = .next (s.launchWrite w.toNat v) := rfl

theorem exec_deskctlWrite (w : BitVec 3) (v : Dword) (s : State) :
    exec (.deskctlWrite w v) s = .next (s.deskctl w.toNat v) := rfl

theorem exec_faultend (w : BitVec 3) (v : Dword) (part : Option (BitVec 4)) (s : State) :
    exec (.faultend w v part) s = .next (s.faultend w.toNat v part) := rfl

/-! ### Words of a TCB -/

section
variable {s : State} (pa v : Nat) (hwf : MemWf s)
include hwf

theorem tcbRd_tcbWr_same (i : Nat) : (s.tcbWr pa i v).tcbRd pa i = v % 2 ^ 64 :=
  State.rd_wr_same s (pa + 8 * i) 8 v hwf

theorem tcbRd_tcbWr_other {i j : Nat} (hij : j ≠ i) : (s.tcbWr pa i v).tcbRd pa j = s.tcbRd pa j :=
  State.rd_wr_other s (pa + 8 * i) 8 v (pa + 8 * j) 8 hwf (by omega)

theorem tcbRd_tcbSet_other {i j hi lo : Nat} (hij : j ≠ i) : (s.tcbSet pa i hi lo v).tcbRd pa j = s.tcbRd pa j :=
  tcbRd_tcbWr_other pa _ hwf hij

/-- STATE written into its word reads back (R146). -/
theorem tcbRd_tcbSet_state (hv : v < 8) : (s.tcbSet pa 3 10 8 v).tcbRd pa 3 / 2 ^ 8 % 2 ^ 3 = v := by
  rw [State.tcbSet, tcbRd_tcbWr_same pa _ hwf 3, setBits, bitsOf_eq]
  omega

end

theorem wr_regs (s : State) (key n v : Nat) : (s.wr key n v).core.clerk.regs = s.core.clerk.regs := rfl

/-- A field of a TCB set leaves the module's registers, the records of tasks, the wings and the clerk's registers. -/
theorem tcbSet_frame (s : State) (pa i hi lo v : Nat) : (s.tcbSet pa i hi lo v).modl = s.modl ∧
    (s.tcbSet pa i hi lo v).recs = s.recs ∧ (s.tcbSet pa i hi lo v).wings = s.wings ∧
    (s.tcbSet pa i hi lo v).core.clerk.regs = s.core.clerk.regs := ⟨rfl, rfl, rfl, rfl⟩

/-! ### LAUNCH (R148) -/

/-- The key that a value written to LAUNCH names. -/
theorem launchWrite_key (v : Dword) : BitVec.ofNat 12 (bitsOf v.toNat 63 52) = v.extractLsb' 52 12 :=
  BitVec.eq_of_toNat_eq (by simp [bitsOf])

section
variable {s : State} (w : Nat) {v : Dword} {k : TaskKey} (hk : k = ⟨v.extractLsb' 52 12, v.toNat % 2 ^ 48⟩)
include hk

theorem launchWrite_of_refused (hcode : s.launchCode k ≠ 0) : s.launchWrite w v = s.updWing w fun g =>
    { g with launchst := BitVec.ofNat 64 (s.launchCode k * 2 ^ 56 + v.toNat % 2 ^ 48) } := by
  subst hk
  rw [State.launchWrite, launchWrite_key]
  exact if_neg (by simpa using hcode)

theorem launchWrite_of_passed (hcode : s.launchCode k = 0) : s.launchWrite w v = s.launchTask k := by
  subst hk
  rw [State.launchWrite, launchWrite_key]
  exact if_pos (by simpa using hcode)

end

/-- A launched task's state once its age is counted on, its record stands and words 5 and 12 of its TCB are written. -/
def stamped (s : State) (k : TaskKey) (pa : Nat) (r : TaskRec) : State :=
  let aged := (s.dropRec k).updMod fun m => { m with age := (m.age + 1) % 2 ^ 48 }
  (State.tcbWr { aged with recs := aged.recs ++ [r] } pa 5 s.modl.age).tcbWr pa 12 0

section
variable {s : State} {k : TaskKey} {pa : Nat}

/-- A count that is not 0 makes the launched task ARMED. -/
theorem launchTask_of_counted (hpa : s.tcbPa k.ctx k.tcb = some pa) (hcnt : 2 ^ 48 ≤ s.tcbRd pa 3) :
    ∃ r, r.key = k ∧ r.age = s.modl.age ∧ s.launchTask k = (stamped s k pa r).tcbSet pa 3 10 8 1 := by
  have hlt : s.tcbRd pa 3 < 2 ^ 64 := memRead_lt s.mem (pa + 8 * 3) 8
  have hfield : bitsOf (s.tcbRd pa 3) 63 48 ≠ 0 := by rw [bitsOf_eq]; omega
  rw [State.launchTask, hpa]
  exact ⟨_, rfl, rfl, if_pos (bne_iff_ne.2 hfield)⟩

variable (r : TaskRec)

/-- What a launch changes besides the TCB, and what it leaves. -/
theorem stamped_frame : (stamped s k pa r).modl.age = (s.modl.age + 1) % 2 ^ 48 ∧ r ∈ (stamped s k pa r).recs ∧
    (stamped s k pa r).wings = s.wings ∧ (stamped s k pa r).core.clerk.regs = s.core.clerk.regs := by
  simp [stamped, State.tcbWr, State.dropRec, wr_regs]

theorem stamped_wf (hwf : MemWf s) : MemWf (stamped s k pa r) :=
  hwf.dropRec.updMod.frame.tcbWr.tcbWr

theorem stamped_tcbRd_age (hwf : MemWf s) (hage : s.modl.age < 2 ^ 48) : (stamped s k pa r).tcbRd pa 5 = s.modl.age := by
  rw [stamped, tcbRd_tcbWr_other pa _ hwf.dropRec.updMod.frame.tcbWr (by omega),
    tcbRd_tcbWr_same pa _ hwf.dropRec.updMod.frame]
  omega

theorem stamped_tcbRd_faults (hwf : MemWf s) : (stamped s k pa r).tcbRd pa 12 = 0 :=
  tcbRd_tcbWr_same pa _ hwf.dropRec.updMod.frame.tcbWr 12

/-- The stamped task made ARMED: its TCB, the module's age and the records as R148 gives them, and no wing or register
changed. -/
theorem armed_spec (hwf : MemWf s) (hage : s.modl.age < 2 ^ 48) : let t := (stamped s k pa r).tcbSet pa 3 10 8 1
    t.modl.age = (s.modl.age + 1) % 2 ^ 48 ∧ t.tcbRd pa 5 = s.modl.age ∧ t.tcbRd pa 12 = 0 ∧
    t.tcbRd pa 3 / 2 ^ 8 % 2 ^ 3 = 1 ∧ r ∈ t.recs ∧ t.wings = s.wings ∧ t.core.clerk.regs = s.core.clerk.regs := by
  have hstamp : MemWf (stamped s k pa r) := stamped_wf r hwf
  obtain ⟨hmodl, hrecs, hwings, hregs⟩ := tcbSet_frame (stamped s k pa r) pa 3 10 8 1
  obtain ⟨hcount, hrec, hwings', hregs'⟩ := stamped_frame (s := s) (k := k) (pa := pa) r
  refine ⟨by rw [hmodl, hcount], ?_, ?_, tcbRd_tcbSet_state pa 1 hstamp (by omega), by rwa [hrecs], hwings.trans hwings',
    hregs.trans hregs'⟩
  · rw [tcbRd_tcbSet_other pa _ hstamp (by omega), stamped_tcbRd_age r hwf hage]
  · rw [tcbRd_tcbSet_other pa _ hstamp (by omega), stamped_tcbRd_faults r hwf]

end

/-! ### DESKCTL (R151) -/

/-- The period that a DESKCTL write names. -/
theorem bitsOf_period (v : Dword) : bitsOf v.toNat 13 0 = v.toNat % 2 ^ 14 := by
  rw [bitsOf_eq, pow_zero, Nat.div_one]

/-- The guard of a DESKCTL write as numbers: a reserved field that is not 0, or a period out of range. -/
theorem deskctl_ignores_iff (v : Dword) : (bitsOf v.toNat 63 48 != 0 || bitsOf v.toNat 31 14 != 0 ||
    bitsOf v.toNat 13 0 < 64 || 16000 < bitsOf v.toNat 13 0) = true ↔
    v.toNat / 2 ^ 48 ≠ 0 ∨ v.toNat / 2 ^ 14 % 2 ^ 18 ≠ 0 ∨ v.toNat % 2 ^ 14 < 64 ∨ 16000 < v.toNat % 2 ^ 14 := by
  have hhigh : bitsOf v.toNat 63 48 = v.toNat / 2 ^ 48 := (bitsOf_eq ..).trans (Nat.mod_eq_of_lt (by omega))
  have hmid : bitsOf v.toNat 31 14 = v.toNat / 2 ^ 14 % 2 ^ 18 := bitsOf_eq ..
  rw [hhigh, hmid, bitsOf_period]
  simp only [Bool.or_eq_true, bne_iff_ne, decide_eq_true_eq, or_assoc]

section
variable {s : State} (w : Nat) {v : Dword}

theorem deskctl_of_in_range (hhigh : v.toNat / 2 ^ 48 = 0) (hmid : v.toNat / 2 ^ 14 % 2 ^ 18 = 0)
    (hmin : 64 ≤ v.toNat % 2 ^ 14) (hmax : v.toNat % 2 ^ 14 ≤ 16000) : s.deskctl w v = s.updWing w fun g =>
      { g with quantum := BitVec.ofNat 16 (v.toNat / 2 ^ 32 % 2 ^ 16), period := BitVec.ofNat 14 (v.toNat % 2 ^ 14) } := by
  refine (if_neg ?_).trans (by rw [bitsOf_period, bitsOf_eq])
  rw [deskctl_ignores_iff]
  omega

theorem deskctl_of_ignored (h : v.toNat / 2 ^ 48 ≠ 0 ∨ v.toNat / 2 ^ 14 % 2 ^ 18 ≠ 0 ∨ v.toNat % 2 ^ 14 < 64 ∨
    16000 < v.toNat % 2 ^ 14) : s.deskctl w v = s :=
  if_pos ((deskctl_ignores_iff v).2 h)

end

/-! ### FAULTEND (R154, R362) -/

section
variable {s : State} {w : Nat} {v : Dword} {part : Option (BitVec 4)}

theorem faultend_of_none (h : s.faultPick (s.faultMatches w (v.toNat % 2 ^ 48) part) = none) :
    s.faultend w v part = s.updWing w fun g => { g with launchst := BitVec.ofNat 64 (6 * 2 ^ 56 + v.toNat % 2 ^ 48) } := by
  simp only [State.faultend, h]

theorem faultend_of_pick {x : TaskKey × Nat × BitVec 4}
    (h : s.faultPick (s.faultMatches w (v.toNat % 2 ^ 48) part) = some x) :
    s.faultend w v part = s.endFaulted x.1 x.2.1 (bitsOf v.toNat 63 56) := by
  simp only [State.faultend, h]

/-- The core's own task ended by the desk leaves the core cleared (R347). -/
theorem endFaulted_own {k : TaskKey} (core cause : Nat) (htask : s.task = some k) : s.endFaulted k core cause =
    ((s.faultTask k core cause (s.endFaddr k cause)).memberRuns k false).clearCore :=
  if_pos htask

end

/-- Settles O45: a launch by its code, a DESKCTL write by its fields, a FAULTEND write by the task it picks. -/
theorem deskRegisters : Obligations.DeskRegisters := by
  unfold Obligations.DeskRegisters
  intro w v s k x
  refine ⟨fun hcode => ?_, fun pa hcode hpa hcnt hwf hage => ?_, fun hhigh hmid hmin hmax => ?_, fun hignored => ?_,
    fun part => ⟨fun hnone => ?_, fun y c z hpick htask => ?_⟩⟩
  · rw [exec_launch, launchWrite_of_refused w.toNat rfl hcode]
  · obtain ⟨r, hkey, hr, hlaunch⟩ := launchTask_of_counted hpa hcnt
    obtain ⟨hcount, hstamp, hfaults, hstate, hrec, hwings, hregs⟩ := armed_spec (k := k) (pa := pa) r hwf hage
    refine ⟨_, ?_, hcount, hstamp, hfaults, hstate, ⟨r, hrec, hkey, hr⟩, hwings, hregs⟩
    rw [exec_launch, launchWrite_of_passed w.toNat rfl hcode, hlaunch]
  · rw [exec_deskctlWrite, deskctl_of_in_range w.toNat hhigh hmid hmin hmax]
  · rw [exec_deskctlWrite, deskctl_of_ignored w.toNat hignored]
  · rw [exec_faultend, faultend_of_none hnone]
  · obtain ⟨hfree, hpre, hclerk, -⟩ := clearCore_spec
      ((s.faultTask y c (bitsOf x 63 56) (s.endFaddr y (bitsOf x 63 56))).memberRuns y false)
    refine ⟨_, ?_, hfree, hclerk, hpre⟩
    rw [exec_faultend, faultend_of_pick hpick, endFaulted_own c _ htask]

end Sys2Proof.Claims
end

section
/-!
# Firings, and tokens aligned at an operator (O52, O53)

A firing is `act` on the FE that `operator` finds fit (`operator_of_fires`), and with one datum on IN0 alone (`LoneDatum`) every
operator takes the same token, so that only what it emits is left to be told. Operators that hold no stream of their own
(`Streamless`) align tokens over their routed inputs, with nothing to emit before them.
-/

namespace Sys2Proof.Claims
open Sys2Proof.Machine

/-! ### Tokens taken from an input -/

/-- Taking tokens changes the FIFOs, the windows and POS alone. -/
theorem take_frame (f : Fe) (i n : Nat) :
    ∃ fifo window pos, f.take i n = { f with fifo := fifo, window := window, pos := pos } := by
  unfold Fe.take
  split
  · dsimp only
    split <;> exact ⟨_, _, _, rfl⟩
  · exact ⟨_, _, _, rfl⟩

@[simp] theorem take_op (f : Fe) (i n : Nat) : (f.take i n).op = f.op := by
  obtain ⟨_, _, _, h⟩ := take_frame f i n
  rw [h]

@[simp] theorem take_discard (f : Fe) (i n : Nat) : (f.take i n).discard = f.discard := by
  obtain ⟨_, _, _, h⟩ := take_frame f i n
  rw [h]

@[simp] theorem take_slots (f : Fe) (i n : Nat) : (f.take i n).slots = f.slots := by
  obtain ⟨_, _, _, h⟩ := take_frame f i n
  rw [h]
  rfl

@[simp] theorem take_outs (f : Fe) (i n : Nat) : (f.take i n).outs = f.outs := by
  obtain ⟨_, _, _, h⟩ := take_frame f i n
  rw [h]
  rfl

theorem takeAll_of_one {f : Fe} {i n : Nat} (hslots : f.slots = [i]) (hneed : f.need i = n) : f.takeAll = f.take i n := by
  rw [Fe.takeAll, hslots, ← hneed]
  rfl

theorem mem_slots_iff (f : Fe) (i : Nat) : i ∈ f.slots ↔ i < 3 ∧ (f.side i).isSome = true := by
  simp [Fe.slots]

/-- Flags that are none leave FPSTAT. -/
theorem orFlags_zero (s : State) : s.orFlags 0 = s := by
  simp [State.orFlags, State.updClerk]

/-! ### A firing -/

theorem operator_of_fires {s : State} {r c code : Nat} {act : Fe → Option (State → State)} (h : Fires s r c code) :
    s.operator r c code act = .next ((act (s.fe r c)).getD id s) := by
  obtain ⟨hactive, hcode, hbad⟩ := h
  cases hact : act (s.fe r c) <;> simp [State.operator, hactive, hcode, hbad, hact]

/-- The FE `f` at rate 1 with the datum `t` alone in its group on IN0, its only routed input, and room at its outputs. -/
structure LoneDatum (f : Fe) (t : Token) : Prop where
  group : f.group 0 = [t]
  isData : t.isData = true
  outq : f.op.outq = []
  readyAll : f.readyAll = true
  slots : f.slots = [0]
  need : f.need 0 = 1
  rateOut : f.rateOut 0 = 1
  roomRate : f.roomRate = true

namespace LoneDatum
variable {f : Fe} {t : Token} (h : LoneDatum f t)
include h

theorem mayFire : f.mayFire = true := by
  simp [Fe.mayFire, h.readyAll, h.roomRate, h.outq]

theorem takeAll : f.takeAll = f.take 0 1 := takeAll_of_one h.slots h.need

/-- IN0 is routed, and its group gives the datum. -/
theorem operand_zero (s : State) (dflt : Token) : f.operand s 0 0 dflt = t := by
  have hmem : 0 ∈ f.slots := by simp [h.slots]
  obtain ⟨-, hside⟩ := (mem_slots_iff f 0).1 hmem
  simp [Fe.operand, Option.isNone_eq_false_iff.2 hside, h.group]

/-- The other inputs are unrouted, and stand for their defaults. -/
theorem operand_unrouted (s : State) {i : Nat} (hpos : 0 < i) (hlt : i < 3) (j : Nat) (dflt : Token) :
    f.operand s i j dflt = dflt := by
  have hmem : i ∉ f.slots := by
    rw [h.slots, List.mem_singleton]
    omega
  have hside : (f.side i).isNone = true := by
    rw [mem_slots_iff] at hmem
    simpa [hlt] using hmem
  exact if_pos hside

end LoneDatum

/-- At equal rates of 1 the result of the one element is what the firing emits. -/
theorem fitRate_one (s : State) (ts : List Token) : fitRate s 1 1 [ts] = ts := by
  cases ts <;> simp [fitRate]

theorem payload_dataTok_param (f : Fe) (k : Nat) : (dataTok (f.param k)).payload.toNat = f.param k := by
  simp [dataTok, Fe.param]

theorem updFe_eq_const (s : State) (r c : Nat) (g : Fe → Fe) : s.updFe r c g = s.updFe r c fun _ => g (s.fe r c) := rfl

theorem fired_iff {s : State} {r c : Nat} {o : Result} {f : Fe} {fl : FFlags} :
    Fired s r c o f fl ↔ o = .next ((s.updFe r c fun _ => f).orFlags fl) := Iff.rfl

/-- The flags that a firing's elements raise are gathered from none. -/
theorem fired_of_orFlags {s : State} {r c : Nat} {o : Result} {f : Fe} {fl : FFlags}
    (h : o = .next ((s.updFe r c fun _ => f).orFlags (0 ||| fl))) : Fired s r c o f fl :=
  fired_iff.2 (h.trans (congrArg (fun x => Host.Outcome.next (State.orFlags _ x)) (BitVec.zero_or (x := fl))))

/-- A firing that changes its FE alone raises no flag. -/
theorem fired_of_updFe {s : State} {r c : Nat} {o : Result} {f : Fe} (h : o = .next (s.updFe r c fun _ => f)) :
    Fired s r c o f 0 :=
  fired_iff.2 (h.trans (congrArg Host.Outcome.next (orFlags_zero _).symm))

/-- With IN1 and IN2 unrouted MAP's operands are the datum, P0 and P1; a void one gives void (R181, R183). -/
theorem mapOne_of_lone {f : Fe} {t : Token} (h : LoneDatum f t) (s : State) (htsel : f.param 2 % 4 = 0) : f.mapOne s 0 =
    if t.isVoid = true then ([voidTok], 0) else
      let v := mapCalc (f.sub % 64) (f.sub / 64) f.rnd f.sat t.payload.toNat (f.param 0) (f.param 1)
      ([dataTok v.1], v.2) := by
  have hvoid (v : Nat) : (dataTok v).isVoid = false := rfl
  simp [Fe.mapOne, h.operand_zero, h.operand_unrouted, htsel, hvoid, payload_dataTok_param]

/-- A token that is not void folded into a partial that is there (R185). -/
theorem redFold_of_some {f : Fe} {t : Token} (p : Word) (fl : FFlags) (hvoid : t.isVoid = false) :
    let v := redOp f.sub f.rnd f.sat p.toNat (if f.sub = 9 then 1 else t.payload.toNat)
    redFold f (some p, fl) t = (some (BitVec.ofNat 32 v.1), fl ||| v.2) := by
  simp [redFold, hvoid]

/-- Of one token tested, STEER sends it where its test says (R186). -/
theorem steerSent_one (t : Token) (b : Bool × FFlags) :
    (([(t, b)].filter fun r => r.2.1 == false).map (·.1) = if b.1 then [] else [t]) ∧
      ([(t, b)].filter fun r => r.2.1 == true).map (·.1) = if b.1 then [t] else [] := by
  obtain ⟨_ | _, _⟩ := b <;> exact ⟨rfl, rfl⟩

/-- One token shuffled by index 0 is that token (R194). -/
theorem permIdx_zero {f : Fe} (h : f.param 0 % 16 = 0) : f.permIdx 0 = 0 := by
  simp [Fe.permIdx, bitsOf, h]

section
variable {r c : Nat} {s : State} {t : Token} (h : LoneDatum (s.fe r c) t)
include h

/-- MAP emits what its calculation gives of the one datum. -/
theorem fired_mapFire (hfires : Fires s r c 0) : Fired s r c (exec (.mapFire r c) s)
    (((s.fe r c).takeAll.send 0 ((s.fe r c).mapOne s 0).1).nextElem) ((s.fe r c).mapOne s 0).2 := by
  refine fired_of_orFlags ?_
  show execMapFire r c s = _
  rw [execMapFire, operator_of_fires hfires, if_pos h.mayFire, h.need, h.rateOut, Option.getD_some]
  simp only [List.range_one, List.map_cons, List.map_nil, fitRate_one, List.foldl_cons, List.foldl_nil]
  rw [updFe_eq_const]

theorem fired_sfnFire (hfires : Fires s r c 1) :
    let v := if t.isVoid then (voidTok, 0) else
      (dataTok (sfn (s.fe r c).sub t.payload.toNat).1, (sfn (s.fe r c).sub t.payload.toNat).2)
    Fired s r c (exec (.sfnFire r c) s) (((s.fe r c).takeAll.send 0 [v.1]).nextElem) v.2 := by
  refine fired_of_orFlags ?_
  show execSfnFire r c s = _
  rw [execSfnFire, operator_of_fires hfires, if_pos h.mayFire, h.need, h.rateOut, h.group, Option.getD_some]
  simp only [List.map_cons, List.map_nil, fitRate_one, List.foldl_cons, List.foldl_nil]
  rw [updFe_eq_const]

theorem fired_redFire (hfires : Fires s r c 2) {p : Word}
    (hpartial : (s.fe r c).op.partials.getD (s.fe r c).copyOf none = some p) (hvoid : t.isVoid = false) :
    let f := s.fe r c
    let v := redOp f.sub f.rnd f.sat p.toNat (if f.sub = 9 then 1 else t.payload.toNat)
    let g := f.takeAll.nextElem
    Fired s r c (exec (.redFire r c) s)
      { g with op := { g.op with partials := updAt f.op.partials f.copyOf fun _ => some (BitVec.ofNat 32 v.1) } } v.2 := by
  have hpartials : (s.fe r c).takeAll.nextElem.op.partials = (s.fe r c).op.partials := by
    rw [h.takeAll, Fe.nextElem, take_op]
  refine fired_of_orFlags ?_
  show execRedFire r c s = _
  rw [execRedFire, operator_of_fires hfires, h.readyAll, h.roomRate, if_pos (by rfl), h.group, Option.getD_some]
  simp only [hpartial, List.foldl_cons, List.foldl_nil, redFold_of_some p 0 hvoid]
  rw [← hpartials, updFe_eq_const]

theorem fired_steerFire (hfires : Fires s r c 3) (houts : (s.fe r c).outs = [0, 1]) (hrate : (s.fe r c).rateOut 1 = 1)
    (hroom0 : (s.fe r c).emitRoom 0 ≠ 0) (hroom1 : (s.fe r c).emitRoom 1 ≠ 0) : let f := s.fe r c
    let b := steerTest f t voidTok
    Fired s r c (exec (.steerFire r c) s)
      ((f.takeAll.send 0 (if b.1 then [] else [t])).send 1 (if b.1 then [t] else [])) b.2 := by
  have hroom : (s.fe r c).outs.all
      (fun k => max ((s.fe r c).rateOut k) ((s.fe r c).need 0) ≤ (s.fe r c).emitRoom k) = true := by
    simp [houts, h.rateOut, hrate, h.need]
    omega
  refine fired_of_orFlags ?_
  show execSteerFire r c s = _
  rw [execSteerFire, operator_of_fires hfires, h.readyAll, hroom, if_pos (by rfl), Option.getD_some, h.need]
  simp only [List.range_one, List.map_cons, List.map_nil, h.operand_zero,
    h.operand_unrouted s (i := 1) (by decide) (by decide), List.foldl_cons, List.foldl_nil, steerSent_one]
  rw [updFe_eq_const]

theorem fired_shufFire (hfires : Fires s r c 9) (hsub : (s.fe r c).sub = 1) (hcount : (s.fe r c).permCount = 1)
    (hidx : (s.fe r c).permIdx 0 = 0) (hroom : (s.fe r c).emitRoom 0 ≠ 0) :
    Fired s r c (exec (.shufFire r c) s) (((s.fe r c).takeAll.send 0 [t]).nextElem) 0 := by
  have hwin : ((s.fe r c).win 0).take 1 = [t] := by rw [← h.need]; exact h.group
  apply fired_of_updFe
  show execShufFire r c s = _
  rw [execShufFire, operator_of_fires hfires]
  simp [hsub, hcount, h.readyAll, h.roomRate, Nat.one_le_iff_ne_zero, hroom, State.updFe, hwin, hidx, h.takeAll]

theorem fired_convFire (hfires : Fires s r c 10) (hsub : (s.fe r c).sub = 0) : let v := convGroup (s.fe r c) [t]
    Fired s r c (exec (.convFire r c) s) (((s.fe r c).takeAll.send 0 v.1).nextElem) v.2 := by
  refine fired_iff.2 ?_
  show execConvFire r c s = _
  rw [execConvFire, operator_of_fires hfires, hsub, if_pos (by rfl), if_pos h.mayFire, Option.getD_some, h.group]
  dsimp only
  rw [updFe_eq_const]

theorem fired_forkFire (hfires : Fires s r c 11) (hsub : (s.fe r c).sub = 0) (houts : (s.fe r c).outs = [0]) :
    Fired s r c (exec (.forkFire r c) s) ((s.fe r c).takeAll.send 0 [t]) 0 := by
  have hroom : 1 ≤ (s.fe r c).emitRoom 0 := by simpa [Fe.roomRate, houts, h.rateOut] using h.roomRate
  have hsend : (s.fe r c).takeAll.sendAll [t] = (s.fe r c).takeAll.send 0 [t] := by
    rw [Fe.sendAll, h.takeAll, take_outs, houts]
    rfl
  apply fired_of_updFe
  show execForkFire r c s = _
  rw [execForkFire, operator_of_fires hfires]
  simp [hsub, h.group, h.need, Token.passes, h.isData, houts, h.rateOut, hroom, State.updFe, hsend]

end

/-- Settles O53: at rate 1 with a lone datum each operator fires, and emits what its rule gives of that datum. -/
theorem operatorFirings : Obligations.OperatorFirings := by
  unfold Obligations.OperatorFirings
  intro r c t s f x hgroup hdata houtq hready hslots hneed hrate hroom
  have h : LoneDatum (s.fe r c) t := ⟨hgroup, hdata, houtq, hready, hslots, hneed, hrate, hroom⟩
  refine ⟨fun hfires htsel => ?_, fun hfires => ?_, fun hfires p hpartial hvoid => ?_,
    fun hfires hroom0 hroom1 houts hrate1 => fired_steerFire h hfires houts hrate1 hroom0 hroom1,
    fun hfires hsub hcount hidx => fired_shufFire h hfires hsub hcount (permIdx_zero hidx), fired_convFire h,
    fired_forkFire h⟩
  · have hmap := fired_mapFire h hfires
    rw [mapOne_of_lone h s htsel] at hmap
    exact ⟨fun hvoid => by simpa [hvoid] using hmap, fun hvoid => by simpa [hvoid] using hmap⟩
  · have hsfn := fired_sfnFire h hfires
    exact ⟨fun hvoid => by simpa [hvoid] using hsfn, fun hvoid => by simpa [hvoid] using hsfn⟩
  · simpa using fired_redFire h hfires hpartial hvoid

/-! ### Tokens aligned (R159, R160) -/

/-- An operator that holds no stream of its own: MAP, SFN, STEER, MERGE, GEN, or FORK `dup`. -/
def Streamless (f : Fe) : Prop := f.code ∈ [0, 1, 3, 4, 6] ∨ (f.code = 11 ∧ f.sub = 0)

namespace Streamless
variable {f : Fe} (h : Streamless f)
include h

theorem code_mem : f.code ∈ [0, 1, 3, 4, 6, 11] := by
  obtain hcode | ⟨hcode, -⟩ := h
  · exact List.mem_append_left [11] hcode
  · simp [hcode]

theorem isAlign : f.isAlign = false := by
  obtain hcode | ⟨-, hsub⟩ := h
  · have hne : f.code ≠ 11 := fun hcode' => by simp [hcode'] at hcode
    simp [Fe.isAlign, hne]
  · simp [Fe.isAlign, hsub]

theorem code_ne {n : Nat} (hn : n ∉ [0, 1, 3, 4, 6, 11]) : f.code ≠ n := fun hcode => hn (hcode ▸ h.code_mem)

/-- Ends and barriers are aligned over every routed input. -/
theorem endInputs : f.endInputs = f.slots := by
  simp [Fe.endInputs, h.code_ne (n := 5) (by decide)]

theorem barInputs : f.barInputs = f.slots := by
  simp [Fe.barInputs, h.code_ne (n := 5) (by decide)]

theorem backInputs : f.backInputs = [] := by
  simp [Fe.backInputs, h.code_ne (n := 5) (by decide)]

/-- Nothing goes out before an end token, and nothing of the state changes at it. -/
theorem atEnd (l : Nat) : f.atEnd l = ([], 0, f) := by
  unfold Fe.atEnd
  split
  next hcode => exact absurd hcode (h.code_ne (by decide))
  next hcode => exact absurd hcode (h.code_ne (by decide))
  next hcode => exact absurd hcode (h.code_ne (by decide))
  next => rfl

end Streamless

/-- The largest of levels that are all `n`. -/
theorem foldl_max_of_const {α : Type} {l : List α} {g : α → Nat} {n : Nat} (hne : l ≠ []) (h : ∀ i ∈ l, g i = n) :
    l.foldl (fun m i => max m (g i)) 0 = n := by
  have hstays : ∀ l : List α, (∀ i ∈ l, g i = n) → l.foldl (fun m i => max m (g i)) n = n := by
    intro l
    induction l with
    | nil => simp
    | cons i l ih =>
      intro hall
      rw [List.foldl_cons, hall i (by simp), Nat.max_self]
      exact ih fun j hj => hall j (by simp [hj])
  match l, hne with
  | i :: l, _ =>
    rw [List.foldl_cons, h i (by simp), Nat.zero_max]
    exact hstays l fun j hj => h j (by simp [hj])

theorem filterMap_of_const {α β : Type} {l : List α} {g : α → Option β} {y : β} (h : ∀ i ∈ l, g i = some y) :
    l.filterMap g = List.replicate l.length y := by
  rw [List.filterMap_congr h, List.filterMap_eq_map', List.map_const']

/-- The token that the alignment passes on, shown at the first routed input. -/
def shownTok (f : Fe) : Token := (f.head (f.slots.getD 0 0)).getD voidTok

/-- One token taken from every routed input. -/
def takenOne (f : Fe) : Fe := f.slots.foldl (fun g i => g.take i 1) f

section
variable {r c : Nat} {s : State} (hactive : s.feActive r c = true) (h : Streamless (s.fe r c))
  (houtq : (s.fe r c).op.outq = []) (hroom : (s.fe r c).roomAll 1 = true)
include hactive h houtq hroom

/-- An end token shown at every routed input with one level is taken from each and goes to every routed output. -/
theorem exec_endTokenAlign_of_shown (hreqs : s.noReqs (.fe r c) = true) (hne : (s.fe r c).slots ≠ []) {l : Nat} (hl : l ≠ 0)
    (hends : ∀ i ∈ (s.fe r c).slots, (s.fe r c).endAt i = l) (hreason : (s.fe r c).endReason = 0) :
    exec (.endTokenAlign r c) s =
      .next (s.updFe r c fun _ => (takenOne (s.fe r c)).sendAll [shownTok (s.fe r c)]) := by
  have hall : (s.fe r c).slots.all (fun i => (s.fe r c).endAt i == l) = true := by simpa using hends
  show execEndTokenAlign r c s = _
  simp only [execEndTokenAlign, h.endInputs, foldl_max_of_const hne hends, h.atEnd, orFlags_zero]
  simp [hactive, h.isAlign, hreason, hl, hall, houtq, hreqs, h.code_ne (n := 5) (by decide), h.code_ne (n := 7) (by decide),
    h.code_ne (n := 8) (by decide), hroom, takenOne, shownTok]

/-- A barrier shown at every routed input is taken from each and goes to every routed output. -/
theorem exec_barrierAlign_of_shown (hreqs : s.noReqs (.fe r c) = true) (hne : (s.fe r c).slots ≠ [])
    (houts : (s.fe r c).outs ≠ []) {id : Byte} (hbars : ∀ i ∈ (s.fe r c).slots, (s.fe r c).barAt i = some id)
    (hwhole : ∀ i ∈ (s.fe r c).slots, (s.fe r c).shortOf Token.isBar i = false) : let f := s.fe r c
    exec (.barrierAlign r c) s = .next (s.updFe r c fun _ =>
      { (takenOne f).sendAll [shownTok f] with op := { (takenOne f).op with lastBar := some id } }) := by
  have hlen : (s.fe r c).slots.length - 1 + 1 = (s.fe r c).slots.length := Nat.sub_add_cancel (List.length_pos_of_ne_nil hne)
  have hids : (s.fe r c).slots.filterMap (s.fe r c).barAt = id :: List.replicate ((s.fe r c).slots.length - 1) id := by
    rw [filterMap_of_const hbars, ← List.replicate_succ, hlen]
  have htaken : takenOne (s.fe r c) = (s.fe r c).barInputs.foldl (fun g i => g.take i 1) (s.fe r c) := by
    rw [h.barInputs, takenOne]
  have hagree : (List.replicate ((s.fe r c).slots.length - 1) id).any (fun x => x != id) = false := by simp
  have houts' : (s.fe r c).outs.isEmpty = false := by simpa using houts
  have hshort : (s.fe r c).slots.any ((s.fe r c).shortOf Token.isBar) = false := by simpa using hwhole
  show execBarrierAlign r c s = _
  simp only [execBarrierAlign, hactive, h.backInputs, h.barInputs, hids, hshort, hagree, houtq, hreqs, hroom, houts',
    beq_false_of_ne (h.code_ne (n := 5) (by decide)), List.find?_nil, List.length_cons, List.length_replicate, hlen,
    Nat.lt_irrefl, decide_false, List.isEmpty_nil, Bool.not_true, Bool.or_false, Bool.false_and, Bool.false_eq_true, if_false]
  rw [htaken, shownTok, updFe_eq_const]

/-- An error end at the head of an input is taken and goes to every output; the other routed inputs discard. -/
theorem exec_errorEndPass_of_head {i : Nat} {e : Token}
    (hfind : (s.fe r c).slots.find? (fun i => (s.fe r c).headIs Token.isErr i || (s.fe r c).shortOf Token.isErr i) = some i)
    (hhead : (s.fe r c).head i = some e) (herr : e.isErr = true) : let f := s.fe r c
    exec (.errorEndPass r c) s = .next (s.updFe r c fun _ => (Fe.purgeAll { f.abandon.take i 1 with
      discard := (List.range 3).map fun j => f.discard.getD j false || (j != i && f.slots.contains j) }).sendAll [e]) := by
  obtain ⟨rest, hwin⟩ := List.head?_eq_some_iff.1 hhead
  have hcounts : (s.fe r c).counts e = false := by
    have hkind : e.kind = 9 := by simpa [Token.isErr] using herr
    simp [Fe.counts, Token.passes, Token.isData, hkind]
  show execErrorEndPass r c s = _
  simp [execErrorEndPass, hactive, h.isAlign, hfind, hroom, houtq, hwin, hcounts, State.updFe]
  rfl

end

/-- Settles O52: each alignment takes the tokens shown and passes one on; a barrier changes nothing else but the operator's
last barrier. -/
theorem tokensAligned : Obligations.TokensAligned := by
  unfold Obligations.TokensAligned
  intro r c s hactive f hkind houtq hreqs hroom hne t taken
  refine ⟨fun hend hends hreason => ?_, fun _ hbars houts hwhole => ?_, fun i e hfind hhead herr =>
    exec_errorEndPass_of_head hactive hkind houtq hroom hfind hhead herr⟩
  · have hlevel : t.kind.toNat ≠ 0 := by
      simp only [Token.isEnd, Bool.and_eq_true, decide_eq_true_eq] at hend
      omega
    refine ⟨_, exec_endTokenAlign_of_shown hactive hkind houtq hroom hreqs hne hlevel hends hreason, ?_, rfl, rfl⟩
    exact fe_updFe_same ..
  · refine ⟨_, exec_barrierAlign_of_shown hactive hkind houtq hroom hreqs hne houts hbars hwhole, rfl, rfl, ?_⟩
    rw [fe_updFe_same]
    exact ⟨rfl, rfl, rfl⟩

end Sys2Proof.Claims
end

section
/-!
# Encodings of clerk instructions read back (O2)

The fields of a word are those of the number that it is (`toNat_extractLsb'_ofNat`), so that `decode` of a word of each class
answers by the class's table on the operands that the encoder put there.
-/

namespace Sys2Proof.Claims
open Sys2Proof.Machine

/-! ### Words of each class -/

theorem toNat_extractLsb'_ofNat {n lo w : Nat} (x : Nat) (h : lo + w ≤ n) :
    ((BitVec.ofNat n x).extractLsb' lo w).toNat = x / 2 ^ lo % 2 ^ w := by
  rw [BitVec.extractLsb'_toNat, BitVec.toNat_ofNat, Nat.shiftRight_eq_div_pow]
  obtain ⟨k, rfl⟩ := Nat.exists_eq_add_of_le h
  rw [Nat.add_assoc, pow_add, Nat.mod_mul_right_div_self, Nat.mod_mod_of_dvd _ (pow_dvd_pow 2 (Nat.le_add_right w k))]

theorem extractLsb'_ofNat {n lo w : Nat} {x : Nat} (h : lo + w ≤ n) {y : BitVec w} (hy : x / 2 ^ lo % 2 ^ w = y.toNat) :
    (BitVec.ofNat n x).extractLsb' lo w = y :=
  BitVec.eq_of_toNat_eq ((toNat_extractLsb'_ofNat x h).trans hy)

/-- What the tables of class A answer on the fields of a word; `idx` is bits 22:8 and `n` bits 22:13 (R201). -/
def majorA (major func : Nat) (d a b : Reg) (idx : BitVec 15) (n : BitVec 10) : Except Reject Instr :=
  match major with
  | 0 => decodeInt func d a b
  | 1 => decodeFloat func d a b
  | 2 => decodeSync func d a b
  | 3 => decodeTask func d a b
  | 4 => decodeTag func d a b
  | 5 => decodeStream func d a b idx
  | 6 => decodeSystem func d a b n
  | 7 => decodeFence func d a b
  | _ => .error .illegal

theorem decode_classA {x : Nat} (hx : x % 4 = 0) (v l : Word) : decode (BitVec.ofNat 32 x) v l =
    majorA (x / 2 ^ 2 % 2 ^ 6) (x / 2 ^ 23 % 2 ^ 9) ((BitVec.ofNat 32 x).extractLsb' 8 5)
      ((BitVec.ofNat 32 x).extractLsb' 13 5) ((BitVec.ofNat 32 x).extractLsb' 18 5)
      ((BitVec.ofNat 32 x).extractLsb' 8 15) ((BitVec.ofNat 32 x).extractLsb' 13 10) := by
  have hclass : ((BitVec.ofNat 32 x).extractLsb' 0 2).toNat = 0 := by
    rw [toNat_extractLsb'_ofNat x (by decide)]
    omega
  simp only [decode, hclass]
  simp only [decodeA, toNat_extractLsb'_ofNat x (show 23 + 9 ≤ 32 by decide),
    toNat_extractLsb'_ofNat x (show 2 + 6 ≤ 32 by decide)]
  rfl

/-- A word of class A that names three registers decodes by them, where it looks at neither `idx` nor `n`. -/
theorem decode_encA {major func : Nat} {b a d : Reg} {r : Except Reject Instr} (hmajor : major < 64) (hfunc : func < 512)
    (htable : ∀ idx n, majorA major func d a b idx n = r) (v l : Word) : decode (encA major func b a d) v l = r := by
  have hb := b.isLt
  have ha := a.isLt
  have hd := d.isLt
  rw [encA, decode_classA (by omega), extractLsb'_ofNat (y := d) (by decide) (by omega),
    extractLsb'_ofNat (y := a) (by decide) (by omega), extractLsb'_ofNat (y := b) (by decide) (by omega),
    show (_ : Nat) / 2 ^ 2 % 2 ^ 6 = major by omega, show (_ : Nat) / 2 ^ 23 % 2 ^ 9 = func by omega]
  exact htable ..

theorem decode_issuex (idx : BitVec 15) (v l : Word) :
    decode (BitVec.ofNat 32 (1 * 2 ^ 23 + idx.toNat * 2 ^ 8 + 5 * 4)) v l = .ok (.issuex idx) := by
  have hidx := idx.isLt
  rw [decode_classA (by omega), extractLsb'_ofNat (y := idx) (by decide) (by omega),
    show (_ : Nat) / 2 ^ 2 % 2 ^ 6 = 5 by omega, show (_ : Nat) / 2 ^ 23 % 2 ^ 9 = 1 by omega]
  rfl

/-- A word of major 0x06 with a 10-bit number `n` and a register decodes by them (R254). -/
theorem decode_system {func : Nat} {n : BitVec 10} {d : Reg} {i : Instr} (hfunc : func < 512)
    (htable : ∀ a b, decodeSystem func d a b n = .ok i) (v l : Word) :
    decode (BitVec.ofNat 32 (func * 2 ^ 23 + n.toNat * 2 ^ 13 + d.toNat * 2 ^ 8 + 6 * 4)) v l = .ok i := by
  have hn := n.isLt
  have hd := d.isLt
  rw [decode_classA (by omega), extractLsb'_ofNat (y := d) (by decide) (by omega),
    extractLsb'_ofNat (y := n) (by decide) (by omega),
    show (_ : Nat) / 2 ^ 2 % 2 ^ 6 = 6 by omega, show (_ : Nat) / 2 ^ 23 % 2 ^ 9 = func by omega]
  exact htable ..

/-- A word of class B decodes by its table on the fields of the word (R202). -/
theorem decode_encB {major : Nat} {imm : BitVec 14} {a d : Reg} {r : Except Reject Instr} (hmajor : major < 64)
    (htable : ∀ w : Word, (w.extractLsb' 2 6).toNat = major → w.extractLsb' 8 5 = d → w.extractLsb' 13 5 = a →
      w.extractLsb' 18 14 = imm → w.extractLsb' 18 6 = imm.setWidth 6 → decodeB w = r) (v l : Word) :
    decode (encB major imm a d) v l = r := by
  have himm := imm.isLt
  have ha := a.isLt
  have hd := d.isLt
  have hclass : ((encB major imm a d).extractLsb' 0 2).toNat = 1 := by
    rw [encB, toNat_extractLsb'_ofNat _ (by decide)]
    omega
  simp only [decode, hclass]
  refine htable _ ?_ (extractLsb'_ofNat (by decide) (by omega)) (extractLsb'_ofNat (by decide) (by omega))
    (extractLsb'_ofNat (by decide) (by omega)) (extractLsb'_ofNat (by decide) ?_)
  · rw [encB, toNat_extractLsb'_ofNat _ (by decide)]
    omega
  · rw [BitVec.toNat_setWidth]
    omega

/-- So does a word of its J variant. -/
theorem decode_encJ {major : Nat} {imm : BitVec 19} {d : Reg} {i : Instr} (hmajor : major < 64)
    (htable : ∀ w : Word, (w.extractLsb' 2 6).toNat = major → w.extractLsb' 8 5 = d → w.extractLsb' 13 19 = imm →
      decodeB w = .ok i) (v l : Word) :
    decode (encJ major imm d) v l = .ok i := by
  have himm := imm.isLt
  have hd := d.isLt
  have hclass : ((encJ major imm d).extractLsb' 0 2).toNat = 1 := by
    rw [encJ, toNat_extractLsb'_ofNat _ (by decide)]
    omega
  simp only [decode, hclass]
  refine htable _ ?_ (extractLsb'_ofNat (by decide) (by omega)) (extractLsb'_ofNat (by decide) (by omega))
  rw [encJ, toNat_extractLsb'_ofNat _ (by decide)]
  omega

theorem decodeOrd_code (o : Sys2Proof.Ord) : decodeOrd o.code = o := by
  cases o <;> rfl

theorem decodeScope_code (sc : Scope) : decodeScope sc.code = some sc := by
  cases sc <;> rfl

theorem ordCode_lt (o : Sys2Proof.Ord) : o.code < 4 := by
  cases o <;> decide

theorem scopeCode_lt (sc : Scope) : sc.code < 8 := by
  cases sc <;> decide

theorem b2n_lt (b : Bool) : b2n b < 2 := by
  cases b <;> decide

theorem b2n_odd (b : Bool) : decide (b2n b % 2 = 1) = b := by
  cases b <;> rfl

/-- An atomic decodes by the fields of its two words, of which those that are reserved are 0 (R203). -/
theorem decode64_of_fields {w v : Word} {func : Nat} {d a b c : Reg} {imm : BitVec 16} {o : AmoOrder} {i : Instr}
    (hmajor : (w.extractLsb' 2 6).toNat = 0) (hfunc : (w.extractLsb' 23 9).toNat = func) (hb : w.extractLsb' 18 5 = b)
    (ha : w.extractLsb' 13 5 = a) (hd : w.extractLsb' 8 5 = d) (himm : v.extractLsb' 16 16 = imm)
    (hc : v.extractLsb' 8 5 = c) (hord : (v.extractLsb' 4 2).toNat = o.ord.code)
    (hscope : (v.extractLsb' 1 3).toNat = o.scope.code) (hwide : v.getLsbD 0 = o.wide)
    (hhigh : (v.extractLsb' 13 3).toNat = 0) (hlow : (v.extractLsb' 6 2).toNat = 0) (hnone : func = 9 ∨ c = 0)
    (hassigned : (atomicOf func d a b c imm ⟨o.ord, .e, o.wide⟩).isSome = true)
    (hthis : atomicOf func d a b c imm o = some i) : decode64 w v = .ok i := by
  obtain ⟨j, hj⟩ := Option.isSome_iff_exists.mp hassigned
  simp only [decode64, hmajor, hfunc, hb, ha, hd, himm, hc, hord, hscope, hwide, hhigh, hlow, decodeOrd_code,
    decodeScope_code, hj, hthis]
  obtain rfl | rfl := hnone <;> simp [unlessReserved]

/-- The two words of an atomic decode to it, `c` being 0 but for `amocas`. -/
theorem decode_atomic {func x y : Nat} {d a b c : Reg} {imm : BitVec 16} {o : AmoOrder} {i : Instr} (hfunc : func < 512)
    (hx : x = func * 2 ^ 23 + b.toNat * 2 ^ 18 + a.toNat * 2 ^ 13 + d.toNat * 2 ^ 8 + 2)
    (hy : y = imm.toNat * 2 ^ 16 + c.toNat * 2 ^ 8 + o.ord.code * 2 ^ 4 + o.scope.code * 2 + b2n o.wide)
    (hnone : func = 9 ∨ c = 0) (hassigned : (atomicOf func d a b c imm ⟨o.ord, .e, o.wide⟩).isSome = true)
    (hthis : atomicOf func d a b c imm o = some i) (l : Word) :
    decode (BitVec.ofNat 32 x) (BitVec.ofNat 32 y) l = .ok i := by
  have hb := b.isLt
  have ha := a.isLt
  have hd := d.isLt
  have hc := c.isLt
  have himm := imm.isLt
  have hord := ordCode_lt o.ord
  have hscope := scopeCode_lt o.scope
  have hwide := b2n_lt o.wide
  have hfield {n lo w : Nat} (z : Nat) (h : lo + w ≤ n) {r : Nat} (hz : z / 2 ^ lo % 2 ^ w = r) :
      ((BitVec.ofNat n z).extractLsb' lo w).toNat = r := (toNat_extractLsb'_ofNat z h).trans hz
  have hclass : ((BitVec.ofNat 32 x).extractLsb' 0 2).toNat = 2 := hfield x (by decide) (by omega)
  have hwideBit : (BitVec.ofNat 32 y).getLsbD 0 = o.wide := by
    rw [BitVec.getLsbD_ofNat, Nat.testBit_zero, show y % 2 = b2n o.wide % 2 by omega, b2n_odd]
    rfl
  simp only [decode, hclass]
  exact decode64_of_fields (hfield x (by decide) (by omega)) (hfield x (by decide) (by omega))
    (extractLsb'_ofNat (by decide) (by omega)) (extractLsb'_ofNat (by decide) (by omega))
    (extractLsb'_ofNat (by decide) (by omega)) (extractLsb'_ofNat (by decide) (by omega))
    (extractLsb'_ofNat (by decide) (by omega)) (hfield y (by decide) (by omega)) (hfield y (by decide) (by omega)) hwideBit
    (hfield y (by decide) (by omega)) (hfield y (by decide) (by omega)) hnone hassigned hthis

theorem loadWidthOf_code (w : LoadWidth) : loadWidthOf w.code = some w := by
  cases w <;> rfl

theorem storeWidthOf_code (w : StoreWidth) : storeWidthOf w.code = some w := by
  cases w <;> rfl

theorem loadWidthCode_lt (w : LoadWidth) : w.code < 8 := by
  cases w <;> decide

theorem storeWidthCode_lt (w : StoreWidth) : w.code < 8 := by
  cases w <;> decide

/-- The three words of a literal form decode by its table on the fields of the first two (R204). -/
theorem decode_literal {major : Nat} {h : BitVec 14} {d a : Reg} {v l : Word} {r : Except Reject Instr} (hmajor : major < 64)
    (htable : ∀ w : Word, (w.extractLsb' 2 6).toNat = major → w.extractLsb' 8 5 = d → w.extractLsb' 13 5 = a →
      (w.extractLsb' 18 14).toNat = h.toNat → decode96 w v l = r) :
    decode (BitVec.ofNat 32 (h.toNat * 2 ^ 18 + a.toNat * 2 ^ 13 + d.toNat * 2 ^ 8 + major * 4 + 3)) v l = r := by
  have hh := h.isLt
  have ha := a.isLt
  have hd := d.isLt
  have hclass : ((BitVec.ofNat 32 (h.toNat * 2 ^ 18 + a.toNat * 2 ^ 13 + d.toNat * 2 ^ 8 + major * 4 + 3)).extractLsb'
      0 2).toNat = 3 := by
    rw [toNat_extractLsb'_ofNat _ (by decide)]
    omega
  simp only [decode, hclass]
  refine htable _ ?_ (extractLsb'_ofNat (by decide) (by omega)) (extractLsb'_ofNat (by decide) (by omega)) ?_
  all_goals
    rw [toNat_extractLsb'_ofNat _ (by decide)]
    omega

/-! ### Instructions -/

/-- The instruction is read back from its own words, whatever stands behind them. -/
def ReadBack (i : Instr) : Prop :=
  ∀ v l : Word, decode ((encode i).getD 0 0) ((encode i).getD 1 v) ((encode i).getD 2 l) = .ok i

section
variable {i : Instr} {major func : Nat} {d a b c : Reg}

theorem readBack_of_word {w : Word} (henc : encode i = [w]) (h : ∀ v l, decode w v l = .ok i) : ReadBack i := by
  intro v l
  rw [henc]
  exact h v l

theorem readBack_of_encA (henc : encode i = [encA major func b a d]) (hmajor : major < 64) (hfunc : func < 512)
    (htable : ∀ idx n, majorA major func d a b idx n = .ok i) : ReadBack i :=
  readBack_of_word henc (decode_encA hmajor hfunc htable)

theorem readBack_of_encB {imm : BitVec 14} (henc : encode i = [encB major imm a d]) (hmajor : major < 64)
    (htable : ∀ w : Word, (w.extractLsb' 2 6).toNat = major → w.extractLsb' 8 5 = d → w.extractLsb' 13 5 = a →
      w.extractLsb' 18 14 = imm → w.extractLsb' 18 6 = imm.setWidth 6 → decodeB w = .ok i) : ReadBack i :=
  readBack_of_word henc (decode_encB hmajor htable)

theorem readBack_of_encJ {imm : BitVec 19} (henc : encode i = [encJ major imm d]) (hmajor : major < 64)
    (htable : ∀ w : Word, (w.extractLsb' 2 6).toNat = major → w.extractLsb' 8 5 = d → w.extractLsb' 13 19 = imm →
      decodeB w = .ok i) : ReadBack i :=
  readBack_of_word henc (decode_encJ hmajor htable)

theorem readBack_of_enc64 {imm : BitVec 16} {o : AmoOrder} (henc : encode i = enc64 func d a b c imm o) (hfunc : func < 512)
    (hnone : func = 9 ∨ c = 0) (hassigned : (atomicOf func d a b c imm ⟨o.ord, .e, o.wide⟩).isSome = true)
    (hthis : atomicOf func d a b c imm o = some i) : ReadBack i := by
  intro v l
  rw [henc]
  exact decode_atomic hfunc rfl rfl hnone hassigned hthis l

theorem readBack_of_enc96 {wid : Nat} {l : Word} (henc : encode i = enc96 major wid d a l) (hmajor : major < 64)
    (hwid : wid < 8)
    (htable : ∀ w v : Word, (w.extractLsb' 2 6).toNat = major → w.extractLsb' 8 5 = d → w.extractLsb' 13 5 = a →
      (w.extractLsb' 18 14).toNat = 0 → (v.extractLsb' 0 3).toNat = wid → (v.extractLsb' 3 29).toNat = 0 →
      decode96 w v l = .ok i) : ReadBack i := by
  intro v x
  have hfirst : a.toNat * 2 ^ 13 + d.toNat * 2 ^ 8 + major * 4 + 3 =
      (0 : BitVec 14).toNat * 2 ^ 18 + a.toNat * 2 ^ 13 + d.toNat * 2 ^ 8 + major * 4 + 3 := by simp
  rw [henc, enc96, hfirst]
  simp only [List.getD_cons_zero, List.getD_cons_succ]
  refine decode_literal hmajor fun w h1 h2 h3 h4 => htable w _ h1 h2 h3 h4 ?_ ?_
  all_goals
    rw [toNat_extractLsb'_ofNat _ (by decide)]
    omega

end

theorem unlessReserved_of {p : Bool} {i : Instr} (h : p = true) : unlessReserved p i = .ok i := by
  rw [h]
  rfl

/-- A command register stands in a field for a scalar register, which it fits. -/
theorem toNat_setWidth_kreg_lt (k : KReg) : (k.setWidth 5 : Reg).toNat < 8 := by
  have := k.isLt
  rw [BitVec.toNat_setWidth]
  omega

/-- Settles O2: each instruction by the class of its first word. -/
theorem clerkEncodingsRoundTrip : Obligations.ClerkEncodingsRoundTrip := by
  unfold Obligations.ClerkEncodingsRoundTrip
  intro i hwf hpos hshort
  change ReadBack i
  cases i with
  | add | sub | mul | mulh | mulhu | div | divu | rem | remu | and | or | xor | andn | orn | sll | srl | sra | rol | ror
  | min | max | minu | maxu | seq | sne | slt | sltu | sle | sleu | clz | ctz | popc | sext8 | sext16 | sext32 | zext32
  | bswap | fadd | fsub | fmul | fdiv | fsqrt | fmin | fmax | feq | flt | fle | fma | fcvtF32I64 | fcvtI64F32 | fcvtBf16F32
  | fcvtF32Bf16 | fclass | fabs | fneg | acq | acqs | rel | bind | unbind | waitw | join | leave | cbar | loan | lstat
  | spawn | arm | rls | tend | tyield | tself | tage | tlook | tins | tdel | xbank | cfgld | cfgwait | wbar | hwait | halloc
  | hfree | trapret | tack | halt | wfe | nop | brk | ifence =>
    exact readBack_of_encA rfl (by decide) (by decide) fun _ _ => rfl
  | issue k | kmov k | kld k | kst k =>
    refine readBack_of_encA rfl (by decide) (by decide) fun _ _ => ?_
    simp [majorA, decodeStream, toNat_setWidth_kreg_lt k, unlessReserved, -BitVec.toNat_setWidth]
  | issuex idx => exact readBack_of_word rfl (decode_issuex idx)
  | mfs d n =>
    exact readBack_of_word (congrArg (fun x => [BitVec.ofNat 32 x]) (by omega))
      (decode_system (func := 0) (n := n) (d := d) (by decide) fun _ _ => unlessReserved_of hwf)
  | mts n d => exact readBack_of_word rfl (decode_system (by decide) fun _ _ => unlessReserved_of hwf)
  | trap n =>
    exact readBack_of_word (congrArg (fun x => [BitVec.ofNat 32 x]) (by simp))
      (decode_system (func := 2) (n := n) (d := 0) (by decide) fun _ _ => rfl)
  | fence scope => cases scope <;> exact readBack_of_encA rfl (by decide) (by decide) fun _ _ => rfl
  | addi | andi | ori | xori | slti | sltui | ld8 | ld16 | ld32 | ld64 | lds8 | lds16 | lds32 | st8 | st16 | st32 | st64
  | beq | bne | blt | bge | bltu | bgeu | jalr =>
    exact readBack_of_encB rfl (by decide) fun w hmajor hd ha himm _ => by simp only [decodeB, hmajor, hd, ha, himm]
  | slli d a n | srli d a n | srai d a n =>
    refine readBack_of_encB rfl (by decide) fun w hmajor hd ha himm hn => ?_
    have hshort : (n.setWidth 14).toNat < 64 := by
      have := n.isLt
      rw [BitVec.toNat_setWidth]
      omega
    simp [decodeB, hmajor, hd, ha, himm, hn, hshort, unlessReserved, -BitVec.toNat_setWidth]
  | lui | jal =>
    exact readBack_of_encJ rfl (by decide) fun w hmajor hd himm => by simp only [decodeB, hmajor, hd, himm]
  | amoadd | amoand | amoor | amoxor | amomin | amomax | amominu | amomaxu | amoswap =>
    exact readBack_of_enc64 rfl (by decide) (.inr rfl) rfl rfl
  | amocas => exact readBack_of_enc64 rfl (by decide) (.inl rfl) rfl rfl
  | amofadd d a b imm o =>
    have hnarrow : o.wide = false := by simpa [Instr.wf] using hwf
    exact readBack_of_enc64 rfl (by decide) (.inr rfl) (by simp [atomicOf, hnarrow]) (by simp [atomicOf, hnarrow])
  | li d l =>
    exact readBack_of_enc96 (major := 0) (wid := 0) rfl (by decide) (by decide) fun _ _ hmajor hd ha hzero hwid hrest => by
      simp [decode96, hmajor, hd, ha, hzero, hwid, hrest, unlessReserved]
  | lih d l =>
    exact readBack_of_enc96 (major := 1) (wid := 0) rfl (by decide) (by decide) fun _ _ hmajor hd ha hzero hwid hrest => by
      simp [decode96, hmajor, hd, ha, hzero, hwid, hrest, unlessReserved]
  | addli d a l =>
    exact readBack_of_enc96 (major := 2) (wid := 0) rfl (by decide) (by decide) fun _ _ hmajor hd ha hzero hwid hrest => by
      simp [decode96, hmajor, hd, ha, hzero, hwid, hrest, unlessReserved]
  | ldl w =>
    exact readBack_of_enc96 (major := 3) (wid := w.code) rfl (by decide) (loadWidthCode_lt w)
      fun _ _ hmajor hd ha hzero hwid hrest => by
        simp [decode96, hmajor, hd, ha, hzero, hwid, hrest, loadWidthOf_code, unlessReserved]
  | stl w =>
    exact readBack_of_enc96 (major := 4) (wid := w.code) rfl (by decide) (storeWidthCode_lt w)
      fun _ _ hmajor hd ha hzero hwid hrest => by
        simp [decode96, hmajor, hd, ha, hzero, hwid, hrest, storeWidthOf_code, unlessReserved]
  | sread | swrite | sgather | sscatter | stile | ssegt | scfg | sbar | send | sclose | sgateSetPlvl | sgateGate
  | sgateUngate | sreq | cchain | cabort | mload | mswap | mdense | mseg | mbatch | mgather | mdrain | mzero | mbankClaim
  | mbankRelease | mspill | mfill | mstat | tmatch | tmerge | tlogsz | tunmerge | tcompose | tsave | tload | tfree | tstat =>
    exact nomatch hshort
  | _ => exact nomatch hpos

end Sys2Proof.Claims
end

section
/-!
# Encodings of stream commands read back (O3)

The 128 bits of a command are a list of fields, the highest first (`layout`). Bits that are one of them, or lie beside them all,
read as the list says (`bitsOf_packed`), and no bit is set outside the fields that the decoder allows (`onlyFields_packed`).
-/

namespace Sys2Proof.Claims
open Sys2Proof.Machine

/-! ### Numbers made of fields -/

/-- A field of a number, or a flag in it, from its lowest bit on. -/
inductive BitField where
  | bits (lo width : Nat) (val : BitVec width)
  | flag (lo : Nat) (val : Bool)

def BitField.lo : BitField → Nat
  | .bits lo _ _ => lo
  | .flag lo _ => lo

def BitField.width : BitField → Nat
  | .bits _ width _ => width
  | .flag _ _ => 1

def BitField.val : (f : BitField) → BitVec f.width
  | .bits _ _ val => val
  | .flag _ val => BitVec.ofBool val

/-- The number whose fields these are. -/
def packed : List BitField → Nat
  | [] => 0
  | f :: fs => 2 ^ f.lo * f.val.toNat + packed fs

/-- The fields stand below bit `n`, each below the one before it. -/
def stacked : Nat → List BitField → Bool
  | _, [] => true
  | n, f :: fs => f.lo + f.width ≤ n && stacked f.lo fs

/-- The field of `n` bits from `lo` on; 0 where there is none. -/
def field (n lo : Nat) : List BitField → BitVec n
  | [] => 0
  | f :: fs => if h : f.lo = lo ∧ f.width = n then h.2 ▸ f.val else field n lo fs

/-- The flag that is bit `k`. -/
def flag (k : Nat) : List BitField → Bool
  | [] => false
  | .flag lo val :: fs => if lo = k then val else flag k fs
  | .bits lo width val :: fs => if lo = k ∧ width = 1 then val.msb else flag k fs

/-- No field stands partly in the `n` bits from `lo` on. -/
def unsplit (n lo : Nat) (fs : List BitField) : Bool :=
  fs.all fun f => (f.lo == lo && f.width == n) || f.lo + f.width ≤ lo || lo + n ≤ f.lo

/-- Every field stands in one of the given (high, low) ranges. -/
def covered (hs : List (Nat × Nat)) (fs : List BitField) : Bool :=
  fs.all fun f => hs.any fun h => h.2 ≤ f.lo && f.lo + f.width ≤ h.1 + 1

theorem stacked_cons {n : Nat} {f : BitField} {fs : List BitField} :
    stacked n (f :: fs) = true ↔ f.lo + f.width ≤ n ∧ stacked f.lo fs = true := by
  rw [stacked, Bool.and_eq_true, decide_eq_true_eq]

theorem top_le_of_stacked {n : Nat} : ∀ {fs : List BitField}, stacked n fs = true → ∀ g ∈ fs, g.lo + g.width ≤ n
  | f :: fs, h, g, hg => by
    obtain ⟨hf, hrest⟩ := stacked_cons.mp h
    obtain rfl | hg := List.mem_cons.mp hg
    · exact hf
    · have := top_le_of_stacked hrest g hg
      omega

theorem packed_lt {n : Nat} : ∀ {fs : List BitField}, stacked n fs = true → packed fs < 2 ^ n
  | [], _ => Nat.two_pow_pos n
  | f :: fs, h => by
    obtain ⟨hf, hrest⟩ := stacked_cons.mp h
    have hlow : packed fs < 2 ^ f.lo := packed_lt hrest
    have hval : f.val.toNat + 1 ≤ 2 ^ f.width := f.val.isLt
    calc packed (f :: fs) < 2 ^ f.lo * (f.val.toNat + 1) := by rw [packed, Nat.mul_add_one]; omega
      _ ≤ 2 ^ (f.lo + f.width) := by rw [pow_add]; exact Nat.mul_le_mul_left _ hval
      _ ≤ 2 ^ n := Nat.pow_le_pow_right (by decide) hf

/-- No field of a stack has a bit at or above its top. -/
theorem any_eq_false_of_stacked {n k : Nat} {fs : List BitField} (h : stacked n fs = true) (hk : n ≤ k) :
    (fs.any fun f => f.lo ≤ k && f.val.getLsbD (k - f.lo)) = false := by
  rw [List.any_eq_false]
  intro g hg
  have := top_le_of_stacked h g hg
  simp [BitVec.getLsbD_of_ge g.val (k - g.lo) (by omega)]

/-- A bit of the number is a bit of the field in which it lies. -/
theorem testBit_packed {n k : Nat} : ∀ {fs : List BitField}, stacked n fs = true →
    (packed fs).testBit k = fs.any fun f => f.lo ≤ k && f.val.getLsbD (k - f.lo)
  | [], _ => by simp [packed]
  | f :: fs, h => by
    obtain ⟨-, hrest⟩ := stacked_cons.mp h
    rw [packed, Nat.testBit_two_pow_mul_add _ (packed_lt hrest), List.any_cons]
    split
    · rw [testBit_packed hrest, decide_eq_false (by omega), Bool.false_and, Bool.false_or]
    · rw [any_eq_false_of_stacked hrest (by omega), decide_eq_true (by omega), Bool.true_and, Bool.or_false,
        BitVec.testBit_toNat]

theorem getLsbD_field {m n lo j : Nat} (hj : j < n) : ∀ {fs : List BitField}, stacked m fs = true → unsplit n lo fs = true →
    (field n lo fs).getLsbD j = fs.any fun f => f.lo ≤ lo + j && f.val.getLsbD (lo + j - f.lo)
  | [], _, _ => by simp [field]
  | f :: fs, h, hunsplit => by
    obtain ⟨-, hrest⟩ := stacked_cons.mp h
    simp only [unsplit, List.all_cons, Bool.and_eq_true] at hunsplit
    rw [field, List.any_cons]
    split
    · rename_i hthis
      obtain ⟨rfl, rfl⟩ := hthis
      rw [any_eq_false_of_stacked hrest (by omega), decide_eq_true (by omega), Bool.true_and, Bool.or_false, Nat.add_sub_cancel_left]
    · rename_i hother
      have hapart : (decide (f.lo ≤ lo + j) && f.val.getLsbD (lo + j - f.lo)) = false := by
        simp only [Bool.or_eq_true, Bool.and_eq_true, beq_iff_eq, decide_eq_true_eq] at hunsplit
        obtain (hthis | hbelow) | habove := hunsplit.1
        · exact absurd hthis hother
        · simp [BitVec.getLsbD_of_ge f.val (lo + j - f.lo) (by omega)]
        · rw [decide_eq_false (by omega), Bool.false_and]
      rw [hapart, Bool.false_or]
      exact getLsbD_field hj hrest hunsplit.2

/-- A field reads its value. -/
theorem bitsOf_packed {m n hi lo : Nat} {fs : List BitField} (hn : lo + n = hi + 1) (hstacked : stacked m fs = true)
    (hunsplit : unsplit n lo fs = true) : bitsOf (packed fs) hi lo = (field n lo fs).toNat := by
  refine Nat.eq_of_testBit_eq fun j => ?_
  rw [bitsOf, Nat.testBit_mod_two_pow, Nat.testBit_shiftRight, BitVec.testBit_toNat, ← hn, Nat.add_sub_cancel_left]
  by_cases hj : j < n
  · rw [decide_eq_true hj, Bool.true_and, testBit_packed hstacked, getLsbD_field hj hstacked hunsplit]
  · rw [decide_eq_false hj, Bool.false_and, BitVec.getLsbD_of_ge _ _ (by omega)]

/-- What bits `hi : lo` are read as: the field that they are, where they are one. -/
def fieldAt (n hi lo : Nat) (fs : List BitField) : BitVec n :=
  bif Nat.beq (lo + n) (hi + 1) && unsplit n lo fs then field n lo fs else BitVec.ofNat n (bitsOf (packed fs) hi lo)

theorem ofNat_bitsOf_packed {m : Nat} {fs : List BitField} (hstacked : stacked m fs = true) (n hi lo : Nat) :
    BitVec.ofNat n (bitsOf (packed fs) hi lo) = fieldAt n hi lo fs := by
  unfold fieldAt
  cases h : Nat.beq (lo + n) (hi + 1) && unsplit n lo fs with
  | true =>
    simp only [Bool.and_eq_true, Nat.beq_eq] at h
    obtain ⟨hn, hunsplit⟩ := h
    rw [bitsOf_packed hn hstacked hunsplit, BitVec.ofNat_toNat, BitVec.setWidth_eq]
    rfl
  | false => rfl

/-- A flag is a field of one bit. -/
theorem msb_field_one {k : Nat} : ∀ {fs : List BitField}, (field 1 k fs).msb = flag k fs
  | [] => by simp [field, flag]
  | .flag lo val :: fs => by
    rw [field, flag]
    by_cases hlo : lo = k
    · subst hlo
      rw [dif_pos ⟨rfl, rfl⟩, if_pos rfl]
      exact BitVec.msb_ofBool val
    · rw [dif_neg fun h => hlo h.1, if_neg hlo]
      exact msb_field_one
  | .bits lo width val :: fs => by
    rw [field, flag]
    by_cases hthis : lo = k ∧ width = 1
    · obtain ⟨rfl, rfl⟩ := hthis
      rw [dif_pos ⟨rfl, rfl⟩, if_pos ⟨rfl, rfl⟩]
      rfl
    · rw [if_neg hthis]
      exact (congrArg BitVec.msb (dif_neg hthis)).trans msb_field_one

/-- What bit `k` is read as: the flag that it is, where it is one. -/
def flagAt (k : Nat) (fs : List BitField) : Bool :=
  bif unsplit 1 k fs then flag k fs else bitOf (packed fs) k

theorem bitOf_packed {m : Nat} {fs : List BitField} (hstacked : stacked m fs = true) (k : Nat) : bitOf (packed fs) k = flagAt k fs := by
  unfold flagAt
  cases hunsplit : unsplit 1 k fs with
  | true =>
    have hbit := getLsbD_field (j := 0) (by decide) hstacked hunsplit
    rw [bitOf, testBit_packed hstacked, cond_true, ← msb_field_one, BitVec.msb_eq_getLsbD_last]
    exact hbit.symm
  | false => rfl

/-- Clearing bits `hi : lo` leaves the others. -/
theorem testBit_setBits_zero (x hi lo k : Nat) : (setBits x hi lo 0).testBit k = (x.testBit k && !(lo ≤ k && k ≤ hi)) := by
  by_cases hrange : lo ≤ hi
  · obtain ⟨w, hw⟩ := Nat.exists_eq_add_of_le (show lo ≤ hi + 1 by omega)
    have hsplit : x = 2 ^ (hi + 1) * (x / 2 ^ (hi + 1)) + (bitsOf x hi lo * 2 ^ lo + x % 2 ^ lo) := by
      rw [bitsOf, hw, Nat.add_sub_cancel_left, Nat.shiftRight_eq_div_pow, pow_add, ← Nat.div_div_eq_div_mul, Nat.mul_assoc]
      have hhigh := Nat.div_add_mod (x / 2 ^ lo) (2 ^ w)
      have hlow := Nat.div_add_mod x (2 ^ lo)
      rw [← hhigh, Nat.mul_add] at hlow
      rw [Nat.mul_comm _ (2 ^ lo)]
      omega
    have hcleared : setBits x hi lo 0 = 2 ^ (hi + 1) * (x / 2 ^ (hi + 1)) + x % 2 ^ lo := by
      rw [setBits, Nat.zero_mod, Nat.zero_mul]
      omega
    have hlow : x % 2 ^ lo < 2 ^ (hi + 1) :=
      (Nat.mod_lt _ (Nat.two_pow_pos lo)).trans_le (Nat.pow_le_pow_right (by decide) (by omega))
    rw [hcleared, Nat.testBit_two_pow_mul_add _ hlow, Nat.testBit_mod_two_pow, Nat.testBit_div_two_pow]
    by_cases hk : k < hi + 1
    · rw [if_pos hk]
      by_cases hklo : k < lo
      · simp [hklo, Nat.not_le.mpr hklo]
      · simp [hklo, Nat.le_of_lt_succ hk, Nat.not_lt.mp hklo]
    · rw [if_neg hk, Nat.sub_add_cancel (by omega), decide_eq_false (show ¬ k ≤ hi by omega)]
      simp
  · have hnone : setBits x hi lo 0 = x := by
      rw [setBits, bitsOf, show hi + 1 - lo = 0 by omega]
      simp [Nat.mod_one]
    rw [hnone, show (decide (lo ≤ k) && decide (k ≤ hi)) = false by simp; omega]
    simp

/-- What is left where the ranges are cleared are the bits outside them. -/
theorem testBit_cleared (k : Nat) : ∀ (hs : List (Nat × Nat)) (x : Nat),
    (hs.foldl (fun y h => setBits y h.1 h.2 0) x).testBit k = (x.testBit k && !hs.any fun h => h.2 ≤ k && k ≤ h.1)
  | [], x => by simp
  | h :: hs, x => by
    rw [List.foldl_cons, testBit_cleared k hs, testBit_setBits_zero, List.any_cons, Bool.not_or, Bool.and_assoc]

theorem onlyFields_packed {m : Nat} {hs : List (Nat × Nat)} {fs : List BitField} (hstacked : stacked m fs = true)
    (hcovered : covered hs fs = true) : onlyFields (packed fs) hs = true := by
  rw [onlyFields, beq_iff_eq]
  refine Nat.eq_of_testBit_eq fun k => ?_
  rw [testBit_cleared, Nat.zero_testBit, testBit_packed hstacked, Bool.and_eq_false_imp, List.any_eq_true]
  rintro ⟨f, hf, hbit⟩
  simp only [Bool.and_eq_true, decide_eq_true_eq] at hbit
  have hwidth := BitVec.lt_of_getLsbD hbit.2
  simp only [covered, List.all_eq_true, List.any_eq_true, Bool.and_eq_true, decide_eq_true_eq] at hcovered
  obtain ⟨h, hh, hlo, hhi⟩ := hcovered f hf
  simp only [Bool.not_eq_false', List.any_eq_true, Bool.and_eq_true, decide_eq_true_eq]
  exact ⟨h, hh, by omega, by omega⟩




/-! ### The layouts of commands -/

/-- The fields of the first word but for the flags and the target: where there is one reference to a register, and where there
are two (R209). -/
def oneRef (r1 : Reg) (code : Byte) : List BitField := [.bits 8 5 r1, .bits 0 8 code]
def twoRefs (r2 r1 : Reg) (code : Byte) : List BitField := .bits 13 5 r2 :: oneRef r1 code

def portTarget (p : BitVec 4) : List BitField := [.bits 28 4 0, .bits 24 4 p]
def ceTarget (e : BitVec 1) : List BitField := [.bits 25 7 0x20, .bits 24 1 e]
def meTarget (e : BitVec 1) : List BitField := [.bits 25 7 0x10, .bits 24 1 e]
def tmuTarget : List BitField := [.bits 24 8 0x30]

/-- The fields that all product commands have from bit 64 on (R282). -/
def productLayout (f : ProductFields) : List BitField :=
  [.flag 84 f.src, .flag 83 f.afmt, .flag 82 f.bank, .bits 80 2 f.acc, .bits 64 16 f.gamma]

/-- The fields of a stream command, the highest first (R209 to R211). -/
def layout : Instr → List BitField
  | .sread p f =>
    [.bits 122 6 f.handle, .bits 112 10 f.stride, .bits 100 12 f.rows, .bits 80 20 f.len, .bits 32 48 f.addr] ++
      portTarget p ++ [.flag 22 f.hv, .bits 19 3 f.rlvl, .flag 18 f.opn] ++ twoRefs f.r2 f.r1 0x10
  | .swrite p f =>
    [.bits 112 10 f.stride, .bits 100 12 f.rows, .bits 80 20 f.len, .bits 32 48 f.addr] ++ portTarget p ++
      twoRefs f.r2 f.r1 0x11
  | .sgather p f =>
    [.bits 122 6 f.handle, .bits 119 3 f.esz, .bits 103 16 f.count, .bits 80 23 f.idx, .bits 32 48 f.base] ++
      portTarget p ++ [.flag 22 f.hv, .bits 19 3 f.rlvl, .flag 18 f.opn] ++ twoRefs f.r2 f.r1 0x12
  | .sscatter p f =>
    [.bits 119 3 f.esz, .bits 103 16 f.count, .bits 80 23 f.idx, .bits 32 48 f.base] ++ portTarget p ++
      twoRefs f.r2 f.r1 0x13
  | .stile p f =>
    [.bits 86 42 f.exp, .bits 42 44 f.trec, .bits 32 10 f.n] ++ portTarget p ++ [.flag 18 f.close] ++ twoRefs f.r2 f.r1 0x14
  | .ssegt p f =>
    [.bits 105 16 f.nkb, .bits 89 16 f.kb0, .bits 82 7 f.nrows, .bits 76 6 f.frow, .bits 32 44 f.trec] ++ portTarget p ++
      twoRefs f.r2 f.r1 0x15
  | .scfg p r1 word => [.bits 32 64 word] ++ portTarget p ++ oneRef r1 0x16
  | .sbar p r1 id snap => [.bits 32 8 id] ++ portTarget p ++ [.flag 18 snap] ++ oneRef r1 0x17
  | .send p r1 lvl pay err => [.bits 64 3 lvl, .bits 32 32 pay] ++ portTarget p ++ [.flag 18 err] ++ oneRef r1 0x18
  | .sclose p r1 lvl => [.bits 32 3 lvl] ++ portTarget p ++ oneRef r1 0x19
  | .sgateSetPlvl p r1 lvl => [.bits 32 3 lvl] ++ portTarget p ++ [.bits 18 2 0] ++ oneRef r1 0x1A
  | .sgateGate p r1 lvl => [.bits 32 3 lvl] ++ portTarget p ++ [.bits 18 2 1] ++ oneRef r1 0x1A
  | .sgateUngate p r1 lvl => [.bits 32 3 lvl] ++ portTarget p ++ [.bits 18 2 2] ++ oneRef r1 0x1A
  | .sreq p r1 base sz => [.bits 80 3 sz, .bits 32 48 base] ++ portTarget p ++ oneRef r1 0x1B
  | .cchain e r1 head => [.bits 32 48 head] ++ ceTarget e ++ oneRef r1 0x1C
  | .cabort e => ceTarget e ++ [.bits 0 8 0x1D]
  | .mload e f =>
    [.bits 85 43 f.trec, .flag 84 f.src, .bits 80 2 f.pfmt, .bits 48 16 f.kb, .bits 32 16 f.n] ++ meTarget e ++
      twoRefs f.r2 f.r1 0x20
  | .mswap e => meTarget e ++ [.bits 0 8 0x21]
  | .mdense e f => productLayout f ++ [.bits 32 16 f.n] ++ meTarget e ++ [.bits 18 3 f.ach] ++ oneRef f.r1 0x22
  | .mseg e r2 kb trec f =>
    (bif f.src then [.bits 85 43 trec] else []) ++ productLayout f ++ [.bits 48 16 kb, .bits 32 16 f.n] ++ meTarget e ++
      [.bits 18 3 f.ach] ++ twoRefs r2 f.r1 0x23
  | .mbatch e f => productLayout f ++ [.bits 32 16 f.n] ++ meTarget e ++ [.bits 18 3 f.ach] ++ oneRef f.r1 0x24
  | .mgather e desc f =>
    [.bits 85 19 desc] ++ productLayout f ++ [.bits 32 16 f.n] ++ meTarget e ++ [.bits 18 3 f.ach] ++ oneRef f.r1 0x25
  | .mdrain e f =>
    [.bits 86 42 f.scale, .flag 82 f.bank, .bits 52 8 f.bar, .flag 51 f.bv, .flag 50 f.za, .flag 49 f.sv, .flag 48 f.ofmt,
      .bits 32 16 f.n] ++ meTarget e ++ oneRef f.r1 0x26
  | .mzero e r1 n bank => [.flag 82 bank, .bits 32 16 n] ++ meTarget e ++ oneRef r1 0x27
  | .mbankClaim e => [.flag 32 false] ++ meTarget e ++ [.bits 0 8 0x28]
  | .mbankRelease e => [.flag 32 true] ++ meTarget e ++ [.bits 0 8 0x28]
  | .mspill e addr bank => [.bits 86 42 addr, .flag 82 bank] ++ meTarget e ++ [.bits 0 8 0x29]
  | .mfill e addr bank => [.bits 86 42 addr, .flag 82 bank] ++ meTarget e ++ [.bits 0 8 0x2A]
  | .mstat e r1 addr clr seq => [.bits 86 42 addr, .flag 81 clr, .bits 48 32 seq] ++ meTarget e ++ oneRef r1 0x2B
  | .tmatch r1 slot desc num => [.bits 67 19 desc, .bits 48 4 slot, .bits 32 10 num] ++ tmuTarget ++ oneRef r1 0x30
  | .tmerge r1 slot num vf => [.bits 48 4 slot, .bits 32 10 num] ++ tmuTarget ++ [.flag 18 vf] ++ oneRef r1 0x31
  | .tlogsz slot b2 => [.bits 48 4 slot] ++ tmuTarget ++ [.flag 18 b2, .bits 0 8 0x32]
  | .tunmerge r1 slot num vf => [.bits 48 4 slot, .bits 32 10 num] ++ tmuTarget ++ [.flag 18 vf] ++ oneRef r1 0x33
  | .tcompose slot sla slb => [.bits 52 4 slb, .bits 48 4 slot, .bits 44 4 sla] ++ tmuTarget ++ [.bits 0 8 0x34]
  | .tsave slot addr => [.bits 86 42 addr, .bits 48 4 slot] ++ tmuTarget ++ [.bits 0 8 0x35]
  | .tload slot addr => [.bits 86 42 addr, .bits 48 4 slot] ++ tmuTarget ++ [.bits 0 8 0x36]
  | .tfree slot => [.bits 48 4 slot] ++ tmuTarget ++ [.bits 0 8 0x37]
  | .tstat r1 addr seq => [.bits 86 42 addr, .bits 54 32 seq] ++ tmuTarget ++ oneRef r1 0x38
  | _ => []

theorem b2n_eq_toNat_ofBool (b : Bool) : b2n b = (BitVec.ofBool b).toNat := by
  cases b <;> rfl

/-- The encoder writes each command by its layout. -/
theorem encodeCommand_eq_packed {i : Instr} (hwf : i.wf = true) : encodeCommand i = packed (layout i) := by
  cases i with
  | mseg e r2 kb trec f =>
    obtain ⟨r1, src, afmt, bank, acc, gamma, n, ach⟩ := f
    cases src with
    | true =>
      simp [encodeCommand, encHead, encProduct, layout, productLayout, meTarget, twoRefs, oneRef, packed, BitField.lo,
        BitField.width, BitField.val, b2n_eq_toNat_ofBool]
      omega
    | false =>
      obtain rfl : trec = 0 := by simpa [Instr.wf] using hwf
      simp [encodeCommand, encHead, encProduct, layout, productLayout, meTarget, twoRefs, oneRef, packed, BitField.lo,
        BitField.width, BitField.val, b2n_eq_toNat_ofBool]
      omega
  | sread | swrite | sgather | sscatter | stile | ssegt | scfg | sbar | send | sclose | sgateSetPlvl | sgateGate
  | sgateUngate | sreq | cchain | cabort | mload | mswap | mdense | mbatch | mgather | mdrain | mzero | mbankClaim
  | mbankRelease | mspill | mfill | mstat | tmatch | tmerge | tlogsz | tunmerge | tcompose | tsave | tload | tfree | tstat =>
    simp [encodeCommand, encHead, encProduct, layout, productLayout, portTarget, ceTarget, meTarget, tmuTarget, twoRefs,
      oneRef, packed, BitField.lo, BitField.width, BitField.val, b2n_eq_toNat_ofBool]
    omega
  | _ => rfl


/-! ### Commands of each kind of target -/

/-- The layout has the field of `n` bits from `lo` on, with value `v`. -/
def HasField (fs : List BitField) (n lo : Nat) (v : BitVec n) : Prop := unsplit n lo fs = true ∧ field n lo fs = v

section
variable {fs : List BitField} (hstacked : stacked 128 fs = true)
include hstacked

theorem bitsOf_of_hasField {n lo hi : Nat} {v : BitVec n} (h : HasField fs n lo v) (hn : lo + n = hi + 1) :
    bitsOf (packed fs) hi lo = v.toNat := by
  obtain ⟨hunsplit, hfield⟩ := h
  rw [bitsOf_packed hn hstacked hunsplit, hfield]

theorem toNat_ofNat_packed : (BitVec.ofNat 128 (packed fs)).toNat = packed fs := by
  rw [BitVec.toNat_ofNat, Nat.mod_eq_of_lt (packed_lt hstacked)]

/-- The target of a command is what stands in bits 31:24, which may be two fields. -/
theorem target_of_hasField {n k : Nat} {v : BitVec n} {w : BitVec k} (hhigh : HasField fs n (24 + k) v)
    (hlow : HasField fs k 24 w) (hk : k + n = 8) : bitsOf (packed fs) 31 24 = v.toNat * 2 ^ k + w.toNat := by
  have h1 := bitsOf_of_hasField hstacked hhigh (hi := 31) (by omega)
  have h2 := bitsOf_of_hasField hstacked hlow (hi := 23 + k) (by omega)
  rw [← h1, ← h2]
  simp only [bitsOf, Nat.shiftRight_eq_div_pow, pow_add, ← Nat.div_div_eq_div_mul, show 31 + 1 - (24 + k) = n by omega,
    show 23 + k + 1 - 24 = k by omega, show 31 + 1 - 24 = k + n by omega]
  rw [Nat.mod_mul, Nat.add_comm, Nat.mul_comm]

theorem code_of_unsplit (hcode : unsplit 8 0 fs = true) : bitsOf (packed fs) 7 0 = (field 8 0 fs).toNat :=
  bitsOf_of_hasField hstacked ⟨hcode, rfl⟩ rfl

theorem decodeCommand_toPort {p : BitVec 4} (hcode : unsplit 8 0 fs = true)
    (hrange : (0x10 ≤ (field 8 0 fs).toNat && (field 8 0 fs).toNat ≤ 0x1B) = true) (hzero : HasField fs 4 28 0)
    (hp : HasField fs 4 24 p) :
    decodeCommand (BitVec.ofNat 128 (packed fs)) = decodePortCmd (field 8 0 fs).toNat (packed fs) := by
  have htarget : bitsOf (packed fs) 31 24 < 16 := by
    rw [target_of_hasField hstacked hzero hp rfl]
    have := p.isLt
    simp
    omega
  simp only [decodeCommand, toNat_ofNat_packed hstacked, code_of_unsplit hstacked hcode, hrange, htarget, if_true]

theorem decodeCommand_toCe {e : BitVec 1} (hcode : unsplit 8 0 fs = true)
    (hrange : ((field 8 0 fs).toNat == 0x1C || (field 8 0 fs).toNat == 0x1D) = true) (hhigh : HasField fs 7 25 0x20)
    (he : HasField fs 1 24 e) :
    decodeCommand (BitVec.ofNat 128 (packed fs)) = decodeCeCmd (field 8 0 fs).toNat (packed fs) := by
  have htarget := target_of_hasField hstacked hhigh he rfl
  have hlow : (0x10 ≤ (field 8 0 fs).toNat && (field 8 0 fs).toNat ≤ 0x1B) = false := by
    obtain h | h := (Bool.or_eq_true ..).mp hrange <;> rw [beq_iff_eq.mp h] <;> rfl
  have hone : (bitsOf (packed fs) 31 24 == 0x40 || bitsOf (packed fs) 31 24 == 0x41) = true := by
    rw [htarget]
    obtain rfl | rfl := BitVec.eq_zero_or_eq_one e <;> rfl
  simp only [decodeCommand, toNat_ofNat_packed hstacked, code_of_unsplit hstacked hcode, hlow, hrange, hone, if_true,
    Bool.false_eq_true, if_false]

theorem decodeCommand_toMe {e : BitVec 1} (hcode : unsplit 8 0 fs = true)
    (hrange : (0x20 ≤ (field 8 0 fs).toNat && (field 8 0 fs).toNat ≤ 0x2B) = true) (hhigh : HasField fs 7 25 0x10)
    (he : HasField fs 1 24 e) :
    decodeCommand (BitVec.ofNat 128 (packed fs)) = decodeMeCmd (field 8 0 fs).toNat (packed fs) := by
  have htarget := target_of_hasField hstacked hhigh he rfl
  have hone : (bitsOf (packed fs) 31 24 == 0x20 || bitsOf (packed fs) 31 24 == 0x21) = true := by
    rw [htarget]
    obtain rfl | rfl := BitVec.eq_zero_or_eq_one e <;> rfl
  simp only [decodeCommand, toNat_ofNat_packed hstacked, code_of_unsplit hstacked hcode]
  generalize (field 8 0 fs).toNat = code at hrange ⊢
  have hport : (0x10 ≤ code && code ≤ 0x1B) = false := by
    simp at hrange ⊢
    omega
  have hce : (code == 0x1C || code == 0x1D) = false := by
    simp at hrange ⊢
    omega
  simp only [hport, hce, hrange, hone, if_true, Bool.false_eq_true, if_false]

theorem decodeCommand_toTmu (hcode : unsplit 8 0 fs = true)
    (hrange : (0x30 ≤ (field 8 0 fs).toNat && (field 8 0 fs).toNat ≤ 0x38) = true) (htmu : HasField fs 8 24 0x30) :
    decodeCommand (BitVec.ofNat 128 (packed fs)) = decodeTmuCmd (field 8 0 fs).toNat (packed fs) := by
  have htarget := bitsOf_of_hasField hstacked htmu (hi := 31) rfl
  have hone : (bitsOf (packed fs) 31 24 == 0x30) = true := by
    rw [htarget]
    rfl
  simp only [decodeCommand, toNat_ofNat_packed hstacked, code_of_unsplit hstacked hcode]
  generalize (field 8 0 fs).toNat = code at hrange ⊢
  have hport : (0x10 ≤ code && code ≤ 0x1B) = false := by
    simp at hrange ⊢
    omega
  have hce : (code == 0x1C || code == 0x1D) = false := by
    simp at hrange ⊢
    omega
  have hme : (0x20 ≤ code && code ≤ 0x2B) = false := by
    simp at hrange ⊢
    omega
  simp only [hport, hce, hme, hrange, hone, if_true, Bool.false_eq_true, if_false]

end

theorem ok_of_onlyFields {x : Nat} {hs : List (Nat × Nat)} {i j : Instr} (h : onlyFields x hs = true) (hj : j = i) :
    (if onlyFields x hs then Except.ok j else Except.error 0x33) = Except.ok i := by
  rw [if_pos h, hj]

/-! ### Commands read back -/

/-- Every command's fields stand one below the other in 128 bits. -/
theorem stacked_layout {i : Instr} : stacked 128 (layout i) = true := by
  cases i with
  | mseg e r2 kb trec f =>
    obtain ⟨r1, src, afmt, bank, acc, gamma, n, ach⟩ := f
    cases src <;> rfl
  | _ => rfl

/-- The decoder of a kind of command reads each field where the layout has it; its check of the others, which it makes of what
it would answer, is named first so that the table of codes can be passed by. -/
theorem decode_port {i : Instr} {p : BitVec 4} (h : Instr.portOf i = some p) :
    decodeCommand (BitVec.ofNat 128 (packed (layout i))) = .ok i := by
  cases i with
  | sread | swrite | sgather | sscatter | stile | ssegt | scfg | sbar | send | sclose | sreq =>
    rw [decodeCommand_toPort stacked_layout rfl rfl ⟨rfl, rfl⟩ ⟨rfl, rfl⟩]
    unfold decodePortCmd
    extract_lets p r1 r2 only
    obtain ⟨check, hcheck⟩ : ∃ check, check = only := ⟨_, rfl⟩
    rw [← hcheck]
    change check _ _ = _
    rw [hcheck]
    refine ok_of_onlyFields (onlyFields_packed stacked_layout rfl) ?_
    simp only [p, r1, r2, ofNat_bitsOf_packed stacked_layout, bitOf_packed stacked_layout]
    rfl
  | sgateSetPlvl | sgateGate | sgateUngate =>
    rw [decodeCommand_toPort stacked_layout rfl rfl ⟨rfl, rfl⟩ ⟨rfl, rfl⟩]
    unfold decodePortCmd
    extract_lets p r1 r2 only l
    obtain ⟨check, hcheck⟩ : ∃ check, check = only := ⟨_, rfl⟩
    rw [← hcheck, bitsOf_packed (n := 2) (lo := 18) rfl stacked_layout rfl]
    change check _ _ = _
    rw [hcheck]
    refine ok_of_onlyFields (onlyFields_packed stacked_layout rfl) ?_
    simp only [p, r1, l, ofNat_bitsOf_packed stacked_layout]
    rfl
  | _ => exact nomatch h

theorem decode_ce {i : Instr} (h : i matches .cchain .. | .cabort _) :
    decodeCommand (BitVec.ofNat 128 (packed (layout i))) = .ok i := by
  cases i with
  | cchain =>
    rw [decodeCommand_toCe stacked_layout rfl rfl ⟨rfl, rfl⟩ ⟨rfl, rfl⟩]
    unfold decodeCeCmd
    extract_lets e r1
    refine (if_pos rfl).trans ?_
    refine ok_of_onlyFields (onlyFields_packed stacked_layout rfl) ?_
    simp only [e, r1, ofNat_bitsOf_packed stacked_layout]
    rfl
  | cabort =>
    rw [decodeCommand_toCe stacked_layout rfl rfl ⟨rfl, rfl⟩ ⟨rfl, rfl⟩]
    unfold decodeCeCmd
    extract_lets e r1
    refine (if_neg Bool.false_ne_true).trans ?_
    refine ok_of_onlyFields (onlyFields_packed stacked_layout rfl) ?_
    simp only [e, ofNat_bitsOf_packed stacked_layout]
    rfl
  | _ => exact nomatch h

theorem decode_me {i : Instr} {e : BitVec 1} (hwf : i.wf = true) (h : engineOf i = some e) :
    decodeCommand (BitVec.ofNat 128 (packed (layout i))) = .ok i := by
  cases i with
  | mload | mswap | mdense | mbatch | mgather | mdrain | mzero | mbankClaim | mbankRelease | mspill | mfill | mstat =>
    rw [decodeCommand_toMe stacked_layout rfl rfl ⟨rfl, rfl⟩ ⟨rfl, rfl⟩]
    unfold decodeMeCmd
    extract_lets e r1 r2 n bank addr only
    obtain ⟨check, hcheck⟩ : ∃ check, check = only := ⟨_, rfl⟩
    rw [← hcheck]
    change check _ _ = _
    rw [hcheck]
    refine ok_of_onlyFields (onlyFields_packed stacked_layout rfl) ?_
    simp only [e, r1, r2, n, bank, addr, productOf, ofNat_bitsOf_packed stacked_layout, bitOf_packed stacked_layout]
    rfl
  | mseg e r2 kb trec f =>
    obtain ⟨r1, src, afmt, bank, acc, gamma, n, ach⟩ := f
    have hcode (fs) (hfs : fs = layout (.mseg e r2 kb trec ⟨r1, src, afmt, bank, acc, gamma, n, ach⟩)) :
        decodeCommand (BitVec.ofNat 128 (packed fs)) = decodeMeCmd 0x23 (packed fs) := by
      subst hfs
      cases src <;> exact decodeCommand_toMe stacked_layout rfl rfl ⟨rfl, rfl⟩ ⟨rfl, rfl⟩
    rw [hcode _ rfl]
    unfold decodeMeCmd
    extract_lets e r1 r2 n bank addr only
    obtain ⟨check, hcheck⟩ : ∃ check, check = only := ⟨_, rfl⟩
    rw [← hcheck]
    change check _ _ = _
    rw [hcheck]
    refine ok_of_onlyFields (onlyFields_packed stacked_layout ?_) ?_
    · rw [bitOf_packed stacked_layout]
      cases src <;> rfl
    · simp only [e, r2, productOf, ofNat_bitsOf_packed stacked_layout, bitOf_packed stacked_layout]
      cases src with
      | true => rfl
      | false =>
        obtain rfl : trec = 0 := by simpa [Instr.wf] using hwf
        rfl
  | _ => exact nomatch h

theorem decode_tmu {i : Instr} (h : ofTmu i = true) : decodeCommand (BitVec.ofNat 128 (packed (layout i))) = .ok i := by
  cases i with
  | tmatch | tmerge | tlogsz | tunmerge | tcompose | tsave | tload | tfree | tstat =>
    rw [decodeCommand_toTmu stacked_layout rfl rfl ⟨rfl, rfl⟩]
    unfold decodeTmuCmd
    extract_lets r1 slot num addr f only
    obtain ⟨check, hcheck⟩ : ∃ check, check = only := ⟨_, rfl⟩
    rw [← hcheck]
    change check _ _ = _
    rw [hcheck]
    refine ok_of_onlyFields (onlyFields_packed stacked_layout rfl) ?_
    simp only [r1, slot, num, addr, f, ofNat_bitsOf_packed stacked_layout, bitOf_packed stacked_layout]
    rfl
  | _ => exact nomatch h

/-- Settles O3: each command is written by its layout, and the decoder reads it by that. -/
theorem commandEncodingsRoundTrip : Obligations.CommandEncodingsRoundTrip := by
  unfold Obligations.CommandEncodingsRoundTrip
  intro i hwf hlength
  rw [encodeCommand_eq_packed hwf]
  cases i with
  | sread | swrite | sgather | sscatter | stile | ssegt | scfg | sbar | send | sclose | sgateSetPlvl | sgateGate | sgateUngate
  | sreq => exact decode_port rfl
  | cchain | cabort => exact decode_ce rfl
  | mload | mswap | mdense | mseg | mbatch | mgather | mdrain | mzero | mbankClaim | mbankRelease | mspill | mfill | mstat =>
    exact decode_me hwf rfl
  | tmatch | tmerge | tlogsz | tunmerge | tcompose | tsave | tload | tfree | tstat => exact decode_tmu rfl
  | _ => exact nomatch hlength

end Sys2Proof.Claims
end

section
/-!
# Integer forms (O5, O7, O8)

Every integer form ends in `State.finish` with a value of its sources, so what it does is `writesReg_of_finish`, once its value
is the one that the statement names.
-/

namespace Sys2Proof.Claims
open Sys2Proof.Machine

/-- An instruction that ends in `State.finish` writes one register, with any value equal to the one that it finishes with. -/
theorem writesReg_of_finish {s : State} {d : Reg} {v w : Dword} {n : Nat} (h : v = w) :
    WritesReg s (.next (s.finish d v n)) d w n := by
  subst h
  exact writesReg_finish ..

/-! ### Values -/

theorem mul_eq_ofNat (x y : Dword) : x * y = BitVec.ofNat 64 (x.toNat * y.toNat) := by
  apply BitVec.eq_of_toNat_eq
  rw [BitVec.toNat_mul, BitVec.toNat_ofNat]

theorem rotateLeft_shamt (x y : Dword) :
    x.rotateLeft (shamt y) = x <<< (y.toNat % 64) ||| x >>> (64 - y.toNat % 64) := by
  rw [BitVec.rotateLeft_def, shamt, Nat.mod_mod]

theorem rotateRight_shamt (x y : Dword) :
    x.rotateRight (shamt y) = x >>> (y.toNat % 64) ||| x <<< (64 - y.toNat % 64) := by
  rw [BitVec.rotateRight_def, shamt, Nat.mod_mod]

/-- Where the two are equal it does not matter which is taken, so a strict comparison decides as a weak one does. -/
theorem ite_lt_eq_ite_le {c : Prop} [Decidable c] {m n : Int} {u v : Dword} (hc : c ↔ m < n) (heq : m = n → u = v) :
    (if c then u else v) = if m ≤ n then u else v := by
  obtain h | h | h := lt_trichotomy m n
  · rw [if_pos (hc.mpr h), if_pos h.le]
  · rw [heq h, ite_self, ite_self]
  · rw [if_neg fun hlt => (hc.mp hlt).not_gt h, if_neg h.not_ge]

theorem ult_iff_toNat (x y : Dword) : x.ult y = true ↔ (x.toNat : Int) < y.toNat := by
  rw [BitVec.ult_iff_lt, BitVec.lt_def, Int.ofNat_lt]

theorem min_eq_of_toInt (x y : Dword) : (if x.slt y then x else y) = if x.toInt ≤ y.toInt then x else y :=
  ite_lt_eq_ite_le BitVec.slt_iff_toInt_lt BitVec.toInt_inj.mp

theorem max_eq_of_toInt (x y : Dword) : (if x.slt y then y else x) = if x.toInt ≤ y.toInt then y else x :=
  ite_lt_eq_ite_le BitVec.slt_iff_toInt_lt fun h => (BitVec.toInt_inj.mp h).symm

theorem minu_eq_of_toNat (x y : Dword) : (if x.ult y then x else y) = if x.toNat ≤ y.toNat then x else y := by
  simpa only [Int.ofNat_le] using ite_lt_eq_ite_le (ult_iff_toNat x y) fun h => BitVec.toNat_inj.mp (Int.ofNat.inj h)

theorem maxu_eq_of_toNat (x y : Dword) : (if x.ult y then y else x) = if x.toNat ≤ y.toNat then y else x := by
  simpa only [Int.ofNat_le] using ite_lt_eq_ite_le (ult_iff_toNat x y) fun h => (BitVec.toNat_inj.mp (Int.ofNat.inj h)).symm

theorem flagDword_eq_ite {b : Bool} {p : Prop} [Decidable p] (h : b = true ↔ p) : flagDword b = if p then 1 else 0 := by
  simp only [flagDword, h]

theorem sdiv_eq_ofInt (x y : Dword) : x.sdiv y = BitVec.ofInt 64 (x.toInt.tdiv y.toInt) := by
  apply BitVec.eq_of_toInt_eq
  rw [BitVec.toInt_sdiv, BitVec.toInt_ofInt]

theorem srem_eq_ofInt (x y : Dword) : x.srem y = BitVec.ofInt 64 (x.toInt.tmod y.toInt) := by
  apply BitVec.eq_of_toInt_eq
  rw [← BitVec.toInt_srem, BitVec.ofInt_toInt]

theorem udiv_eq_ofNat (x y : Dword) : x / y = BitVec.ofNat 64 (x.toNat / y.toNat) := by
  rw [← BitVec.toNat_udiv, BitVec.ofNat_toNat, BitVec.setWidth_eq]

theorem umod_eq_ofNat (x y : Dword) : x % y = BitVec.ofNat 64 (x.toNat % y.toNat) := by
  rw [← BitVec.toNat_umod, BitVec.ofNat_toNat, BitVec.setWidth_eq]

/-! ### Words of class B -/

theorem classB_eq_encB (imm : BitVec 14) (a d : Reg) (major : Nat) : classB imm a d major = encB major imm a d := rfl

theorem classJ_eq_encJ (imm : BitVec 19) (d : Reg) (major : Nat) : classJ imm d major = encJ major imm d := rfl

/-- The word of an instruction of one word decodes to it. -/
theorem decode_of_encode {i : Instr} {w : Word} (henc : encode i = [w]) (hwf : i.wf = true) (v l : Word) :
    decode w v l = .ok i := by
  have h := clerkEncodingsRoundTrip i hwf (by simp [henc]) (by simp [henc]) v l
  rwa [henc] at h

/-! ### Two-source forms (R216) -/

/-- A division form with a divisor other than 0 writes its value. -/
theorem writesReg_divOp {s : State} {i : Instr} {f : Dword → Dword → Dword} {d a b : Reg} {v : Dword} (hb : s.reg b ≠ 0)
    (hv : f (s.reg a) (s.reg b) = v) : WritesReg s (divOp i f d a b s) d v 4 := by
  rw [divOp, if_neg hb]
  exact writesReg_of_finish hv

/-- The word of a two-source form is one of the encoder's, which decodes by the table of major 0x00. -/
theorem decode_int {k : Nat} (hk : k < 512) (d a b : Reg) (v l : Word) :
    decode (classA k b a d 0x00) v l = decodeInt k d a b :=
  decode_encA (by decide) hk (fun _ _ => rfl) v l

/-- Settles O5: each form by its value. -/
theorem integerRegisterForms : Obligations.IntegerRegisterForms := by
  unfold Obligations.IntegerRegisterForms
  intro d a b v l s
  dsimp only
  refine ⟨fun k hk => ?_, fun hb => ⟨writesReg_divOp hb (sdiv_eq_ofInt ..), writesReg_divOp hb (udiv_eq_ofNat ..),
    writesReg_divOp hb ?_, writesReg_divOp hb ?_⟩, ?_⟩
  · rw [decode_int (by omega)]
    interval_cases k <;> rfl
  · rw [← Int.tmod_def]
    exact srem_eq_ofInt ..
  · rw [← Nat.mod_eq_sub_mul_div]
    exact umod_eq_ofNat ..
  · exact ⟨writesReg_finish .., writesReg_finish .., writesReg_of_finish (mul_eq_ofNat ..), writesReg_finish ..,
      writesReg_finish .., writesReg_finish .., writesReg_finish .., writesReg_finish .., writesReg_finish ..,
      writesReg_finish .., writesReg_finish .., writesReg_finish .., writesReg_finish ..,
      writesReg_of_finish (rotateLeft_shamt ..), writesReg_of_finish (rotateRight_shamt ..),
      writesReg_of_finish (min_eq_of_toInt ..), writesReg_of_finish (max_eq_of_toInt ..),
      writesReg_of_finish (minu_eq_of_toNat ..), writesReg_of_finish (maxu_eq_of_toNat ..),
      writesReg_of_finish (flagDword_eq_ite decide_eq_true_iff),
      writesReg_of_finish ((flagDword_eq_ite decide_eq_true_iff).trans (ite_not ..)),
      writesReg_of_finish (flagDword_eq_ite BitVec.slt_iff_toInt_lt),
      writesReg_of_finish (flagDword_eq_ite (BitVec.ult_iff_lt.trans BitVec.lt_def)),
      writesReg_of_finish (flagDword_eq_ite BitVec.sle_iff_toInt_le),
      writesReg_of_finish (flagDword_eq_ite (BitVec.ule_iff_le.trans BitVec.le_def))⟩

/-! ### One-source forms (R218) -/

theorem leadingZeros_spec (x : Dword) : ∀ n : Nat, leadingZeros x n ≤ n ∧
    (∀ k, n - leadingZeros x n ≤ k → k < n → x.getLsbD k = false) ∧
    (leadingZeros x n < n → x.getLsbD (n - 1 - leadingZeros x n) = true)
  | 0 => by simp [leadingZeros]
  | n + 1 => by
    obtain ⟨hle, hzeros, hone⟩ := leadingZeros_spec x n
    rw [leadingZeros]
    split
    · rename_i hbit
      exact ⟨by omega, fun k h1 h2 => by omega, fun _ => hbit⟩
    · rename_i hbit
      refine ⟨by omega, fun k h1 h2 => ?_, fun h => ?_⟩
      · obtain rfl | hk := Nat.lt_succ_iff_lt_or_eq.mp h2 |>.symm
        · simpa using hbit
        · exact hzeros k (by omega) hk
      · rw [show n + 1 - 1 - (leadingZeros x n + 1) = n - 1 - leadingZeros x n by omega]
        exact hone (by omega)

theorem trailingZeros_spec (x : Dword) : ∀ n : Nat, n ≤ 64 → trailingZeros x n ≤ n ∧
    (∀ k, 64 - n ≤ k → k < 64 - n + trailingZeros x n → x.getLsbD k = false) ∧
    (trailingZeros x n < n → x.getLsbD (64 - n + trailingZeros x n) = true)
  | 0, _ => by simp [trailingZeros]; omega
  | n + 1, hn => by
    obtain ⟨hle, hzeros, hone⟩ := trailingZeros_spec x n (by omega)
    rw [trailingZeros]
    split
    · rename_i hbit
      exact ⟨by omega, fun k h1 h2 => by omega, fun _ => hbit⟩
    · rename_i hbit
      refine ⟨by omega, fun k h1 h2 => ?_, fun h => ?_⟩
      · obtain rfl | hk := Nat.eq_or_lt_of_le h1
        · simpa using hbit
        · exact hzeros k (by omega) (by omega)
      · rw [show 64 - (n + 1) + (trailingZeros x n + 1) = 64 - n + trailingZeros x n by omega]
        exact hone (by omega)

theorem countOnes_eq_countP (x : Dword) : ∀ n : Nat, countOnes x n = (List.range n).countP fun k => x.getLsbD k
  | 0 => rfl
  | n + 1 => by
    rw [countOnes, countOnes_eq_countP x n, List.range_succ, List.countP_append, List.countP_singleton, b2n]
    omega

theorem byte_zero_append {m : Nat} (u : BitVec m) (y : Byte) : (u ++ y).extractLsb' (8 * 0) 8 = y := by
  rw [BitVec.extractLsb'_append_eq_of_add_le (by omega)]
  exact BitVec.extractLsb'_eq_self

theorem byte_succ_append {m : Nat} (u : BitVec m) (y : Byte) (k : Nat) :
    (u ++ y).extractLsb' (8 * (k + 1)) 8 = u.extractLsb' (8 * k) 8 :=
  BitVec.extractLsb'_append_eq_of_le (by omega)

theorem extractLsb'_byteSwap (x : Dword) {k : Nat} (hk : k < 8) :
    (byteSwap x).extractLsb' (8 * k) 8 = x.extractLsb' (8 * (7 - k)) 8 := by
  unfold byteSwap
  iterate 7
    obtain _ | k := k
    · exact byte_zero_append ..
    refine (byte_succ_append ..).trans ?_
  obtain rfl : k = 0 := by omega
  exact BitVec.extractLsb'_eq_self

theorem zext32_eq_ofNat (x : Dword) : (x.setWidth 32).setWidth 64 = BitVec.ofNat 64 (x.toNat % 2 ^ 32) := by
  apply BitVec.eq_of_toNat_eq
  simp

/-- Settles O7: each form by its value. -/
theorem oneSourceForms : Obligations.OneSourceForms := by
  unfold Obligations.OneSourceForms
  intro d a b v l s
  dsimp only
  obtain ⟨hclz, hclzZeros, hclzOne⟩ := leadingZeros_spec (s.reg a) 64
  obtain ⟨hctz, hctzZeros, hctzOne⟩ := trailingZeros_spec (s.reg a) 64 le_rfl
  refine ⟨fun k hk => ?_, fun k hk hb => ?_, ⟨_, writesReg_finish .., hclz, fun k hk => ?_, hclzOne⟩,
    ⟨_, writesReg_finish .., hctz, fun k hk => ?_, fun h => ?_⟩, writesReg_of_finish ?_, writesReg_finish ..,
    writesReg_finish .., writesReg_finish .., writesReg_of_finish (zext32_eq_ofNat _),
    ⟨_, writesReg_finish .., fun k hk => extractLsb'_byteSwap _ hk⟩⟩
  · rw [decode_int (by omega)]
    interval_cases k <;> rfl
  · rw [decode_int (by omega)]
    interval_cases k <;> exact if_neg (by simpa using hb)
  · obtain h | h := Nat.lt_or_ge k 64
    · exact hclzZeros k hk h
    · exact BitVec.getLsbD_of_ge _ _ h
  · exact hctzZeros k (by omega) (by omega)
  · simpa using hctzOne h
  · exact congrArg _ (countOnes_eq_countP ..)

/-! ### Immediate and literal forms (R219 to R221) -/

theorem sx_eq_ofInt {w : Nat} (x : BitVec w) : sx x = BitVec.ofInt 64 x.toInt := rfl

theorem sx_shiftLeft_eq_ofInt (j : BitVec 19) : sx j <<< 13 = BitVec.ofInt 64 (j.toInt * 2 ^ 13) := by
  rw [BitVec.ofInt_mul, ← sx_eq_ofInt, BitVec.shiftLeft_eq_mul_twoPow]
  rfl

theorem append_low_eq_ofNat (l : Word) (x : Dword) :
    l ++ x.setWidth 32 = BitVec.ofNat 64 (l.toNat * 2 ^ 32 + x.toNat % 2 ^ 32) := by
  have hl := l.isLt
  have hx := Nat.mod_lt x.toNat (Nat.two_pow_pos 32)
  apply BitVec.eq_of_toNat_eq
  rw [BitVec.toNat_append, BitVec.toNat_setWidth, ← Nat.shiftLeft_add_eq_or_of_lt hx, Nat.shiftLeft_eq, BitVec.toNat_ofNat]
  exact (Nat.mod_eq_of_lt (by omega)).symm

/-- What the table of the 96-bit class makes of the literal forms: their second word holds WID, and bits that are reserved, as
the upper bits of the first are; `li` and `lih` have no sa (R204, R221). -/
theorem decode_long {m : Nat} (hm : m < 3) (h : BitVec 14) (d a : Reg) (v l : Word) :
    decode (BitVec.ofNat 32 (h.toNat * 0x40000 + a.toNat * 0x2000 + d.toNat * 0x100 + m * 4 + 3)) v l =
      if v.toNat % 8 ≠ 0 then .error .illegal
      else unlessReserved (h.toNat == 0 && v.toNat / 8 == 0 && (m == 2 || a == 0))
        (match m with
          | 0 => .li d l
          | 1 => .lih d l
          | _ => .addli d a l) := by
  have hv := v.isLt
  have hwid : (v.extractLsb' 0 3).toNat = v.toNat % 8 := by simp
  have hrest : (v.extractLsb' 3 29).toNat = v.toNat / 8 := by
    rw [BitVec.extractLsb'_toNat, Nat.shiftRight_eq_div_pow]
    omega
  refine decode_literal (by omega) fun w hmajor hd ha hh => ?_
  interval_cases m <;> simp [decode96, hmajor, hd, ha, hh, hwid, hrest]

/-- Settles O8: each form by its word and its value. -/
theorem immediateForms : Obligations.ImmediateForms := by
  unfold Obligations.ImmediateForms
  intro d a i n j w l s
  simp only [classB_eq_encB, classJ_eq_encJ]
  refine ⟨?_, ?_, ?_, ?_, ?_, ?_, ?_, ?_, ?_, ?_, fun hi m hlo hhi => ?_, fun ha => ⟨?_, ?_⟩, ?_,
    fun m hm => ⟨fun hw => ?_, fun hw hres => ?_⟩,
    writesReg_finish .., writesReg_finish .., writesReg_finish .., writesReg_finish .., writesReg_finish ..,
    writesReg_finish .., writesReg_finish .., writesReg_of_finish (flagDword_eq_ite BitVec.slt_iff_toInt_lt),
    writesReg_of_finish (flagDword_eq_ite (BitVec.ult_iff_lt.trans BitVec.lt_def)),
    writesReg_of_finish (sx_shiftLeft_eq_ofInt _), writesReg_of_finish (sx_eq_ofInt _),
    writesReg_of_finish (append_low_eq_ofNat ..), writesReg_of_finish (congrArg _ (sx_eq_ofInt _))⟩
  · exact decode_of_encode (i := .addi d a i) rfl rfl w l
  · exact decode_of_encode (i := .andi d a i) rfl rfl w l
  · exact decode_of_encode (i := .ori d a i) rfl rfl w l
  · exact decode_of_encode (i := .xori d a i) rfl rfl w l
  · exact decode_of_encode (i := .slli d a n) rfl rfl w l
  · exact decode_of_encode (i := .srli d a n) rfl rfl w l
  · exact decode_of_encode (i := .srai d a n) rfl rfl w l
  · exact decode_of_encode (i := .slti d a i) rfl rfl w l
  · exact decode_of_encode (i := .sltui d a i) rfl rfl w l
  · exact decode_of_encode (i := .lui d j) rfl rfl w l
  · have hlong : ¬ i.toNat < 64 := hi.not_gt
    refine decode_encB (by omega) (fun _ hm hd ha hi _ => ?_) ..
    interval_cases m <;> simp [decodeB, hm, hi, hlong, unlessReserved]
  · subst ha
    exact decode_long (m := 0) (by decide) 0 d 0 0 l
  · subst ha
    exact decode_long (m := 1) (by decide) 0 d 0 0 l
  · exact decode_long (m := 2) (by decide) 0 d a 0 l
  · rw [decode_long hm, if_pos hw]
  · rw [decode_long hm, if_neg (not_not.mpr hw), unlessReserved, if_neg]
    rw [Bool.and_eq_true, Bool.and_eq_true, Bool.or_eq_true, beq_iff_eq, beq_iff_eq, beq_iff_eq, beq_iff_eq]
    rintro ⟨⟨hi, hwhigh⟩, hma⟩
    obtain hres | hres | ⟨hm2, ha⟩ := hres
    · exact hres (BitVec.eq_of_toNat_eq hi)
    · exact hres (BitVec.eq_of_toNat_eq (show w.toNat = 0 by omega))
    · exact hma.elim hm2 ha

end Sys2Proof.Claims
end

section
/-!
# Exceptions (O6, O16 to O19)

Every word of the frame reads back (`trapRd_enterTrap_frame`); the statements about a cause taken are that and
`traps_enterTrap`. O6 fails for an atomic with KD set among the unfinished instructions, a state that no step reaches.
-/

namespace Sys2Proof.Claims
open Sys2Proof.Machine

/-! ### The frame -/

/-- The eight words at the start of the trap area (R316). -/
def frameWords (s : State) (t : Trap) (k : Option Nat) (rest : List (List Nat)) : List Nat :=
  [(s.replayQueue k rest).length * 2 ^ 10 + b2n (s.core.clerk.mode = .supervisor) * 2 ^ 9 + b2n t.async * 2 ^ 8 +
    t.cause % 256, t.addr % 2 ^ 48, t.fpc.toNat, t.rpc.toNat, t.detail % 2 ^ 64, 0, 0, 0]

theorem length_frameWords (s : State) (t : Trap) (k : Option Nat) (rest : List (List Nat)) :
    (frameWords s t k rest).length = 8 := rfl

/-- The words of the frame read back: the replay queue is written behind them. -/
theorem trapRd_enterTrap_frame {s : State} (t : Trap) (k : Option Nat) (rest : List (List Nat)) {i : Nat}
    (hwf : Memory.wf s.mem = true) (hfrozen : s.core.clerk.frozen = false) (hi : i < (frameWords s t k rest).length) :
    (s.enterTrap t k rest).trapRd (0 + 8 * i) 8 = (frameWords s t k rest)[i] % 2 ^ 64 := by
  unfold State.enterTrap
  simp only [hfrozen, Bool.false_eq_true, if_false]
  generalize hframe : [_, _, _, _, t.detail % 2 ^ 64, (0 : Nat), 0, 0] = frame
  generalize List.take 64 _ = queue
  obtain rfl : frameWords s t k rest = frame := hframe
  have hdrained : Memory.wf (s.updClerk Clerk.drain).mem = true := hwf
  change (((s.updClerk Clerk.drain).trapWords 0 _).trapWords 0x40 queue).trapRd (0 + 8 * i) 8 = _
  rw [length_frameWords] at hi
  rw [State.trapRd_trapWords_other _ _ _ _ _ (State.trapWords_wf _ _ _ hdrained) (.inl (by omega)),
    State.trapRd_trapWords _ 0 i _ hdrained (hi.trans_eq (length_frameWords ..).symm)]

theorem trapRd_enterTrap_addr {s : State} (t : Trap) (k : Option Nat) (rest : List (List Nat))
    (hwf : Memory.wf s.mem = true) (hfrozen : s.core.clerk.frozen = false) :
    (s.enterTrap t k rest).trapRd 8 8 = t.addr % 2 ^ 48 :=
  (trapRd_enterTrap_frame t k rest (i := 1) hwf hfrozen (by simp [length_frameWords])).trans
    (Nat.mod_eq_of_lt (show t.addr % 2 ^ 48 < 2 ^ 64 by omega))

theorem trapRd_enterTrap_fpc {s : State} (t : Trap) (k : Option Nat) (rest : List (List Nat))
    (hwf : Memory.wf s.mem = true) (hfrozen : s.core.clerk.frozen = false) :
    (s.enterTrap t k rest).trapRd 16 8 = t.fpc.toNat :=
  (trapRd_enterTrap_frame t k rest (i := 2) hwf hfrozen (by simp [length_frameWords])).trans
    (Nat.mod_eq_of_lt (show t.fpc.toNat < 2 ^ 64 by omega))

theorem trapRd_enterTrap_rpc {s : State} (t : Trap) (k : Option Nat) (rest : List (List Nat))
    (hwf : Memory.wf s.mem = true) (hfrozen : s.core.clerk.frozen = false) :
    (s.enterTrap t k rest).trapRd 24 8 = t.rpc.toNat :=
  (trapRd_enterTrap_frame t k rest (i := 3) hwf hfrozen (by simp [length_frameWords])).trans
    (Nat.mod_eq_of_lt (show t.rpc.toNat < 2 ^ 64 by omega))

theorem length_replayQueue (s : State) (k : Option Nat) (rest : List (List Nat)) :
    (s.replayQueue k rest).length = min 16 ((s.core.clerk.unfin.filter fun x => x.done.isNone).length +
      s.core.clerk.redoEntries.length + rest.length) := by
  have hnumbered : (s.core.clerk.unfin.zipIdx.filter fun p => p.1.done.isNone).length =
      (s.core.clerk.unfin.filter fun x => x.done.isNone).length := by
    conv_rhs => rw [← List.zipIdx_map_fst 0 s.core.clerk.unfin, List.filter_map, List.length_map]
    rfl
  simp only [State.replayQueue, List.length_take, List.length_append, List.length_map, hnumbered]

/-- Word 0 of the frame: the number of replay entries, the former mode and the cause. -/
theorem trapRd_enterTrap_head {s : State} (t : Trap) (k : Option Nat) (rest : List (List Nat))
    (hwf : Memory.wf s.mem = true) (hfrozen : s.core.clerk.frozen = false) :
    (s.enterTrap t k rest).trapRd 0 8 = (s.replayQueue k rest).length * 2 ^ 10 +
      b2n (s.core.clerk.mode = .supervisor) * 2 ^ 9 + b2n t.async * 2 ^ 8 + t.cause % 256 := by
  have hbit : ∀ b : Bool, b2n b ≤ 1 := by decide
  have hbound : ∀ q m a c : Nat, q ≤ 16 → m ≤ 1 → a ≤ 1 →
      (q * 2 ^ 10 + m * 2 ^ 9 + a * 2 ^ 8 + c % 256) % 2 ^ 64 = q * 2 ^ 10 + m * 2 ^ 9 + a * 2 ^ 8 + c % 256 := by
    intro q m a c hq hm ha
    omega
  exact (trapRd_enterTrap_frame t k rest (i := 0) hwf hfrozen (by simp [length_frameWords])).trans
    (hbound _ _ _ _ (length_replayQueue s k rest ▸ Nat.min_le_left ..) (hbit _) (hbit _))

/-- Settles O17: the clerk by `enterTrap_spec`, the frame word by word. -/
theorem takingAnException : Obligations.TakingAnException := by
  unfold Obligations.TakingAnException
  intro s t k rest hwf hfrozen
  dsimp only
  have hasync : b2n t.async * 2 ^ 8 = if t.async then 256 else 0 := by cases t.async <;> rfl
  have hmode : b2n (s.core.clerk.mode = .supervisor) * 2 ^ 9 = if s.core.clerk.mode = .supervisor then 512 else 0 := by
    cases s.core.clerk.mode <;> rfl
  refine ⟨?_, ?_, ?_, ?_, ?_, ?_, ?_, trapRd_enterTrap_addr t k rest hwf hfrozen, trapRd_enterTrap_fpc t k rest hwf hfrozen,
    trapRd_enterTrap_rpc t k rest hwf hfrozen, trapRd_enterTrap_detail t k rest hwf hfrozen⟩
  case refine_7 => rw [trapRd_enterTrap_head t k rest hwf hfrozen, length_replayQueue, hasync, hmode]
  all_goals
    obtain ⟨m, p, henter, -⟩ := s.enterTrap_spec t k rest hfrozen
    rw [henter]
  case refine_5 => exact congrArg (fun n => BitVec.ofNat 64 (n + t.cause % 256)) hasync

/-! ### A second cause -/

/-- Settles O18: the cause goes to `State.doubleHalt`, with and without a task. -/
theorem secondCauseHalts : Obligations.SecondCauseHalts := by
  unfold Obligations.SecondCauseHalts
  intro s t k rest hfrozen
  have henter : s.enterTrap t k rest = s.doubleHalt t.cause t.addr := if_pos hfrozen
  rw [henter, State.doubleHalt]
  exact ⟨fun hnone => by simp [hnone], fun key hkey => by simp [hkey]⟩

/-! ### Causes that software takes -/

/-- A software cause stands in no replay entry: with nothing unfinished and none to perform again the queue is empty. -/
theorem trapRd_trapPlain_head {s : State} (cause addr detail : Nat) (fpc rpc : BitVec 48) (hwf : Memory.wf s.mem = true)
    (hfrozen : s.core.clerk.frozen = false) (hredo : s.core.clerk.redo = none) (hnil : s.core.clerk.unfin = []) :
    (s.trapPlain cause addr detail fpc rpc).trapRd 0 8 / 2 ^ 10 = 0 := by
  have hqueue : (s.replayQueue none []).length = 0 := by simp [length_replayQueue, hnil, Clerk.redoEntries, hredo]
  have hmode : b2n (s.core.clerk.mode = .supervisor) ≤ 1 := by cases s.core.clerk.mode <;> decide
  rw [State.trapPlain, trapRd_enterTrap_head ⟨cause, addr, detail, false, fpc, rpc⟩ none [] hwf hfrozen, hqueue]
  simp only [show b2n false = 0 from rfl]
  omega

theorem traps_trapPlain {s : State} {cause : Nat} (addr detail : Nat) (fpc rpc : BitVec 48) (hcause : cause < 256)
    (hfrozen : s.core.clerk.frozen = false) :
    Traps s (.next (s.trapPlain cause addr detail fpc rpc)) cause (addr % 2 ^ 48) :=
  traps_enterTrap hfrozen ⟨cause, addr, detail, false, fpc, rpc⟩ none []
    (by rw [show b2n false = 0 from rfl]; dsimp only; omega)

theorem nextPc_of_none {s : State} (n : Nat) (hredo : s.core.clerk.redo = none) :
    s.nextPc n = s.core.clerk.pc + BitVec.ofNat 48 n := by
  rw [State.nextPc, hredo]

/-- Settles O19: `trap` and `brk` are their causes, taken with the next PC as resume PC. -/
theorem softwareTraps : Obligations.SoftwareTraps := by
  unfold Obligations.SoftwareTraps
  intro n s hwf hfrozen hredo
  have hdetail : n.toNat % 2 ^ 64 = n.toNat := Nat.mod_eq_of_lt (by omega)
  have hpc : s.core.clerk.pc.toNat % 2 ^ 48 = s.core.clerk.pc.toNat := Nat.mod_eq_of_lt s.core.clerk.pc.isLt
  refine ⟨⟨_, rfl, traps_trapPlain 0 _ _ _ (by decide) hfrozen, ?_, trapRd_enterTrap_fpc _ none [] hwf hfrozen, ?_,
    trapRd_trapPlain_head _ _ _ _ _ hwf hfrozen hredo⟩, ⟨_, rfl, ?_, ?_, trapRd_enterTrap_fpc _ none [] hwf hfrozen, ?_,
    trapRd_trapPlain_head _ _ _ _ _ hwf hfrozen hredo⟩⟩
  · exact (trapRd_enterTrap_detail _ none [] hwf hfrozen).trans hdetail
  · exact (trapRd_enterTrap_rpc _ none [] hwf hfrozen).trans (congrArg _ (nextPc_of_none 4 hredo))
  · have htraps := traps_trapPlain s.core.clerk.pc.toNat 0 s.core.clerk.pc (s.nextPc 4) (cause := 0x12) (by decide) hfrozen
    rwa [hpc] at htraps
  · exact trapRd_enterTrap_detail _ none [] hwf hfrozen
  · exact (trapRd_enterTrap_rpc _ none [] hwf hfrozen).trans (congrArg _ (nextPc_of_none 4 hredo))

/-! ### Privilege -/

/-- A cause at the PC of an instruction, with the PC as its address. -/
theorem traps_atPc {s : State} (i : Instr) (d : Reg) (ea : Nat) (b : Dword) {cause : Nat} (hcause : cause < 256)
    (hfrozen : s.core.clerk.frozen = false) :
    Traps s (.next (s.trapInstr i d ea b ⟨cause, s.core.clerk.pc.toNat, 0⟩)) cause s.core.clerk.pc.toNat := by
  have htraps := traps_trapInstr (s := s) i d ea b (f := ⟨cause, s.core.clerk.pc.toNat, 0⟩) hcause hfrozen
  rwa [Nat.mod_eq_of_lt s.core.clerk.pc.isLt] at htraps

theorem privileged_of_task {s : State} (i : Instr) (f : State → State) (hmode : s.core.clerk.mode = .task) :
    s.privileged i f = s.trapInstr i 0 0 0 ⟨0x1C, s.core.clerk.pc.toNat, 0⟩ := if_pos hmode

theorem privileged_of_supervisor {s : State} (i : Instr) (f : State → State) (hmode : s.core.clerk.mode = .supervisor) :
    s.privileged i f = f s := if_neg (by simp [hmode])

/-- The numbers of the supervisor registers. -/
theorem sysreg_supervisor {n : BitVec 10} (h : n ∈ ([0x100, 0x101, 0x102, 0x103, 0x104, 0x105] : List (BitVec 10)))
    (s : State) : 0x100 ≤ n.toNat ∧ ∃ v, s.sysreg n.toNat = some v := by
  simp only [List.mem_cons, List.not_mem_nil, or_false] at h
  obtain rfl | rfl | rfl | rfl | rfl | rfl := h <;> exact ⟨by decide, _, rfl⟩

/-- Settles O16: every one of them answers the cause before it does anything. -/
theorem taskModePrivilege : Obligations.TaskModePrivilege := by
  unfold Obligations.TaskModePrivilege
  intro i s hmode hfrozen hi
  have htask : s.taskMode = true := decide_eq_true hmode
  obtain rfl | rfl | rfl | ⟨d, n, hi, hn⟩ := hi
  · change Traps s (.next (s.privileged .trapret _)) _ _
    rw [privileged_of_task _ _ hmode]
    exact traps_atPc _ _ _ _ (by decide) hfrozen
  · change Traps s (.next (s.privileged .tack _)) _ _
    rw [privileged_of_task _ _ hmode]
    exact traps_atPc _ _ _ _ (by decide) hfrozen
  · change Traps s (.next (s.privileged .halt _)) _ _
    rw [privileged_of_task _ _ hmode]
    exact traps_atPc _ _ _ _ (by decide) hfrozen
  · obtain ⟨hhigh, v, hread⟩ := sysreg_supervisor hn s
    have hguard : (decide (0x100 ≤ n.toNat) && s.taskMode) = true := by simp [hhigh, htask]
    obtain rfl | rfl := hi
    · change Traps s (execMfs d n s) _ _
      simp only [execMfs, hread, hguard, if_true]
      exact traps_atPc _ _ _ _ (by decide) hfrozen
    · change Traps s (execMts n d s) _ _
      simp only [execMts, hguard, if_true]
      exact traps_atPc _ _ _ _ (by decide) hfrozen

/-! ### Division -/

/-- A finished atomic with the KD bit that no decoded atomic has. It writes scalar register 5. -/
def oddAtomic : Unfin :=
  { op := 0, func := 0, w1 := 0, pc := 0, kd := true, dest := 5, ea := 0, b := 0, c := 0, canon := 0,
    work := .atomic .add (.ctrl 0) 0 0 ⟨.rlx, .m, true⟩, done := some 7, port := none, lost := false, behind := false,
    unchecked := false }

/-- The state after reset, with that atomic unfinished. -/
def oddState : State := State.reset.updClerk fun c => { c with unfin := [oddAtomic] }

theorem reg_div_oddState : ∃ t, exec (.div 1 2 3) oddState = .next t ∧ t.reg 5 = 7 := by
  have hexec : exec (.div 1 2 3) oddState = .next (oddState.trapInstr (.div 1 2 3) 1 0 0 ⟨0x0A, 0, 0⟩) := rfl
  refine ⟨_, hexec, ?_⟩
  obtain ⟨m, p, henter, -⟩ := (trapEntry oddState (.div 1 2 3) 1 0 0).enterTrap_spec
    ⟨0x0A, 0, 0, false, oddState.core.clerk.pc, oddState.nextPc 4⟩ (some 1) [] rfl
  have htrap : oddState.trapInstr (.div 1 2 3) 1 0 0 ⟨0x0A, 0, 0⟩ = (trapEntry oddState (.div 1 2 3) 1 0 0).enterTrap
    ⟨0x0A, 0, 0, false, oddState.core.clerk.pc, oddState.nextPc 4⟩ (some 1) [] := rfl
  rw [htrap, henter]
  rfl

/-- Refutes O6: its last clause asks an instruction with KD set to write no scalar register, but an atomic writes its
destination whatever its KD bit (`Clerk.complete`): with `oddAtomic` finished, the trap of a zero divisor gives register
5 the value 7. (No decoded atomic has KD set: the state is none that the machine reaches.) -/
theorem not_division : ¬ Obligations.Division := by
  unfold Obligations.Division
  intro h
  obtain ⟨-, -, -, -, hzero⟩ := h 1 2 3 oddState
  obtain ⟨-, -, -, -, hkeeps⟩ := hzero rfl rfl
  obtain ⟨t, hexec, -, hregs⟩ := hkeeps (.div 1 2 3) (List.mem_cons_self ..)
  obtain ⟨u, hexec', hwritten⟩ := reg_div_oddState
  obtain rfl : t = u := Host.Outcome.next.inj (hexec.symm.trans hexec')
  have hkept : t.reg 5 = oddState.reg 5 := hregs 5 fun u hu => by
    obtain rfl : u = oddAtomic := List.mem_singleton.mp hu
    exact .inl rfl
  exact absurd (hwritten.symm.trans hkept) (by decide)

end Sys2Proof.Claims
end

section
/-!
# Control flow and system instructions (O1, O9, O10, O14, O20, O21, O28)

A branch or jump writes the PC through `Clerk.setPc`, which drops bits 1:0; an aligned PC has an aligned target
(`target_aligned`), so nothing is lost.
-/

namespace Sys2Proof.Claims
open Sys2Proof.Machine

/-- Settles O1: each word by evaluation of the decoder. -/
theorem decodedWords : Obligations.DecodedWords := by
  unfold Obligations.DecodedWords
  exact ⟨rfl, rfl, rfl, rfl, rfl, rfl, rfl, rfl, rfl, rfl, rfl, rfl, rfl, rfl⟩

/-! ### Targets (R226, R227) -/

/-- Writing the PC drops bits 1:0, which an aligned target has not. -/
theorem setPc_of_aligned {v : BitVec 48} (c : Clerk) (hv : v.toNat % 4 = 0) : c.setPc v = { c with pc := v } := by
  have hlow : ∀ i < 2, v.getLsbD i = false := by
    intro i hi
    rw [BitVec.getLsbD, Nat.testBit_eq_decide_div_mod_eq]
    interval_cases i <;> simp <;> omega
  have hmask : v &&& ~~~3 = v := by
    refine BitVec.eq_of_getLsbD_eq fun i hi => ?_
    by_cases h2 : i < 2
    · simp [hlow i h2]
    · have hthree : (3 : BitVec 48).getLsbD i = false :=
        Nat.testBit_lt_two_pow (Nat.lt_of_lt_of_le (by decide : 3 < 2 ^ 2) (Nat.pow_le_pow_right (by decide) (by omega)))
      rw [BitVec.getLsbD_and, BitVec.getLsbD_not, hthree]
      simp [hi]
  rw [Clerk.setPc, hmask]

/-- A target is the PC plus four times the signed offset. -/
theorem target_eq (s : State) {w : Nat} (off : BitVec w) :
    s.target off = s.core.clerk.pc + BitVec.ofInt 48 (4 * off.toInt) := by
  have hoffset : off.signExtend 46 ++ (0 : BitVec 2) = BitVec.ofInt 48 (4 * off.toInt) := by
    refine BitVec.eq_of_toNat_eq ?_
    rw [BitVec.toNat_append, show (0 : BitVec 2).toNat = 0 from rfl, Nat.or_zero, Nat.shiftLeft_eq, BitVec.signExtend,
      BitVec.toNat_ofInt, BitVec.toNat_ofInt]
    omega
  rw [State.target, hoffset]

theorem target_aligned {s : State} {w : Nat} (off : BitVec w) (hpc : s.core.clerk.pc.toNat % 4 = 0) :
    (s.target off).toNat % 4 = 0 := by
  rw [target_eq, BitVec.toNat_add, BitVec.toNat_ofInt]
  omega

/-- A branch sets the PC to its target or goes on. -/
theorem onlyPc_branchOp {s : State} {taken : Dword → Dword → Bool} {a b : Reg} (off : BitVec 14) {c : Prop} [Decidable c]
    (hpc : s.core.clerk.pc.toNat % 4 = 0) (htaken : taken (s.reg a) (s.reg b) = true ↔ c) :
    OnlyPc s (branchOp taken a b off s)
      (if c then s.core.clerk.pc + BitVec.ofInt 48 (4 * off.toInt) else s.core.clerk.pc + 4) := by
  by_cases hc : c
  · rw [branchOp, if_pos (htaken.mpr hc), if_pos hc, OnlyPc, State.setPc, State.updClerk,
      setPc_of_aligned _ (target_aligned off hpc), target_eq]
  · rw [branchOp, if_neg (mt htaken.mp hc), if_neg hc]
    rfl

/-- Settles O9: the encodings from O2, each branch by its condition. -/
theorem conditionalBranches : Obligations.ConditionalBranches := by
  unfold Obligations.ConditionalBranches
  intro a b off v l s hpc
  dsimp only
  refine ⟨fun k hk => ?_, ?_, ?_, ?_, ?_, ?_, ?_⟩
  · have hdecode : ∀ i : Instr, encode i = [classB off a b (0x15 + k)] → i.wf = true →
        some (decode (classB off a b (0x15 + k)) v l) = some (.ok i) :=
      fun i henc hwf => congrArg some (decode_of_encode henc hwf v l)
    interval_cases k <;> exact hdecode _ rfl rfl
  · exact onlyPc_branchOp (taken := fun x y => x = y) off hpc decide_eq_true_iff
  · exact onlyPc_branchOp (taken := fun x y => x ≠ y) off hpc decide_eq_true_iff
  · exact onlyPc_branchOp (taken := fun x y => x.slt y) off hpc BitVec.slt_iff_toInt_lt
  · exact onlyPc_branchOp (taken := fun x y => !x.slt y) off hpc (by rw [← BitVec.sle_eq_not_slt, BitVec.sle_iff_toInt_le])
  · exact onlyPc_branchOp (taken := fun x y => x.ult y) off hpc BitVec.ult_iff_lt
  · exact onlyPc_branchOp (taken := fun x y => !x.ult y) off hpc (by rw [← BitVec.ule_eq_not_ult, BitVec.ule_iff_le, BitVec.le_def])

theorem extractLsb'_eq_zero_iff (t : Dword) (k n : Nat) : t.extractLsb' k n = 0 ↔ t.toNat / 2 ^ k % 2 ^ n = 0 := by
  rw [← BitVec.toNat_inj, BitVec.extractLsb'_toNat, Nat.shiftRight_eq_div_pow]
  rfl

/-- `jalr` checks the low bits of its target, then the high ones. -/
theorem exec_jalr (d a : Reg) (k : BitVec 14) (s : State) : exec (.jalr d a k) s =
    let t := s.reg a + k.signExtend 64
    if t.toNat % 4 ≠ 0 then .next (s.trapInstr (.jalr d a k) d t.toNat 0 ⟨0x03, t.toNat, 0⟩)
    else if 2 ^ 48 ≤ t.toNat then .next (s.trapInstr (.jalr d a k) d t.toNat 0 ⟨0x04, t.toNat, 9⟩)
    else .next ((s.setReg d ((s.core.clerk.pc + 4).setWidth 64)).setPc (t.setWidth 48)) := by
  have hlow : ∀ t : Dword, (t.extractLsb' 0 2 != 0) = true ↔ t.toNat % 4 ≠ 0 := fun t => by
    rw [bne_iff_ne, ne_eq, extractLsb'_eq_zero_iff, Nat.pow_zero, Nat.div_one]
    exact Iff.rfl
  have hhigh : ∀ t : Dword, (t.extractLsb' 48 16 != 0) = true ↔ 2 ^ 48 ≤ t.toNat := fun t => by
    rw [bne_iff_ne, ne_eq, extractLsb'_eq_zero_iff]
    omega
  change execJalr d a k s = _
  simp only [execJalr, sx, hlow, hhigh]

/-- Settles O10: `jalr` by its checks in order, and the link of each as written before the PC. -/
theorem jumps : Obligations.Jumps := by
  unfold Obligations.Jumps
  intro d a i k s hpc
  dsimp only
  rw [exec_jalr]
  dsimp only
  generalize s.reg a + k.signExtend 64 = t
  refine ⟨?_, fun hlow hhigh => ?_, fun hlow hfrozen => ?_, fun hlow hhigh hfrozen => ?_⟩
  · refine congrArg Host.Outcome.next ?_
    rw [State.setPc, ← target_eq]
    simp only [setPc_of_aligned _ (target_aligned i hpc)]
  · rw [if_neg (not_not.mpr hlow), if_neg (Nat.not_le.mpr hhigh), State.setPc]
    have haligned : (t.setWidth 48).toNat % 4 = 0 := by
      rw [BitVec.toNat_setWidth]
      omega
    simp only [setPc_of_aligned _ haligned]
  · rw [if_pos hlow]
    exact traps_trapInstr _ _ _ _ (show 0x03 < 256 by decide) hfrozen
  · rw [if_neg (not_not.mpr hlow), if_pos hhigh]
    exact traps_trapInstr _ _ _ _ (show 0x04 < 256 by decide) hfrozen

/-! ### System registers (R207, R319) -/

/-- A register that the mode may name is read. -/
theorem writesReg_mfs {s : State} {d : Reg} {n : BitVec 10} {v : Dword} (hread : s.sysreg n.toNat = some v)
    (hname : MayName s n) : WritesReg s (exec (.mfs d n) s) d v 4 := by
  have hguard : ¬ (0x100 ≤ n.toNat && s.taskMode) = true := by
    obtain hlow | hmode := hname
    · simp [Nat.not_le.mpr hlow]
    · simp [State.taskMode, hmode]
  change WritesReg s (execMfs d n s) d v 4
  simp only [execMfs, hread, hguard]
  exact writesReg_finish ..

/-- The fields of STATUS (R319). -/
theorem status_fields {c : Clerk} (hmode : c.mode = .supervisor) : c.status.getLsbD 0 = true ∧
    c.status.getLsbD 1 = c.frozen ∧ c.status.getLsbD 2 = false ∧ c.status.getLsbD 3 = !c.pend.isEmpty ∧
    c.status.getLsbD 4 = c.sstep ∧ c.status >>> 5 = 0 := by
  rw [Clerk.status, hmode]
  cases c.sstep <;> cases c.pend.isEmpty <;> cases c.frozen <;> decide

/-- Settles O14: each number names its register. -/
theorem systemRegisterReads : Obligations.SystemRegisterReads := by
  unfold Obligations.SystemRegisterReads
  intro d s
  dsimp only
  have hlow : ∀ n : BitVec 10, n.toNat < 0x100 → MayName s n := fun n h => .inl h
  refine ⟨writesReg_mfs rfl (hlow _ (by decide)), writesReg_mfs rfl (hlow _ (by decide)), writesReg_mfs rfl (hlow _ (by decide)),
    writesReg_mfs rfl (hlow _ (by decide)), writesReg_mfs rfl (hlow _ (by decide)), fun hmode => ?_⟩
  have hname : ∀ n, MayName s n := fun n => .inr hmode
  exact ⟨⟨_, writesReg_mfs rfl (hname _), status_fields hmode⟩, writesReg_mfs rfl (hname _), writesReg_mfs rfl (hname _),
    writesReg_mfs rfl (hname _), writesReg_mfs rfl (hname _), writesReg_mfs rfl (hname _)⟩

/-! ### Return from an exception (R320) -/

/-- A replay of no entries keeps the clerk, but for what its requests were kept for. -/
theorem clerk_replay_nil (s : State) (rpc : BitVec 48) : ∃ kept,
    (s.replay rpc []).core.clerk = { s.core.clerk with kept := kept } := by
  rw [State.replay]
  by_cases hmode : s.core.clerk.mode = .task
  · exact ⟨[], if_pos hmode⟩
  · exact ⟨_, if_neg hmode⟩

/-- The records of the return are memory's, and what it sends out again is the fabric's. -/
theorem clerk_of_reissued {s : State} (f : Clerk → Clerk) (hnil : s.core.clerk.unfin = []) :
    (s.reissueStalled.clearRecords.updClerk f).core.clerk = f s.core.clerk := by
  have hnotified : s.reissueStalled.clearRecords.core.clerk.unfin = s.core.clerk.unfin := by
    change notifyFrom _ _ _ [] s.core.clerk.unfin = _
    rw [hnil]
    rfl
  have hclerk : s.reissueStalled.clearRecords.core.clerk =
      { s.core.clerk with unfin := s.reissueStalled.clearRecords.core.clerk.unfin } := rfl
  rw [hnotified] at hclerk
  exact congrArg f hclerk

theorem mode_of_bit (p : Prop) [Decidable p] :
    (if (!decide p) = true then Mode.task else Mode.supervisor) = if p then .supervisor else .task := by
  by_cases hp : p <;> simp [hp]

/-- Settles O20: with no entry to perform again, the return is what the frame records. -/
theorem returnFromException : Obligations.ReturnFromException := by
  unfold Obligations.ReturnFromException
  intro s hmode hnil hentries
  have hreturn : exec .trapret s = .next s.trapReturn := by
    change Host.Outcome.next (s.privileged .trapret _) = _
    rw [privileged_of_supervisor _ _ hmode, hnil]
    rfl
  refine ⟨_, hreturn, ?_⟩
  rw [State.trapReturn, bitsOf_eq, hentries, bitOf_eq]
  simp only [Nat.min_zero, List.range_zero, List.map_nil]
  obtain ⟨kept, hclerk⟩ := clerk_replay_nil _ _
  rw [hclerk, clerk_of_reissued]
  case hnil => exact hnil
  refine ⟨rfl, ?_, rfl, rfl, rfl, rfl, rfl, ?_⟩
  · exact mode_of_bit _
  · exact hnil

/-! ### The other system instructions (R237, R250, R255) -/

/-- Settles O21: each in its model equation, by what it waits for. -/
theorem systemInstructions : Obligations.SystemInstructions := by
  unfold Obligations.SystemInstructions
  intro k a b scope s
  refine ⟨rfl, rfl, fun h => if_pos h, fun h => if_neg (by simp [h]), fun h => if_neg (by simp [h]), fun h => if_pos h, rfl,
    fun hmode => ⟨?_, fun hnil => ?_⟩⟩
  · exact congrArg _ (privileged_of_supervisor .tack _ hmode)
  · refine congrArg Host.Outcome.next ((privileged_of_supervisor .halt _ hmode).trans (if_pos ?_))
    rw [hnil]
    rfl

/-! ### The end of a task (R246, R247, R326) -/

/-- Settles O28: by whether the task may end, and whether the shadow storage is full. -/
theorem endingAndYielding : Obligations.EndingAndYielding := by
  unfold Obligations.EndingAndYielding
  intro k s htask
  have htend : exec .tend s = if s.mayEnd then .next (s.endTask k) else .next s := by
    change execTend s = _
    rw [execTend, htask]
  have htyield : s.core.clerk.unfin = [] → exec .tyield s =
      if s.shadowFull s.coreId then .next (s.advance 4) else .next { s.advance 4 with preempting := some .yield } := by
    intro hnil
    change execTyield s = _
    rw [execTyield, htask, hnil]
    rfl
  refine ⟨fun h => ⟨_, ?_, rfl, rfl⟩, fun h => ?_, fun hnil => ⟨fun h => ?_, fun h => ?_⟩⟩
  · rw [htend, if_pos h]
  · rw [htend, h]
    rfl
  · rw [htyield hnil, h]
    rfl
  · rw [htyield hnil, if_pos h]

end Sys2Proof.Claims
end

section
/-!
# Checks of accesses, objects and waits at issue (O13, O22, O24)

A check fails at a state which the instruction reached by filling TLBs and moving the PC (`Reaches`); the trap there is a trap of
the state at the PC (`traps_trapSrc_reached`).
-/

namespace Sys2Proof.Claims
open Sys2Proof.Machine

/-! ### A trap at issue -/

/-- From `s` to `t` only the PC and the TLBs change, as far as a trap can tell. -/
def Reaches (s t : State) : Prop :=
  (∃ pc, t.core.clerk = { s.core.clerk with pc := pc }) ∧ t.mem = s.mem ∧ t.coreId = s.coreId

theorem reaches_advance (s : State) (n : Nat) : Reaches s (s.advance n) := ⟨⟨_, rfl⟩, rfl, rfl⟩

theorem Reaches.tlbOnly {s t u : State} (h : Reaches s t) (htlb : TlbOnly t u) : Reaches s u := by
  obtain ⟨a, b, rfl⟩ := htlb
  exact h

theorem Reaches.fillRes {s t : State} (h : Reaches s t) (r : Res) : Reaches s (t.fillRes r) :=
  h.tlbOnly (tlbOnly_fillRes t r)

theorem Reaches.walked {s t : State} (h : Reaches s t) (ea : Nat) (f : Flt) : Reaches s (t.walked ea f) := by
  unfold State.walked
  split
  · exact h.tlbOnly (tlbOnly_filled ..)
  · exact h

/-- An emptied destination, scalar or command register, leaves what a trap looks at. -/
theorem emptyDest_forTrap (t : State) (x : Src) : (t.emptyDest x).coreId = t.coreId ∧
    (t.emptyDest x).core.clerk.tvec = t.core.clerk.tvec ∧ (t.emptyDest x).core.clerk.frozen = t.core.clerk.frozen ∧
    (t.emptyDest x).core.clerk.holds = t.core.clerk.holds := by
  unfold State.emptyDest State.updClerk
  dsimp only
  split
  · exact ⟨rfl, rfl, rfl, rfl⟩
  · exact ⟨rfl, Clerk.setPresent_tvec .., Clerk.setPresent_frozen .., Clerk.setPresent_holds ..⟩

/-- A cause found where the checks of an instruction stand, whatever its destination, traps from the state at its PC. -/
theorem traps_trapSrc_reached {s t : State} (hreach : Reaches s t) (x : Src) (ea : Nat) (b c : Dword) {f : Flt}
    (hcause : f.cause < 256) (hfrozen : s.core.clerk.frozen = false) :
    Traps s (.next (t.trapSrc x ea b c f)) f.cause (f.addr % 2 ^ 48) := by
  obtain ⟨⟨pc, hclerk⟩, hmem, hcore⟩ := hreach
  obtain ⟨hregs, -, -, hunfin, hmem'⟩ := emptyDest_keeps t x
  obtain ⟨hcore', htvec, hfrz, -⟩ := emptyDest_forTrap t x
  obtain ⟨p, hsent⟩ := sent_eq t (x.unfin ea b c 0 (.result 0))
  rw [State.trapSrc, State.push, hsent]
  generalize hv : (State.updClerk _ _).updClerk _ = v
  obtain ⟨kregs, ktvec, kfrozen, kunfin⟩ := notRedone_keeps { (t.emptyDest x).core.clerk with
    unfin := (t.emptyDest x).core.clerk.unfin ++ [{ x.unfin ea b c 0 (.result 0) with port := p }] } x.pc
  have hvclerk : v.core.clerk = Clerk.notRedone { (t.emptyDest x).core.clerk with
    unfin := (t.emptyDest x).core.clerk.unfin ++ [{ x.unfin ea b c 0 (.result 0) with port := p }] } x.pc := by rw [← hv]; rfl
  have hvmem : v.mem = s.mem := (show v.mem = (t.emptyDest x).mem by rw [← hv]; rfl).trans (hmem'.trans hmem)
  have hvcore : v.coreId = s.coreId := (show v.coreId = (t.emptyDest x).coreId by rw [← hv]; rfl).trans (hcore'.trans hcore)
  rw [← hvclerk] at kregs ktvec kfrozen kunfin
  have hclerkFrozen : t.core.clerk.frozen = s.core.clerk.frozen := by rw [hclerk]
  have hclerkTvec : t.core.clerk.tvec = s.core.clerk.tvec := by rw [hclerk]
  have hclerkRegs : t.core.clerk.regs = s.core.clerk.regs := by rw [hclerk]
  have hclerkUnfin : t.core.clerk.unfin = s.core.clerk.unfin := by rw [hclerk]
  obtain ⟨m, q, henter, hother⟩ := v.enterTrap_spec ⟨f.cause, f.addr % 2 ^ 48, f.detail, false, x.pc, x.rpc⟩
    (some t.core.clerk.unfin.length) x.rest (kfrozen.trans (hfrz.trans (hclerkFrozen.trans hfrozen)))
  rw [henter]
  refine ⟨_, rfl, rfl, rfl, ?_, ?_, ?_, rfl, fun hnil r => ?_, fun hwf a ha => ?_⟩
  · simp only [ktvec, htvec, hclerkTvec]
  · simp [b2n, Nat.mod_eq_of_lt hcause]
  · rw [Nat.mod_mod]
  · have hdrain : v.core.clerk.drain = v.core.clerk := Clerk.drain_none _ fun u hu => by
      rw [kunfin] at hu
      simp only [hunfin, hclerkUnfin, hnil, List.nil_append, List.mem_singleton] at hu
      rw [hu]
      rfl
    simp only [State.reg, Clerk.reg, hdrain, kregs, hregs, hclerkRegs]
  · rw [hvmem, hvcore] at hother
    exact (hother hwf).2 a ha

/-! ### Addresses of accesses (R232) -/

/-- An access whose check fails takes the cause of the check. -/
theorem traps_access {s t : State} (hreach : Reaches s t) (x : Src) (kind : AccKind) (ea n : Nat) (b c : Dword)
    (work : Place → Work) {f : Flt} (hnow : ChecksNow t (some ea)) (hcheck : t.checkAccess kind n ea = .error f)
    (hcause : f.cause < 256) (hfrozen : s.core.clerk.frozen = false) :
    Traps s (.next (t.access x kind ea n b c work)) f.cause (f.addr % 2 ^ 48) := by
  obtain ⟨hwalk, hrules⟩ := hnow
  rw [State.access, State.checked_now _ _ _ _ _ _ _ hwalk hrules, hcheck]
  exact traps_trapSrc_reached (hreach.walked ea f) x ea b c hcause hfrozen

theorem checkAccess_of_beyond (s : State) (kind : AccKind) (n : Nat) {ea : Nat} (h : 2 ^ 48 ≤ ea) :
    s.checkAccess kind n ea = .error (reasonFlt ea 9 0) := if_pos h

theorem checkAccess_of_misaligned (s : State) (kind : AccKind) {n ea : Nat} (hlt : ea < 2 ^ 48) (hmod : ea % n ≠ 0) :
    s.checkAccess kind n ea = .error ⟨0x03, ea, 0⟩ :=
  (if_neg (Nat.not_le.mpr hlt)).trans (if_pos (bne_iff_ne.mpr hmod))

/-- Settles O13: the two checks in their order, at an access of any form. -/
theorem accessAddressTraps : Obligations.AccessAddressTraps := by
  unfold Obligations.AccessAddressTraps
  intro i s x haccess hfrozen hnow
  obtain ⟨y, b, c, -, -, -, -, hexec⟩ := accessForm_exec haccess
  rw [hexec]
  refine ⟨fun hbeyond => ?_, fun hlt hmod => ?_⟩
  · have htraps := traps_access (reaches_advance s x.len) y x.kind x.ea x.n b c x.work hnow
      (checkAccess_of_beyond _ _ _ hbeyond) (show 4 < 256 by decide) hfrozen
    rwa [show (reasonFlt x.ea 9 0).addr % 2 ^ 48 = x.ea % 2 ^ 48 from Nat.mod_mod ..] at htraps
  · have htraps := traps_access (reaches_advance s x.len) y x.kind x.ea x.n b c x.work hnow
      (checkAccess_of_misaligned _ _ hlt hmod) (show 3 < 256 by decide) hfrozen
    rwa [show (⟨0x03, x.ea, 0⟩ : Flt).addr % 2 ^ 48 = x.ea from Nat.mod_eq_of_lt hlt] at htraps

/-! ### Objects (R238, R239) -/

theorem lt_of_objPlace {s : State} {ea : Nat} {r : Res} (h : s.objPlace ea = .ok r) : ea < 2 ^ 48 := by
  unfold State.objPlace at h
  split at h
  · exact absurd h (by simp)
  · omega

/-- An object that is not named in the hold list, with room in it, is asked for. -/
theorem issueAcquire_of_room {t : State} {x : Src} {ea : Nat} {r : Res} (excl : Bool) (hnow : ChecksNow t (some ea))
    (hplace : t.objPlace ea = .ok r)
    (hnone : (t.fillRes r).core.clerk.holdsNow.find? (fun h => h.obj == (t.fillRes r).canon ea) = none)
    (hroom : (t.fillRes r).core.clerk.holdsNow.length < 16) :
    t.issueAcquire x excl ea = ((t.fillRes r).push x
      (x.unfin ea 0 0 ((t.fillRes r).canon ea) (.acquire r.pl excl false))).updClerk fun c =>
        { c with holds := c.holds ++ [Hold.mk ((t.fillRes r).canon ea) r.pl excl false] } := by
  obtain ⟨hwalk, hrules⟩ := hnow
  rw [State.issueAcquire, State.checked_now _ _ _ _ _ _ _ hwalk hrules, hplace]
  dsimp only
  rw [hnone]
  exact if_neg (Nat.not_le.mpr hroom)

/-- One that is named already, or that finds the list full, is refused. -/
theorem issueAcquire_of_refused {t : State} {x : Src} {ea : Nat} {r : Res} (excl : Bool) (hnow : ChecksNow t (some ea))
    (hplace : t.objPlace ea = .ok r) (hkept : x.kept = none)
    (hrefused : (t.fillRes r).core.clerk.holdsNow.any (fun h => h.obj == (t.fillRes r).canon ea) = true ∨
      16 ≤ (t.fillRes r).core.clerk.holdsNow.length) :
    t.issueAcquire x excl ea = (t.fillRes r).trapSrc x ea 0 0 ⟨0x08, ea, 0⟩ := by
  obtain ⟨hwalk, hrules⟩ := hnow
  rw [State.issueAcquire, State.checked_now _ _ _ _ _ _ _ hwalk hrules, hplace]
  dsimp only
  split
  · rw [hkept]
    rfl
  · rename_i hnone
    refine if_pos (hrefused.resolve_left fun hany => ?_)
    obtain ⟨h, hmem, hobj⟩ := List.any_eq_true.mp hany
    exact List.find?_eq_none.mp hnone h hmem hobj

/-- A request that has issued stands in the hold list behind the others. -/
theorem issued_acquire {s t : State} (i : Instr) (d : Reg) {ea : Nat} (canon : Nat) (w : Work) (h : Hold) (hlt : ea < 2 ^ 48)
    {o : Result} (ho : o = .next ((t.push (s.src i d) ((s.src i d).unfin ea 0 0 canon w)).updClerk fun c =>
      { c with holds := c.holds ++ [h] })) :
    Issued s t o false d ea w none ∧ ∀ u, o = .next u → u.core.clerk.holds = t.core.clerk.holds ++ [h] := by
  subst ho
  obtain ⟨v, u, hv, hunfin, hwork, hdone, hpc, hkd, hdest, hea, hempty, hregs, hkregs, hpc', hmem⟩ :=
    issued_push s t i d ea 0 0 canon w
  obtain rfl := Host.Outcome.next.inj hv
  rw [Nat.mod_eq_of_lt hlt] at hea
  refine ⟨⟨_, u, rfl, hunfin, hwork, hdone, hpc, hkd, hdest, hea, hempty, hregs, hkregs, hpc', hmem⟩, fun v hv => ?_⟩
  obtain rfl := Host.Outcome.next.inj hv
  exact congrArg (· ++ [h]) (emptyDest_forTrap t (s.src i d)).2.2.2

/-- Settles O22: `acq` and `acqs` by what the hold list names, `rel` by what it shows as held. -/
theorem objectInstructions : Obligations.ObjectInstructions := by
  unfold Obligations.ObjectInstructions
  intro d a s r
  dsimp only
  have hreach := reaches_advance s 4
  have hacq : exec (.acq d a) s =
      .next ((s.advance 4).issueAcquire (s.src (.acq d a) d) true (s.reg a).toNat) := rfl
  have hacqs : exec (.acqs d a) s =
      .next ((s.advance 4).issueAcquire (s.src (.acqs d a) d) false (s.reg a).toNat) := rfl
  have hrel : exec (.rel a) s = .next ((s.advance 4).issueRelease (s.src (.rel a) 0) (s.reg a).toNat) := rfl
  rw [hacq, hacqs, hrel]
  refine ⟨fun hnow hplace => ⟨fun hall hroom => ?_, fun hrefused hfrozen => ?_⟩, fun hnow => ?_⟩
  · have hnone : ((s.advance 4).fillRes r).core.clerk.holdsNow.find?
        (fun h => h.obj == ((s.advance 4).fillRes r).canon (s.reg a).toNat) = none :=
      List.find?_eq_none.mpr fun h hmem => by
        simpa using List.all_eq_true.mp hall h hmem
    rw [issueAcquire_of_room true hnow hplace hnone hroom, issueAcquire_of_room false hnow hplace hnone hroom]
    exact ⟨issued_acquire _ _ _ _ _ (lt_of_objPlace hplace) rfl, issued_acquire _ _ _ _ _ (lt_of_objPlace hplace) rfl⟩
  · rw [issueAcquire_of_refused true hnow hplace rfl hrefused, issueAcquire_of_refused false hnow hplace rfl hrefused]
    have htraps : ∀ x, Traps s (.next (((s.advance 4).fillRes r).trapSrc x (s.reg a).toNat 0 0 ⟨0x08, (s.reg a).toNat, 0⟩))
        0x08 (s.reg a).toNat := fun x => by
      have htraps := traps_trapSrc_reached (hreach.fillRes r) x (s.reg a).toNat 0 0 (f := ⟨0x08, (s.reg a).toNat, 0⟩)
        (show 8 < 256 by decide) hfrozen
      rwa [Nat.mod_eq_of_lt (lt_of_objPlace hplace)] at htraps
    exact ⟨htraps _, htraps _⟩
  · obtain ⟨hwalk, hrules⟩ := hnow
    rw [State.issueRelease, State.checked_now _ _ _ _ _ _ _ hwalk hrules]
    refine ⟨fun h hfound => ?_, fun hnone hfrozen => ?_⟩
    · rw [hfound]
      have hlt : (s.reg a).toNat < 2 ^ 48 := by
        have hheld := List.find?_some hfound
        simp only [Bool.and_eq_true, decide_eq_true_eq] at hheld
        exact hheld.2
      have hissued := issued_push s (s.advance 4) (.rel a) 0 (s.reg a).toNat 0 0
        ((s.advance 4).canon ((s.reg a).toNat % 2 ^ 48)) (.release h.home)
      rwa [Nat.mod_eq_of_lt hlt] at hissued ⊢
    · rw [hnone]
      exact traps_trapSrc_reached hreach _ _ _ _ (f := ⟨0x08, (s.reg a).toNat, 0⟩) (show 8 < 256 by decide) hfrozen

/-! ### Waits for words (R241) -/

/-- Settles O24: the word's place passes, and the wait issues. -/
theorem wordWaits : Obligations.WordWaits := by
  unfold Obligations.WordWaits
  intro d a b s r
  dsimp only
  intro hnow hcheck hctrl hpage hpeer
  obtain ⟨hwalk, hrules⟩ := hnow
  have hexec : exec (.waitw d a b) s =
      .next ((s.advance 4).issueWaitw (s.src (.waitw d a b) d) (s.reg a).toNat (s.reg b)) := rfl
  have hissued := issued_push s ((s.advance 4).fillRes r) (.waitw d a b) d (s.reg a).toNat (s.reg b) 0
    (((s.advance 4).fillRes r).canon (s.reg a).toNat) (.waitw r.pl ((s.reg b).setWidth 32))
  rw [Nat.mod_eq_of_lt (lt_of_checkAccess hcheck)] at hissued
  rw [hexec, State.issueWaitw, State.checked_now _ _ _ _ _ _ _ hwalk hrules, hcheck]
  obtain ⟨pl, tlb⟩ := r
  cases pl with
  | ctrl off => exact absurd rfl (hctrl off)
  | page c t off => exact absurd rfl (hpage c t off)
  | peer m pa => exact absurd rfl (hpeer m pa)
  | mem | bank | own => exact hissued

end Sys2Proof.Claims
end

section
/-!
# A step of the clerk (O4)

Under the premises of O4 the clerk's turn is its fetch (`clerkTurn_of_ready`); with nothing to perform again no register is lent,
and the turn has no more to settle than the instruction did (`settle_of_plain`).
-/

namespace Sys2Proof.Claims
open Sys2Proof.Machine

/-! ### The fetch changes no core -/

theorem core_of_fetchWord {s t : State} {va : Nat} {w : Nat × Word} (h : s.fetchWord va = .ok (w, t)) :
    t.core = s.core := by
  have hfill : ∀ r, (s.fillRes r).core = s.core := fun r => (tlbOnly_fillRes s r).core
  unfold State.fetchWord at h
  split at h
  · cases h
  · dsimp only at h
    split at h
    · cases h
      exact hfill _
    · split at h
      · cases h
      · cases h
        exact hfill _

theorem core_of_fetchMore {n : Nat} : ∀ {s t : State} {va : Nat} {ws : List (Nat × Word)},
    s.fetchMore va n = .ok (ws, t) → t.core = s.core := by
  induction n with
  | zero =>
    intro s t va ws h
    cases h
    rfl
  | succ n ih =>
    intro s t va ws h
    rw [State.fetchMore] at h
    split at h
    · cases h
    · rename_i w u hword
      split at h
      · cases h
      · rename_i vs v hmore
        cases h
        exact (ih hmore).trans (core_of_fetchWord hword)

theorem core_of_fetch {s t : State} {ws : List Word} (h : s.fetch = .ok (ws, t)) : t.core = s.core := by
  unfold State.fetch at h
  dsimp only at h
  split at h
  · cases h
  · rename_i w u hword
    split at h
    · cases h
    · rename_i vs v hmore
      cases h
      exact (core_of_fetchMore hmore).trans (core_of_fetchWord hword)

/-! ### The turn of a clerk that nothing holds -/

/-- What O4 asks of the state in which the clerk has its turn. -/
structure ClerkReady (u : State) : Prop where
  task : u.task.isSome = true
  gated : u.clerkGated = false
  boots : u.modl.bootstat = false
  ends : u.endsItself = false
  running : u.core.clerk.run = .running
  stepped : u.core.clerk.steppedNow = none
  async : u.asyncReady = false
  skip : u.core.tmu.skip = 0
  redo : u.core.clerk.redo = none
  held : u.fetchHeld = false

theorem clerkTurn_of_ready {u : State} (h : ClerkReady u) : u.clerkTurn = match u.fetch with
    | .error f => .error (f.st.trapPlain f.flt.cause f.flt.addr f.flt.detail u.core.clerk.pc u.resumePc)
    | .ok (ws, s) =>
      match decode (ws.getD 0 0) (ws.getD 1 0) (ws.getD 2 0) with
      | .error r => .error (if u.core.clerk.unfin.length < 16 then s.trapReject ws r else s)
      | .ok i => if s.mayIssue i then .ok (i, s) else .error s := by
  have htask : u.task.isNone = false := by simpa using h.task
  have hlatch : u.core.clerk.redoLatch = none := by rw [Clerk.redoLatch, h.redo]
  unfold State.clerkTurn
  simp only [htask, h.gated, h.boots, h.ends, h.running, h.stepped, h.async, h.skip, hlatch, h.held, Bool.or_self,
    Bool.false_eq_true, if_false, reduceCtorEq, decide_false, Bool.false_and, ne_eq, not_true_eq_false, Nat.lt_irrefl] <;> rfl

/-- Nothing is lent where nothing is performed again. -/
theorem lent_of_none {t : State} (hredo : t.core.clerk.redo = none) (i : Instr) : t.lent i = [] ∧ t.lentK = [] := by
  constructor
  · rw [State.lent, hredo]
  · rw [State.lentK, hredo]

theorem prepare_of_none {t : State} (hredo : t.core.clerk.redo = none) (i : Instr) : t.prepare i = t := by
  obtain ⟨hlent, hlentK⟩ := lent_of_none hredo i
  rw [State.prepare, hlent, hlentK]
  rfl

/-- With nothing performed again and no single step, an instruction leaves no more to do than it did. -/
theorem settle_of_plain {t : State} (hredo : t.core.clerk.redo = none) (hstep : t.core.clerk.stepping = false) (i : Instr)
    (u : State) : t.settle i u = u := by
  obtain ⟨hlent, hlentK⟩ := lent_of_none hredo i
  have hback : ∀ completed, t.giveBack i completed u = u := fun completed => by
    rw [State.giveBack, hlent, hlentK]
    rfl
  unfold State.settle
  simp only [hback, hredo, hstep, Bool.and_false, Bool.false_and, Bool.false_eq_true, if_false, ite_self]

/-! ### Causes of the fetch -/

/-- A precise cause of an entry without a value traps: the entry writes no register. -/
theorem traps_trapAt {s : State} {u : Unfin} (l : Latch) (n : Nat) {f : Flt} (hdone : u.done = none)
    (hcause : f.cause < 256) (hfrozen : s.core.clerk.frozen = false) :
    Traps s (.next (s.trapAt u l n f)) f.cause (f.addr % 2 ^ 48) := by
  rw [State.trapAt]
  obtain ⟨m, p, henter, hother⟩ := (s.updClerk fun c => { c.latched l with unfin := c.unfin ++ [u] }).enterTrap_spec
    ⟨f.cause, f.addr, f.detail, false, u.pc, s.nextPc n⟩ (some s.core.clerk.unfin.length) s.core.clerk.redoRest hfrozen
  rw [henter]
  refine ⟨_, rfl, rfl, rfl, rfl, ?_, rfl, rfl, fun hnil r => ?_, fun hwf a ha => (hother hwf).2 a ha⟩
  · simp [b2n, Nat.mod_eq_of_lt hcause]
  · have hdrain : ({ s.core.clerk.latched l with unfin := s.core.clerk.unfin ++ [u] } : Clerk).drain =
        { s.core.clerk.latched l with unfin := s.core.clerk.unfin ++ [u] } := Clerk.drain_none _ fun v hv => by
      simp only [hnil, List.nil_append, List.mem_singleton] at hv
      rw [hv, hdone]
    simp only [State.reg, Clerk.reg, State.updClerk, hdrain]
    rfl

/-- An encoding that is no instruction traps at its PC. -/
theorem traps_trapReject {s : State} (ws : List Word) (r : Reject) (hfrozen : s.core.clerk.frozen = false) :
    Traps s (.next (s.trapReject ws r)) (match r with
      | .illegal => 0x01
      | .reserved => 0x02) s.core.clerk.pc.toNat := by
  rw [State.trapReject, State.trapEncoding]
  have htraps : ∀ (u : Unfin) (l : Latch) (n cause : Nat), u.done = none → cause < 256 →
      Traps s (.next (s.trapAt u l n ⟨cause, s.core.clerk.pc.toNat, 0⟩)) cause s.core.clerk.pc.toNat := by
    intro u l n cause hdone hcause
    have h := traps_trapAt l n (f := ⟨cause, s.core.clerk.pc.toNat, 0⟩) hdone hcause hfrozen
    rwa [Nat.mod_eq_of_lt s.core.clerk.pc.isLt] at h
  cases r with
  | illegal => exact htraps _ _ _ 0x01 rfl (by decide)
  | reserved => exact htraps _ _ _ 0x02 rfl (by decide)

/-- Settles O4: the step is the clerk's turn, the turn the fetch, and what it finds runs or traps. -/
theorem stepRunsTheDecodedInstruction : Obligations.StepRunsTheDecodedInstruction := by
  unfold Obligations.StepRunsTheDecodedInstruction
  intro s u t rest ws houtside hagenda hu htask hgated hboots hends hrunning hstepped hasync hskip hredo hheld
  have hready : ClerkReady u := ⟨htask, hgated, hboots, hends, hrunning, hstepped, hasync, hskip, hredo, hheld⟩
  have hstep : step s = clerkStep u := by
    rw [step, houtside, hu]
    change innerStep s = _
    rw [innerStep, hagenda]
  rw [hstep, clerkStep, clerkTurn_of_ready hready]
  dsimp only
  refine ⟨fun i hfetch hdecode hissue hsingle => ?_, fun r hfetch hdecode hroom hfrozen => ?_, fun f hfetch hfrozen hcause => ?_⟩
  · have hredo' : t.core.clerk.redo = none := by rw [core_of_fetch hfetch, hredo]
    rw [hfetch]
    simp only [hdecode, hissue, if_true, prepare_of_none hredo']
    cases exec i t with
    | next v => exact congrArg _ (settle_of_plain hredo' hsingle i v)
    | fault | refused => rfl
  · rw [hfetch]
    simp only [hdecode, hroom, if_true]
    exact traps_trapReject ws r hfrozen
  · rw [hfetch]
    exact traps_trapPlain _ _ _ _ hcause hfrozen

end Sys2Proof.Claims
end

section
/-!
# Stream commands at issue (O31, O33, O34)

A command that passes everything is accepted by its target; one that is refused traps with the reason in the detail word.
-/

namespace Sys2Proof.Claims
open Sys2Proof.Machine

/-! ### Reasons of decoding (R213) -/

/-- An error is a reason, of eight bits. -/
def ErrorFits (e : Except Nat Instr) : Prop := ∀ r, e = .error r → r < 256

theorem errorFits_ok (i : Instr) : ErrorFits (.ok i) := fun _ h => nomatch h

theorem errorFits_error {r : Nat} (h : r < 256) : ErrorFits (.error r) := by
  rintro _ ⟨⟩
  exact h

theorem errorFits_ite {c : Prop} [Decidable c] {a b : Except Nat Instr} (ha : ErrorFits a) (hb : ErrorFits b) :
    ErrorFits (if c then a else b) := by
  split
  · exact ha
  · exact hb

theorem errorFits_decodePortCmd (code x : Nat) : ErrorFits (decodePortCmd code x) := by
  unfold decodePortCmd
  extract_lets p r1 r2 only
  have honly : ∀ fs i, ErrorFits (only fs i) := fun fs i => errorFits_ite (errorFits_ok i) (errorFits_error (by decide))
  clear_value only
  split
  case h_11 =>
    split
    case h_4 => exact errorFits_ite (errorFits_error (by decide)) (errorFits_error (by decide))
    all_goals exact honly _ _
  all_goals exact honly _ _

theorem errorFits_decodeCeCmd (code x : Nat) : ErrorFits (decodeCeCmd code x) := by
  unfold decodeCeCmd
  extract_lets e r1
  exact errorFits_ite (errorFits_ite (errorFits_ok _) (errorFits_error (by decide)))
    (errorFits_ite (errorFits_ok _) (errorFits_error (by decide)))

theorem errorFits_decodeMeCmd (code x : Nat) : ErrorFits (decodeMeCmd code x) := by
  unfold decodeMeCmd
  extract_lets e r1 r2 n bank addr only
  have honly : ∀ fs i, ErrorFits (only fs i) := fun fs i => errorFits_ite (errorFits_ok i) (errorFits_error (by decide))
  clear_value only
  split <;> exact honly _ _

theorem errorFits_decodeTmuCmd (code x : Nat) : ErrorFits (decodeTmuCmd code x) := by
  unfold decodeTmuCmd
  extract_lets r1 slot num addr f only
  have honly : ∀ fs i, ErrorFits (only fs i) := fun fs i => errorFits_ite (errorFits_ok i) (errorFits_error (by decide))
  clear_value only
  split <;> exact honly _ _

theorem errorFits_decodeCommand (q : Qword) : ErrorFits (decodeCommand q) := by
  have h32 : ErrorFits (.error 0x32) := errorFits_error (by decide)
  unfold decodeCommand
  exact errorFits_ite (errorFits_ite (errorFits_decodePortCmd _ _) h32)
    (errorFits_ite (errorFits_ite (errorFits_decodeCeCmd _ _) h32)
      (errorFits_ite (errorFits_ite (errorFits_decodeMeCmd _ _) h32)
        (errorFits_ite (errorFits_ite (errorFits_decodeTmuCmd _ _) h32) (errorFits_error (by decide)))))

/-! ### Refusals (R213) -/

/-- The registers that REF1 and REF2 of a command's word name, as its issue reads them. -/
theorem refField_eq (q : Qword) (lo : Nat) : BitVec.ofNat 5 (bitsOf q.toNat (lo + 4) lo) = q.extractLsb' lo 5 := by
  refine BitVec.eq_of_toNat_eq ?_
  rw [bitsOf_eq, BitVec.toNat_ofNat, BitVec.extractLsb'_toNat, Nat.shiftRight_eq_div_pow, show lo + 4 + 1 - lo = 5 by omega,
    Nat.mod_mod]

/-- With its references present, a command's word is decoded, and what it decodes to is issued. -/
theorem issueWord_of_refsPresent {s : State} {q : Qword} (carrier : Instr) (ea : Nat) (h : refsPresent s q) :
    s.issueWord carrier ea q = match decodeCommand q with
      | .ok i => s.acceptCmd carrier ea i
      | .error r => s.trapInstr carrier 0 ea 0
          (s.refuse (if r = 0x35 ∧ s.supply (q.extractLsb' 8 5) 0 (0 : BitVec 3) = none then 0x34 else r)) := by
  obtain ⟨h1, h2⟩ := h
  have hr1 : BitVec.ofNat 5 (bitsOf q.toNat 12 8) = q.extractLsb' 8 5 := refField_eq q 8
  have hr2 : BitVec.ofNat 5 (bitsOf q.toNat 17 13) = q.extractLsb' 13 5 := refField_eq q 13
  unfold State.issueWord
  simp only [hr1, hr2, h1, h2, Bool.not_true, Bool.or_self, Bool.false_eq_true, if_false, Bool.and_eq_true, beq_iff_eq,
    Option.isNone_iff_eq_none] <;> rfl

/-- A refusal: the trap of the issuing instruction with the reason as its detail, no unit changed. -/
theorem refused_trapInstr {s : State} (i : Instr) (ea : Nat) {cause addr detail : Nat} (hwf : Memory.wf s.mem = true)
    (hfrozen : s.core.clerk.frozen = false) (hcause : cause < 256) (haddr : addr < 2 ^ 48) (hdetail : detail < 256) :
    Traps s (.next (s.trapInstr i 0 ea 0 ⟨cause, addr, detail⟩)) cause addr ∧
      ∃ t, (.next (s.trapInstr i 0 ea 0 ⟨cause, addr, detail⟩) : Result) = .next t ∧ t.trapRd 32 8 = detail ∧
        t.core.ports = s.core.ports ∧ t.core.mes = s.core.mes ∧ t.core.tmu = s.core.tmu ∧ t.core.ces = s.core.ces := by
  have htraps := traps_trapInstr i 0 ea 0 (f := ⟨cause, addr, detail⟩) hcause hfrozen
  rw [show (⟨cause, addr, detail⟩ : Flt).addr % 2 ^ 48 = addr from Nat.mod_eq_of_lt haddr] at htraps
  have hword := trapRd_trapInstr_detail i 0 ea 0 ⟨cause, addr, detail⟩ hwf hfrozen
  rw [show (⟨cause, addr, detail⟩ : Flt).detail % 2 ^ 64 = detail from
    Nat.mod_eq_of_lt (Nat.lt_trans hdetail (by decide))] at hword
  refine ⟨htraps, _, rfl, hword, ?_⟩
  obtain ⟨m, p, henter, -⟩ := (trapEntry s i 0 ea 0).enterTrap_spec
    ⟨cause, addr, detail, false, s.core.clerk.pc, s.nextPc (Instr.bytes i)⟩
    (some s.core.clerk.unfin.length) s.core.clerk.redoRest hfrozen
  rw [trapInstr_eq, henter]
  exact ⟨rfl, rfl, rfl, rfl⟩

/-- The reasons that issue gives at the PC. -/
theorem refused_refuse {s : State} (i : Instr) (ea : Nat) {r : Nat} (hwf : Memory.wf s.mem = true)
    (hfrozen : s.core.clerk.frozen = false) (hr : r < 256) :
    Traps s (.next (s.trapInstr i 0 ea 0 (s.refuse r))) 0x08 s.core.clerk.pc.toNat ∧
      ∃ t, (.next (s.trapInstr i 0 ea 0 (s.refuse r)) : Result) = .next t ∧ t.trapRd 32 8 = r ∧
        t.core.ports = s.core.ports ∧ t.core.mes = s.core.mes ∧ t.core.tmu = s.core.tmu ∧ t.core.ces = s.core.ces :=
  refused_trapInstr i ea hwf hfrozen (by decide) s.core.clerk.pc.isLt hr

theorem acceptCmd_of_unfit {s : State} {carrier i : Instr} (ea : Nat)
    (hrefs : (Instr.cmdRefs i).all s.core.clerk.present = true) (hsample : s.sample i = none) :
    s.acceptCmd carrier ea i = s.trapInstr carrier 0 ea 0 (s.refuse 0x34) := by
  simp [State.acceptCmd, hrefs, hsample]

theorem acceptCmd_of_failed {s : State} {carrier i c : Instr} {f : Flt} (ea : Nat)
    (hrefs : (Instr.cmdRefs i).all s.core.clerk.present = true) (hsample : s.sample i = some c)
    (hcheck : s.cmdCheck c = some f) : s.acceptCmd carrier ea i = s.trapInstr carrier 0 ea 0 f := by
  simp [State.acceptCmd, hrefs, hsample, hcheck]

/-- Settles O33: by where the issue of the word stops. -/
theorem commandRefusals : Obligations.CommandRefusals := by
  unfold Obligations.CommandRefusals
  intro k s hwf hfrozen
  dsimp only
  intro hrefs
  have hexec : exec (.issue k) s = .next (s.issueWord (.issue k) 0 (s.kreg k)) := rfl
  rw [hexec, issueWord_of_refsPresent _ _ hrefs]
  refine ⟨fun r hdecode => ?_, fun i hdecode hpresent => ⟨fun hsample => ?_, fun c hsample => ⟨fun hshape hlimits => ?_,
    fun hshape => ?_⟩⟩⟩
  · rw [hdecode]
    refine refused_refuse _ _ hwf hfrozen ?_
    split
    · decide
    · exact errorFits_decodeCommand _ r hdecode
  · rw [hdecode]
    dsimp only
    rw [acceptCmd_of_unfit _ hpresent hsample]
    exact refused_refuse _ _ hwf hfrozen (by decide)
  · have hcheck : s.cmdCheck c = some (s.refuse 0x35) := by simp [State.cmdCheck, hshape, hlimits]
    rw [hdecode]
    dsimp only
    rw [acceptCmd_of_failed _ hpresent hsample hcheck]
    exact refused_refuse _ _ hwf hfrozen (by decide)
  · have hcheck : s.cmdCheck c = some ⟨0x1B, 0, Instr.code c⟩ := by simp [State.cmdCheck, hshape]
    rw [hdecode]
    dsimp only
    rw [acceptCmd_of_failed _ hpresent hsample hcheck]
    exact refused_trapInstr _ _ hwf hfrozen (by decide) (by decide) (Nat.mod_lt _ (by decide))

/-! ### Acceptance by a port (R252, R256, R264, R265) -/

/-- What takes a command acts as it is accepted. -/
theorem exec_of_acceptable {s t : State} {i c : Instr} (hexec : exec i s = .next (s.acceptCmd (.issue 0) 0 i))
    (h : Acceptable s i c) (ht : s.cmdAccept c = .ok t) : exec i s = .next (t.advance 4) :=
  hexec.trans (congrArg _ (acceptCmd_of_acceptable h ht))

/-- A command of a port is issued like one of `issue`. -/
theorem exec_of_portOf {i : Instr} {p : BitVec 4} (h : Instr.portOf i = some p) (s : State) :
    exec i s = .next (s.acceptCmd (.issue 0) 0 i) := by
  cases i with
  | sread | swrite | sgather | sscatter | stile | ssegt | scfg | sbar | send | sclose | sgateSetPlvl | sgateGate | sgateUngate
  | sreq => rfl
  | _ => exact nomatch h

/-- Its target is the port. -/
theorem cmdAccept_of_portOf {c : Instr} {p : BitVec 4} (h : Instr.portOf c = some p) (s : State) :
    s.cmdAccept c = .ok (s.portAccept p.toNat c) := by
  cases c with
  | sread | swrite | sgather | sscatter | stile | ssegt | scfg | sbar | send | sclose | sgateSetPlvl | sgateGate | sgateUngate
  | sreq =>
    obtain rfl := Option.some.inj h
    rfl
  | _ => exact nomatch h

/-- Sampling keeps a command's port and class. -/
theorem portOf_of_sample {s : State} {i c : Instr} {p : BitVec 4} (h : Instr.portOf i = some p) (hs : s.sample i = some c) :
    Instr.portOf c = some p ∧ portQueued c = portQueued i := by
  cases i with
  | sread | swrite | sgather | sscatter | stile | ssegt =>
    obtain ⟨x, -, hs⟩ := Option.bind_eq_some_iff.mp hs
    obtain ⟨y, -, rfl⟩ := Option.map_eq_some_iff.mp hs
    exact ⟨h, rfl⟩
  | scfg | sbar | send | sclose | sgateSetPlvl | sgateGate | sgateUngate | sreq =>
    obtain ⟨x, -, rfl⟩ := Option.map_eq_some_iff.mp hs
    exact ⟨h, rfl⟩
  | _ => exact nomatch h

theorem portOf_of_portQueued {i : Instr} {p : BitVec 4} (h : portQueued i = some p) : Instr.portOf i = some p := by
  cases i with
  | sread | swrite | sgather | sscatter | stile | ssegt | scfg | send | sreq => exact h
  | _ => exact nomatch h

theorem portAccept_of_queued {s : State} {c : Instr} {p : BitVec 4} (n : Nat) (hopen : (s.port n).sealed = false)
    (h : portQueued c = some p) : s.portAccept n c = s.updPort n fun q => { q with queue := q.queue ++ [PortItem.cmd c] } := by
  have hguard : ¬ (s.port n).sealed = true := by simp [hopen]
  cases c with
  | sread | swrite | sgather | sscatter | stile | ssegt | scfg | send | sreq => exact if_neg hguard
  | _ => exact nomatch h

/-- Two updates of a port that agree on what it holds are one. -/
theorem updPort_congr {s : State} {n : Nat} {f g : Port → Port} (h : f (s.port n) = g (s.port n)) :
    s.updPort n f = s.updPort n g := by
  rw [State.updPort, State.updPort, State.updCore, State.updCore]
  exact congrArg (fun l => { s with core := { s.core with ports := l } }) (updAt_congr (d := Port.reset) h)

theorem updAt_id {α : Type} (l : List α) (k : Nat) : updAt l k id = l := by
  induction l generalizing k with
  | nil => rfl
  | cons x t ih =>
    cases k with
    | zero => rfl
    | succ k => exact congrArg (x :: ·) (ih k)

theorem updPort_of_unchanged {s : State} {n : Nat} {f : Port → Port} (h : f (s.port n) = s.port n) : s.updPort n f = s := by
  rw [updPort_congr (g := id) h, State.updPort, State.updCore]
  exact congrArg (fun l => { s with core := { s.core with ports := l } }) (updAt_id ..)

theorem lowerLvl_eq (old : Option (BitVec 3)) (l : BitVec 3) : lowerLvl old l = some (match old with
    | some m => if m.toNat ≤ l.toNat then m else l
    | none => l) := by
  cases old <;> rfl

/-- Settles O31: the port's part of acceptance, command by command. -/
theorem portCommandsAccepted : Obligations.PortCommandsAccepted := by
  unfold Obligations.PortCommandsAccepted
  intro i c p r id id' sn l l' s haccept
  dsimp only
  have hsample : s.sample i = some c := haccept.2.1
  have hgoes : ∀ t, Instr.portOf i = some p → s.portAccept p.toNat c = t → exec i s = .next (t.advance 4) := fun t hport ht =>
    exec_of_acceptable (exec_of_portOf hport s) haccept
      ((cmdAccept_of_portOf (portOf_of_sample hport hsample).1 s).trans (congrArg _ ht))
  refine ⟨fun hopen => ?_, fun hsealed hport => hgoes s hport (if_pos hsealed)⟩
  have hguard : ¬ (s.port p.toNat).sealed = true := by simp [hopen]
  refine ⟨fun hqueued => ?_, ?_, ?_, ?_, ?_, ?_⟩
  · have hport := portOf_of_portQueued hqueued
    exact hgoes _ hport (portAccept_of_queued _ hopen ((portOf_of_sample hport hsample).2.trans hqueued))
  · rintro rfl rfl
    exact hgoes _ rfl (if_neg hguard)
  · rintro rfl rfl
    exact hgoes _ rfl (if_neg hguard)
  · rintro rfl rfl
    refine hgoes _ rfl ((if_neg hguard).trans (updPort_congr ?_))
    rw [Port.setGate, lowerLvl_eq] <;> rfl
  · rintro rfl rfl
    exact hgoes _ rfl (if_neg hguard)
  · rintro rfl rfl
    have hclose : s.portAccept p.toNat (.sclose p r l') = s.updPort p.toNat (·.close l') := if_neg hguard
    refine ⟨fun hidle => hgoes _ rfl (hclose.trans (updPort_of_unchanged ?_)), fun x hcmd hcut hends =>
      hgoes _ rfl (hclose.trans (updPort_congr ?_))⟩
    · rw [Port.close, hidle]
    · have hcuts : (Instr.cuttable x.cmd && !(x.closing && x.out.isEmpty)) = true := by
        rw [hcut, Bool.true_and, Bool.not_eq_true', Bool.and_eq_false_iff]
        exact hends.imp_right fun hout => by simpa using hout
      rw [Port.close, hcmd]
      dsimp only
      rw [if_pos hcuts, lowerLvl_eq] <;> rfl

/-! ### Acceptance by an engine (R274, R299, R305) -/

theorem exec_of_engineOf {i : Instr} {b : BitVec 1} (h : engineOf i = some b) (s : State) :
    exec i s = .next (s.acceptCmd (.issue 0) 0 i) := by
  cases i with
  | mload | mswap | mdense | mseg | mbatch | mgather | mdrain | mzero | mbankClaim | mbankRelease | mspill | mfill | mstat => rfl
  | _ => exact nomatch h

theorem exec_of_ofTmu {i : Instr} (h : ofTmu i = true) (s : State) : exec i s = .next (s.acceptCmd (.issue 0) 0 i) := by
  cases i with
  | tmatch | tmerge | tunmerge | tsave | tload | tcompose | tlogsz | tfree | tstat => rfl
  | _ => exact nomatch h

theorem cmdAccept_of_engineOf {c : Instr} {b : BitVec 1} (h : engineOf c = some b) (s : State) :
    s.cmdAccept c = .ok (s.meAccept b.toNat (Instr.full c)) := by
  cases c with
  | mload | mswap | mdense | mseg | mbatch | mgather | mdrain | mzero | mbankClaim | mbankRelease | mspill | mfill | mstat =>
    obtain rfl := Option.some.inj h
    rfl
  | _ => exact nomatch h

theorem engineOf_of_sample {s : State} {i c : Instr} {b : BitVec 1} (h : engineOf i = some b) (hs : s.sample i = some c) :
    engineOf c = some b := by
  cases i with
  | mload =>
    obtain ⟨x, -, hs⟩ := Option.bind_eq_some_iff.mp hs
    obtain ⟨y, -, rfl⟩ := Option.map_eq_some_iff.mp hs
    exact h
  | mseg =>
    obtain ⟨x, -, hs⟩ := Option.bind_eq_some_iff.mp hs
    obtain ⟨y, -, rfl⟩ := Option.map_eq_some_iff.mp hs
    exact h
  | mdense | mbatch | mgather | mdrain | mzero | mstat =>
    obtain ⟨x, -, rfl⟩ := Option.map_eq_some_iff.mp hs
    exact h
  | mswap | mbankClaim | mbankRelease | mspill | mfill =>
    obtain rfl := Option.some.inj hs
    exact h
  | _ => exact nomatch h

theorem ofTmu_of_sample {s : State} {i c : Instr} (h : ofTmu i = true) (hs : s.sample i = some c) : ofTmu c = true := by
  cases i with
  | tmatch | tmerge | tunmerge | tstat =>
    obtain ⟨x, -, rfl⟩ := Option.map_eq_some_iff.mp hs
    rfl
  | tsave | tload | tcompose | tlogsz | tfree =>
    obtain rfl := Option.some.inj hs
    rfl
  | _ => exact nomatch h

/-- A command that joins an engine's queue, `mdrain` with its barrier announced. -/
theorem meAccept_of_open {s : State} {e : Nat} (c : Instr) (hopen : (s.me e).sealed = false) :
    s.meAccept e (Instr.full c) =
      let queued := s.updMe e fun m => { m with queue := m.queue ++ [EngCmd.mk (Instr.full c) false 0 false] }
      match c with
      | .mdrain _ f => if f.bv then queued.announce (.me e) f.bar else queued
      | _ => queued := by
  have hguard : ¬ (s.me e).sealed = true := by simp [hopen]
  cases c <;> exact if_neg hguard

/-- The TMU's part of acceptance. -/
theorem cmdAccept_of_ofTmu {c : Instr} (h : ofTmu c = true) (s : State) :
    s.cmdAccept c = .ok (if s.core.tmu.sealed then s else s.updTmu fun t => { t with
      queue := t.queue ++ [EngCmd.mk c false 0 false], accepted := t.accepted + 1, slots := issuedSlots c t.slots }) := by
  cases c with
  | tmatch | tmerge | tunmerge | tsave | tload | tcompose | tlogsz | tfree | tstat => rfl
  | _ => exact nomatch h

/-- Settles O34: each engine's part of acceptance. -/
theorem engineCommandsAccepted : Obligations.EngineCommandsAccepted := by
  unfold Obligations.EngineCommandsAccepted
  intro i c s haccept
  have hsample : s.sample i = some c := haccept.2.1
  refine ⟨fun b hengine => ?_, fun htmu => ?_⟩
  · have hc := engineOf_of_sample hengine hsample
    have hgoes : ∀ t, s.meAccept b.toNat (Instr.full c) = t → exec i s = .next (t.advance 4) := fun t ht =>
      exec_of_acceptable (exec_of_engineOf hengine s) haccept ((cmdAccept_of_engineOf hc s).trans (congrArg _ ht))
    refine ⟨fun hopen => ⟨?_, fun hplain => hgoes _ ?_⟩, fun hsealed => hgoes s (if_pos hsealed)⟩
    · rintro x f rfl hbar
      exact hgoes _ ((meAccept_of_open _ hopen).trans (if_pos hbar))
    · rw [meAccept_of_open c hopen]
      dsimp only
      split
      · rename_i x f
        exact if_neg (by simp [hplain x f rfl])
      · rfl
  · have hgoes : ∀ t, s.cmdAccept c = .ok t → exec i s = .next (t.advance 4) := fun t ht =>
      exec_of_acceptable (exec_of_ofTmu htmu s) haccept ht
    have hc := cmdAccept_of_ofTmu (ofTmu_of_sample htmu hsample) s
    exact ⟨fun hopen => hgoes _ (hc.trans (congrArg _ (if_neg (by simp [hopen])))),
      fun hsealed => hgoes _ (hc.trans (congrArg _ (if_pos hsealed)))⟩

end Sys2Proof.Claims
end

section
/-!
# Every PC stays a multiple of 4 (O60)

A PC is written by going on with the length of an instruction, or through `Clerk.setPc`, which drops bits 1:0; every
other function of the model leaves the PC of the core's clerk and the saved ones as they are. Each lemma below says so
of one function, from the lemmas of the functions it calls, in the order of O59.
-/

namespace Sys2Proof.Claims
open Sys2Proof.Machine

/-! ### Values that hold states -/

/-- The next state of an outcome, if it has one, has its PCs aligned. -/
def NextPcs : Host.Outcome State Fault Refusal → Prop
  | .next t => PcsAligned t
  | .fault _ => True
  | .refused _ => True

/-- The state of a touch has its PCs aligned. -/
def TouchPcs : Touch → Prop
  | .ok t | .wait t | .stall _ t | .fault _ t => PcsAligned t

/-- The state of a party's access has its PCs aligned. -/
def GotPcs {α : Type} : Got α → Prop
  | .ok _ t | .wait t | .stall _ _ _ t | .fail _ _ _ t => PcsAligned t

/-- The state after a lane has formed its tokens, if there is one, has its PCs aligned. -/
def FormPcs : Form → Prop
  | .ok _ t | .wait t | .stall _ _ _ t | .fail _ _ _ t => PcsAligned t
  | .bad _ => True

section
variable {s t : State} {α ε : Type}

/-- The other parts of a state do not matter. -/
theorem PcsAligned.frame {coreId : Nat} {gridmap : BitVec 5} {cycle : Dword} {timer stepNo : Nat} {mem : Mem}
    {poison : List Nat}
    {task : Option TaskKey} {recs : List TaskRec} {cohorts : List Cohort} {objs : List ObjQueue} {binds : List Binding}
    {dir : List DirEntry} {occ : List Occ} {recent : List (BitVec 12)} {preempting : Option PreemptWhy}
    {recalling : List TaskKey} {tagcfg : Dword} {tagVictim : List Nat} {tags : List (Nat × TagEntry)} {pages : List CPage}
    {farPages : List ((Nat × Nat) × CPage)} {farCores : List (Nat × FarCore)} {farSaved : List (TaskKey × FarCore)}
    {icache : List (Nat × Word)} {tlb l2tlb : List Tlb} {walks : List Walk} {wings : List Wing} {modl : Module}
    {hostMem : List (Nat × Nat)} {hostRead : Option Dword} {niOut niFlight niIn : List NiMsg} {niGot : Nat}
    {skid : List (Nat × Bool)} {nextTask : List (Nat × TaskKey)} {nvmeWin : List (Nat × Nat × Nat)}
    {outside : List Outside} {agenda : List (Option Instr)} (h : PcsAligned s) :
    PcsAligned (.mk coreId gridmap cycle timer stepNo mem poison s.core task s.shadow recs cohorts objs binds dir occ
      recent preempting recalling tagcfg tagVictim tags pages farPages farCores farSaved icache tlb l2tlb
      walks wings modl hostMem hostRead niOut niFlight niIn niGot skid nextTask nvmeWin outside agenda) :=
  h

/-- A state with the same PC in the core's clerk and the same saved states. -/
theorem PcsAligned.congr (h : PcsAligned s) (hpc : t.core.clerk.pc = s.core.clerk.pc) (hshadow : t.shadow = s.shadow) :
    PcsAligned t := by
  rwa [PcsAligned, hpc, hshadow]

theorem PcsAligned.ite {c : Prop} [Decidable c] (hs : PcsAligned s) (ht : PcsAligned t) : PcsAligned
    (if c then s else t) := by
  split <;> assumption

theorem NextPcs.ite {c : Prop} [Decidable c] {a b : Host.Outcome State Fault Refusal} (ha : NextPcs a) (hb : NextPcs b) :
    NextPcs (if c then a else b) := by
  split <;> assumption

theorem PcsAligned.foldl {l : List α} {f : State → α → State} (hf : ∀ s a, PcsAligned s → PcsAligned (f s a))
    (h : PcsAligned s) :
    PcsAligned (l.foldl f s) :=
  List.foldlRecOn l f h fun s hs a _ => hf s a hs

theorem TouchPcs.ite {c : Prop} [Decidable c] {a b : Touch} (ha : TouchPcs a) (hb : TouchPcs b) :
    TouchPcs (if c then a else b) := by
  split <;> assumption

theorem GotPcs.ite {c : Prop} [Decidable c] {a b : Got α} (ha : GotPcs a) (hb : GotPcs b) :
    GotPcs (if c then a else b) := by
  split <;> assumption

theorem FormPcs.ite {c : Prop} [Decidable c] {a b : Form} (ha : FormPcs a) (hb : FormPcs b) :
    FormPcs (if c then a else b) := by
  split <;> assumption

theorem PcsAligned.snd {p : α × State} {a : α} (h : PcsAligned p.2) (e : p = (a, t)) : PcsAligned t := by
  subst e
  exact h

theorem NextPcs.next {o : Host.Outcome State Fault Refusal} (h : NextPcs o) (e : o = .next t) : PcsAligned t := by
  subst e
  exact h

theorem GotPcs.foldl {β : Type} {l : List β} {f : Got α → β → Got α} {g : Got α}
    (hf : ∀ g b, GotPcs g → GotPcs (f g b)) (h : GotPcs g) : GotPcs (l.foldl f g) :=
  List.foldlRecOn l f h fun g hg b _ => hf g b hg

theorem TouchPcs.ok {u : Touch} (h : TouchPcs u) (e : u = .ok t) : PcsAligned t := by
  subst e
  exact h

theorem TouchPcs.wait {u : Touch} (h : TouchPcs u) (e : u = .wait t) : PcsAligned t := by
  subst e
  exact h

theorem TouchPcs.stall {u : Touch} {f : Flt} (h : TouchPcs u) (e : u = .stall f t) : PcsAligned t := by
  subst e
  exact h

theorem TouchPcs.fault {u : Touch} {f : Flt} (h : TouchPcs u) (e : u = .fault f t) : PcsAligned t := by
  subst e
  exact h

theorem GotPcs.ok {g : Got α} {v : α} (h : GotPcs g) (e : g = .ok v t) : PcsAligned t := by
  subst e
  exact h

theorem GotPcs.wait {g : Got α} (h : GotPcs g) (e : g = .wait t) : PcsAligned t := by
  subst e
  exact h

theorem GotPcs.stall {g : Got α} {a r l : Nat} (h : GotPcs g) (e : g = .stall a r l t) : PcsAligned t := by
  subst e
  exact h

theorem GotPcs.fail {g : Got α} {c a d : Nat} (h : GotPcs g) (e : g = .fail c a d t) : PcsAligned t := by
  subst e
  exact h

theorem FormPcs.ok {g : Form} {c : LaneCmd} (h : FormPcs g) (e : g = .ok c t) : PcsAligned t := by
  subst e
  exact h

theorem FormPcs.wait {g : Form} (h : FormPcs g) (e : g = .wait t) : PcsAligned t := by
  subst e
  exact h

theorem FormPcs.stall {g : Form} {a r l : Nat} (h : FormPcs g) (e : g = .stall a r l t) : PcsAligned t := by
  subst e
  exact h

theorem FormPcs.fail {g : Form} {c a d : Nat} (h : FormPcs g) (e : g = .fail c a d t) : PcsAligned t := by
  subst e
  exact h
end

/-! ### The registers of the clerk -/

theorem aligned_and_not_three (v : BitVec 48) : (v &&& ~~~3).toNat % 4 = 0 := by
  have hlow : ∀ i < 2, (v &&& ~~~3).getLsbD i = false := by
    intro i hi
    interval_cases i <;> simp
  have h0 := hlow 0 (by decide)
  have h1 := hlow 1 (by decide)
  rw [BitVec.getLsbD, Nat.testBit_eq_decide_div_mod_eq] at h0 h1
  simp only [Nat.pow_zero, Nat.div_one, Nat.pow_one, decide_eq_false_iff_not] at h0 h1
  omega

/-- The other parts of the core do not matter. -/
theorem PcsAligned.updCore {s : State} {fab : Core → Fabric} {ports : Core → List Port} {mes : Core → List Me}
    {tmu : Core → Tmu} {ces : Core → List Ce}
    {handles : Core → List Handle} {watches : Core → List Watch} {mto wdg : Core → Nat} (h : PcsAligned s) :
    PcsAligned (s.updCore fun c =>
      .mk c.clerk
        (fab c) (ports c) (mes c) (tmu c) (ces c) (handles c) (watches c) (mto c) (wdg c)) :=
  h

/-- The core's clerk is as after reset. -/
theorem PcsAligned.resetClerk {s : State} {fab : Core → Fabric} {ports : Core → List Port} {mes : Core → List Me}
    {tmu : Core → Tmu} {ces : Core → List Ce}
    {handles : Core → List Handle} {watches : Core → List Watch} {mto wdg : Core → Nat} (h : PcsAligned s) :
    PcsAligned (s.updCore fun c =>
      .mk Clerk.reset
        (fab c) (ports c) (mes c) (tmu c) (ces c) (handles c) (watches c) (mto c) (wdg c)) :=
  ⟨rfl, h.2⟩

/-- The core's clerk is that of a task that enters. -/
theorem PcsAligned.enteredClerk {s : State} {entry arg tcb : Nat} {tvec : Dword} {fab : Core → Fabric}
    {ports : Core → List Port} {mes : Core → List Me} {tmu : Core → Tmu} {ces : Core → List Ce}
    {handles : Core → List Handle} {watches : Core → List Watch} {mto wdg : Core → Nat} (h : PcsAligned s) :
    PcsAligned (s.updCore fun c =>
      .mk (Clerk.entered entry arg tcb tvec)
        (fab c) (ports c) (mes c) (tmu c) (ces c) (handles c) (watches c) (mto c) (wdg c)) :=
  ⟨aligned_and_not_three (BitVec.ofNat 48 entry), h.2⟩

/-- The other parts of the clerk do not matter. -/
theorem PcsAligned.updClerk {s : State} {regs : Clerk → Vector Dword 32} {pres : Clerk → BitVec 32}
    {kregs : Clerk → Vector Qword 8} {kpres : Clerk → BitVec 8}
    {mode : Clerk → Mode} {sstep frozen stepping wfeEvent joinQueued : Clerk → Bool} {stepped : Clerk → Option (BitVec 48)}
    {pend : Clerk → List Pend} {tvec cause faddress causeb addrb fpstat fpctl cmdbase : Clerk → Dword}
    {holds : Clerk → List Hold} {unfin kept : Clerk → List Unfin} {run : Clerk → Run} {redo : Clerk → Option Redo}
    {latches : Clerk → List Latch} (h : PcsAligned s) :
    PcsAligned (s.updClerk fun c =>
      .mk (regs c) (pres c) (kregs c) (kpres c) c.pc (mode c) (sstep c) (frozen c) (stepping c) (stepped c)
        (pend c) (tvec c) (cause c) (faddress c) (causeb c) (addrb c) (fpstat c) (fpctl c) (cmdbase c) (holds c)
        (unfin c) (run c) (wfeEvent c) (redo c) (latches c) (kept c) (joinQueued c)) :=
  h

/-- The clerk goes to an address through `Clerk.setPc`, which drops bits 1:0. -/
theorem PcsAligned.jump {s : State} {v : Clerk → BitVec 48} {regs : Clerk → Vector Dword 32} {pres : Clerk → BitVec 32}
    {kregs : Clerk → Vector Qword 8} {kpres : Clerk → BitVec 8}
    {mode : Clerk → Mode} {sstep frozen stepping wfeEvent joinQueued : Clerk → Bool} {stepped : Clerk → Option (BitVec 48)}
    {pend : Clerk → List Pend} {tvec cause faddress causeb addrb fpstat fpctl cmdbase : Clerk → Dword}
    {holds : Clerk → List Hold} {unfin kept : Clerk → List Unfin} {run : Clerk → Run} {redo : Clerk → Option Redo}
    {latches : Clerk → List Latch} (h : PcsAligned s) :
    PcsAligned (s.updClerk fun c =>
      .mk (regs c) (pres c) (kregs c) (kpres c) (v c &&& ~~~3) (mode c) (sstep c) (frozen c) (stepping c) (stepped c)
        (pend c) (tvec c) (cause c) (faddress c) (causeb c) (addrb c) (fpstat c) (fpctl c) (cmdbase c) (holds c)
        (unfin c) (run c) (wfeEvent c) (redo c) (latches c) (kept c) (joinQueued c)) :=
  ⟨aligned_and_not_three (v s.core.clerk), h.2⟩

/-- A change of the clerk that keeps its PC. -/
theorem PcsAligned.keepPc {s : State} {f : Clerk → Clerk} (h : PcsAligned s) (hf : ∀ c, (f c).pc = c.pc) :
    PcsAligned (s.updClerk f) :=
  h.congr (hf s.core.clerk) rfl

theorem PcsAligned.updFab {s : State} {f : Fabric → Fabric} (h : PcsAligned s) : PcsAligned (s.updFab f) :=
  h

theorem PcsAligned.updWing {s : State} {w : Nat} {f : Wing → Wing} (h : PcsAligned s) : PcsAligned (s.updWing w f) :=
  h

theorem PcsAligned.updMod {s : State} {f : Module → Module} (h : PcsAligned s) : PcsAligned (s.updMod f) :=
  h

theorem PcsAligned.setReg {s : State} {r : Reg} {v : Dword} (h : PcsAligned s) : PcsAligned (s.setReg r v) :=
  h.keepPc fun c => c.setReg_pc r v

theorem PcsAligned.setKreg {s : State} {k : KReg} {v : Qword} (h : PcsAligned s) : PcsAligned (s.setKreg k v) :=
  h.updClerk

/-- Going on by whole words keeps the PC aligned. -/
theorem PcsAligned.advanceBy {s : State} {n : Nat} (h : PcsAligned s) (hn : n % 4 = 0) : PcsAligned (s.advance n) := by
  refine ⟨?_, h.2⟩
  have hpc := h.1
  change (s.core.clerk.pc + BitVec.ofNat 48 n).toNat % 4 = 0
  rw [BitVec.toNat_add, BitVec.toNat_ofNat]
  omega

theorem PcsAligned.advance {s : State} (h : PcsAligned s) : PcsAligned (s.advance 4) :=
  h.advanceBy rfl

theorem PcsAligned.finish {s : State} {d : Reg} {v : Dword} (h : PcsAligned s) : PcsAligned (s.finish d v 4) :=
  h.setReg.advance

theorem PcsAligned.finishLong {s : State} {d : Reg} {v : Dword} (h : PcsAligned s) : PcsAligned (s.finish d v 12) :=
  h.setReg.advanceBy rfl

/-! ### Translations and tags -/

theorem PcsAligned.fill {s : State} {e : Tlb} (h : PcsAligned s) : PcsAligned (s.fill e) :=
  h

theorem PcsAligned.fillRes {s : State} {r : Res} (h : PcsAligned s) : PcsAligned (s.fillRes r) := by
  obtain ⟨a, b, htlb⟩ := tlbOnly_fillRes s r
  rw [htlb]
  exact h

theorem PcsAligned.filled {s : State} {ctx : BitVec 12} {va : Nat} (h : PcsAligned s) : PcsAligned (s.filled ctx va) := by
  obtain ⟨a, b, htlb⟩ := tlbOnly_filled s ctx va
  rw [htlb]
  exact h

theorem PcsAligned.sendReqs {s : State} (h : PcsAligned s) : PcsAligned s.sendReqs :=
  h

theorem PcsAligned.setTag {s : State} {slot : Nat} {e : TagEntry} (h : PcsAligned s) : PcsAligned (s.setTag slot e) :=
  h

/-! ### Writes -/

theorem PcsAligned.stored {s : State} {m : Mem} {key n : Nat} (h : PcsAligned s) : PcsAligned (s.stored m key n) :=
  h

theorem PcsAligned.wr {s : State} {key n v : Nat} (h : PcsAligned s) : PcsAligned (s.wr key n v) :=
  h.stored

theorem PcsAligned.wrBytes {s : State} {key : Nat} {bs : List Byte} (h : PcsAligned s) : PcsAligned (s.wrBytes key bs) :=
  h.stored

theorem PcsAligned.notifyOwn {s : State} (h : PcsAligned s) : PcsAligned s.notifyOwn :=
  h.updClerk

theorem PcsAligned.ownWrite {s : State} {off n v : Nat} (h : PcsAligned s) : PcsAligned (s.ownWrite off n v) :=
  PcsAligned.ite (PcsAligned.ite h.setTag.notifyOwn h) (PcsAligned.ite h.wr h)

theorem PcsAligned.trapWr {s : State} {off n v : Nat} (h : PcsAligned s) : PcsAligned (s.trapWr off n v) :=
  h.wr

/-! ### Compressed pages -/

theorem PcsAligned.updPage {s : State} {c t : Nat} {f : CPage → CPage} (h : PcsAligned s) : PcsAligned (s.updPage c t f) :=
  PcsAligned.ite h.frame h.frame

theorem PcsAligned.layOut {s : State} {c t i : Nat} {bs : List Byte} (h : PcsAligned s) : PcsAligned (s.layOut c t i bs) :=
  (PcsAligned.foldl (fun _ _ h2 => h2.wrBytes) h.updPage).frame

theorem PcsAligned.tileWrite {s : State} {c t i : Nat} {bs : List Byte} (h : PcsAligned s) :
    SomeWf PcsAligned (s.tileWrite c t i bs) := by
  unfold State.tileWrite
  extract_lets p f e u
  clear_value p f e
  have hu : PcsAligned u := h.updPage
  split
  · exact .intro hu.wrBytes
  · generalize usedOf (p.packed i f) = used
    split
    · trivial
    · split
      · exact .intro h.layOut
      · exact .intro h.updPage

theorem PcsAligned.layoutDone {s : State} {t : Nat} (h : PcsAligned s) : PcsAligned (s.layoutDone t) := by
  unfold State.layoutDone
  split
  · exact h
  · exact h.layOut

theorem PcsAligned.cpdescWrite {s : State} {c t v : Nat} (h : PcsAligned s) : SomeWf PcsAligned (s.cpdescWrite c t v) := by
  unfold State.cpdescWrite
  dsimp only
  split
  · exact h.updPage
  · exact SomeWf.ite h.updPage.wrBytes trivial
  · exact SomeWf.ite h.updPage trivial
  · exact h.updPage

/-! ### Tasks, objects, cohorts and loans -/

theorem PcsAligned.tcbWr {s : State} {pa k v : Nat} (h : PcsAligned s) : PcsAligned (s.tcbWr pa k v) :=
  h.wr

theorem PcsAligned.tcbSet {s : State} {pa k hi lo v : Nat} (h : PcsAligned s) : PcsAligned (s.tcbSet pa k hi lo v) :=
  h.tcbWr

theorem PcsAligned.updRec {s : State} {k : TaskKey} {f : TaskRec → TaskRec} (h : PcsAligned s) : PcsAligned
    (s.updRec k f) :=
  h

theorem PcsAligned.dropRec {s : State} {k : TaskKey} (h : PcsAligned s) : PcsAligned (s.dropRec k) :=
  h

/-- Saved states are changed, or left out. -/
theorem PcsAligned.saved {s t : State} (h : PcsAligned s) (hpc : t.core.clerk.pc.toNat % 4 = 0)
    (hshadow : ∀ e ∈ t.shadow, ∃ d ∈ s.shadow, e.2.clerk.pc = d.2.clerk.pc) : PcsAligned t :=
  ⟨hpc, fun e he => by
    obtain ⟨d, hd, heq⟩ := hshadow e he
    rw [heq]
    exact h.2 d hd⟩

theorem PcsAligned.updTaskCore {s : State} {k : TaskKey} {f : Core → Core} (h : PcsAligned s)
    (hf : ∀ c, (f c).clerk.pc = c.clerk.pc) : PcsAligned (s.updTaskCore k f) := by
  unfold State.updTaskCore
  split
  · exact h.congr (hf _) rfl
  · refine h.saved h.1 fun e he => ?_
    obtain ⟨d, hd, rfl⟩ := List.mem_map.mp he
    refine ⟨d, hd, ?_⟩
    split
    · exact hf _
    · rfl

theorem PcsAligned.faultRecord {s : State} {w tcb core cause faddr : Nat} (h : PcsAligned s) :
    PcsAligned (s.faultRecord w tcb core cause faddr) :=
  PcsAligned.ite h.updWing h.wr.wr.wr.wr.updWing

theorem PcsAligned.enqueue {s : State} {k : TaskKey} {st : Nat} {left : Option Nat} (h : PcsAligned s) :
    PcsAligned (s.enqueue k st left) := by
  unfold State.enqueue
  split
  · exact h
  · exact h.tcbSet.tcbWr.tcbWr.updWing

theorem PcsAligned.launchTask {s : State} {k : TaskKey} (h : PcsAligned s) : PcsAligned (s.launchTask k) := by
  unfold State.launchTask
  split
  · exact h
  · exact PcsAligned.ite h.dropRec.updMod.frame.tcbWr.tcbWr.tcbSet h.dropRec.updMod.frame.tcbWr.tcbWr.enqueue

theorem PcsAligned.decrementAt {s : State} {k : TaskKey} {pa : Nat} (h : PcsAligned s) : PcsAligned (s.decrementAt k pa) :=
  PcsAligned.ite h.tcbSet (PcsAligned.ite h.tcbSet.enqueue h.tcbSet)

theorem PcsAligned.decrement {s : State} {k : TaskKey} {core : Nat} {pf : Bool} {a : Nat} (h : PcsAligned s) :
    PcsAligned (s.decrement k core pf a) := by
  unfold State.decrement
  split
  · exact h
  · split
    · exact h.faultRecord
    · exact PcsAligned.ite h.decrementAt.tcbSet h.decrementAt

theorem PcsAligned.decrementAll {s : State} {k : TaskKey} {core : Nat} {pf : Bool} (h : PcsAligned s) :
    PcsAligned (s.decrementAll k core pf) := by
  unfold State.decrementAll
  split
  · exact h
  · exact PcsAligned.foldl (fun _ _ h2 => h2.decrement) h

theorem PcsAligned.cancelFrom {fuel : Nat} {l : List (BitVec 12 × Nat)} {s : State} (h : PcsAligned s) :
    PcsAligned (cancelFrom fuel l s) := by
  induction fuel generalizing l s with
  | zero => exact h
  | succ fuel ih =>
    cases l with
    | nil => exact h
    | cons p rest =>
      obtain ⟨ctx, a⟩ := p
      simp only [Machine.cancelFrom]
      split
      · exact ih h
      · split
        · exact ih h
        · exact PcsAligned.ite (ih h.tcbSet.tcbSet.dropRec) (ih h)

theorem PcsAligned.setObj {s : State} {home : Place} {q : List ObjWait} {mode hold gen : Nat} (h : PcsAligned s) :
    PcsAligned (s.setObj home q mode hold gen) :=
  h.frame.wr

theorem PcsAligned.granted {s : State} {home : Place} {k : TaskKey} {gen : Nat} (h : PcsAligned s) :
    PcsAligned (s.granted home k gen) :=
  h.updTaskCore fun _ => rfl

theorem PcsAligned.grantFrom {home : Place} {l : List ObjWait} {mode hold gen : Nat} {s : State} (h : PcsAligned s) :
    PcsAligned (grantFrom home l mode hold gen s) := by
  induction l generalizing mode hold gen s with
  | nil => exact h.setObj
  | cons r t ih =>
    exact PcsAligned.ite (PcsAligned.ite h.setObj.granted h.setObj) (PcsAligned.ite (ih h.granted) h.setObj)

theorem PcsAligned.serve {s : State} {home : Place} {q : List ObjWait} {mode hold gen : Nat} (h : PcsAligned s) :
    PcsAligned (s.serve home q mode hold gen) :=
  h.grantFrom

theorem PcsAligned.objRequest {s : State} {home : Place} {k : TaskKey} {excl : Bool} (h : PcsAligned s) :
    PcsAligned (s.objRequest home k excl) :=
  h.serve

theorem PcsAligned.objRelease {s : State} {home : Place} (h : PcsAligned s) : PcsAligned (s.objRelease home) :=
  PcsAligned.ite h.serve h.setObj

theorem PcsAligned.objWithdraw {s : State} {home : Place} {k : TaskKey} (h : PcsAligned s) : PcsAligned
    (s.objWithdraw home k) :=
  h.serve

theorem PcsAligned.eccHit {s : State} {key : Nat} (h : PcsAligned s) : PcsAligned (s.eccHit key) :=
  h.updWing

theorem PcsAligned.releaseObjects {s : State} {k : TaskKey} (h : PcsAligned s) : PcsAligned (s.releaseObjects k) :=
  (PcsAligned.foldl (fun _ _ h2 => h2.objWithdraw) (PcsAligned.foldl (fun _ _ h2 => PcsAligned.ite h2.objRelease
  h2.objWithdraw)
    (PcsAligned.foldl (fun _ _ h2 => h2.eccHit) h))).updTaskCore fun _ => rfl

theorem PcsAligned.updCohort {s : State} {ctx : BitVec 12} {id : Nat} {f : Cohort → Cohort} (h : PcsAligned s) :
    PcsAligned (s.updCohort ctx id f) :=
  h

theorem PcsAligned.setCohortField {s : State} {k : TaskKey} {id : Nat} (h : PcsAligned s) : PcsAligned
    (s.setCohortField k id) := by
  unfold State.setCohortField
  split
  · exact h.tcbSet
  · exact h

theorem PcsAligned.formCohort {s : State} {ctx : BitVec 12} {id : Nat} (h : PcsAligned s) : PcsAligned
    (s.formCohort ctx id) := by
  unfold State.formCohort
  split
  · exact h
  · exact PcsAligned.ite h (PcsAligned.foldl (fun _ _ h2 => h2.updTaskCore fun _ => rfl) h.updCohort)

theorem PcsAligned.joinCohort {s : State} {k : TaskKey} {core id count : Nat} {running : Bool} (h : PcsAligned s) :
    PcsAligned (s.joinCohort k core id count running) :=
  (PcsAligned.ite h.setCohortField.updCohort h.setCohortField.frame).formCohort

theorem PcsAligned.rejoin {s : State} {ctx : BitVec 12} {id : Nat} {gone : TaskKey} (h : PcsAligned s) :
    PcsAligned (s.rejoin ctx id gone) := by
  unfold State.rejoin
  refine PcsAligned.foldl ?_ h
  intro s2 x h2
  split
  · split
    · split
      · exact h2
      · split
        · exact h2.joinCohort
        · exact PcsAligned.ite h2 (PcsAligned.ite (h2.updTaskCore fun _ => rfl) h2.joinCohort)
    · exact h2
  · exact h2

theorem PcsAligned.leaveCohort {s : State} {k : TaskKey} (h : PcsAligned s) : PcsAligned (s.leaveCohort k) := by
  unfold State.leaveCohort
  split
  · exact h
  · exact PcsAligned.ite h.setCohortField.frame.rejoin h.setCohortField.updCohort

theorem PcsAligned.memberRuns {s : State} {k : TaskKey} {b : Bool} (h : PcsAligned s) : PcsAligned (s.memberRuns k b) :=
  h

theorem PcsAligned.setDecl {s : State} {k : TaskKey} {i : Nat} {st : LoanState} (h : PcsAligned s) : PcsAligned
    (s.setDecl k i st) :=
  h.updRec

theorem PcsAligned.lineWr {s : State} {line key i v : Nat} (h : PcsAligned s) : PcsAligned (s.lineWr line key i v) := by
  unfold State.lineWr
  split
  · exact PcsAligned.ite (PcsAligned.ite h h.ownWrite) h.wr
  · exact h.wr

theorem PcsAligned.logEntry {s : State} {r : TaskRec} {n line dno : Nat} (h : PcsAligned s) :
    SomeWf PcsAligned (s.logEntry r n line dno) := by
  unfold State.logEntry
  split
  · exact trivial
  · refine SomeWf.foldl ?_ h
    intro s2 x3 h2
    split
    · exact trivial
    · split
      · exact trivial
      · exact h2.wr

theorem PcsAligned.undoLogOf {s : State} {k : TaskKey} {rs : List (Nat × Nat)} {va : Nat} (h : PcsAligned s) :
    ExceptWf (fun _ => True) PcsAligned (s.undoLogOf k rs va) := by
  unfold State.undoLogOf
  split
  · exact h
  · refine ExceptWf.ite h (ExceptWf.ite trivial ?_)
    split
    · trivial
    · rename_i e
      have hf : SomeWf PcsAligned (some s) := h
      refine PcsAligned.updRec ((SomeWf.foldl (fun o _ ho => ?_) hf).some e)
      split
      · trivial
      · exact PcsAligned.logEntry ho

theorem PcsAligned.undoLog {s : State} {rs : List (Nat × Nat)} {va : Nat} (h : PcsAligned s) :
    ExceptWf (fun _ => True) PcsAligned (s.undoLog rs va) := by
  unfold State.undoLog
  split
  · exact h
  · exact h.undoLogOf

theorem PcsAligned.grantSet {s : State} {k : TaskKey} {base len : Nat} (h : PcsAligned s) : PcsAligned
    (s.grantSet k base len) :=
  h.updRec

theorem PcsAligned.returnSets {s : State} {k : TaskKey} (h : PcsAligned s) : PcsAligned (s.returnSets k) := by
  unfold State.returnSets
  refine PcsAligned.updRec ?_
  refine PcsAligned.foldl ?_ h.frame
  intro s2 x h2
  split
  · exact h2
  · exact h2.grantSet

theorem PcsAligned.undoBack {r : TaskRec} {n : Nat} {s : State} (h : PcsAligned s) : PcsAligned (undoBack r n s) := by
  induction n generalizing s with
  | zero => exact h
  | succ n ih =>
    rw [Machine.undoBack]
    refine ih ?_
    split
    · exact h
    · refine PcsAligned.ite (PcsAligned.wr (PcsAligned.foldl (fun s i hs => ?_) h)) h
      split
      · exact hs.lineWr
      · exact hs

theorem PcsAligned.updFar {s : State} {c : Nat} {f : FarCore → FarCore} (h : PcsAligned s) : PcsAligned (s.updFar c f) :=
  h

theorem PcsAligned.farSave {s : State} {k : TaskKey} {c : Nat} (h : PcsAligned s) : PcsAligned (s.farSave k c) :=
  PcsAligned.ite h h.frame.updFar

theorem PcsAligned.farRestore {s : State} {k : TaskKey} {c : Nat} (h : PcsAligned s) : PcsAligned (s.farRestore k c) := by
  unfold State.farRestore
  split
  · exact h.frame.updFar
  · exact h

theorem PcsAligned.freeCore {s : State} {c : Nat} (h : PcsAligned s) : PcsAligned (s.freeCore c) :=
  PcsAligned.ite h.frame.frame h.frame

theorem PcsAligned.unqueue {s : State} {k : TaskKey} (h : PcsAligned s) : PcsAligned (s.unqueue k) :=
  h.saved h.1 fun e he => ⟨e, List.mem_of_mem_filter he, rfl⟩

theorem PcsAligned.dropUnits {s : State} {k : TaskKey} (h : PcsAligned s) : PcsAligned (s.dropUnits k) :=
  PcsAligned.ite h.updCore (PcsAligned.ite h.updCore h)

theorem PcsAligned.rollBack {s : State} {k : TaskKey} (h : PcsAligned s) : PcsAligned (s.rollBack k) := by
  unfold State.rollBack
  refine PcsAligned.returnSets ?_
  refine PcsAligned.updRec ?_
  refine PcsAligned.dropUnits ?_
  refine PcsAligned.leaveCohort ?_
  refine PcsAligned.releaseObjects ?_
  split
  · exact h.undoBack
  · exact h

theorem PcsAligned.countRestart {s : State} {k : TaskKey} (h : PcsAligned s) : PcsAligned (s.countRestart k) := by
  unfold State.countRestart
  split
  · exact h.tcbSet
  · exact h

theorem PcsAligned.restart {s : State} {k : TaskKey} (h : PcsAligned s) : PcsAligned (s.restart k) :=
  h.frame.countRestart.enqueue

theorem PcsAligned.rollRestart {s : State} {k : TaskKey} (h : PcsAligned s) : PcsAligned (s.rollRestart k) :=
  h.rollBack.unqueue.frame.memberRuns.restart

theorem PcsAligned.withdraw {s : State} {k : TaskKey} (h : PcsAligned s) : PcsAligned (s.withdraw k) :=
  h

theorem PcsAligned.startRecall {s : State} {k : TaskKey} (h : PcsAligned s) : PcsAligned (s.startRecall k) :=
  PcsAligned.ite h (PcsAligned.ite h.frame.withdraw h.rollRestart)

theorem PcsAligned.newEntry {s : State} {k : TaskKey} {i : Nat} {d : Decl} {w : Nat} {ctx : BitVec 12} (h : PcsAligned s) :
    TouchPcs (s.newEntry k i d w ctx) :=
  h.frame.setDecl

theorem PcsAligned.setFilled {s : State} {k : TaskKey} {base len : Nat} (h : PcsAligned s) : PcsAligned
    (s.setFilled k base len) :=
  PcsAligned.ite (PcsAligned.foldl (fun _ _ h2 => h2.filled) h) h

theorem PcsAligned.firstTouch {s : State} {k : TaskKey} {task : Bool} {kind : AccKind} {i : Nat} {d : Decl} {va : Nat} (h
    : PcsAligned s) :
    TouchPcs (s.firstTouch k task kind i d va) := by
  unfold State.firstTouch
  dsimp only
  split
  · exact TouchPcs.ite h.setFilled h.setFilled
  · split
    · exact h.setFilled
    · split
      · exact PcsAligned.ite h.setFilled.setDecl.frame.startRecall h.setFilled.setDecl.frame
      · split
        · exact TouchPcs.ite (PcsAligned.ite h.setFilled.setDecl.startRecall h.setFilled.setDecl) h.setFilled.newEntry
        · exact h.setFilled.newEntry

theorem PcsAligned.touchDecl {s : State} {k : TaskKey} {task : Bool} {kind : AccKind} {i : Nat} {d : Decl} {va : Nat} (h
    : PcsAligned s) :
    TouchPcs (s.touchDecl k task kind i d va) := by
  unfold State.touchDecl
  split
  · exact h
  · exact TouchPcs.ite h h.setDecl.firstTouch
  · exact TouchPcs.ite h h.firstTouch

theorem PcsAligned.touchAll {k : TaskKey} {task : Bool} {kind : AccKind} {va : Nat} {l : List (Nat × Decl)} {s : State}
    (h : PcsAligned s) : TouchPcs (touchAll k task kind va l s) := by
  induction l generalizing s with
  | nil => exact h
  | cons p t ih =>
    rw [Machine.touchAll]
    split
    · rename_i t e
      exact ih (h.touchDecl.ok e)
    · exact h.touchDecl

theorem PcsAligned.touchOf {s : State} {k : TaskKey} {task : Bool} {canon n va : Nat} {kind : AccKind} {free : Bool} (h :
    PcsAligned s) :
    TouchPcs (s.touchOf k task canon n va kind free) := by
  unfold State.touchOf
  split
  · exact h
  · exact TouchPcs.ite h h.touchAll

theorem PcsAligned.touch {s : State} {task : Bool} {canon n va : Nat} {kind : AccKind} {free : Bool} (h : PcsAligned s) :
    TouchPcs (s.touch task canon n va kind free) := by
  unfold State.touch
  split
  · exact h
  · exact h.touchOf

theorem TouchPcs.precise {a : Touch} (h : TouchPcs a) : TouchPcs a.precise := by
  unfold Touch.precise
  split
  · exact h
  · exact h

theorem TouchPcs.logged {t : Touch} {kind : AccKind} {rs : List (Nat × Nat)} {va : Nat} (h : TouchPcs t) :
    TouchPcs (t.logged kind rs va) := by
  unfold Touch.logged
  split
  · split
    · split
      · exact h
      · rename_i e
        exact h.undoLog.ok e
    · exact h
  · exact h

theorem PcsAligned.faultTask {s : State} {k : TaskKey} {core cause faddr : Nat} (h : PcsAligned s) :
    PcsAligned (s.faultTask k core cause faddr) := by
  unfold State.faultTask
  split
  · exact h.rollBack.unqueue.dropRec
  · refine PcsAligned.dropRec ?_
    split
    · exact h.tcbSet.tcbSet.rollBack.unqueue.tcbSet.faultRecord.frame.cancelFrom
    · exact h.tcbSet.tcbSet.rollBack.unqueue.tcbSet.faultRecord.frame.decrementAll
    · exact h.tcbSet.tcbSet.rollBack.unqueue.tcbSet.faultRecord.frame

/-! ### The operations that the instructions of the clerk share -/

theorem PcsAligned.tick {s : State} (h : PcsAligned s) : PcsAligned s.tick :=
  h.frame.updClerk

theorem PcsAligned.wake {s : State} (h : PcsAligned s) : PcsAligned s.wake :=
  h.updClerk

theorem PcsAligned.setPc {s : State} {v : BitVec 48} (h : PcsAligned s) : PcsAligned (s.setPc v) :=
  h.jump

theorem pendCause_clerk_pc (c : Clerk) (code faddr detail : Nat) : (c.pendCause code faddr detail).pc = c.pc := by
  unfold Clerk.pendCause
  split
  · rfl
  · dsimp only
    split <;> rfl

theorem PcsAligned.pendCause {s : State} {code faddr detail : Nat} (h : PcsAligned s) : PcsAligned
    (s.pendCause code faddr detail) :=
  h.keepPc fun _ => pendCause_clerk_pc ..

theorem PcsAligned.finishUnfin {s : State} {k : Nat} {v : Qword} (h : PcsAligned s) : PcsAligned (s.finishUnfin k v) :=
  h.updClerk

theorem PcsAligned.dropUnfin {s : State} {k : Nat} (h : PcsAligned s) : PcsAligned (s.dropUnfin k) :=
  h.updClerk

theorem PcsAligned.trapWords {s : State} {off : Nat} {ws : List Nat} (h : PcsAligned s) : PcsAligned
    (s.trapWords off ws) := by
  obtain ⟨m, p, l, hwords⟩ := s.trapWords_eq off ws
  rw [hwords]
  exact h

theorem PcsAligned.doubleHalt {s : State} {cause addr : Nat} (h : PcsAligned s) : PcsAligned (s.doubleHalt cause addr) := by
  unfold State.doubleHalt
  dsimp only
  split
  · exact h.updClerk
  · exact h.updClerk.faultTask.frame

theorem PcsAligned.enterTrap {s : State} {t : Trap} {flt : Option Nat} {rest : List (List Nat)} (h : PcsAligned s) :
    PcsAligned (s.enterTrap t flt rest) :=
  PcsAligned.ite h.doubleHalt
    ((h.keepPc fun c => c.drain_keeps.1).trapWords.trapWords.jump)

theorem PcsAligned.trapAt {s : State} {u : Unfin} {l : Latch} {n : Nat} {f : Flt} (h : PcsAligned s) :
    PcsAligned (s.trapAt u l n f) :=
  h.updClerk.enterTrap

theorem PcsAligned.trapInstr {s : State} {i : Instr} {d : Reg} {ea : Nat} {b : Dword} {f : Flt} (h : PcsAligned s) :
    PcsAligned (s.trapInstr i d ea b f) :=
  h.trapAt

theorem PcsAligned.trapUnfin {s : State} {k : Nat} {f : Flt} (h : PcsAligned s) : PcsAligned (s.trapUnfin k f) := by
  unfold State.trapUnfin
  split
  · exact h
  · exact h.enterTrap

theorem PcsAligned.trapPlain {s : State} {cause addr detail : Nat} {fpc rpc : BitVec 48} (h : PcsAligned s) :
    PcsAligned (s.trapPlain cause addr detail fpc rpc) :=
  h.enterTrap

theorem PcsAligned.takeAsync {s : State} (h : PcsAligned s) : PcsAligned s.takeAsync := by
  unfold State.takeAsync
  split
  · exact h
  · exact h.updClerk.enterTrap

theorem PcsAligned.privileged {s : State} {i : Instr} {f : State → State} (h : PcsAligned s)
    (h2 : ∀ t, PcsAligned t → PcsAligned (f t)) : PcsAligned (s.privileged i f) :=
  PcsAligned.ite h.trapInstr (h2 _ h)

theorem PcsAligned.orFlags {s : State} {f : FFlags} (h : PcsAligned s) : PcsAligned (s.orFlags f) :=
  h.updClerk

theorem PcsAligned.finishFp {s : State} {i : Instr} {d : Reg} {b v : Dword} {f : FFlags} (h : PcsAligned s) :
    PcsAligned (s.finishFp i d b v f) :=
  PcsAligned.ite h.orFlags.trapInstr h.orFlags.finish

theorem PcsAligned.transRecord {s : State} {va reason acc unit col row : Nat} (h : PcsAligned s) :
    PcsAligned (s.transRecord va reason acc unit col row).2 := by
  unfold State.transRecord
  dsimp only
  split
  · exact h.trapWr.trapWr.trapWr.pendCause
  · exact h.trapWr.pendCause

theorem PcsAligned.fabRecord {s : State} {cmd reason cause kind unit col row pos addr det : Nat} (h : PcsAligned s) :
    PcsAligned (s.fabRecord cmd reason cause kind unit col row pos addr det) :=
  PcsAligned.ite h.trapWr.trapWr.trapWr.trapWr.trapWr.pendCause h.trapWr.pendCause

theorem PcsAligned.pendWatch {s : State} {va detail : Nat} (h : PcsAligned s) : PcsAligned (s.pendWatch va detail) :=
  PcsAligned.pendCause (by split <;> exact h)

theorem PcsAligned.fetchWord {s : State} {va : Nat} (h : PcsAligned s) :
    ExceptWf (fun x => PcsAligned x.st) (fun p => PcsAligned p.2) (s.fetchWord va) := by
  unfold State.fetchWord
  dsimp only
  split
  · exact h.filled
  · split
    · exact h.fillRes
    · exact ExceptWf.ite h.fillRes.eccHit h.fillRes

theorem PcsAligned.fetchMore {s : State} {va n : Nat} (h : PcsAligned s) :
    ExceptWf (fun x => PcsAligned x.st) (fun p => PcsAligned p.2) (s.fetchMore va n) := by
  induction n generalizing s va with
  | zero => exact h
  | succ n ih =>
    rw [State.fetchMore]
    split
    · rename_i e
      exact h.fetchWord.error e
    · rename_i t e
      have ht : PcsAligned t := h.fetchWord.ok e
      split
      · rename_i e2
        exact (ih ht).error e2
      · rename_i e2
        have hs := (ih ht).ok e2
        exact hs

theorem PcsAligned.fetch {s : State} (h : PcsAligned s) : ExceptWf (fun x => PcsAligned x.st) (fun p => PcsAligned p.2)
    s.fetch := by
  unfold State.fetch
  dsimp only
  split
  · rename_i e
    exact h.fetchWord.error e
  · rename_i e
    split
    · rename_i e2
      exact (h.fetchWord.ok e).fetchMore.error e2
    · rename_i e2
      exact ((h.fetchWord.ok e).fetchMore.ok e2).frame

theorem PcsAligned.trapEncoding {s : State} {u : Unfin} {n : Nat} {reserved : Bool} (h : PcsAligned s) :
    PcsAligned (s.trapEncoding u n reserved) :=
  h.trapAt

theorem PcsAligned.trapReject {s : State} {ws : List Word} {r : Reject} (h : PcsAligned s) : PcsAligned
    (s.trapReject ws r) :=
  h.trapEncoding

theorem PcsAligned.redoReject {s : State} {reserved : Bool} (h : PcsAligned s) : PcsAligned (s.redoReject reserved) := by
  unfold State.redoReject
  split
  · exact h.trapEncoding
  · exact h

theorem PcsAligned.clerkTurn {s : State} (h : PcsAligned s) : ExceptWf PcsAligned (fun p => PcsAligned p.2) s.clerkTurn :=
    by
  unfold State.clerkTurn
  dsimp only
  split
  · exact h
  · split
    · exact h.jump
    · split
      · exact h
      · split
        · exact ExceptWf.ite h h.trapPlain
        · split
          · exact h.takeAsync
          · split
            · exact h
            · split
              · exact ExceptWf.ite h h
              · exact h.redoReject
              · split
                · exact h
                · split
                  · rename_i e3
                    exact (h.fetch.error e3).trapPlain
                  · rename_i e3
                    split
                    · exact PcsAligned.ite (h.fetch.ok e3).trapReject (h.fetch.ok e3)
                    · exact ExceptWf.ite (h.fetch.ok e3) (h.fetch.ok e3)

theorem PcsAligned.prepare {s : State} {i : Instr} (h : PcsAligned s) : PcsAligned (s.prepare i) :=
  PcsAligned.foldl (fun _ _ h2 => h2.setKreg) (PcsAligned.foldl (fun _ _ h2 => h2.setReg) h)

theorem PcsAligned.giveBack {s : State} {i : Instr} {completed : Bool} {t : State} (h : PcsAligned t) :
    PcsAligned (s.giveBack i completed t) :=
  PcsAligned.foldl (fun _ _ h2 => h2.setKreg) (PcsAligned.foldl (fun _ _ h2 => PcsAligned.ite h2 h2.setReg) h)

/-! ### In-bank transforms -/

theorem PcsAligned.xfPerform {s : State} {w : Nat} (h : PcsAligned s) : ExceptWf (fun _ => True) PcsAligned
    (s.xfPerform w) := by
  unfold State.xfPerform
  split
  · exact trivial
  · exact (PcsAligned.foldl (fun _ _ h2 => h2.wrBytes) h).orFlags

/-! ### Issue -/

theorem PcsAligned.emptyDest {s : State} {x : Src} (h : PcsAligned s) : PcsAligned (s.emptyDest x) :=
  h.congr (emptyDest_keeps s x).2.2.1 rfl

theorem PcsAligned.push {s : State} {x : Src} {u : Unfin} (h : PcsAligned s) : PcsAligned (s.push x u) :=
  h.emptyDest.updClerk

theorem PcsAligned.pushDone {s : State} {x : Src} {ea : Nat} {b c v : Dword} (h : PcsAligned s) :
    PcsAligned (s.pushDone x ea b c v) :=
  h.push

theorem notRedone_pc (c : Clerk) (pc : BitVec 48) : (c.notRedone pc).pc = c.pc := by
  unfold Clerk.notRedone
  split
  · split <;> rfl
  · rfl

theorem PcsAligned.trapSrc {s : State} {x : Src} {ea : Nat} {b c : Dword} {f : Flt} (h : PcsAligned s) :
    PcsAligned (s.trapSrc x ea b c f) :=
  (h.push.keepPc fun _ => notRedone_pc ..).enterTrap

theorem PcsAligned.checked {s : State} {x : Src} {page : Option Nat} {ea : Nat} {b c : Dword} {now : State}
    (h : PcsAligned s)
    (h2 : PcsAligned now) :
    PcsAligned (s.checked x page ea b c now) :=
  PcsAligned.ite h.push h2

theorem PcsAligned.loanChecks {s : State} {issued : Bool} {kind : AccKind} {ea n : Nat} {pl : Place} (h : PcsAligned s) :
    TouchPcs (s.loanChecks issued kind ea n pl) := by
  unfold State.loanChecks
  dsimp only
  split
  · rename_i e
    split
    · exact h.touch.precise.ok e
    · exact TouchPcs.logged (h.touch.precise.ok e)
  · exact h.touch.precise

theorem PcsAligned.walked {s : State} {ea : Nat} {f : Flt} (h : PcsAligned s) : PcsAligned (s.walked ea f) :=
  PcsAligned.ite h.filled h

theorem PcsAligned.access {s : State} {x : Src} {kind : AccKind} {ea n : Nat} {b c : Dword} {work : Place → Work} (h :
    PcsAligned s) :
    PcsAligned (s.access x kind ea n b c work) := by
  unfold State.access
  dsimp only
  refine PcsAligned.checked h ?_
  split
  · exact h.walked.trapSrc
  · split
    · rename_i e2
      exact (h.fillRes.loanChecks.fault e2).trapSrc
    · rename_i e2
      exact (h.fillRes.loanChecks.stall e2).trapSrc
    · rename_i e2
      exact (h.fillRes.loanChecks.wait e2).push
    · rename_i e2
      exact (h.fillRes.loanChecks.ok e2).push

theorem PcsAligned.issueLoad {s : State} {x : Src} {w : LoadWidth} {ea : Nat} (h : PcsAligned s) : PcsAligned
    (s.issueLoad x w ea) :=
  h.access

theorem PcsAligned.issueStore {s : State} {x : Src} {n ea : Nat} {v : Dword} (h : PcsAligned s) :
    PcsAligned (s.issueStore x n ea v) :=
  h.access

theorem PcsAligned.issueAtomic {s : State} {x : Src} {op : AtomicOp} {o : AmoOrder} {ea : Nat} {b c : Dword} (h : PcsAligned
    s) :
    PcsAligned (s.issueAtomic x op o ea b c) :=
  h.access

theorem PcsAligned.issueKld {s : State} {x : Src} {ea : Nat} (h : PcsAligned s) : PcsAligned (s.issueKld x ea) :=
  h.access

theorem PcsAligned.issueKst {s : State} {x : Src} {ea : Nat} {lo hi : Dword} (h : PcsAligned s) :
    PcsAligned (s.issueKst x ea lo hi) :=
  h.access

theorem PcsAligned.issueAcquire {s : State} {x : Src} {excl : Bool} {ea : Nat} (h : PcsAligned s) :
    PcsAligned (s.issueAcquire x excl ea) := by
  unfold State.issueAcquire
  dsimp only
  refine PcsAligned.checked h ?_
  split
  · exact h.walked.trapSrc
  · split
    · exact PcsAligned.ite (PcsAligned.ite h.fillRes.pushDone h.fillRes.push) h.fillRes.trapSrc
    · exact PcsAligned.ite h.fillRes.trapSrc h.fillRes.push.updClerk

theorem PcsAligned.issueRelease {s : State} {x : Src} {ea : Nat} (h : PcsAligned s) : PcsAligned (s.issueRelease x ea) := by
  unfold State.issueRelease
  refine PcsAligned.checked h ?_
  split
  · exact h.trapSrc
  · exact h.push

theorem PcsAligned.issueWaitw {s : State} {x : Src} {ea : Nat} {b : Dword} (h : PcsAligned s) :
    PcsAligned (s.issueWaitw x ea b) := by
  unfold State.issueWaitw
  refine PcsAligned.checked h ?_
  split
  · exact h.walked.trapSrc
  · split
    · exact h.fillRes.trapSrc
    · exact h.fillRes.trapSrc
    · exact h.fillRes.trapSrc
    · exact h.fillRes.push

theorem PcsAligned.issueJoin {s : State} {x : Src} {id cnt : Nat} (h : PcsAligned s) : PcsAligned (s.issueJoin x id cnt) :=
    by
  unfold State.issueJoin
  split
  · exact h
  · split
    · exact h.trapSrc
    · split
      · split
        · split
          · split
            · exact h.pushDone
            · exact h.push
          · exact h
        · exact h.push
      · exact h.push

theorem PcsAligned.issueLoan {s : State} {x : Src} {base len : Nat} (h : PcsAligned s) : PcsAligned
    (s.issueLoan x base len) := by
  unfold State.issueLoan
  dsimp only
  refine PcsAligned.checked h ?_
  split
  · exact h
  · split
    · exact h.trapSrc
    · split
      · exact h.trapSrc
      · exact h.pushDone
      · exact PcsAligned.ite h.pushDone h.updRec.pushDone

theorem PcsAligned.issueLstat {s : State} {x : Src} {n : Nat} (h : PcsAligned s) : PcsAligned (s.issueLstat x n) := by
  unfold State.issueLstat
  refine PcsAligned.checked h ?_
  split
  · exact h
  · exact PcsAligned.ite h.pushDone (PcsAligned.ite h.pushDone h.trapSrc)

theorem PcsAligned.bindOp {s : State} {obj base len : Nat} (h : PcsAligned s) : PcsAligned (s.bindOp obj base len).2 := by
  unfold State.bindOp
  dsimp only
  split
  · exact h
  · split
    · exact h
    · split
      · exact h.walked
      · split
        · exact h.fillRes
        · split
          · exact h.fillRes
          · generalize List.range 1024 = l
            split
            · exact h.fillRes
            · exact h.fillRes.frame

theorem PcsAligned.issueBind {s : State} {x : Src} {obj base len : Nat} (h : PcsAligned s) :
    PcsAligned (s.issueBind x obj base len) :=
  PcsAligned.ite h.pushDone h.push

theorem PcsAligned.unbindOp {s : State} {base : Nat} (h : PcsAligned s) : PcsAligned (s.unbindOp base).2 := by
  unfold State.unbindOp
  dsimp only
  split
  · exact h
  · split
    · exact h
    · exact h

theorem PcsAligned.issueUnbind {s : State} {x : Src} {base : Nat} (h : PcsAligned s) : PcsAligned (s.issueUnbind x base) :=
  PcsAligned.ite h.pushDone h.push

theorem PcsAligned.deferSpawn {s : State} {k : TaskKey} {tcb : Nat} (h : PcsAligned s) :
    ExceptWf (fun _ => True) (fun p => PcsAligned p.2) (s.deferSpawn k tcb) :=
  ExceptWf.ite h (ExceptWf.ite trivial h.updRec)

theorem PcsAligned.issueSpawn {s : State} {x : Src} {tcb : Nat} (h : PcsAligned s) : PcsAligned (s.issueSpawn x tcb) := by
  unfold State.issueSpawn
  refine PcsAligned.checked h ?_
  split
  · split
    · split
      · exact h.trapSrc
      · rename_i e2
        exact (h.deferSpawn.ok e2).pushDone
    · exact h.push
  · exact h.push

theorem PcsAligned.issueArm {s : State} {x : Src} {tcb : Nat} {cnt : Dword} (h : PcsAligned s) :
    PcsAligned (s.issueArm x tcb cnt) := by
  unfold State.issueArm
  refine PcsAligned.checked h ?_
  split
  · exact h.walked.trapSrc
  · exact h.filled.push

theorem PcsAligned.issueRls {s : State} {x : Src} {tcb : Nat} (h : PcsAligned s) : PcsAligned (s.issueRls x tcb) := by
  unfold State.issueRls
  refine PcsAligned.checked h ?_
  split
  · exact h.walked.trapSrc
  · exact h.filled.push

theorem PcsAligned.tagInsert {s : State} {a : Nat} (h : PcsAligned s) : PcsAligned (s.tagInsert a).2 := by
  unfold State.tagInsert
  dsimp only
  split
  · exact h
  · split
    · exact h.setTag
    · exact h

theorem PcsAligned.issueTag {s : State} {x : Src} {op : TagOp} {a : Nat} (h : PcsAligned s) : PcsAligned
    (s.issueTag x op a) :=
  h.push

theorem PcsAligned.touchRanges {task : Bool} {va : Nat} {kind : AccKind} {l : List (Nat × Nat)} {s : State}
    (h : PcsAligned s) :
    TouchPcs (touchRanges task va kind l s) := by
  induction l generalizing s with
  | nil => exact h
  | cons p t ih =>
    rw [Machine.touchRanges]
    split
    · rename_i t e
      exact ih (h.touch.ok e)
    · exact h.touch

theorem PcsAligned.xfLoans {s : State} {task : Bool} {w va : Nat} (h : PcsAligned s) : TouchPcs (s.xfLoans task w va) := by
  unfold State.xfLoans
  split
  · rename_i e
    exact (h.touchRanges.ok e).touchRanges.logged
  · exact h.touchRanges

theorem PcsAligned.issueXbank {s : State} {x : Src} {lo hi : Dword} (h : PcsAligned s) : PcsAligned
    (s.issueXbank x lo hi) := by
  unfold State.issueXbank
  dsimp only
  split
  · exact h.trapSrc
  · refine PcsAligned.checked h ?_
    split
    · rename_i e
      exact (h.xfLoans.fault e).trapSrc
    · rename_i e
      exact (h.xfLoans.stall e).trapSrc
    · rename_i e
      exact (h.xfLoans.wait e).push
    · rename_i e
      exact (h.xfLoans.ok e).push

/-! ### Atomics -/

theorem PcsAligned.atomicAt {s : State} {i : Instr} {op : AtomicOp} {d : Reg} {ea : Nat} {b c : Dword} {o : AmoOrder} (h
    : PcsAligned s) :
    NextPcs (s.atomicAt i op d ea b c o) :=
  (h.advanceBy (n := 8) rfl).issueAtomic

theorem PcsAligned.execAmoadd {d a b : Reg} {imm : BitVec 16} {o : AmoOrder} {s : State} (h : PcsAligned s) :
    NextPcs (execAmoadd d a b imm o s) :=
  h.atomicAt

theorem PcsAligned.execAmoand {d a b : Reg} {imm : BitVec 16} {o : AmoOrder} {s : State} (h : PcsAligned s) :
    NextPcs (execAmoand d a b imm o s) :=
  h.atomicAt

theorem PcsAligned.execAmoor {d a b : Reg} {imm : BitVec 16} {o : AmoOrder} {s : State} (h : PcsAligned s) :
    NextPcs (execAmoor d a b imm o s) :=
  h.atomicAt

theorem PcsAligned.execAmoxor {d a b : Reg} {imm : BitVec 16} {o : AmoOrder} {s : State} (h : PcsAligned s) :
    NextPcs (execAmoxor d a b imm o s) :=
  h.atomicAt

theorem PcsAligned.execAmomin {d a b : Reg} {imm : BitVec 16} {o : AmoOrder} {s : State} (h : PcsAligned s) :
    NextPcs (execAmomin d a b imm o s) :=
  h.atomicAt

theorem PcsAligned.execAmomax {d a b : Reg} {imm : BitVec 16} {o : AmoOrder} {s : State} (h : PcsAligned s) :
    NextPcs (execAmomax d a b imm o s) :=
  h.atomicAt

theorem PcsAligned.execAmominu {d a b : Reg} {imm : BitVec 16} {o : AmoOrder} {s : State} (h : PcsAligned s) :
    NextPcs (execAmominu d a b imm o s) :=
  h.atomicAt

theorem PcsAligned.execAmomaxu {d a b : Reg} {imm : BitVec 16} {o : AmoOrder} {s : State} (h : PcsAligned s) :
    NextPcs (execAmomaxu d a b imm o s) :=
  h.atomicAt

theorem PcsAligned.execAmoswap {d a b : Reg} {imm : BitVec 16} {o : AmoOrder} {s : State} (h : PcsAligned s) :
    NextPcs (execAmoswap d a b imm o s) :=
  h.atomicAt

theorem PcsAligned.execAmofadd {d a b : Reg} {imm : BitVec 16} {o : AmoOrder} {s : State} (h : PcsAligned s) :
    NextPcs (execAmofadd d a b imm o s) :=
  h.atomicAt

theorem PcsAligned.execAmocas {d a b c : Reg} {imm : BitVec 16} {o : AmoOrder} {s : State} (h : PcsAligned s) :
    NextPcs (execAmocas d a b c imm o s) :=
  h.atomicAt

/-! ### The copy engines -/

theorem PcsAligned.updCe {s : State} {e : Nat} {f : Ce → Ce} (h : PcsAligned s) : PcsAligned (s.updCe e f) :=
  h

theorem PcsAligned.updHandle {s : State} {h2 : Nat} {f : Handle → Handle} (h : PcsAligned s) : PcsAligned
    (s.updHandle h2 f) :=
  PcsAligned.ite h.frame h.frame.wake

theorem PcsAligned.cePlace {s : State} {k : AccKind} {ctx : BitVec 12} {va n : Nat} (h : PcsAligned s) :
    ExceptWf (fun p => PcsAligned p.2) (fun _ => True) (s.cePlace k ctx va n) := by
  unfold State.cePlace
  split
  · exact h
  · split
    · exact h.filled
    · exact ExceptWf.ite trivial h.fillRes

theorem PcsAligned.ceRead {s : State} {ctx : BitVec 12} {va n : Nat} (h : PcsAligned s) :
    ExceptWf (fun p => PcsAligned p.2) (fun p => PcsAligned p.2) (s.ceRead ctx va n) := by
  unfold State.ceRead
  split
  · rename_i e
    exact h.cePlace.error e
  · split
    · exact h.fillRes
    · exact h.fillRes

theorem PcsAligned.watchEngine {s : State} {e va n : Nat} (h : PcsAligned s) : PcsAligned (s.watchEngine e va n) := by
  unfold State.watchEngine
  split
  · exact h.pendWatch.updCe
  · exact h

theorem PcsAligned.clearRun {s : State} {key n va : Nat} {cover : Nat × Nat} (h : PcsAligned s) :
    ExceptWf (fun _ => True) PcsAligned (s.clearRun key n va cover) := by
  unfold State.clearRun
  dsimp only
  split
  · exact trivial
  · exact h

theorem PcsAligned.ceWrite {s : State} {e : Nat} {ctx : BitVec 12} {va : Nat} {bs : List Byte} {cover : Nat × Nat} (h :
    PcsAligned s) :
    ExceptWf (fun p => PcsAligned p.2) PcsAligned (s.ceWrite e ctx va bs cover) := by
  unfold State.ceWrite
  dsimp only
  split
  · rename_i e2
    exact h.cePlace.error e2
  · split
    · exact h.fillRes
    · split
      · exact h.fillRes
      · split
        · exact h.fillRes
        · rename_i e5
          split
          · exact (h.fillRes.clearRun.ok e5).watchEngine.ownWrite
          · exact (h.fillRes.clearRun.ok e5).watchEngine.wrBytes

theorem PcsAligned.cePeek {s : State} {ctx : BitVec 12} {va n : Nat} (h : PcsAligned s) :
    ExceptWf (fun p => PcsAligned p.2) (fun p => PcsAligned p.2) (s.cePeek ctx va n) := by
  induction n generalizing s va with
  | zero => exact h
  | succ n ih =>
    rw [State.cePeek]
    split
    · rename_i e
      exact h.ceRead.error e
    · rename_i b e
      have hb : PcsAligned b.2 := h.ceRead.ok e
      split
      · rename_i e2
        exact (ih hb).error e2
      · rename_i e2
        have ht := (ih hb).ok e2
        exact ht

theorem PcsAligned.packedSpan {s : State} {ctx : BitVec 12} {va n : Nat} (h : PcsAligned s) :
    ExceptWf PcsAligned (fun p => PcsAligned p.2) (s.packedSpan ctx va n) := by
  induction n generalizing s va with
  | zero => exact h
  | succ n ih =>
    rw [State.packedSpan]
    split
    · rename_i e
      exact h.cePeek.error e
    · rename_i e
      have ht := h.cePeek.error e
      exact ht
    · rename_i b e
      have hb : PcsAligned b.2 := h.cePeek.ok e
      dsimp only
      split
      · rename_i e2
        exact (ih hb).error e2
      · rename_i e2
        have ht := (ih hb).ok e2
        exact ht

theorem PcsAligned.compressSpan {s : State} {ctx : BitVec 12} {r : List Dword} {n : Nat} (h : PcsAligned s) :
    ExceptWf PcsAligned (fun p => PcsAligned p.2) (s.compressSpan ctx r n) := by
  induction n with
  | zero => exact h
  | succ n ih =>
    rw [State.compressSpan]
    split
    · rename_i e
      exact ih.error e
    · rename_i b e
      have hb : PcsAligned b.2 := ih.ok e
      split
      · rename_i e2
        exact hb.cePeek.error e2
      · rename_i e2
        have ht := hb.cePeek.error e2
        exact ht
      · rename_i e2
        have ht := hb.cePeek.ok e2
        exact ht

theorem PcsAligned.recSpan {s : State} {ctx : BitVec 12} {r : List Dword} (h : PcsAligned s) :
    ExceptWf PcsAligned (fun p => PcsAligned p.2) (s.recSpan ctx r) := by
  unfold State.recSpan
  split
  · exact ExceptWf.map (fun _ hp => hp) h.compressSpan
  · exact h.packedSpan
  · exact h

theorem PcsAligned.recOverlap {s : State} {ctx : BitVec 12} {r : List Dword} (h : PcsAligned s) :
    ExceptWf PcsAligned (fun p => PcsAligned p.2) (s.recOverlap ctx r) :=
  ExceptWf.map (fun _ hp => hp) h.recSpan

theorem PcsAligned.ceFetch {s : State} {e va fin : Nat} (h : PcsAligned s) :
    ExceptWf (fun p => PcsAligned p.2) PcsAligned (s.ceFetch e va fin) := by
  unfold State.ceFetch
  dsimp only
  split
  · rename_i e2
    exact h.ceRead.error e2
  · rename_i e2
    exact (h.ceRead.ok e2).updCe

theorem PcsAligned.ceNeed {s : State} {e : Nat} {x : CeErr} (h : PcsAligned s) :
    ExceptWf (fun p => PcsAligned p.2) PcsAligned (s.ceNeed e x) := by
  unfold State.ceNeed
  split
  · exact h.ceFetch
  · exact h

theorem PcsAligned.ceScan {s : State} {e i : Nat} (h : PcsAligned s) : ExceptWf (fun p => PcsAligned p.2) PcsAligned
    (s.ceScan e i) := by
  unfold State.ceScan
  dsimp only
  split
  · rename_i e2
    exact (h.ceRead.error e2).updCe
  · rename_i e2
    exact h.ceRead.error e2
  · rename_i e2
    exact (h.ceRead.ok e2).updCe

theorem PcsAligned.ceElems {s : State} {e : Nat} {left : Option Nat} (h : PcsAligned s) :
    ExceptWf (fun p => PcsAligned p.2) PcsAligned (s.ceElems e left) := by
  unfold State.ceElems
  dsimp only
  split
  · split
    · rename_i e3
      split
      · exact h.ceFetch.error e3
      · split
        · rename_i e4
          exact (h.ceFetch.error e3).ceWrite.error e4
        · rename_i e4
          exact ((h.ceFetch.error e3).ceWrite.ok e4).orFlags.updCe
    · exact h.ceFetch
  · split
    · exact h
    · split
      · rename_i e3
        exact h.ceWrite.error e3
      · rename_i e3
        exact (h.ceWrite.ok e3).orFlags.updCe
  · split
    · rename_i e3
      exact h.ceWrite.error e3
    · rename_i e3
      exact (h.ceWrite.ok e3).orFlags.updCe

theorem PcsAligned.ceEntries {e : Nat} {ctx : BitVec 12} {cover : Nat × Nat} {va : Nat} {bs : List Byte} {n : Nat} {s :
    State}
    (h : PcsAligned s) : PcsAligned (ceEntries e ctx cover va bs n s).2.1 := by
  induction n generalizing va bs s with
  | zero => exact h
  | succ n ih =>
    rw [Machine.ceEntries]
    split
    · exact h
    · rename_i t hr
      refine ih ?_
      cases hw : s.ceWrite e ctx va (bs.take (min 3 (64 - va % 64))) cover with
      | error x => simp [hw, Except.bind] at hr
      | ok u =>
        have hu : PcsAligned u := h.ceWrite.ok hw
        simp only [hw, Except.bind] at hr
        split at hr
        · cases hr
          exact hu
        · exact hu.ceWrite.ok hr

theorem PcsAligned.ceRun {s : State} {e : Nat} {u : WriteRun} {left : Option Nat} (h : PcsAligned s) :
    PcsAligned (s.ceRun e u left).2.1 := by
  unfold State.ceRun
  dsimp only
  split
  · exact h.ceEntries
  · split
    · rename_i e2
      exact h.ceWrite.error e2
    · rename_i e2
      exact h.ceWrite.ok e2

theorem PcsAligned.ceRowDone {s : State} {e : Nat} (h : PcsAligned s) :
    ExceptWf (fun p => PcsAligned p.2) PcsAligned (s.ceRowDone e) := by
  unfold State.ceRowDone
  dsimp only
  split
  · exact ExceptWf.ite h h.updCe
  · exact h

theorem PcsAligned.ceRows {s : State} {e : Nat} {left : Option Nat} (h : PcsAligned s) :
    ExceptWf (fun p => PcsAligned p.2) PcsAligned (s.ceRows e left) := by
  unfold State.ceRows
  dsimp only
  split
  · split
    · exact h.ceRun.orFlags.updCe
    · exact h.ceRun.orFlags.updCe.ceRowDone
  · exact h.ceRowDone
  · split
    · exact h.ceNeed
    · exact h.updCe.ceRowDone

theorem PcsAligned.cePay {s : State} {e : Nat} {stopping : Bool} (h : PcsAligned s) :
    ExceptWf (fun p => PcsAligned p.2) PcsAligned (s.cePay e stopping) := by
  unfold State.cePay
  dsimp only
  split
  · exact ExceptWf.ite h.ceScan h.ceElems
  · exact ExceptWf.ite h.ceRows h.ceElems

theorem PcsAligned.payAll {e n : Nat} {s : State} (h : PcsAligned s) :
    ExceptWf (fun p => PcsAligned p.2) PcsAligned (payAll e n s) := by
  induction n generalizing s with
  | zero => exact h
  | succ n ih =>
    rw [Machine.payAll]
    refine ExceptWf.ite h ?_
    split
    · rename_i e
      exact h.cePay.error e
    · rename_i e
      exact ih (h.cePay.ok e)

theorem PcsAligned.ceWord0 {s : State} {e v : Nat} (h : PcsAligned s) : ExceptWf (fun p => PcsAligned p.2) PcsAligned
    (s.ceWord0 e v) :=
  h.ceWrite

theorem PcsAligned.ceMark {s : State} {e st : Nat} (h : PcsAligned s) : SomeWf PcsAligned (s.ceMark e st) := by
  unfold State.ceMark
  refine SomeWf.ite h ?_
  extract_lets w0
  have hw : ExceptWf (fun p => PcsAligned p.2) (fun p => PcsAligned p.2) w0 := by
    unfold w0
    split
    · exact h
    · exact ExceptWf.map (fun _ hp => hp) h.ceRead
  generalize w0 = r at hw ⊢
  match r, hw with
  | .error (.wait, _), _ => trivial
  | .error (.stop _ _, t), ht => exact ht
  | .error (.miss _ _, t), ht => exact ht
  | .ok w, hw =>
    have hv : PcsAligned w.2 := hw
    dsimp only
    split
    · trivial
    · rename_i e2
      have ht := hv.ceWord0.error e2
      exact ht
    · rename_i e2
      exact hv.ceWord0.ok e2

theorem PcsAligned.ceEcc {s : State} {ctx : BitVec 12} {va : Nat} (h : PcsAligned s) : PcsAligned (s.ceEcc ctx va) := by
  unfold State.ceEcc
  split
  · exact PcsAligned.ite h.eccHit h
  · exact h

theorem PcsAligned.ceState {s : State} {e : Nat} {st : CeState} (h : PcsAligned s) : PcsAligned (s.ceState e st) :=
  h.updCe.wake

theorem PcsAligned.ceStopped {s : State} {e st addr : Nat} (h : PcsAligned s) : PcsAligned (s.ceStopped e st addr) := by
  unfold State.ceStopped
  dsimp only
  split
  · exact (PcsAligned.ite (PcsAligned.ite h.ceEcc h).updHandle (PcsAligned.ite h.ceEcc h)).updCe.ceState.pendCause
  · exact (PcsAligned.ite (PcsAligned.ite h.ceEcc h).updHandle (PcsAligned.ite h.ceEcc h)).updCe.ceState

theorem PcsAligned.ceStop {s : State} {e st addr : Nat} (h : PcsAligned s) : PcsAligned (s.ceStop e st addr) := by
  have hs : SomeWf PcsAligned (some s) := h
  unfold State.ceStop
  split
  · rename_i t et
    exact PcsAligned.ceStopped ((SomeWf.ite hs h.ceMark).some et)
  · exact h.updCe

theorem PcsAligned.ceGo {s : State} {e head : Nat} (h : PcsAligned s) : PcsAligned (s.ceGo e head) :=
  h.updCe.ceState

theorem PcsAligned.ceEndKilled {s : State} {e : Nat} (h : PcsAligned s) : PcsAligned (s.ceEndKilled e) :=
  h.ceStop.updCe

theorem PcsAligned.ceNext {s : State} {e : Nat} (h : PcsAligned s) : PcsAligned (s.ceNext e) := by
  unfold State.ceNext
  dsimp only
  split
  · rename_i e2
    exact (h.ceRead.error e2).updCe.ceStop
  · rename_i e2
    exact (h.ceRead.error e2).updCe
  · rename_i e2
    exact PcsAligned.ite (h.ceRead.ok e2).updCe
      (PcsAligned.ite (h.ceRead.ok e2).updCe.updCe.ceStop (h.ceRead.ok e2).updCe.ceGo)

theorem PcsAligned.ceLook {s : State} {e : Nat} (h : PcsAligned s) : PcsAligned (s.ceLook e) := by
  unfold State.ceLook
  split
  · exact h.ceGo
  · exact PcsAligned.ite h.ceNext h.updCe
  · exact h

theorem PcsAligned.ceIdle {s : State} {e : Nat} {st : CeState} (h : PcsAligned s) : PcsAligned (s.ceIdle e st) :=
  PcsAligned.ite h.updCe.ceState.ceLook h.updCe.ceState

theorem PcsAligned.ceStartNow {s : State} {starter : Option TaskKey} {e head : Nat} (h : PcsAligned s) :
    PcsAligned (s.ceStartNow starter e head) :=
  PcsAligned.ite h.updCe (PcsAligned.ite h (PcsAligned.ite h.updHandle h).updCe.ceGo)

theorem PcsAligned.ceStart {s : State} {e head : Nat} (h : PcsAligned s) :
    ExceptWf (fun _ => True) PcsAligned (s.ceStart e head) := by
  unfold State.ceStart
  split
  · exact h.ceStartNow
  · split
    · split
      · exact ExceptWf.ite trivial h.updRec
      · exact h.ceStartNow
    · exact h.ceStartNow

theorem PcsAligned.ceAbort {s : State} {e : Nat} (h : PcsAligned s) : PcsAligned (s.ceAbort e) :=
  PcsAligned.ite h.ceStop h

theorem PcsAligned.ceResume {s : State} {e : Nat} (h : PcsAligned s) : PcsAligned (s.ceResume e) :=
  PcsAligned.ite h.updCe.ceState h.updCe

theorem PcsAligned.ceKick {s : State} {e : Nat} (h : PcsAligned s) : PcsAligned (s.ceKick e) := by
  unfold State.ceKick
  split
  · exact h.ceLook
  · exact h.ceLook
  · exact h
  · exact h.updCe

theorem PcsAligned.ceCtl {s : State} {e v : Nat} (h : PcsAligned s) : PcsAligned (s.ceCtl e v) := by
  have h1 := PcsAligned.ite (c := bitOf v 3 = true) (h.updCe (e := e) (f := fun c => { c with err := false })) h
  have h2 := PcsAligned.ite (c := bitOf v 2 = true) (h1.ceAbort (e := e)) h1
  have h3 := PcsAligned.ite (c := bitOf v 1 = true) (h2.ceResume (e := e)) h2
  exact PcsAligned.ite h3.ceKick h3

theorem PcsAligned.ceBegin {s : State} {e : Nat} (h : PcsAligned s) : PcsAligned (s.ceBegin e) :=
  PcsAligned.ite h (PcsAligned.ite h.updHandle.updCe h.ceState)

theorem PcsAligned.ceCheck {s : State} {e : Nat} {r : List Dword} (h : PcsAligned s) : PcsAligned (s.ceCheck e r) := by
  unfold State.ceCheck
  dsimp only
  split
  · exact h.ceStop
  · split
    · exact h.ceStop
    · split
      · rename_i e3
        exact (h.recOverlap.error e3).updCe
      · rename_i e3
        exact PcsAligned.ite (h.recOverlap.ok e3).ceStop (h.recOverlap.ok e3).updCe.ceBegin
      · rename_i e3
        exact PcsAligned.ite (h.recOverlap.ok e3).updCe.ceBegin (h.recOverlap.ok e3).ceBegin

theorem PcsAligned.ceReadRecord {s : State} {e : Nat} (h : PcsAligned s) : PcsAligned (s.ceReadRecord e) := by
  unfold State.ceReadRecord
  dsimp only
  split
  · exact h
  · split
    · exact h.ceLook
    · split
      · exact h
      · split
        · exact h.ceState.ceNext
        · split
          · exact h
          · split
            · rename_i e2
              exact (h.ceRead.error e2).ceStop
            · rename_i e2
              exact h.ceRead.error e2
            · rename_i e2
              exact PcsAligned.ite (h.ceRead.ok e2).ceIdle (h.ceRead.ok e2).updCe.ceCheck

theorem PcsAligned.ceHandleReady {s : State} {e : Nat} (h : PcsAligned s) : PcsAligned (s.ceHandleReady e) :=
  PcsAligned.ite h.updHandle.updCe.ceState h

theorem PcsAligned.ceFinish {s : State} {e : Nat} (h : PcsAligned s) : ExceptWf (fun p => PcsAligned p.2) PcsAligned
    (s.ceFinish e) := by
  unfold State.ceFinish
  dsimp only
  split
  · exact h.updCe
  · split
    · split
      · rename_i e3
        exact h.ceWrite.error e3
      · rename_i e3
        exact (h.ceWrite.ok e3).updCe
    · exact h.updCe
  · exact (PcsAligned.ite h.updHandle h).updCe
  · split
    · rename_i e2
      exact h.ceWord0.error e2
    · rename_i e2
      exact PcsAligned.ite (h.ceWord0.ok e2).updCe.wake.ceIdle (h.ceWord0.ok e2).updCe.wake.ceGo

theorem PcsAligned.ceStep {s : State} {e : Nat} (h : PcsAligned s) : ExceptWf (fun p => PcsAligned p.2) PcsAligned
    (s.ceStep e) := by
  unfold State.ceStep
  dsimp only
  split
  · exact h.ceFinish
  · split
    · exact h
    · split
      · exact h.cePay
      · split
        · exact h.updCe
        · exact ExceptWf.ite h.cePay h.updCe

theorem PcsAligned.ceComplete {s : State} {e : Nat} (h : PcsAligned s) : PcsAligned (s.ceComplete e) := by
  unfold State.ceComplete
  split
  · split
    · rename_i e2
      exact h.ceStep.ok e2
    · exact h
  · exact h

theorem PcsAligned.ceFail {s : State} {e : Nat} (h : PcsAligned s) : PcsAligned (s.ceFail e) := by
  unfold State.ceFail
  split
  · exact PcsAligned.ite h.ceEndKilled h.ceStop
  · split
    · split
      · rename_i e3
        exact PcsAligned.ite (h.ceStep.error e3).ceEndKilled (h.ceStep.error e3).ceStop
      · rename_i e3
        exact h.ceStep.error e3
      · exact h
    · exact h

theorem PcsAligned.nvmeDone {s : State} {e : Nat} {good : Bool} (h : PcsAligned s) : PcsAligned (s.nvmeDone e good) := by
  unfold State.nvmeDone
  dsimp only
  split
  · split
    · split
      · rename_i e2
        exact PcsAligned.ite (h.payAll.ok e2).updCe.ceEndKilled (h.payAll.ok e2).updCe
      · rename_i e2
        exact PcsAligned.ite (h.payAll.error e2).ceEndKilled (h.payAll.error e2).ceStop
      · rename_i e2
        exact h.payAll.error e2
    · exact PcsAligned.ite h.ceEndKilled h.ceStop
  · exact h

theorem PcsAligned.nvmeReadBad {s : State} {e : Nat} (h : PcsAligned s) : PcsAligned (s.nvmeReadBad e) :=
  PcsAligned.ite (PcsAligned.ite h.ceEndKilled h.ceStop) h

theorem PcsAligned.ceTimeout {s : State} {e : Nat} (h : PcsAligned s) : PcsAligned (s.ceTimeout e) := by
  unfold State.ceTimeout
  dsimp only
  split
  · exact h
  · split
    · exact PcsAligned.ite h.ceEndKilled h.ceStopped
    · exact PcsAligned.ite h.ceEndKilled (PcsAligned.ite h.updCe h).ceStop

theorem PcsAligned.ceToBoundary {e n : Nat} {s : State} (h : PcsAligned s) : PcsAligned (State.ceToBoundary e n s) := by
  induction n generalizing s with
  | zero => exact h
  | succ n ih =>
    rw [State.ceToBoundary]
    exact PcsAligned.ite (ih h.ceComplete) h

theorem PcsAligned.ceBoundary {s : State} {e : Nat} (h : PcsAligned s) : PcsAligned (s.ceBoundary e) :=
  PcsAligned.ite (PcsAligned.ite h.ceEndKilled (PcsAligned.ite (PcsAligned.ite h.updHandle h).ceStop h)) h

/-! ### The grid -/

theorem PcsAligned.updFe {s : State} {r c : Nat} {f : Fe → Fe} (h : PcsAligned s) : PcsAligned (s.updFe r c f) :=
  h.updFab

theorem PcsAligned.updPort {s : State} {p : Nat} {f : Port → Port} (h : PcsAligned s) : PcsAligned (s.updPort p f) :=
  h.updCore

theorem PcsAligned.updMe {s : State} {e : Nat} {f : Me → Me} (h : PcsAligned s) : PcsAligned (s.updMe e f) :=
  h.updCore

theorem PcsAligned.updTmu {s : State} {f : Tmu → Tmu} (h : PcsAligned s) : PcsAligned (s.updTmu f) :=
  h.updCore

theorem PcsAligned.sinkReached {s : State} {u : UnitRef} {id : Byte} (h : PcsAligned s) : PcsAligned (s.sinkReached u id) :=
  h.updFab

theorem PcsAligned.announce {s : State} {u : UnitRef} {id : Byte} (h : PcsAligned s) : PcsAligned (s.announce u id) :=
  h.updFab

theorem PcsAligned.traceBarriers {s : State} (h : PcsAligned s) : PcsAligned s.traceBarriers :=
  h.updFab

theorem PcsAligned.inject {s : State} {u : UnitRef} {id : Byte} (h : PcsAligned s) : PcsAligned (s.inject u id) :=
  h.updFab.traceBarriers

theorem PcsAligned.unannounce {s : State} {u : UnitRef} (h : PcsAligned s) : PcsAligned (s.unannounce u) :=
  h.updFab

theorem PcsAligned.unpin {s : State} {reqs : List Req} (h : PcsAligned s) : PcsAligned (s.unpin reqs) := by
  unfold State.unpin
  refine PcsAligned.foldl ?_ h
  intro s2 x h2
  split
  · exact h2
  · exact h2.setTag
  · exact h2

theorem PcsAligned.dropReqs {s : State} {p : Req → Bool} (h : PcsAligned s) : PcsAligned (s.dropReqs p) :=
  h.unpin.updFab

theorem PcsAligned.sealPort {s : State} {p cause : Nat} (h : PcsAligned s) : PcsAligned (s.sealPort p cause) :=
  PcsAligned.ite h (PcsAligned.foldl (fun _ _ h2 => h2.sinkReached) h.updPort).unannounce.dropReqs

theorem PcsAligned.sealFe {s : State} {r c cause : Nat} (h : PcsAligned s) : PcsAligned (s.sealFe r c cause) :=
  h.updFe.dropReqs

theorem PcsAligned.containAt {s : State} {r c : Nat} {y : Nat × Nat} {cause reason addr det : Nat} (h : PcsAligned s) :
    PcsAligned (s.containAt r c y cause reason addr det) := by
  unfold State.containAt
  dsimp only
  split
  · exact h
  · refine PcsAligned.fabRecord ?_
    refine PcsAligned.foldl ?_ h
    intro s2 x h2
    split
    · exact h2.sealFe
    · exact h2.sealPort
    · exact h2

theorem PcsAligned.contain {s : State} {r c cause reason addr det : Nat} (h : PcsAligned s) :
    PcsAligned (s.contain r c cause reason addr det) :=
  h.containAt

theorem PcsAligned.deliver {s : State} {t : Token} {a : Dest} (h : PcsAligned s) : PcsAligned (s.deliver t a) := by
  unfold State.deliver
  split
  · exact h.updFe
  · exact h.updFe
  · exact PcsAligned.ite (PcsAligned.ite h.sinkReached h) h.updPort
  · exact h.updMe
  · exact h.updMe
  · exact h.updTmu

theorem PcsAligned.hopTake {s : State} {r c d t : Nat} (h : PcsAligned s) : PcsAligned (s.hopTake r c d t) :=
  PcsAligned.ite h.updFe (PcsAligned.ite h.updMe h.updTmu)

theorem PcsAligned.execTokenHop {row col : Nat} {dir : Dir} {trk : BitVec 2} {s : State} (h : PcsAligned s) :
    NextPcs (execTokenHop row col dir trk s) := by
  unfold Machine.execTokenHop
  dsimp only
  split
  · exact h
  · exact NextPcs.ite (PcsAligned.ite h.hopTake.inject h.hopTake) (NextPcs.ite (PcsAligned.foldl (fun _ _ h2 => h2.deliver)
        (PcsAligned.ite h.hopTake.inject h.hopTake)) h)

theorem PcsAligned.applyWord {s : State} {r c : Nat} {w : Dword × Option Nat} (h : PcsAligned s) : PcsAligned
    (s.applyWord r c w) :=
  PcsAligned.ite (PcsAligned.ite h.updFe.updFab.updFe h.updFe.updFab.contain) h.updFe.updFab

theorem PcsAligned.execFeConfigApply {row col : Nat} {s : State} (h : PcsAligned s) : NextPcs
    (execFeConfigApply row col s) :=
  NextPcs.ite h (PcsAligned.foldl (fun _ _ h2 => h2.applyWord) h.updFe).updFe.traceBarriers

theorem PcsAligned.execFeGoLive {row col : Nat} {s : State} (h : PcsAligned s) : NextPcs (execFeGoLive row col s) := by
  unfold Machine.execFeGoLive
  split
  · exact h
  · exact PcsAligned.ite h.updFab.updFe h.updFab

theorem PcsAligned.unitRead {s : State} {ctx : BitVec 12} {a : Acc} {va n : Nat} (h : PcsAligned s) :
    ExceptWf (fun x => PcsAligned x.st) (fun p => PcsAligned p.2) (s.unitRead ctx a va n) := by
  unfold State.unitRead
  split
  · exact h
  · split
    · exact h.filled
    · split
      · exact h.fillRes.eccHit
      · split
        · exact h.fillRes
        · split
          · exact h.fillRes
          · split
            · exact h.fillRes
            · split
              · exact h.fillRes
              · exact h.fillRes
          · exact h.fillRes

theorem PcsAligned.readWords {s : State} {a : Acc} {va n : Nat} (h : PcsAligned s) :
    ExceptWf (fun x => PcsAligned x.st) (fun p => PcsAligned p.2) (s.readWords a va n) := by
  induction n generalizing s va with
  | zero => exact h
  | succ n ih =>
    rw [State.readWords]
    split
    · rename_i e
      exact h.unitRead.error e
    · rename_i t e
      have ht : PcsAligned t := h.unitRead.ok e
      split
      · rename_i e2
        exact (ih ht).error e2
      · rename_i e2
        have hs := (ih ht).ok e2
        exact hs

theorem PcsAligned.fetchFolio {s : State} {a : Acc} {image folio : Nat} (h : PcsAligned s) :
    ExceptWf (fun x => PcsAligned x.st) (fun p => PcsAligned p.2.2) (s.fetchFolio a image folio) := by
  unfold State.fetchFolio
  dsimp only
  split
  · rename_i e
    exact h.readWords.error e
  · rename_i e
    split
    · exact h.readWords.ok e
    · split
      · rename_i e2
        exact (h.readWords.ok e).readWords.error e2
      · rename_i e2
        split
        · exact (h.readWords.ok e).readWords.ok e2
        · split
          · exact (h.readWords.ok e).readWords.ok e2
          · split
            · rename_i e4
              exact ((h.readWords.ok e).readWords.ok e2).readWords.error e4
            · rename_i e4
              exact ExceptWf.ite (((h.readWords.ok e).readWords.ok e2).readWords.ok e4)
                  (((h.readWords.ok e).readWords.ok e2).readWords.ok e4)

theorem PcsAligned.sendFolio {s : State} {image folio : Nat} {ws : List Nat} {qs : List EntryQ} (h : PcsAligned s) :
    PcsAligned (s.sendFolio image folio ws qs) :=
  PcsAligned.foldl (fun _ _ h2 => PcsAligned.ite h2 h2.updPort) (PcsAligned.foldl (fun _ _ h2 => h2.updFe) h.updFab)

theorem PcsAligned.folioFault {s : State} {folio : Nat} {f : Flt} (h : PcsAligned s) : PcsAligned (s.folioFault folio f) :=
  PcsAligned.ite h.pendCause h.pendCause

theorem PcsAligned.execFolioChange {s : State} (h : PcsAligned s) : NextPcs (execFolioChange s) := by
  unfold Machine.execFolioChange
  dsimp only
  split
  · split
    · exact h
    · split
      · rename_i e3
        exact NextPcs.ite (h.fetchFolio.error e3) (h.fetchFolio.error e3).updFab.folioFault
      · rename_i e3
        exact (h.fetchFolio.ok e3).updFab.sendFolio
  · exact h

theorem PcsAligned.loadEntry {s : State} {image : Nat} (h : PcsAligned s) : PcsAligned (s.loadEntry image) := by
  unfold State.loadEntry
  dsimp only
  split
  · rename_i e
    exact (h.fetchFolio.error e).folioFault
  · rename_i e
    exact (h.fetchFolio.ok e).sendFolio.updFab

/-! ### The operators -/

theorem PcsAligned.operator {s : State} {r c code : Nat} {act : Fe → Option (State → State)} (h : PcsAligned s)
    (h2 : ∀ (f : Fe), SomeWf (fun f => ∀ (x : State), PcsAligned x → PcsAligned (f x)) (act f)) :
    NextPcs (s.operator r c code act) := by
  unfold State.operator
  refine NextPcs.ite h (NextPcs.ite h.contain ?_)
  split
  · rename_i e
    exact (h2 _).some e s h
  · exact h

theorem PcsAligned.execMapFire {row col : Nat} {s : State} (h : PcsAligned s) : NextPcs (execMapFire row col s) :=
  h.operator (fun _ => SomeWf.ite (fun _ h2 => h2.updFe.orFlags) trivial)

theorem PcsAligned.execSfnFire {row col : Nat} {s : State} (h : PcsAligned s) : NextPcs (execSfnFire row col s) :=
  h.operator (fun _ => SomeWf.ite (fun _ h2 => h2.updFe.orFlags) trivial)

theorem PcsAligned.execRedFire {row col : Nat} {s : State} (h : PcsAligned s) : NextPcs (execRedFire row col s) :=
  h.operator (fun _ => SomeWf.ite (fun _ h2 => h2.updFe.orFlags) trivial)

theorem PcsAligned.execSteerFire {row col : Nat} {s : State} (h : PcsAligned s) : NextPcs (execSteerFire row col s) :=
  h.operator (fun _ => SomeWf.ite (fun _ h2 => h2.updFe.orFlags) trivial)

theorem PcsAligned.execMergeFire {row col : Nat} {s : State} (h : PcsAligned s) : NextPcs (execMergeFire row col s) := by
  unfold Machine.execMergeFire
  refine PcsAligned.operator h ?_
  intro a
  split
  · exact SomeWf.ite (fun _ h2 => h2.updFe) trivial
  · exact trivial

theorem PcsAligned.execCarryFire {row col : Nat} {s : State} (h : PcsAligned s) : NextPcs (execCarryFire row col s) :=
  h.operator (fun _ => SomeWf.ite (fun _ h2 => h2.updFe) trivial)

theorem PcsAligned.execGenEmit {row col : Nat} {s : State} (h : PcsAligned s) : NextPcs (execGenEmit row col s) := by
  unfold Machine.execGenEmit
  refine PcsAligned.operator h ?_
  intro a
  split
  · exact SomeWf.ite trivial (fun _ h2 => h2.updFe)
  · exact SomeWf.ite trivial (SomeWf.ite (fun _ h2 => h2.updFe) (fun _ h2 => h2.updFe))

theorem PcsAligned.execSegFire {row col : Nat} {s : State} (h : PcsAligned s) : NextPcs (execSegFire row col s) :=
  h.operator (fun _ => SomeWf.ite (SomeWf.ite trivial (fun _ h2 => h2.updFe)) (SomeWf.ite (fun _ h2 => h2.updFe)
    trivial))

theorem PcsAligned.execShufFire {row col : Nat} {s : State} (h : PcsAligned s) : NextPcs (execShufFire row col s) := by
  unfold Machine.execShufFire
  refine PcsAligned.operator h ?_
  intro a
  split
  · exact SomeWf.ite (fun _ h2 => h2.updFe) trivial
  · exact SomeWf.ite (fun _ h2 => h2.updFe) trivial
  · exact SomeWf.ite (SomeWf.ite trivial (fun _ h2 => h2.updFe)) (SomeWf.ite (fun _ h2 => h2.updFe) trivial)

theorem PcsAligned.execConvFire {row col : Nat} {s : State} (h : PcsAligned s) : NextPcs (execConvFire row col s) := by
  unfold Machine.execConvFire
  refine PcsAligned.operator h ?_
  intro a
  split
  · exact SomeWf.ite (fun _ h2 => h2.updFe.orFlags) trivial
  · split
    · exact SomeWf.ite trivial (fun _ h2 => h2.updFe)
    · split
      · exact trivial
      · intro s2 h2
        split
        · exact h2.contain
        · exact h2.updFe.orFlags

theorem PcsAligned.execForkFire {row col : Nat} {s : State} (h : PcsAligned s) : NextPcs (execForkFire row col s) :=
  h.operator (fun _ => SomeWf.ite (SomeWf.ite (fun _ h2 => h2.updFe) trivial) (SomeWf.ite trivial (fun _ h2 =>
    h2.updFe)))

theorem PcsAligned.execErrorEndPass {row col : Nat} {s : State} (h : PcsAligned s) : NextPcs
    (execErrorEndPass row col s) := by
  unfold Machine.execErrorEndPass
  dsimp only
  split
  · exact h
  · split
    · exact h.updFe
    · split
      · exact h
      · exact NextPcs.ite h h.updFe

theorem PcsAligned.execBarrierAlign {row col : Nat} {s : State} (h : PcsAligned s) : NextPcs
    (execBarrierAlign row col s) := by
  unfold Machine.execBarrierAlign
  dsimp only
  split
  · exact h
  · split
    · exact NextPcs.ite h.updFe h.contain
    · split
      · exact h.contain
      · split
        · exact h
        · exact NextPcs.ite h.contain (NextPcs.ite h (PcsAligned.ite h.updFe.sinkReached h.updFe))

theorem GotPcs.on {α : Type} {g : Got α} {f : State → State} (h : GotPcs g) (h2 : ∀ t, PcsAligned t → PcsAligned (f t)) :
    GotPcs (g.on f) := by
  unfold Got.on
  split
  · exact h2 _ h
  · exact h2 _ h
  · exact h2 _ h
  · exact h2 _ h

theorem PcsAligned.got {α : Type} {f : Flt} {s : State} (h : PcsAligned s) : GotPcs (α := α) (f.got s) :=
  GotPcs.ite h (GotPcs.ite h (GotPcs.ite h h))

theorem PcsAligned.stalls {α : Type} {f : Flt} {s : State} (h : PcsAligned s) : GotPcs (α := α) (f.stalls s) :=
  h

/-! ### Accesses of the parties of the fabric -/

theorem PcsAligned.partyTouch {s : State} {va n : Nat} {kind : AccKind} {pl : Place} (h : PcsAligned s) :
    TouchPcs (s.partyTouch va n kind pl) :=
  h.touch.logged

theorem PcsAligned.partyFlt {α : Type} {s : State} {k : AccKind} {va n : Nat} {f : Flt} (h : PcsAligned s) :
    GotPcs (α := α) (s.partyFlt k va n f) := by
  unfold State.partyFlt
  dsimp only
  split
  · rename_i e
    exact PcsAligned.stalls (h.filled.touch.stall e)
  · exact h.filled.got

theorem PcsAligned.placeRead {s : State} {pl : Place} {va n : Nat} (h : PcsAligned s) : GotPcs (s.placeRead pl va n) := by
  unfold State.placeRead
  split
  · exact h.eccHit
  · split
    · exact h
    · split
      · exact h
      · split
        · exact h
        · exact h
    · exact h

theorem PcsAligned.placePut {s : State} {pl : Place} {va : Nat} {ps : List (Nat × Nat × Nat)} (h : PcsAligned s) :
    GotPcs (s.placePut pl va ps) := by
  unfold State.placePut
  dsimp only
  split
  · split
    · exact h
    · split
      · exact h.eccHit
      · exact PcsAligned.foldl (fun _ _ h2 => h2.ownWrite) h
  · split
    · exact h
    · split
      · split
        · rename_i e
          exact h.tileWrite.some e
        · exact h
      · split
        · exact h.eccHit
        · split
          · exact h
          · split
            · rename_i e3
              exact h.tileWrite.some e3
            · exact h
  · split
    · exact h
    · split
      · exact h.eccHit
      · exact PcsAligned.foldl (fun _ _ h2 => h2.wr) h

theorem PcsAligned.placeWrite {s : State} {pl : Place} {va n v : Nat} (h : PcsAligned s) : GotPcs
    (s.placeWrite pl va n v) :=
  h.placePut

theorem PcsAligned.partyAccess {α : Type} {s : State} {k : AccKind} {va n : Nat} {act : Place → State → Got α}
    (h : PcsAligned
    s) (h2 : ∀ (a : Place) (t : State), PcsAligned t → GotPcs (act a t)) :
    GotPcs (s.partyAccess k va n act) := by
  unfold State.partyAccess
  split
  · exact h
  · split
    · exact h
    · split
      · exact h.partyFlt
      · split
        · rename_i e2
          exact (h.fillRes.partyTouch.fault e2).got
        · rename_i e2
          exact (h.fillRes.partyTouch.stall e2).stalls
        · rename_i e2
          exact h.fillRes.partyTouch.wait e2
        · rename_i e2
          exact GotPcs.ite (h2 _ _ (h.fillRes.partyTouch.ok e2)) (h.fillRes.partyTouch.ok e2)

theorem PcsAligned.partyRead {s : State} {va n : Nat} (h : PcsAligned s) : GotPcs (s.partyRead va n) :=
  h.partyAccess (fun _ _ h2 => h2.placeRead)

theorem PcsAligned.partyWrite {s : State} {va n v : Nat} (h : PcsAligned s) : GotPcs (s.partyWrite va n v) :=
  h.partyAccess (fun _ _ h2 => h2.placeWrite)

theorem PcsAligned.partyPieces {s : State} {va n : Nat} {ps : List (Nat × Nat × Nat)} (h : PcsAligned s) :
    GotPcs (s.partyPieces va n ps) :=
  h.partyAccess (fun _ _ h2 => h2.placePut)

theorem PcsAligned.watchAtomic {s : State} {off va n : Nat} (h : PcsAligned s) : PcsAligned (s.watchAtomic off va n) := by
  unfold State.watchAtomic
  dsimp only
  split
  · exact h.pendWatch.frame
  · exact h

theorem PcsAligned.unhold {s : State} {u : UnitRef} (h : PcsAligned s) : PcsAligned (s.unhold u) :=
  h.updFab

theorem PcsAligned.partyBytes {s : State} {u : UnitRef} {va n : Nat} (h : PcsAligned s) : GotPcs (s.partyBytes u va n) := by
  unfold State.partyBytes
  dsimp only
  split
  · split
    · rename_i e2
      exact (h.partyRead.ok e2).updFab
    · rename_i e2
      exact h.partyRead.wait e2
    · rename_i e2
      exact h.partyRead.stall e2
    · rename_i e2
      exact h.partyRead.fail e2
  · exact h

theorem PcsAligned.partyValue {s : State} {u : UnitRef} {va n : Nat} (h : PcsAligned s) : GotPcs (s.partyValue u va n) := by
  unfold State.partyValue
  split
  · rename_i e
    exact h.partyBytes.ok e
  · rename_i e
    exact h.partyBytes.wait e
  · rename_i e
    exact h.partyBytes.stall e
  · rename_i e
    exact h.partyBytes.fail e

theorem GotPcs.got {self : Put} (h : GotPcs self.got) : GotPcs self.got :=
  h

theorem PcsAligned.partyPut {s : State} {va : Nat} {bs : List Byte} (h : PcsAligned s) : GotPcs (s.partyPut va bs).got := by
  unfold State.partyPut
  split
  · exact h
  · split
    · rename_i e2
      exact h.partyWrite.ok e2
    · exact h.partyWrite

theorem PcsAligned.stallUnit {s : State} {u : UnitRef} {va reason acc level : Nat} (h : PcsAligned s) :
    PcsAligned (s.stallUnit u va reason acc level) := by
  unfold State.stallUnit
  split
  · exact h
  · refine PcsAligned.updFab ?_
    split
    · exact h
    · exact h.transRecord

/-! ### The MEM operator -/

theorem PcsAligned.addReq {s : State} {q : Req} (h : PcsAligned s) : PcsAligned (s.addReq q) :=
  h.updFab

theorem PcsAligned.memAccess {s : State} {r c cp : Nat} {kind : ReqKind} {n va v off : Nat} (h : PcsAligned s) :
    PcsAligned (s.memAccess r c cp kind n va v off) :=
  PcsAligned.ite h.containAt h.addReq

theorem PcsAligned.memTag {s : State} {r c cp a : Nat} (h : PcsAligned s) : PcsAligned (s.memTag r c cp a) := by
  unfold State.memTag
  split
  · exact h.addReq
  · exact PcsAligned.ite h.containAt h.setTag.addReq

theorem PcsAligned.memElem {s : State} {r c cp j : Nat} {x : Token} {ofs : Option Token} (h : PcsAligned s) :
    PcsAligned (s.memElem r c cp j x ofs) := by
  unfold State.memElem
  dsimp only
  split
  · exact PcsAligned.ite h.addReq h.memTag
  · split
    · split
      · exact h
      · split
        · exact PcsAligned.ite h.addReq h.memAccess
        · exact h.memAccess
    · exact PcsAligned.ite h.addReq h.memAccess

theorem PcsAligned.memXf {s : State} {r c : Nat} {w : Option Nat} (h : PcsAligned s) : PcsAligned (s.memXf r c w) := by
  unfold State.memXf
  split
  · exact h
  · exact PcsAligned.ite h.contain h.addReq

theorem PcsAligned.execMemFire {row col : Nat} {s : State} (h : PcsAligned s) : NextPcs (execMemFire row col s) := by
  refine h.operator fun _ => SomeWf.ite trivial (SomeWf.ite (SomeWf.ite trivial fun _ h2 => h2.updFe)
    (SomeWf.ite trivial fun s h2 => ?_))
  beta_reduce
  extract_lets ofs u v
  have hu : PcsAligned u := h2.updFe
  have hv : PcsAligned v :=
    PcsAligned.ite (PcsAligned.foldl (fun _ _ h3 => h3.memXf) hu)
      (PcsAligned.foldl (fun _ _ h3 => PcsAligned.ite h3 h3.memElem) hu)
  exact PcsAligned.ite hv hv.updFe

theorem PcsAligned.updReq {s : State} {k : Nat} {f : Req → Req} (h : PcsAligned s) : PcsAligned (s.updReq k f) :=
  h.updFab

theorem PcsAligned.joinWalk {s : State} {va : Nat} (h : PcsAligned s) : PcsAligned (s.joinWalk va) :=
  PcsAligned.ite h.frame (PcsAligned.ite h.frame h)

theorem PcsAligned.reqStall {s : State} {k va reason level : Nat} (h : PcsAligned s) :
    PcsAligned (s.reqStall k va reason level) := by
  unfold State.reqStall
  split
  · exact h
  · exact h.transRecord.updReq

theorem PcsAligned.reqDone {s : State} {k : Nat} {q : Req} {v : Nat} (h : PcsAligned s) : PcsAligned (s.reqDone k q v) := by
  unfold State.reqDone
  split
  · exact h.updReq.setTag
  · exact h.updReq

theorem PcsAligned.reqFail {s : State} {q : Req} {cause addr det : Nat} (h : PcsAligned s) :
    PcsAligned (s.reqFail q cause addr det) := by
  unfold State.reqFail
  split
  · exact h.containAt
  · exact h

theorem PcsAligned.reqAct {s : State} {q : Req} {pl : Place} (h : PcsAligned s) : GotPcs (s.reqAct q pl) := by
  unfold State.reqAct
  dsimp only
  split
  · split
    · rename_i e2
      exact h.placeRead.ok e2
    · exact h.placeRead
  · split
    · rename_i e2
      exact h.placeWrite.ok e2
    · rename_i e2
      exact h.placeWrite.wait e2
    · rename_i e2
      exact h.placeWrite.stall e2
    · rename_i e2
      exact h.placeWrite.fail e2
  · split
    · rename_i e2
      split
      · rename_i e3
        split
        · exact PcsAligned.ite ((h.placeRead.ok e2).placeWrite.ok e3).orFlags.watchAtomic
              ((h.placeRead.ok e2).placeWrite.ok e3).orFlags
        · exact ((h.placeRead.ok e2).placeWrite.ok e3).orFlags
      · rename_i e3
        exact (h.placeRead.ok e2).placeWrite.wait e3
      · rename_i e3
        exact (h.placeRead.ok e2).placeWrite.stall e3
      · rename_i e3
        exact (h.placeRead.ok e2).placeWrite.fail e3
    · exact h.placeRead
  · exact h.placeRead
  · exact h

theorem PcsAligned.reqXf {s : State} {q : Req} (h : PcsAligned s) : GotPcs (s.reqXf q) := by
  unfold State.reqXf
  dsimp only
  split
  · rename_i e
    exact (h.xfLoans.fault e).got
  · rename_i e
    exact (h.xfLoans.stall e).stalls
  · rename_i e
    exact h.xfLoans.wait e
  · rename_i e
    split
    · exact h.xfLoans.ok e
    · split
      · exact (h.xfLoans.ok e).eccHit
      · split
        · rename_i e2
          exact (h.xfLoans.ok e).xfPerform.ok e2
        · exact h.xfLoans.ok e

theorem PcsAligned.reqPerform {s : State} {k : Nat} (h : PcsAligned s) : PcsAligned (s.reqPerform k) := by
  unfold State.reqPerform
  split
  · exact h
  · refine PcsAligned.ite h ?_
    extract_lets out
    have hout : ∀ {g}, GotPcs g → PcsAligned (out g) := fun hg => by
      unfold out
      split
      · exact PcsAligned.reqDone hg
      · exact hg
      · exact PcsAligned.ite (PcsAligned.reqStall hg) hg
      · exact PcsAligned.reqFail hg
    split
    · exact hout h.reqXf
    · refine PcsAligned.ite h.joinWalk.updReq ?_
      split
      · exact hout h.partyFlt
      · refine PcsAligned.ite h ?_
        split
        · rename_i et
          exact hout (PcsAligned.got (h.fillRes.partyTouch.fault et))
        · rename_i et
          exact hout (PcsAligned.stalls (h.fillRes.partyTouch.stall et))
        · rename_i et
          exact h.fillRes.partyTouch.wait et
        · rename_i et
          have ht := h.fillRes.partyTouch.ok et
          exact PcsAligned.ite (hout ht.reqAct) ht

theorem PcsAligned.startWalks {s : State} {l : List Req} (h : PcsAligned s) : PcsAligned (startWalks s l) := by
  induction l generalizing s with
  | nil => exact h
  | cons q t ih =>
    rw [Machine.startWalks]
    exact ih (PcsAligned.ite h.joinWalk h)

theorem PcsAligned.execPageWalkEnd {k : Nat} {s : State} (h : PcsAligned s) : NextPcs (execPageWalkEnd k s) := by
  unfold Machine.execPageWalkEnd
  split
  · exact h
  · refine PcsAligned.startWalks ?_
    split
    · exact h.frame.fill.updFab.sendReqs
    · refine PcsAligned.foldl ?_ h.frame
      intro s2 x6 h2
      split
      · exact PcsAligned.ite h2 (PcsAligned.ite h2.reqStall h2.updReq)
      · exact h2

theorem PcsAligned.exitWrite {s : State} {r c : Nat} {d : EntryQ} {ws : List Token} (h : PcsAligned s) :
    PcsAligned (s.exitWrite r c d ws) := by
  unfold State.exitWrite
  dsimp only
  split
  · rename_i e
    exact h.partyPut.wait e
  · rename_i e
    exact (h.partyPut.stall e).stallUnit
  · rename_i e
    exact (h.partyPut.fail e).contain
  · rename_i e
    exact PcsAligned.ite (h.partyPut.ok e).updFe (h.partyPut.ok e).updFab.updFe

theorem PcsAligned.exitEnd {s : State} {r c l : Nat} (h : PcsAligned s) : PcsAligned (s.exitEnd r c l) := by
  unfold State.exitEnd
  dsimp only
  split
  · exact h.updFe
  · split
    · exact h.updFe
    · split
      · exact h.contain
      · exact PcsAligned.ite h.contain (PcsAligned.ite h h.exitWrite)

theorem PcsAligned.execEndTokenAlign {row col : Nat} {s : State} (h : PcsAligned s) : NextPcs
    (execEndTokenAlign row col s) :=
  NextPcs.ite h (NextPcs.ite h.updFe (NextPcs.ite h.contain (NextPcs.ite h (NextPcs.ite h.exitEnd (NextPcs.ite h
    h.updFe.orFlags)))))

theorem PcsAligned.execMemResponse {k : Nat} {s : State} (h : PcsAligned s) : NextPcs (execMemResponse k s) := by
  unfold Machine.execMemResponse
  dsimp only
  split
  · exact h
  · split
    · split
      · exact h
      · split
        · exact NextPcs.ite h.updFab.updFe h
        · exact NextPcs.ite h.updFab (NextPcs.ite h.updFab.updFe h)
    · exact h

/-! ### Handles and system registers -/

theorem PcsAligned.issueHwait {s : State} {x : Src} {h2 : Nat} (h : PcsAligned s) : PcsAligned (s.issueHwait x h2) := by
  unfold State.issueHwait
  split
  · exact h.trapSrc
  · split
    · exact h.trapSrc
    · exact h.push

theorem PcsAligned.execHalloc {a : Reg} {s : State} (h : PcsAligned s) : NextPcs (execHalloc a s) :=
  NextPcs.ite h.updHandle.advance h.trapInstr

theorem PcsAligned.execHfree {a : Reg} {s : State} (h : PcsAligned s) : NextPcs (execHfree a s) :=
  NextPcs.ite (NextPcs.ite h h.updHandle.advance) h.trapInstr

theorem PcsAligned.execHwait {d a : Reg} {s : State} (h : PcsAligned s) : NextPcs (execHwait d a s) :=
  h.advance.issueHwait

theorem PcsAligned.sysregWrite {s : State} {n : Nat} {v : Dword} (h : PcsAligned s) : SomeWf PcsAligned
    (s.sysregWrite n v) := by
  unfold State.sysregWrite
  split
  · exact h.updClerk
  · exact SomeWf.ite h.updClerk trivial
  · exact SomeWf.ite h.updClerk trivial
  · exact SomeWf.ite h.updClerk trivial
  · exact SomeWf.ite h.updClerk trivial
  · exact trivial

theorem PcsAligned.execMfs {d : Reg} {n : BitVec 10} {s : State} (h : PcsAligned s) : NextPcs (execMfs d n s) := by
  unfold Machine.execMfs
  split
  · exact h.trapInstr
  · exact NextPcs.ite h.trapInstr h.finish

theorem PcsAligned.execMts {n : BitVec 10} {d : Reg} {s : State} (h : PcsAligned s) : NextPcs (execMts n d s) := by
  unfold Machine.execMts
  split
  · exact h.trapInstr
  · split
    · exact h.trapInstr
    · rename_i e
      exact (h.sysregWrite.some e).advance

theorem PcsAligned.execTrap {n : BitVec 10} {s : State} (h : PcsAligned s) : NextPcs (execTrap n s) :=
  h.trapPlain

theorem PcsAligned.execBrk {s : State} (h : PcsAligned s) : NextPcs (execBrk s) :=
  h.trapPlain

theorem PcsAligned.execTack {s : State} (h : PcsAligned s) : NextPcs (execTack s) :=
  h.privileged (fun _ h2 => h2.updClerk.advance)

theorem PcsAligned.execHalt {s : State} (h : PcsAligned s) : NextPcs (execHalt s) :=
  h.privileged (fun _ h2 => PcsAligned.ite h2.advance.updClerk h2)

theorem PcsAligned.execWfe {s : State} (h : PcsAligned s) : NextPcs (execWfe s) :=
  h.updClerk

theorem PcsAligned.execNop {s : State} (h : PcsAligned s) : NextPcs (execNop s) :=
  h.advance

theorem PcsAligned.execIfence {s : State} (h : PcsAligned s) : NextPcs (execIfence s) :=
  NextPcs.ite h h.frame.advance

theorem PcsAligned.reissueStalled {s : State} (h : PcsAligned s) : PcsAligned s.reissueStalled :=
  h.updFab.sendReqs

theorem PcsAligned.clearRecords {s : State} (h : PcsAligned s) : PcsAligned s.clearRecords :=
  h.trapWr

theorem PcsAligned.reissue {s : State} {x : Src} {ea : Nat} {b c : Dword} (h : PcsAligned s) :
    SomeWf PcsAligned (s.reissue x ea b c) := by
  unfold State.reissue
  dsimp only
  split
  · split
    · exact h.issueAcquire
    · exact h.issueAcquire
    · exact h.issueRelease
    · exact h.issueBind
    · exact h.issueUnbind
    · exact h.issueWaitw
    · exact h.issueJoin
    · exact h.issueLoan
    · exact h.issueLstat
    · exact h.issueSpawn
    · exact h.issueArm
    · exact h.issueRls
    · exact h.issueTag
    · exact h.issueTag
    · exact h.issueTag
    · exact h.issueXbank
    · exact h.issueKld
    · exact h.issueKst
    · exact h.issueHwait
    · trivial
  · split
    · exact SomeWf.map fun _ => h.issueLoad
    · split
      · exact h.issueStore
      · trivial
  · split
    · exact SomeWf.map fun _ => h.issueAtomic
    · trivial
  · split
    · exact SomeWf.map fun _ => h.issueLoad
    · split
      · exact h.issueStore
      · trivial
    · trivial

theorem skip_pc (c : Clerk) (kd : Bool) (d : Reg) (lo hi : Dword) : (c.skip kd d lo hi).pc = c.pc := by
  unfold Clerk.skip
  split <;> simp

theorem PcsAligned.replayOne {s : State} {e : List Nat} {rpc : BitVec 48} {rest : List (List Nat)} (h : PcsAligned s) :
    PcsAligned (s.replayOne e rpc rest) := by
  unfold State.replayOne
  dsimp only
  split
  · exact h.updClerk.keepPc fun _ => skip_pc ..
  · split
    · rename_i e3
      exact h.updClerk.reissue.some e3
    · exact h.updClerk.updClerk.setPc

theorem PcsAligned.replay {s : State} {rpc : BitVec 48} {l : List (List Nat)} (h : PcsAligned s) : PcsAligned
    (s.replay rpc l) := by
  induction l generalizing s with
  | nil => exact h.keepPc fun _ => by split <;> rfl
  | cons e t ih =>
    rw [State.replay]
    exact PcsAligned.ite h.replayOne (ih h.replayOne)

theorem PcsAligned.redone {s : State} {i : Instr} {r : Redo} (h : PcsAligned s) : PcsAligned (s.redone i r) := by
  refine PcsAligned.replay ?_
  cases hjumps : Instr.jumps i with
  | true => exact h.congr rfl rfl
  | false => exact h.jump

theorem PcsAligned.settle {s : State} {i : Instr} {t : State} (h : PcsAligned t) : PcsAligned (s.settle i t) := by
  unfold State.settle
  extract_lets pc trapped completed u v
  have hu : PcsAligned u := h.giveBack
  have hv : PcsAligned v := by
    unfold v
    split
    · split
      · exact hu.redone
      · exact hu
    · exact hu
  exact PcsAligned.ite hv.updClerk hv

theorem PcsAligned.reinjectFrom {s : State} {rpc : BitVec 48} {tail l : List (List Nat)} (h : PcsAligned s) :
    PcsAligned (s.reinjectFrom rpc tail l) := by
  induction l generalizing s with
  | nil => exact h
  | cons e t ih =>
    rw [State.reinjectFrom]
    exact PcsAligned.ite h.replayOne (ih h.replayOne)

theorem PcsAligned.reinject {s : State} (h : PcsAligned s) : PcsAligned s.reinject := by
  have hdrained : PcsAligned (s.updClerk fun c => { c.drain with unfin := c.unfin.filter (·.done.isNone) }) :=
    h.keepPc fun c => c.drain_keeps.1
  exact PcsAligned.ite hdrained.updClerk.reinjectFrom hdrained.updClerk.reinjectFrom.updClerk

theorem PcsAligned.trapReturn {s : State} (h : PcsAligned s) : PcsAligned s.trapReturn :=
  h.updClerk.reissueStalled.clearRecords.jump.replay

theorem PcsAligned.execTrapret {s : State} (h : PcsAligned s) : NextPcs (execTrapret s) :=
  h.privileged (fun _ h2 => PcsAligned.ite h2.trapReturn h2)

/-! ### The stream ports -/

theorem PcsAligned.portFault {s : State} {p cmd cause reason addr det : Nat} (h : PcsAligned s) :
    PcsAligned (s.portFault p cmd cause reason addr det) :=
  h.fabRecord.sealPort.unhold

theorem GotPcs.laneGot {α : Type} {u : UnitRef} {p cmd acc : Nat} {g : Got α} {f : α → State → State} (h : GotPcs g)
    (h2 : ∀ (a : α) (t : State), PcsAligned t → PcsAligned (f a t)) :
    PcsAligned (laneGot u p cmd acc g f) := by
  unfold Machine.laneGot
  split
  · exact h2 _ _ h
  · exact h
  · exact h.stallUnit
  · exact h.portFault

theorem PcsAligned.laneSend {s : State} {p : Nat} {t : Token} (h : PcsAligned s) : PcsAligned (s.laneSend p t) :=
  PcsAligned.foldl (fun _ _ h2 => h2.deliver) (PcsAligned.ite h.inject h)

theorem GotPcs.form {α : Type} {g : Got α} {f : α → State → Form} (h : GotPcs g)
    (h2 : ∀ (a : α) (t : State), PcsAligned t → FormPcs (f a t)) : FormPcs (g.form f) := by
  unfold Got.form
  split
  · exact h2 _ _ h
  · exact h
  · exact h
  · exact h

theorem PcsAligned.formRead {f : ReadFields} {c : LaneCmd} {s : State} (h : PcsAligned s) : FormPcs (formRead f c s) :=
  h.partyRead.form (fun _ _ h2 => h2)

theorem PcsAligned.formGather {u : UnitRef} {f : GatherFields} {c : LaneCmd} {s : State} (h : PcsAligned s) :
    FormPcs (formGather u f c s) := by
  unfold Machine.formGather
  split
  · exact h.partyRead.form (fun _ _ h2 => h2)
  · exact FormPcs.ite h (h.partyBytes.form (fun _ _ h2 => h2))

theorem PcsAligned.readAll {u : UnitRef} {l : List (Nat × Nat)} {acc : List Byte} {s : State} (h : PcsAligned s) :
    GotPcs (readAll u l acc s) := by
  induction l generalizing acc s with
  | nil => exact h
  | cons p t ih =>
    rw [Machine.readAll]
    split
    · rename_i e
      exact ih (h.partyBytes.ok e)
    · rename_i e
      exact h.partyBytes.wait e
    · rename_i e
      exact h.partyBytes.stall e
    · rename_i e
      exact h.partyBytes.fail e

theorem PcsAligned.formTile {u : UnitRef} {f : TileFields} {c : LaneCmd} {s : State} (h : PcsAligned s) :
    FormPcs (formTile u f c s) := by
  unfold Machine.formTile
  split
  · exact GotPcs.form h.partyBytes fun _ _ h2 => FormPcs.ite (FormPcs.ite h2 h2) trivial
  · refine FormPcs.ite ?_ (FormPcs.ite (FormPcs.ite ?_ (FormPcs.ite ?_ (FormPcs.ite h h))) ?_)
    · exact GotPcs.form h.partyBytes fun _ _ h2 => GotPcs.form h2.partyBytes fun _ _ h3 => h3
    · have hs : GotPcs (.ok [] s : Got (List Byte)) := h
      exact GotPcs.form (GotPcs.ite h.partyBytes hs) fun _ _ h2 => GotPcs.form h2.readAll fun _ _ h3 => h3
    · exact GotPcs.form h.partyBytes fun _ _ h2 => h2
    · exact GotPcs.form h.partyBytes fun _ _ h2 => FormPcs.ite h2 h2

theorem PcsAligned.formSegt {u : UnitRef} {f : SegtFields} {c : LaneCmd} {s : State} (h : PcsAligned s) :
    FormPcs (formSegt u f c s) := by
  unfold Machine.formSegt
  dsimp only
  split
  · exact h.partyBytes.form (fun _ _ h2 => FormPcs.ite h2 trivial)
  · exact h.partyBytes.form (fun _ _ h2 => FormPcs.ite trivial (FormPcs.ite h2 h2))
  · exact h.partyRead.form (fun _ _ h2 => h2.partyBytes.form (fun _ _ h3 => h3))

theorem PcsAligned.formNext {u : UnitRef} {c : LaneCmd} {s : State} (h : PcsAligned s) : FormPcs (formNext u c s) := by
  unfold Machine.formNext
  split
  · exact h.formRead
  · exact h.formGather
  · exact h.formTile
  · exact h.formSegt
  · exact h
  · exact h
  · exact h

theorem PcsAligned.cfgSend {s : State} {w : Dword} {id : Option Nat} (h : PcsAligned s) : PcsAligned (s.cfgSend w id) :=
  h.updFe

theorem PcsAligned.emitCfg {s : State} {p k id : Nat} {ws : List Dword} (h : PcsAligned s) : PcsAligned
    (s.emitCfg p k id ws) := by
  unfold State.emitCfg
  split
  · exact h.updPort
  · exact PcsAligned.ite h.cfgSend.updPort h

theorem PcsAligned.emitEntry {s : State} {p k : Nat} {d : EntryQ} (h : PcsAligned s) : PcsAligned (s.emitEntry p k d) :=
  PcsAligned.ite h (h.partyRead.laneGot (fun _ _ h2 => h2.laneSend.updFab.updPort))

theorem PcsAligned.laneForm {s : State} {p : Nat} {c : LaneCmd} (h : PcsAligned s) : PcsAligned (s.laneForm p c) := by
  unfold State.laneForm
  split
  · rename_i e
    split
    · exact (h.formNext.ok e).unhold.updPort
    · exact (h.formNext.ok e).unhold.laneSend.updPort
  · rename_i e
    exact h.formNext.wait e
  · rename_i e
    exact (h.formNext.stall e).stallUnit
  · rename_i e
    exact (h.formNext.fail e).portFault
  · exact h.portFault

theorem PcsAligned.laneRecord {s : State} {p : Nat} {c : LaneCmd} (h : PcsAligned s) : PcsAligned (s.laneRecord p c) := by
  unfold State.laneRecord
  split
  · rename_i e
    exact (h.formNext.ok e).unhold.updPort
  · rename_i e
    exact h.formNext.wait e
  · rename_i e
    exact (h.formNext.stall e).stallUnit
  · rename_i e
    exact (h.formNext.fail e).portFault
  · exact h.portFault

theorem PcsAligned.serveReq {s : State} {p : Nat} {a : LaneCmd} {base sz : Nat} {t : Token} {rest : List Token} (h :
    PcsAligned s) :
    PcsAligned (s.serveReq p a base sz t rest) := by
  unfold State.serveReq
  dsimp only
  split
  · split
    · exact h.updPort
    · exact h.updPort.laneSend.updPort
  · split
    · split
      · exact h.portFault
      · refine GotPcs.laneGot h.partyRead ?_
        intro a2 s2 h2
        split
        · exact h2.updPort
        · exact h2.updPort.laneSend.updPort
    · exact h.updPort.laneSend.updPort

theorem PcsAligned.laneMove {s : State} {p : Nat} {c : LaneCmd} (h : PcsAligned s) : PcsAligned (s.laneMove p c) := by
  unfold State.laneMove
  dsimp only
  split
  · exact PcsAligned.ite h h.cfgSend.updPort
  · split
    · exact h
    · split
      · exact h.laneSend.updPort
      · split
        · exact h
        · exact h.serveReq
      · exact h
  · split
    · exact h.updPort
    · split
      · exact PcsAligned.ite h.laneSend.updPort h
      · exact PcsAligned.ite h h.laneForm

theorem PcsAligned.execLaneEmitToken {p : BitVec 4} {s : State} (h : PcsAligned s) : NextPcs (execLaneEmitToken p s) := by
  unfold Machine.execLaneEmitToken
  dsimp only
  split
  · exact NextPcs.ite h.laneSend.updPort h
  · exact PcsAligned.ite h h.laneRecord
  · split
    · exact h
    · split
      · exact h.laneMove
      · split
        · split
          · exact PcsAligned.ite h h.emitEntry
          · exact h
        · split
          · exact h.emitCfg
          · exact h.updPort
          · split
            · exact PcsAligned.ite h h.emitEntry
            · exact h

theorem PcsAligned.absBarrier {s : State} {p : Nat} {t : Token} (h : PcsAligned s) : PcsAligned (s.absBarrier p t) :=
  (PcsAligned.ite h.updPort.announce h.updPort).sinkReached

theorem PcsAligned.absTaken {s : State} {p k : Nat} {c : LaneCmd} (h : PcsAligned s) : PcsAligned (s.absTaken p k c) :=
  h.updPort

theorem PcsAligned.absWrite {s : State} {c : LaneCmd} (h : PcsAligned s) : GotPcs (s.absWrite c) :=
  h.partyPieces

theorem PcsAligned.absFlush {s : State} {p : Nat} {c : LaneCmd} (h : PcsAligned s) : PcsAligned (s.absFlush p c) :=
  PcsAligned.ite h.updPort (h.absWrite.laneGot (fun _ _ h2 => h2.updPort))

theorem PcsAligned.absIndex {s : State} {p : Nat} {c : LaneCmd} (h : PcsAligned s) : SomeWf GotPcs (s.absIndex p c) := by
  unfold State.absIndex
  split
  · exact SomeWf.ite h.partyRead trivial
  · exact trivial

theorem PcsAligned.tokenFault {s : State} {p cmd cause reason addr : Nat} (h : PcsAligned s) :
    PcsAligned (s.tokenFault p cmd cause reason addr) :=
  h.updPort.portFault

theorem PcsAligned.absData {s : State} {p k : Nat} {c : LaneCmd} {t : Token} (h : PcsAligned s) :
    PcsAligned (s.absData p k c t) := by
  unfold State.absData
  split
  · exact h.tokenFault
  · split
    · exact h.partyRead.laneGot (fun _ _ h2 => h2.updPort)
    · exact PcsAligned.ite h.tokenFault h.absTaken

theorem PcsAligned.absToken {s : State} {p k : Nat} {c : LaneCmd} {t : Token} (h : PcsAligned s) : PcsAligned
    (s.absToken p k c t) :=
  PcsAligned.ite h
    (PcsAligned.ite h.tokenFault (PcsAligned.ite h.tokenFault (PcsAligned.ite (PcsAligned.ite h.absTaken h)
    (PcsAligned.ite h.absData
    h.absTaken))))

theorem PcsAligned.execLaneAbsorbToken {p : BitVec 4} {s : State} (h : PcsAligned s) : NextPcs (execLaneAbsorbToken p s) :=
    by
  unfold Machine.execLaneAbsorbToken
  extract_lets k t q
  have ht : PcsAligned t := PcsAligned.ite h.updPort h
  refine NextPcs.ite ht ?_
  split
  · exact ht.portFault
  · exact ht.absBarrier
  · exact ht
  · refine NextPcs.ite ht.absFlush ?_
    split
    · exact ht
    · exact ht.portFault
    · exact ht.absBarrier
    · exact ht.absToken

theorem PcsAligned.execLaneCommandComplete {p : BitVec 4} {absorb : Bool} {s : State} (h : PcsAligned s) :
    NextPcs (execLaneCommandComplete p absorb s) := by
  unfold Machine.execLaneCommandComplete
  extract_lets k q next done
  have hnext : ∀ {t}, PcsAligned t → PcsAligned (next t) := fun ht => PcsAligned.ite ht.updPort ht.updPort
  have hend : ∀ {f}, PcsAligned (next (s.updPort k f)) := hnext h.updPort
  split
  · exact NextPcs.ite (NextPcs.ite hend h) (NextPcs.ite (NextPcs.ite hend h) (NextPcs.ite hend h))
  · exact NextPcs.ite hend h
  · exact NextPcs.ite hend h
  · exact h

theorem PcsAligned.execHandleClaim {p : BitVec 4} {s : State} (h : PcsAligned s) : NextPcs (execHandleClaim p s) := by
  unfold Machine.execHandleClaim
  dsimp only
  split
  · exact h
  · split
    · exact h
    · exact NextPcs.ite h.updHandle.updPort h

theorem PcsAligned.execSpctlUnseal {p : BitVec 4} {s : State} (h : PcsAligned s) : NextPcs (execSpctlUnseal p s) :=
  h.updPort

theorem PcsAligned.reqRead {s : State} {p : Nat} {c : LaneCmd} (h : PcsAligned s) : SomeWf GotPcs (s.reqRead p c) := by
  unfold State.reqRead
  split
  · split
    · exact SomeWf.ite h.partyRead trivial
    · exact trivial
  · exact trivial

/-! ### The matrix engines -/

theorem PcsAligned.spillOut {s : State} {e : Nat} {j : Bool} (h : PcsAligned s) : PcsAligned (s.spillOut e j) := by
  unfold State.spillOut
  dsimp only
  split
  · exact h
  · exact h.wrBytes.updMe

theorem PcsAligned.takeBank {s : State} {e : Nat} {j : Bool} {ctx : BitVec 12} {second : Bool} (h : PcsAligned s) :
    PcsAligned (s.takeBank e j ctx second) :=
  h.spillOut.updMe

theorem PcsAligned.fillBank {s : State} {e : Nat} {j : Bool} {ctx : BitVec 12} {second : Bool} (h : PcsAligned s) :
    PcsAligned (s.fillBank e j ctx second) := by
  suffices hf : ∀ f, f = State.fillBank → PcsAligned (f s e j ctx second) from hf _ rfl
  rintro f hf
  delta State.fillBank at hf
  subst hf
  beta_reduce
  generalize colsOfImage (memBytes s.mem (s.saveArea ctx e second) imageBytes) = o
  cases o with
  | none => exact h
  | some cols => exact h.updMe

theorem PcsAligned.meFault {s : State} {e cmd cause reason addr det : Nat} (h : PcsAligned s) :
    PcsAligned (s.meFault e cmd cause reason addr det) :=
  PcsAligned.ite h h.fabRecord.updMe.updFab.unhold.unhold.unannounce

theorem GotPcs.meGot {α : Type} {e cmd acc : Nat} {g : Got α} {f : α → State → State} (h : GotPcs g) (h2 : ∀ (a : α)
    (t : State), PcsAligned t → PcsAligned (f a t)) :
    PcsAligned (meGot e cmd acc g f) := by
  unfold Machine.meGot
  split
  · exact h2 _ _ h
  · exact h
  · exact h.stallUnit
  · exact h.meFault

theorem PcsAligned.execMePlaneToken {e : BitVec 1} {s : State} (h : PcsAligned s) : NextPcs (execMePlaneToken e s) := by
  unfold Machine.execMePlaneToken
  extract_lets k m
  split
  · exact h
  · extract_lets pop sink
    have hpop : PcsAligned (pop s) := h.updMe
    have hsink : PcsAligned (sink s) := PcsAligned.ite hpop.sinkReached hpop
    refine NextPcs.ite hsink ?_
    split
    · refine NextPcs.ite hsink (NextPcs.ite hpop (NextPcs.ite ?_ h.meFault))
      split
      · exact hpop.updMe
      · exact h
    · split
      · exact h
      · refine NextPcs.ite hpop.updMe (NextPcs.ite hpop.updMe (NextPcs.ite ?_ h.meFault))
        split
        · exact hpop.updMe
        · exact h.meFault

theorem PcsAligned.loadDirect {e : Nat} {f : LoadFields} {s : State} {k : Nat} (h : PcsAligned s) :
    PcsAligned (loadDirect e f s k) := by
  unfold Machine.loadDirect
  refine GotPcs.meGot h.partyBytes fun r t ht => ?_
  extract_lets hd st w at_ exps cols
  have hexps : GotPcs (exps t) := by
    have hn : GotPcs (.ok [] t : Got (List Byte)) := ht
    exact GotPcs.ite ht.partyBytes hn
  have hcols : ∀ u, PcsAligned u → GotPcs (cols u) := fun u hu => by
    have hn : GotPcs (.ok [] u : Got (List Byte)) := hu
    refine GotPcs.foldl (fun g i hg => ?_) hn
    split
    · split
      · rename_i e2
        exact PcsAligned.partyBytes hg |>.ok e2
      · exact PcsAligned.partyBytes hg
    · exact hg
  exact PcsAligned.ite ht.meFault (GotPcs.meGot hexps fun xs u hu => GotPcs.meGot
      (hcols u hu) fun bs v hv => hv.unhold.updMe)

theorem PcsAligned.meBarrier {s : State} {e : Nat} (h : PcsAligned s) : PcsAligned (s.meBarrier e) := by
  unfold State.meBarrier
  dsimp only
  split
  · exact h
  · exact PcsAligned.ite h.meFault (PcsAligned.ite h h.updMe.sinkReached)

theorem PcsAligned.meRow {s : State} {e ch k : Nat} {c : EngCmd} {f : ProductFields} {t : Token} (h : PcsAligned s) :
    PcsAligned (s.meRow e ch k c f t) :=
  PcsAligned.ite h
    (PcsAligned.ite h.meFault (PcsAligned.ite h.updMe (PcsAligned.ite h.updMe (PcsAligned.ite (PcsAligned.ite
    h.meFault h.updMe)
    h.meFault))))

theorem PcsAligned.execMeAToken {e : BitVec 1} {ch : BitVec 3} {s : State} (h : PcsAligned s) :
    NextPcs (execMeAToken e ch s) := by
  unfold Machine.execMeAToken
  dsimp only
  split
  · exact h
  · split
    · exact PcsAligned.ite h.updMe.sinkReached h.updMe
    · split
      · exact NextPcs.ite h.updMe.sinkReached h.updMe.updMe
      · split
        · exact h.meBarrier
        · split
          · exact h.updMe
          · split
            · split
              · exact PcsAligned.ite h.meRow h
              · exact h
            · exact h

theorem PcsAligned.meCommit {s : State} {e k : Nat} {i : Instr} {f : ProductFields} {named : Nat → Nat → Bool} {rowsAt :
    Nat → List (List Word)} {cyc : Nat} (h : PcsAligned s) :
    PcsAligned (s.meCommit e k i f named rowsAt cyc) :=
  PcsAligned.ite h.meFault h.unhold.updMe

theorem PcsAligned.storedRows {e : Nat} {f : ProductFields} {kb trec : Nat} {s : State} (h : PcsAligned s) :
    GotPcs (storedRows e f kb trec s) := by
  unfold Machine.storedRows
  split
  · rename_i r t et
    have ht : PcsAligned t := h.partyBytes.ok et
    extract_lets hd
    split
    · rename_i bs u eu
      have hu : PcsAligned u := ht.partyBytes.ok eu
      have hn : GotPcs (.ok (0, []) u : Got (Nat × List (List Word))) := hu
      refine GotPcs.ite hu (GotPcs.foldl (fun g m hg => ?_) hn)
      split
      · refine GotPcs.ite hg ?_
        split
        · rename_i x v ev
          have hv : PcsAligned v := (PcsAligned.partyValue hg).ok ev
          refine GotPcs.ite hv ?_
          split
          · rename_i w ew
            have hw : PcsAligned w := hv.partyBytes.ok ew
            exact GotPcs.ite hw hw
          · rename_i ew
            exact hv.partyBytes.wait ew
          · rename_i ew
            exact hv.partyBytes.stall ew
          · rename_i ew
            exact hv.partyBytes.fail ew
        · rename_i ev
          exact (PcsAligned.partyValue hg).wait ev
        · rename_i ev
          exact (PcsAligned.partyValue hg).stall ev
        · rename_i ev
          exact (PcsAligned.partyValue hg).fail ev
      · exact hg
    · rename_i eu
      exact ht.partyBytes.wait eu
    · rename_i eu
      exact ht.partyBytes.stall eu
    · rename_i eu
      exact ht.partyBytes.fail eu
  · rename_i et
    exact h.partyBytes.wait et
  · rename_i et
    exact h.partyBytes.stall et
  · rename_i et
    exact h.partyBytes.fail et

theorem PcsAligned.gatherRows {e : Nat} {f : ProductFields} {desc : Nat} {s : State} (h : PcsAligned s) :
    GotPcs (gatherRows e f desc s) := by
  unfold Machine.gatherRows
  split
  · rename_i d t et
    have ht : PcsAligned t := h.partyBytes.ok et
    extract_lets w cnt gidx sidx
    have hn : GotPcs (.ok (0, []) t : Got (Nat × List (Nat × List Word))) := ht
    refine GotPcs.ite ht (GotPcs.foldl (fun g m hg => ?_) hn)
    split
    · refine GotPcs.ite hg ?_
      split
      · rename_i gi u eu
        have hu : PcsAligned u := (PcsAligned.partyValue hg).ok eu
        split
        · rename_i v ev
          have hv : PcsAligned v := hu.partyValue.ok ev
          extract_lets va
          refine GotPcs.ite hv (GotPcs.ite hv ?_)
          split
          · rename_i ew
            exact hv.partyBytes.ok ew
          · rename_i ew
            exact hv.partyBytes.wait ew
          · rename_i ew
            exact hv.partyBytes.stall ew
          · rename_i ew
            exact hv.partyBytes.fail ew
        · rename_i ev
          exact hu.partyValue.wait ev
        · rename_i ev
          exact hu.partyValue.stall ev
        · rename_i ev
          exact hu.partyValue.fail ev
      · rename_i eu
        exact (PcsAligned.partyValue hg).wait eu
      · rename_i eu
        exact (PcsAligned.partyValue hg).stall eu
      · rename_i eu
        exact (PcsAligned.partyValue hg).fail eu
    · exact hg
  · rename_i et
    exact h.partyBytes.wait et
  · rename_i et
    exact h.partyBytes.stall et
  · rename_i et
    exact h.partyBytes.fail et

theorem PcsAligned.meProduct {s : State} {e k : Nat} {i : Instr} {f : ProductFields} (h : PcsAligned s) :
    PcsAligned (s.meProduct e k i f) := by
  unfold State.meProduct
  dsimp only
  split
  · exact h
  · split
    · exact h.meFault
    · split
      · exact h.gatherRows.meGot (fun _ _ h2 => PcsAligned.ite h2.meFault h2.meCommit)
      · split
        · exact h.storedRows.meGot (fun _ _ h2 => PcsAligned.ite h2.meFault h2.meCommit)
        · split
          · exact h.meCommit
          · exact h
      · split
        · exact h.meCommit
        · exact h

theorem PcsAligned.execMeProductCommit {e : BitVec 1} {s : State} (h : PcsAligned s) : NextPcs (execMeProductCommit e s) :=
    by
  unfold Machine.execMeProductCommit
  split
  · exact h
  · split
    · exact h.meProduct
    · exact h

theorem PcsAligned.drainBegin {s : State} {e k : Nat} {f : DrainFields} (h : PcsAligned s) : PcsAligned
    (s.drainBegin e k f) := by
  unfold State.drainBegin
  dsimp only
  split
  · exact h.meFault
  · split
    · exact h
    · refine GotPcs.meGot ?_ ?_
      · split
        · exact h.partyBytes
        · exact h
      · intro a s2 h2
        refine PcsAligned.updMe ?_
        refine PcsAligned.unhold ?_
        split
        · exact h2.inject
        · exact h2

theorem PcsAligned.bankClaim {s : State} {e : Nat} (h : PcsAligned s) : PcsAligned (s.bankClaim e) :=
  PcsAligned.ite h (PcsAligned.ite h h.takeBank).updMe

theorem PcsAligned.meRun {s : State} {e k : Nat} {c : EngCmd} (h : PcsAligned s) : PcsAligned (s.meRun e k c) := by
  unfold State.meRun
  dsimp only
  split
  · exact h.unhold.updMe
  · split
    · exact h
    · split
      · exact PcsAligned.ite h.loadDirect h
      · exact h.updMe.unhold.updMe
      · exact PcsAligned.ite h.meFault h.updMe.unhold.updMe
      · exact h.bankClaim.unhold.updMe
      · exact h.updMe.unhold.updMe
      · exact PcsAligned.ite h.meFault (h.partyPut.meGot (fun _ _ h2 => PcsAligned.ite h2.unhold.updMe h2.updMe))
      · split
        · exact h.meFault
        · refine GotPcs.meGot h.partyBytes ?_
          intro a s2 h2
          split
          · exact h2.meFault
          · exact h2.updMe.unhold.updMe
      · exact h.partyWrite.meGot (fun _ _ h2 => (PcsAligned.ite h2.updMe h2).unhold.updMe)
      · exact PcsAligned.ite h.drainBegin (PcsAligned.ite (PcsAligned.ite h.updMe h).unhold.updMe h)
      · exact h

theorem PcsAligned.execMeCommandComplete {e : BitVec 1} {s : State} (h : PcsAligned s) :
    NextPcs (execMeCommandComplete e s) := by
  unfold Machine.execMeCommandComplete
  dsimp only
  split
  · exact h.meRun
  · exact h

theorem PcsAligned.execMesealEnd {e : BitVec 1} {s : State} (h : PcsAligned s) : NextPcs (execMesealEnd e s) :=
  h.updMe

/-! ### The token-merge unit -/

theorem PcsAligned.tmuFault {s : State} {cmd cause reason addr det : Nat} (h : PcsAligned s) :
    PcsAligned (s.tmuFault cmd cause reason addr det) :=
  PcsAligned.ite h h.fabRecord.updTmu.updFab.unhold

theorem GotPcs.tmuGot {α : Type} {cmd acc : Nat} {g : Got α} {f : α → State → State} (h : GotPcs g) (h2 : ∀ (a : α)
    (t : State), PcsAligned t → PcsAligned (f a t)) :
    PcsAligned (tmuGot cmd acc g f) := by
  unfold Machine.tmuGot
  split
  · exact h2 _ _ h
  · exact h
  · exact h.stallUnit
  · exact h.tmuFault

theorem PcsAligned.readKeys {base stride d n : Nat} {acc : List (List Nat)} {s : State} (h : PcsAligned s) :
    GotPcs (readKeys base stride d n acc s) := by
  induction n generalizing acc s with
  | zero => exact h
  | succ n ih =>
    rw [Machine.readKeys]
    split
    · rename_i e
      exact ih (h.partyBytes.ok e)
    · rename_i e
      exact h.partyBytes.wait e
    · rename_i e
      exact h.partyBytes.stall e
    · rename_i e
      exact h.partyBytes.fail e

theorem PcsAligned.tmuMatch {slot desc r : Nat} {done : State → State} {s : State}
    (h : ∀ t, PcsAligned t → PcsAligned (done t))
    (h2 : PcsAligned s) : PcsAligned (tmuMatch slot desc r done s) := by
  unfold Machine.tmuMatch
  dsimp only
  refine GotPcs.tmuGot h2.partyBytes ?_
  intro a s2 h3
  split
  · exact h3.tmuFault
  · refine GotPcs.tmuGot h3.readKeys ?_
    intro a2 s3 h4
    refine GotPcs.tmuGot (GotPcs.ite h4 h4.partyBytes) ?_
    intro a3 s4 h5
    refine GotPcs.tmuGot (GotPcs.ite h5 h5.partyBytes) ?_
    intro a4 s5 h6
    split
    · exact h6.tmuFault
    · exact h _ h6.updTmu.orFlags

theorem PcsAligned.tmuRun {s : State} {i : Instr} (h : PcsAligned s) : PcsAligned (s.tmuRun i) := by
  unfold State.tmuRun
  dsimp only
  split
  · exact PcsAligned.tmuMatch (fun _ h2 => h2.unhold.updTmu) h
  · split
    · exact h
    · exact h.updTmu.orFlags
  · split
    · exact h
    · exact h.updTmu
  · split
    · exact h
    · exact h.updTmu.orFlags
  · split
    · exact PcsAligned.ite h.tmuFault h.updTmu.unhold.updTmu
    · exact h
  · split
    · exact h
    · exact PcsAligned.ite (h.partyPut.tmuGot (fun _ _ h2 => h2.updTmu)) (h.partyWrite.tmuGot
          (fun _ _ h2 => h2.unhold.updTmu))
  · refine GotPcs.tmuGot h.partyBytes ?_
    intro a s2 h2
    split
    · exact h2.tmuFault
    · refine GotPcs.tmuGot h2.partyBytes ?_
      intro a2 s3 h3
      split
      · exact h3.updTmu.unhold.updTmu
      · exact h3.tmuFault
  · exact h.updTmu.unhold.updTmu
  · exact h.partyWrite.tmuGot (fun _ _ h2 => h2.unhold.updTmu)
  · exact h

theorem PcsAligned.tmuBarrier {s : State} {x : Token} (h : PcsAligned s) : PcsAligned (s.tmuBarrier x) :=
  PcsAligned.ite h.sinkReached h.updTmu

theorem PcsAligned.tmuRow {s : State} {i : Instr} {last : Bool} (h : PcsAligned s) : PcsAligned (s.tmuRow i last) :=
  PcsAligned.ite h.tmuFault h.updTmu

theorem PcsAligned.execTmuInToken {s : State} (h : PcsAligned s) : NextPcs (execTmuInToken s) := by
  unfold Machine.execTmuInToken
  dsimp only
  split
  · exact h
  · split
    · exact PcsAligned.ite h.updTmu.sinkReached h.updTmu.updTmu
    · split
      · exact PcsAligned.ite h.updTmu.tmuBarrier (PcsAligned.ite h.updTmu.updTmu h.updTmu.updTmu)
      · split
        · exact PcsAligned.ite h h.updTmu.tmuBarrier
        · split
          · exact h.updTmu.updTmu
          · split
            · exact PcsAligned.ite h.updTmu h
            · exact NextPcs.ite h.updTmu (NextPcs.ite h.updTmu (NextPcs.ite h.tmuRow h.tmuFault))

theorem PcsAligned.tmuGo {t : Tmu} {path : Bool} {s : State} (h : PcsAligned s) : NextPcs
    (execTmuCommandComplete.go t path s) := by
  unfold Machine.execTmuCommandComplete.go
  split
  · exact h
  · exact NextPcs.ite (PcsAligned.ite h.updTmu h.updTmu) (NextPcs.ite h h.tmuRun)

theorem PcsAligned.execTmuCommandComplete {s : State} (h : PcsAligned s) : NextPcs (execTmuCommandComplete s) := by
  unfold Machine.execTmuCommandComplete
  refine NextPcs.ite h ?_
  split
  · exact NextPcs.ite (PcsAligned.ite h.updTmu h) h.tmuGo
  · exact h.tmuGo

theorem PcsAligned.go {t : Tmu} {path : Bool} {s : State} (h : PcsAligned s) : NextPcs
    (execTmuCommandComplete.go t path s) := by
  unfold execTmuCommandComplete.go
  split
  · exact h
  · exact NextPcs.ite (PcsAligned.ite h.updTmu h.updTmu) (NextPcs.ite h h.tmuRun)

theorem PcsAligned.execTmsealEnd {s : State} (h : PcsAligned s) : NextPcs (execTmsealEnd s) :=
  h.updTmu

/-! ### Issue of stream commands -/

theorem PcsAligned.portAccept {s : State} {p : Nat} {i : Instr} (h : PcsAligned s) : PcsAligned (s.portAccept p i) := by
  unfold State.portAccept
  split
  · exact h
  · split
    · exact h.updPort
    · exact h.updPort
    · exact h.updPort
    · exact h.updPort
    · split
      · exact h.updPort.announce
      · exact h.updPort

theorem PcsAligned.meAccept {s : State} {e : Nat} {i : Instr} (h : PcsAligned s) : PcsAligned (s.meAccept e i) := by
  unfold State.meAccept
  split
  · exact h
  · split
    · exact PcsAligned.ite h.updMe.announce h.updMe
    · exact h.updMe

theorem PcsAligned.ceAccept {s : State} {e : Nat} {i : Instr} (h : PcsAligned s) :
    ExceptWf (fun _ => True) PcsAligned (s.ceAccept e i) := by
  unfold State.ceAccept
  split
  · exact h.ceStart
  · exact h.ceAbort
  · exact h

theorem PcsAligned.cmdAccept {s : State} {i : Instr} (h : PcsAligned s) : ExceptWf (fun _ => True) PcsAligned
    (s.cmdAccept i) := by
  unfold State.cmdAccept
  split
  · exact h.portAccept
  · exact h.meAccept
  · exact PcsAligned.ite h h.updTmu
  · exact h.ceAccept

theorem PcsAligned.acceptCmd {s : State} {carrier : Instr} {ea : Nat} {cmd : Instr} (h : PcsAligned s) :
    PcsAligned (s.acceptCmd carrier ea cmd) := by
  unfold State.acceptCmd
  split
  · exact h
  · split
    · exact h.trapInstr
    · split
      · exact h.trapInstr
      · split
        · exact h
        · split
          · exact h.trapInstr
          · rename_i e3
            exact (h.cmdAccept.ok e3).advanceBy (Nat.mul_mod_right ..)

theorem PcsAligned.issueWord {s : State} {carrier : Instr} {ea : Nat} {q : Qword} (h : PcsAligned s) :
    PcsAligned (s.issueWord carrier ea q) := by
  unfold State.issueWord
  dsimp only
  split
  · exact h
  · split
    · exact h.acceptCmd
    · exact h.trapInstr

theorem PcsAligned.execIssue {k : KReg} {s : State} (h : PcsAligned s) : NextPcs (execIssue k s) :=
  h.issueWord

theorem PcsAligned.execIssuex {idx : BitVec 15} {s : State} (h : PcsAligned s) : NextPcs (execIssuex idx s) := by
  unfold Machine.execIssuex
  dsimp only
  split
  · exact h
  · split
    · exact h.walked.trapInstr
    · split
      · rename_i e2
        exact (h.fillRes.loanChecks.fault e2).trapInstr
      · rename_i e2
        exact (h.fillRes.loanChecks.stall e2).trapInstr
      · rename_i e2
        exact h.fillRes.loanChecks.wait e2
      · rename_i e2
        split
        · exact h.fillRes.loanChecks.ok e2
        · split
          · exact (h.fillRes.loanChecks.ok e2).trapInstr
          · split
            · rename_i e3
              exact ((h.fillRes.loanChecks.ok e2).placeRead.ok e3).issueWord
            · rename_i e3
              exact (h.fillRes.loanChecks.ok e2).placeRead.wait e3
            · rename_i e3
              exact ((h.fillRes.loanChecks.ok e2).placeRead.fail e3).trapInstr
            · rename_i e3
              exact ((h.fillRes.loanChecks.ok e2).placeRead.stall e3).trapInstr

theorem PcsAligned.execSread {p : BitVec 4} {f : ReadFields} {s : State} (h : PcsAligned s) : NextPcs (execSread p f s) :=
  h.acceptCmd

theorem PcsAligned.execSwrite {p : BitVec 4} {f : WriteFields} {s : State} (h : PcsAligned s) : NextPcs
    (execSwrite p f s) :=
  h.acceptCmd

theorem PcsAligned.execSgather {p : BitVec 4} {f : GatherFields} {s : State} (h : PcsAligned s) : NextPcs
    (execSgather p f s) :=
  h.acceptCmd

theorem PcsAligned.execSscatter {p : BitVec 4} {f : ScatterFields} {s : State} (h : PcsAligned s) :
    NextPcs (execSscatter p f s) :=
  h.acceptCmd

theorem PcsAligned.execStile {p : BitVec 4} {f : TileFields} {s : State} (h : PcsAligned s) : NextPcs (execStile p f s) :=
  h.acceptCmd

theorem PcsAligned.execSsegt {p : BitVec 4} {f : SegtFields} {s : State} (h : PcsAligned s) : NextPcs (execSsegt p f s) :=
  h.acceptCmd

theorem PcsAligned.execScfg {p : BitVec 4} {r1 : Reg} {word : Dword} {s : State} (h : PcsAligned s) :
    NextPcs (execScfg p r1 word s) :=
  h.acceptCmd

theorem PcsAligned.execSbar {p : BitVec 4} {r1 : Reg} {id : Byte} {snap : Bool} {s : State} (h : PcsAligned s) :
    NextPcs (execSbar p r1 id snap s) :=
  h.acceptCmd

theorem PcsAligned.execSend {p : BitVec 4} {r1 : Reg} {lvl : BitVec 3} {pay : Word} {err : Bool} {s : State} (h : PcsAligned
    s) :
    NextPcs (execSend p r1 lvl pay err s) :=
  h.acceptCmd

theorem PcsAligned.execSclose {p : BitVec 4} {r1 : Reg} {lvl : BitVec 3} {s : State} (h : PcsAligned s) :
    NextPcs (execSclose p r1 lvl s) :=
  h.acceptCmd

theorem PcsAligned.execSgateSetPlvl {p : BitVec 4} {r1 : Reg} {lvl : BitVec 3} {s : State} (h : PcsAligned s) :
    NextPcs (execSgateSetPlvl p r1 lvl s) :=
  h.acceptCmd

theorem PcsAligned.execSgateGate {p : BitVec 4} {r1 : Reg} {lvl : BitVec 3} {s : State} (h : PcsAligned s) :
    NextPcs (execSgateGate p r1 lvl s) :=
  h.acceptCmd

theorem PcsAligned.execSgateUngate {p : BitVec 4} {r1 : Reg} {lvl : BitVec 3} {s : State} (h : PcsAligned s) :
    NextPcs (execSgateUngate p r1 lvl s) :=
  h.acceptCmd

theorem PcsAligned.execSreq {p : BitVec 4} {r1 : Reg} {base : BitVec 48} {sz : BitVec 3} {s : State} (h : PcsAligned s) :
    NextPcs (execSreq p r1 base sz s) :=
  h.acceptCmd

theorem PcsAligned.execCchain {e : BitVec 1} {r1 : Reg} {head : BitVec 48} {s : State} (h : PcsAligned s) :
    NextPcs (execCchain e r1 head s) :=
  h.acceptCmd

theorem PcsAligned.execCabort {e : BitVec 1} {s : State} (h : PcsAligned s) : NextPcs (execCabort e s) :=
  h.acceptCmd

theorem PcsAligned.execMload {e : BitVec 1} {f : LoadFields} {s : State} (h : PcsAligned s) : NextPcs (execMload e f s) :=
  h.acceptCmd

theorem PcsAligned.execMswap {e : BitVec 1} {s : State} (h : PcsAligned s) : NextPcs (execMswap e s) :=
  h.acceptCmd

theorem PcsAligned.execMdense {e : BitVec 1} {f : ProductFields} {s : State} (h : PcsAligned s) : NextPcs
    (execMdense e f s) :=
  h.acceptCmd

theorem PcsAligned.execMseg {e : BitVec 1} {r2 : Reg} {kb : Half} {trec : BitVec 43} {f : ProductFields} {s : State} (h :
    PcsAligned s) :
    NextPcs (execMseg e r2 kb trec f s) :=
  h.acceptCmd

theorem PcsAligned.execMbatch {e : BitVec 1} {f : ProductFields} {s : State} (h : PcsAligned s) : NextPcs
    (execMbatch e f s) :=
  h.acceptCmd

theorem PcsAligned.execMgather {e : BitVec 1} {desc : BitVec 19} {f : ProductFields} {s : State} (h : PcsAligned s) :
    NextPcs (execMgather e desc f s) :=
  h.acceptCmd

theorem PcsAligned.execMdrain {e : BitVec 1} {f : DrainFields} {s : State} (h : PcsAligned s) : NextPcs
    (execMdrain e f s) :=
  h.acceptCmd

theorem PcsAligned.execMzero {e : BitVec 1} {r1 : Reg} {n : Half} {bank : Bool} {s : State} (h : PcsAligned s) :
    NextPcs (execMzero e r1 n bank s) :=
  h.acceptCmd

theorem PcsAligned.execMbankClaim {e : BitVec 1} {s : State} (h : PcsAligned s) : NextPcs (execMbankClaim e s) :=
  h.acceptCmd

theorem PcsAligned.execMbankRelease {e : BitVec 1} {s : State} (h : PcsAligned s) : NextPcs (execMbankRelease e s) :=
  h.acceptCmd

theorem PcsAligned.execMspill {e : BitVec 1} {addr : BitVec 42} {bank : Bool} {s : State} (h : PcsAligned s) :
    NextPcs (execMspill e addr bank s) :=
  h.acceptCmd

theorem PcsAligned.execMfill {e : BitVec 1} {addr : BitVec 42} {bank : Bool} {s : State} (h : PcsAligned s) :
    NextPcs (execMfill e addr bank s) :=
  h.acceptCmd

theorem PcsAligned.execMstat {e : BitVec 1} {r1 : Reg} {addr : BitVec 42} {clr : Bool} {seq : Word} {s : State} (h :
    PcsAligned s) :
    NextPcs (execMstat e r1 addr clr seq s) :=
  h.acceptCmd

theorem PcsAligned.execTmatch {r1 : Reg} {slot : BitVec 4} {desc : BitVec 19} {num : BitVec 10} {s : State}
    (h : PcsAligned s) :
    NextPcs (execTmatch r1 slot desc num s) :=
  h.acceptCmd

theorem PcsAligned.execTmerge {r1 : Reg} {slot : BitVec 4} {num : BitVec 10} {vf : Bool} {s : State} (h : PcsAligned s) :
    NextPcs (execTmerge r1 slot num vf s) :=
  h.acceptCmd

theorem PcsAligned.execTlogsz {slot : BitVec 4} {b2 : Bool} {s : State} (h : PcsAligned s) : NextPcs
    (execTlogsz slot b2 s) :=
  h.acceptCmd

theorem PcsAligned.execTunmerge {r1 : Reg} {slot : BitVec 4} {num : BitVec 10} {vf : Bool} {s : State} (h : PcsAligned s) :
    NextPcs (execTunmerge r1 slot num vf s) :=
  h.acceptCmd

theorem PcsAligned.execTcompose {slot sla slb : BitVec 4} {s : State} (h : PcsAligned s) :
    NextPcs (execTcompose slot sla slb s) :=
  h.acceptCmd

theorem PcsAligned.execTsave {slot : BitVec 4} {addr : BitVec 42} {s : State} (h : PcsAligned s) :
    NextPcs (execTsave slot addr s) :=
  h.acceptCmd

theorem PcsAligned.execTload {slot : BitVec 4} {addr : BitVec 42} {s : State} (h : PcsAligned s) :
    NextPcs (execTload slot addr s) :=
  h.acceptCmd

theorem PcsAligned.execTfree {slot : BitVec 4} {s : State} (h : PcsAligned s) : NextPcs (execTfree slot s) :=
  h.acceptCmd

theorem PcsAligned.execTstat {r1 : Reg} {addr : BitVec 42} {seq : Word} {s : State} (h : PcsAligned s) :
    NextPcs (execTstat r1 addr seq s) :=
  h.acceptCmd

theorem PcsAligned.execCfgld {a b : Reg} {s : State} (h : PcsAligned s) : NextPcs (execCfgld a b s) := by
  unfold Machine.execCfgld
  dsimp only
  split
  · exact h.trapInstr
  · split
    · exact h.trapInstr
    · split
      · exact h
      · split
        · rename_i e
          exact PcsAligned.ite (h.fetchFolio.error e) (h.fetchFolio.error e).trapInstr
        · rename_i e
          exact NextPcs.ite (h.fetchFolio.ok e).updFab.advance (PcsAligned.ite (h.fetchFolio.ok e).updFab
              (h.fetchFolio.ok e)).sendFolio.updFab.advance

theorem PcsAligned.execCfgwait {s : State} (h : PcsAligned s) : NextPcs (execCfgwait s) :=
  NextPcs.ite h.advance h

theorem PcsAligned.execWbar {a : Reg} {s : State} (h : PcsAligned s) : NextPcs (execWbar a s) :=
  NextPcs.ite h.trapInstr (NextPcs.ite h.advance h)

/-! ### The watchdog -/

theorem PcsAligned.fired {f : Fe} {r c : Nat} {s : State} (h : PcsAligned s) : NextPcs (fired f r c s) := by
  unfold Machine.fired
  split
  · exact h.execMapFire
  · exact h.execSfnFire
  · exact h.execRedFire
  · exact h.execSteerFire
  · exact h.execMergeFire
  · exact h.execCarryFire
  · exact h.execGenEmit
  · exact h.execMemFire
  · exact h.execSegFire
  · exact h.execShufFire
  · exact h.execConvFire
  · exact h.execForkFire
  · exact h

/-! ### Dispatch and the end of a task -/

theorem PcsAligned.deferredOp {s : State} {k : TaskKey} {c : Nat} {a : Deferred} (h : PcsAligned s) :
    PcsAligned (s.deferredOp k c a) := by
  unfold State.deferredOp
  dsimp only
  split
  · exact h.ceStartNow
  · split
    · exact h
    · exact PcsAligned.ite h.faultRecord h.launchTask

theorem PcsAligned.idleCore {s : State} (h : PcsAligned s) : PcsAligned s.idleCore :=
  h.freeCore.resetClerk

theorem PcsAligned.endSteps {s : State} {k : TaskKey} {c : Nat} {ops : List Deferred} (h : PcsAligned s) :
    PcsAligned (s.endSteps k c ops) := by
  unfold State.endSteps
  refine PcsAligned.dropRec ?_
  refine PcsAligned.frame ?_
  split
  · exact (PcsAligned.foldl (fun _ _ h2 => h2.deferredOp)
        h.leaveCohort.releaseObjects.returnSets.updRec).decrementAll.tcbSet
  · exact (PcsAligned.foldl (fun _ _ h2 => h2.deferredOp) h.leaveCohort.releaseObjects.returnSets.updRec).decrementAll

theorem PcsAligned.endTask {s : State} {k : TaskKey} (h : PcsAligned s) : PcsAligned (s.endTask k) :=
  h.updTmu.endSteps.frame.idleCore

theorem PcsAligned.execTend {s : State} (h : PcsAligned s) : NextPcs (execTend s) := by
  unfold Machine.execTend
  split
  · exact h
  · exact NextPcs.ite h.endTask h

theorem PcsAligned.execTyield {s : State} (h : PcsAligned s) : NextPcs (execTyield s) :=
  NextPcs.ite h (NextPcs.ite h.advance h.advance.frame)

theorem PcsAligned.requeue {s : State} {k : TaskKey} {c : Nat} (h : PcsAligned s) : PcsAligned (s.requeue k c) :=
  h.frame.memberRuns.farSave.enqueue

theorem killedCore_pc (s : State) (c : Core) : (s.killedCore c).clerk.pc = c.clerk.pc := by
  unfold State.killedCore
  split <;> rfl

theorem saved_pc (x : BitVec 12) (c : Core) : (c.saved x).clerk.pc = c.clerk.pc := by
  unfold Core.saved
  dsimp only
  split
  · exact c.clerk.drain_keeps.1
  · exact (pendCause_clerk_pc ..).trans c.clerk.drain_keeps.1

theorem PcsAligned.saveTask {s : State} {k : TaskKey} (h : PcsAligned s) : PcsAligned (s.saveTask k) := by
  refine PcsAligned.requeue ⟨rfl, fun e he => ?_⟩
  obtain he | he := List.mem_append.mp he
  · exact h.2 e he
  · obtain rfl := List.mem_singleton.mp he
    change (s.killedCore (s.core.saved s.ctx)).clerk.pc.toNat % 4 = 0
    rw [killedCore_pc, saved_pc]
    exact h.1

theorem PcsAligned.execPreemptSave {s : State} (h : PcsAligned s) : NextPcs (execPreemptSave s) := by
  unfold Machine.execPreemptSave
  split
  · exact NextPcs.ite h.saveTask h
  · exact h

theorem PcsAligned.execPreemptionTimeout {s : State} (h : PcsAligned s) : NextPcs (execPreemptionTimeout s) :=
  NextPcs.ite h.frame.pendCause h

theorem PcsAligned.preempt {s : State} {c : Nat} {why : PreemptWhy} (h : PcsAligned s) : PcsAligned (s.preempt c why) := by
  unfold State.preempt
  split
  · exact PcsAligned.ite h.frame h
  · split
    · exact PcsAligned.ite h.rollRestart h.requeue
    · exact h

theorem PcsAligned.selectBank {s : State} {x : BitVec 12} {fill second : Bool} {e : Nat} (h : PcsAligned s) :
    PcsAligned (s.selectBank x fill second e) := by
  unfold State.selectBank
  extract_lets owned take r u
  have htake : ∀ t j snd, PcsAligned t → PcsAligned (take t j snd) := fun t j snd ht =>
    PcsAligned.ite ht.takeBank.fillBank ht.takeBank
  have hr : PcsAligned r.2 := by
    unfold r
    split
    · exact h
    · split
      · exact h
      · exact htake _ _ _ h
  have hu : PcsAligned u := PcsAligned.ite (htake _ _ _ hr) hr
  exact hu.updMe

theorem PcsAligned.ranLast {s : State} {x : BitVec 12} (h : PcsAligned s) : PcsAligned (s.ranLast x) :=
  h

theorem PcsAligned.enterTask {s : State} {r : Ready} {pa : Nat} (h : PcsAligned s) : PcsAligned (s.enterTask r pa) := by
  unfold State.enterTask
  exact PcsAligned.ite (PcsAligned.foldl (fun _ _ h2 => h2.selectBank) h.dropReqs.enteredClerk.frame).ranLast
    (PcsAligned.foldl
      (fun _ _ h2 => h2.selectBank) h.dropReqs.enteredClerk.frame).ranLast.loadEntry

/-- The core goes on with a saved clerk. -/
theorem PcsAligned.resumeTask {s : State} {r : Ready} {c : Core} (h : PcsAligned s) (hc : c.clerk.pc.toNat % 4 = 0) :
    PcsAligned (s.resumeTask r c) :=
  (PcsAligned.foldl (fun _ _ h2 => h2.selectBank)
    (h.saved hc fun e he => ⟨e, List.mem_of_mem_filter he, rfl⟩)).ranLast.reinject

theorem PcsAligned.dispatchTo {s : State} {r : Ready} {c : Nat} (h : PcsAligned s) : PcsAligned (s.dispatchTo r c) := by
  unfold State.dispatchTo
  dsimp only
  split
  · exact h
  · split
    · exact h.frame.tcbSet.frame.updRec.memberRuns.farRestore
    · split
      · rename_i hfind
        exact h.frame.tcbSet.frame.updRec.memberRuns.resumeTask (h.2 _ (List.mem_of_find?_eq_some hfind))
      · exact h.frame.tcbSet.frame.updRec.memberRuns.enterTask

theorem PcsAligned.giveCore {s : State} {r : Ready} {c : Nat} (h : PcsAligned s) : PcsAligned (s.giveCore r c) :=
  PcsAligned.ite h.dispatchTo (PcsAligned.ite h h.frame)

theorem PcsAligned.popOwn {w : Nat} {l : List Ready} {s : State} (h : PcsAligned s) : PcsAligned (popOwn w l s) := by
  induction l generalizing s with
  | nil => exact h
  | cons r t ih =>
    rw [Machine.popOwn]
    split
    · exact ih h.giveCore
    · exact ih h

theorem PcsAligned.popOther {s : State} {w c : Nat} (h : PcsAligned s) : PcsAligned (s.popOther w c) := by
  unfold State.popOther
  split
  · exact h
  · split
    · exact h.giveCore
    · exact h

theorem PcsAligned.keepPromises {s : State} {w : Nat} (h : PcsAligned s) : PcsAligned (s.keepPromises w) := by
  unfold State.keepPromises
  refine PcsAligned.foldl ?_ h
  intro s2 x h2
  split
  · exact h2.giveCore
  · exact h2

theorem PcsAligned.execDispatch {wing : BitVec 3} {s : State} (h : PcsAligned s) : NextPcs (execDispatch wing s) :=
  PcsAligned.foldl (fun _ _ h2 => h2.popOther) h.keepPromises.popOwn

theorem PcsAligned.execQuantumPreempt {core : Nat} {s : State} (h : PcsAligned s) : NextPcs (execQuantumPreempt core s) :=
    by
  unfold Machine.execQuantumPreempt
  split
  · exact NextPcs.ite h h.frame.preempt
  · exact h

theorem PcsAligned.execRecallRollback {t : TaskKey} {s : State} (h : PcsAligned s) : NextPcs (execRecallRollback t s) :=
  NextPcs.ite h (NextPcs.ite (NextPcs.ite h h.rollBack.dropReqs.resetClerk.freeCore.frame.memberRuns.restart) h.rollRestart)

theorem PcsAligned.clearCore {s : State} (h : PcsAligned s) : PcsAligned s.clearCore :=
  h.dropReqs.resetClerk.freeCore.frame

theorem PcsAligned.endFaulted {s : State} {k : TaskKey} {core cause : Nat} (h : PcsAligned s) :
    PcsAligned (s.endFaulted k core cause) :=
  PcsAligned.ite h.faultTask.memberRuns.clearCore h.faultTask.memberRuns.frame

theorem PcsAligned.faultend {s : State} {w : Nat} {v : Dword} {part : Option (BitVec 4)} (h : PcsAligned s) :
    PcsAligned (s.faultend w v part) := by
  unfold State.faultend
  dsimp only
  split
  · exact h.endFaulted
  · exact h.updWing

theorem PcsAligned.execFaultend {wing : BitVec 3} {v : Dword} {part : Option (BitVec 4)} {s : State} (h : PcsAligned s) :
    NextPcs (execFaultend wing v part s) :=
  h.faultend

theorem PcsAligned.execCorerstDhalt {s : State} (h : PcsAligned s) : NextPcs (execCorerstDhalt s) :=
  h.clearCore

theorem PcsAligned.launchWrite {s : State} {w : Nat} {v : Dword} (h : PcsAligned s) : PcsAligned (s.launchWrite w v) :=
  PcsAligned.ite h.launchTask h.updWing

theorem PcsAligned.execLaunch {wing : BitVec 3} {v : Dword} {s : State} (h : PcsAligned s) : NextPcs
    (execLaunch wing v s) :=
  h.launchWrite

theorem PcsAligned.launchstTake {s : State} {w : Nat} (h : PcsAligned s) : PcsAligned (s.launchstTake w).2 :=
  h.updWing

theorem PcsAligned.execLaunchstRead {wing : BitVec 3} {s : State} (h : PcsAligned s) : NextPcs (execLaunchstRead wing s) :=
  h.launchstTake.frame

theorem PcsAligned.deskctl {s : State} {w : Nat} {v : Dword} (h : PcsAligned s) : PcsAligned (s.deskctl w v) :=
  PcsAligned.ite h h.updWing

theorem PcsAligned.execDeskctlWrite {wing : BitVec 3} {v : Dword} {s : State} (h : PcsAligned s) :
    NextPcs (execDeskctlWrite wing v s) :=
  h.deskctl

theorem PcsAligned.updPartcur {s : State} {p : Nat} {f : PartCur → PartCur} (h : PcsAligned s) : PcsAligned
    (s.updPartcur p f) :=
  h.updMod

theorem PcsAligned.partcurWrite {s : State} {p : Nat} {v : Dword} (h : PcsAligned s) : PcsAligned (s.partcurWrite p v) := by
  unfold State.partcurWrite
  extract_lets clr u c ctx
  have hu : PcsAligned u := PcsAligned.ite h.updPartcur h
  exact PcsAligned.ite (PcsAligned.ite hu (PcsAligned.ite hu.updPartcur hu.updPartcur))
    (PcsAligned.ite (PcsAligned.ite hu hu.updPartcur)
    (PcsAligned.ite hu (PcsAligned.foldl (fun _ _ h2 => h2.preempt) hu.updPartcur)))

theorem PcsAligned.execPartitionSwap {p : BitVec 4} {v : Dword} {s : State} (h : PcsAligned s) :
    NextPcs (execPartitionSwap p v s) :=
  h.partcurWrite

theorem PcsAligned.execPartitionSwapDone {p : BitVec 4} {s : State} (h : PcsAligned s) :
    NextPcs (execPartitionSwapDone p s) := by
  unfold Machine.execPartitionSwapDone
  dsimp only
  split
  · exact h
  · split
    · exact h.updPartcur
    · exact PcsAligned.foldl (fun _ _ h2 => h2.preempt) h

theorem PcsAligned.execPartcurClearError {p : BitVec 4} {s : State} (h : PcsAligned s) : NextPcs
    (execPartcurClearError p s) :=
  h.updPartcur

/-! ### The steps of the module -/

theorem PcsAligned.execCeChainStart {e : BitVec 1} {head : Dword} {s : State} (h : PcsAligned s) :
    NextPcs (execCeChainStart e head s) := by
  unfold Machine.execCeChainStart
  split
  · rename_i e2
    exact h.ceStart.ok e2
  · exact h

theorem PcsAligned.execCeClearError {e : BitVec 1} {s : State} (h : PcsAligned s) : NextPcs (execCeClearError e s) :=
  h.updCe

theorem PcsAligned.execCeAbort {e : BitVec 1} {s : State} (h : PcsAligned s) : NextPcs (execCeAbort e s) :=
  h.ceAbort

theorem PcsAligned.execCeResume {e : BitVec 1} {s : State} (h : PcsAligned s) : NextPcs (execCeResume e s) :=
  h.ceResume

theorem PcsAligned.execCeKick {e : BitVec 1} {s : State} (h : PcsAligned s) : NextPcs (execCeKick e s) :=
  h.ceKick

theorem PcsAligned.execCopyRecordRead {e : BitVec 1} {s : State} (h : PcsAligned s) : NextPcs (execCopyRecordRead e s) :=
  h.ceReadRecord

theorem PcsAligned.execCopyHandleReady {e : BitVec 1} {s : State} (h : PcsAligned s) : NextPcs (execCopyHandleReady e s) :=
  h.ceHandleReady

theorem PcsAligned.execCopyRecordComplete {e : BitVec 1} {s : State} (h : PcsAligned s) : NextPcs
    (execCopyRecordComplete e s) :=
  h.ceComplete

theorem PcsAligned.execCopyRecordStop {e : BitVec 1} {s : State} (h : PcsAligned s) : NextPcs (execCopyRecordStop e s) :=
  h.ceFail

theorem PcsAligned.execCopyBoundaryStop {e : BitVec 1} {n : Nat} {s : State} (h : PcsAligned s) :
    NextPcs (execCopyBoundaryStop e n s) :=
  h.ceToBoundary.ceBoundary

theorem PcsAligned.execNvmeWriteComplete {e : BitVec 1} {good : Bool} {s : State} (h : PcsAligned s) :
    NextPcs (execNvmeWriteComplete e good s) :=
  h.nvmeDone

theorem PcsAligned.xinv {s : State} {v : Nat} (h : PcsAligned s) : PcsAligned (s.xinv v) :=
  PcsAligned.ite h.updMod h.frame.updMod

theorem PcsAligned.execXinvWrite {v : Dword} {s : State} (h : PcsAligned s) : NextPcs (execXinvWrite v s) :=
  h.xinv

theorem PcsAligned.execXinvComplete {s : State} (h : PcsAligned s) : NextPcs (execXinvComplete s) :=
  NextPcs.ite h h.updMod

theorem PcsAligned.execXinvstatClearError {s : State} (h : PcsAligned s) : NextPcs (execXinvstatClearError s) :=
  h.updMod

theorem PcsAligned.ctxkill {s : State} {ctx : BitVec 12} (h : PcsAligned s) : PcsAligned (s.ctxkill ctx) := by
  unfold State.ctxkill
  extract_lets u v w chain
  refine PcsAligned.ite h.updMod ?_
  have hv : PcsAligned v := PcsAligned.ite h.updMod.wake h.updMod
  refine hv.saved hv.1 fun e he => ?_
  obtain ⟨d, hd, rfl⟩ := List.mem_map.mp he
  exact ⟨d, hd, rfl⟩

theorem PcsAligned.execCtxkillGo {ctx : BitVec 12} {s : State} (h : PcsAligned s) : NextPcs (execCtxkillGo ctx s) :=
  h.ctxkill

theorem PcsAligned.execCtxkillDone {s : State} (h : PcsAligned s) : NextPcs (execCtxkillDone s) :=
  NextPcs.ite h h.updMod

theorem PcsAligned.execCtxkillClearError {s : State} (h : PcsAligned s) : NextPcs (execCtxkillClearError s) :=
  h.updMod

theorem PcsAligned.tagcfgSet {s : State} {v : Dword} (h : PcsAligned s) : SomeWf PcsAligned (s.tagcfgSet v) :=
  SomeWf.ite trivial h.frame

theorem PcsAligned.execTagcfgWrite {v : Dword} {s : State} (h : PcsAligned s) : NextPcs (execTagcfgWrite v s) := by
  have ht : PcsAligned ((s.tagcfgSet v).getD s) := h.tagcfgSet.getD h
  exact ht

theorem PcsAligned.execCpdescWrite {t : BitVec 6} {v : Dword} {s : State} (h : PcsAligned s) : NextPcs
    (execCpdescWrite t v s) :=
  PcsAligned.ite h (h.cpdescWrite.getD h)

theorem PcsAligned.execOwnreqRequest {m : BitVec 2} {enter : Bool} {s : State} (h : PcsAligned s) :
    NextPcs (execOwnreqRequest m enter s) :=
  h.updMod

theorem PcsAligned.execOwnreqClrerr {_m : BitVec 2} {s : State} (h : PcsAligned s) : NextPcs (execOwnreqClrerr _m s) :=
  h.updMod

theorem PcsAligned.ownreqWrite {s : State} {m : BitVec 2} {v : Nat} (h : PcsAligned s) : PcsAligned (s.ownreqWrite m v) :=
  PcsAligned.ite h h.updMod

theorem PcsAligned.ownpassWrite {s : State} {m : BitVec 2} {v : BitVec 4} (h : PcsAligned s) : PcsAligned
    (s.ownpassWrite m v) :=
  h.updMod

theorem PcsAligned.execOwnpass {m : BitVec 2} {v : BitVec 4} {s : State} (h : PcsAligned s) : NextPcs (execOwnpass m v s) :=
  h.ownpassWrite

theorem PcsAligned.execOwnershipGrant {s : State} (h : PcsAligned s) : NextPcs (execOwnershipGrant s) := by
  unfold Machine.execOwnershipGrant
  split
  · exact h.updMod
  · exact h

theorem PcsAligned.execMasterLinkDown {m : BitVec 2} {s : State} (h : PcsAligned s) : NextPcs (execMasterLinkDown m s) :=
  h.updMod

theorem PcsAligned.execWpwrWrite {wing : BitVec 3} {code : BitVec 2} {s : State} (h : PcsAligned s) :
    NextPcs (execWpwrWrite wing code s) :=
  h.updWing

theorem PcsAligned.execClockChangeEffect {wing : BitVec 3} {s : State} (h : PcsAligned s) :
    NextPcs (execClockChangeEffect wing s) :=
  h.updWing

theorem PcsAligned.execPowerLimitStepDown {draw : Nat} {s : State} (h : PcsAligned s) :
    NextPcs (execPowerLimitStepDown draw s) :=
  NextPcs.ite h h.frame

theorem PcsAligned.attestGo {s : State} (h : PcsAligned s) : PcsAligned s.attestGo :=
  h.updMod

theorem PcsAligned.execAttestationRequest {s : State} (h : PcsAligned s) : NextPcs (execAttestationRequest s) :=
  h.attestGo

theorem PcsAligned.execAttestationReportDone {s : State} (h : PcsAligned s) : NextPcs (execAttestationReportDone s) :=
  NextPcs.ite h (PcsAligned.ite h.wrBytes h).updMod

theorem PcsAligned.inReset {s : State} : PcsAligned s.inReset :=
  ⟨rfl, fun _ he => nomatch he⟩

theorem PcsAligned.execBootFirmwareCheck {good : Bool} {s : State} (h : PcsAligned s) : NextPcs
    (execBootFirmwareCheck good s) :=
  PcsAligned.ite h PcsAligned.inReset.updMod

theorem PcsAligned.eccTake {s : State} {w : Nat} (h : PcsAligned s) : PcsAligned (s.eccTake w).2 :=
  h.updWing

theorem PcsAligned.execEccstatRead {wing : BitVec 3} {s : State} (h : PcsAligned s) : NextPcs (execEccstatRead wing s) :=
  h.eccTake.frame

theorem PcsAligned.loseBy {s : State} {p : Nat} (h : PcsAligned s) : PcsAligned (s.loseBy p) := by
  refine h.saved h.1 fun e he => ?_
  obtain ⟨d, hd, rfl⟩ := List.mem_map.mp he
  exact ⟨d, hd, rfl⟩

theorem PcsAligned.execSpanFlitReceive {port : BitVec 5} {good : Bool} {s : State} (h : PcsAligned s) :
    NextPcs (execSpanFlitReceive port good s) :=
  (PcsAligned.ite h.loseBy h).updWing

theorem PcsAligned.execSpanPortTrain {port : BitVec 5} {lanes8 : Bool} {s : State} (h : PcsAligned s) :
    NextPcs (execSpanPortTrain port lanes8 s) :=
  NextPcs.ite h h.updWing.updClerk.sendReqs

theorem PcsAligned.execNiMessageSend {s : State} (h : PcsAligned s) : NextPcs (execNiMessageSend s) := by
  unfold Machine.execNiMessageSend
  split
  · exact NextPcs.ite h.frame h
  · exact h

theorem PcsAligned.execNiMessageDeliver {s : State} (h : PcsAligned s) : NextPcs (execNiMessageDeliver s) := by
  unfold Machine.execNiMessageDeliver
  split
  · exact NextPcs.ite h.frame h
  · exact h

theorem PcsAligned.ctrlReadEffect {s : State} {off : Nat} (h : PcsAligned s) : PcsAligned (s.ctrlReadEffect off) := by
  unfold State.ctrlReadEffect
  split
  · exact h.launchstTake
  · exact h.eccTake
  · exact h

theorem PcsAligned.ctrlRead {s : State} {off n : Nat} (h : PcsAligned s) : PcsAligned (s.ctrlRead off n).2 :=
  h.ctrlReadEffect

theorem PcsAligned.modlWrite {s : State} {o : Nat} {full : Nat → Nat} (h : PcsAligned s) : PcsAligned
    (s.modlWrite o full) := by
  unfold State.modlWrite
  split
  · exact h.partcurWrite
  · split
    · exact h.updMod
    · split
      · exact h.updMod
      · split
        · exact h.updMod
        · exact h.xinv
        · exact PcsAligned.ite h.updMod h
        · exact PcsAligned.ite (PcsAligned.ite h.updMod h).ctxkill (PcsAligned.ite (PcsAligned.ite h.updMod h).updMod
              (PcsAligned.ite h.updMod h))
        · exact h.updMod
        · exact PcsAligned.ite h.updMod h
        · exact h.updMod
        · exact PcsAligned.ite h.attestGo h
        · exact h

theorem PcsAligned.wingWrite {s : State} {w o : Nat} {full : Nat → Nat} {part : Option (BitVec 4)} (h : PcsAligned s) :
    PcsAligned (s.wingWrite w o full part) := by
  unfold State.wingWrite
  split
  · exact h.launchWrite
  · exact h.deskctl
  · exact PcsAligned.ite h h.updWing
  · exact h.updWing
  · exact h.updWing
  · exact h.faultend
  · exact h.updWing
  · exact h.updWing
  · exact h.updWing
  · exact h

theorem PcsAligned.coreWrite {s : State} {o va : Nat} {full : Nat → Nat} (h : PcsAligned s) : GotPcs
    (s.coreWrite o va full) := by
  unfold State.coreWrite
  extract_lets st act sealBit e t
  have hseal : ∀ t, PcsAligned t → GotPcs (sealBit t) := fun t ht => GotPcs.ite ht h
  refine GotPcs.ite ?_ (GotPcs.ite ?_ (GotPcs.ite h.updCore (GotPcs.ite ?_ ?_)))
  · split
    · split
      · rename_i et
        exact h.ceStart.ok et
      · exact h
    · exact h.ceCtl
    · exact h
  · generalize (o - 0x800) % 0x20 = b
    exact GotPcs.ite (hseal _ h.updPort) h
  · refine GotPcs.ite h ?_
    split
    · rename_i et
      exact h.cpdescWrite.some et
    · exact h
  · split
    · split
      · rename_i et
        exact h.tagcfgSet.some et
      · exact h
    · exact hseal _ h.updMe
    · exact hseal _ h.updMe
    · exact hseal _ h.updTmu
    · exact h.updCore
    · exact PcsAligned.ite h.clearCore h
    · exact h

theorem PcsAligned.farWrite {s : State} {c o va : Nat} {full : Nat → Nat} (h : PcsAligned s) :
    GotPcs (s.farWrite c o va full) := by
  unfold State.farWrite
  dsimp only
  split
  · split
    · rename_i e
      exact h.cpdescWrite.some e
    · exact h
  · exact GotPcs.ite h.updFar (GotPcs.ite (GotPcs.ite h h.updFar) (GotPcs.ite h.updFar (GotPcs.ite h.freeCore h)))

theorem PcsAligned.ctrlWrite {s : State} {off n v : Nat} {part : Option (BitVec 4)} (h : PcsAligned s) :
    GotPcs (s.ctrlWrite off n v part) := by
  unfold State.ctrlWrite
  dsimp only
  split
  · exact h.modlWrite
  · exact PcsAligned.ite h.wingWrite h
  · exact GotPcs.ite h.coreWrite (GotPcs.ite h.farWrite h)
  · exact h

theorem GotPcs.state {α : Type} {g : Got α} {s : State} (h : GotPcs g) (h2 : PcsAligned s) : PcsAligned (g.state s) := by
  unfold Got.state
  split
  · exact h
  · exact h2

theorem PcsAligned.execControlRegisterWrite {off : Nat} {wide : Bool} {v : Dword} {s : State} (h : PcsAligned s) :
    NextPcs (execControlRegisterWrite off wide v s) :=
  h.ctrlWrite.state h

theorem PcsAligned.masterWrite {s : State} {m : BitVec 2} {off n v : Nat} (h : PcsAligned s) :
    PcsAligned (s.masterWrite m off n v) :=
  PcsAligned.ite h (PcsAligned.ite h.ownreqWrite (PcsAligned.ite h.ownpassWrite (PcsAligned.ite (h.ctrlWrite.state h) h)))

theorem PcsAligned.hostPlace {s : State} {ctx : BitVec 12} {k : AccKind} {va n : Nat} (h : PcsAligned s) :
    GotPcs (s.hostPlace ctx k va n) := by
  unfold State.hostPlace
  split
  · exact h
  · split
    · exact h
    · split
      · exact h.got
      · exact GotPcs.ite h h

theorem PcsAligned.hostLoad {s : State} {ctx : BitVec 12} {va n : Nat} (h : PcsAligned s) : PcsAligned
    (s.hostLoad ctx va n) := by
  unfold State.hostLoad
  extract_lets g
  have hg : GotPcs g := by
    unfold g
    split
    · rename_i et
      exact PcsAligned.placeRead (h.hostPlace.ok et)
    · rename_i et
      exact h.hostPlace.wait et
    · rename_i et
      exact h.hostPlace.stall et
    · rename_i et
      exact h.hostPlace.fail et
  generalize g = r at hg ⊢
  split
  · exact PcsAligned.frame hg
  · exact h
  · exact PcsAligned.frame hg
  · exact PcsAligned.frame hg

theorem PcsAligned.hostStore {s : State} {ctx : BitVec 12} {va n v : Nat} (h : PcsAligned s) :
    PcsAligned (s.hostStore ctx va n v) := by
  unfold State.hostStore
  split
  · rename_i e
    split
    · rename_i e2
      exact (h.hostPlace.ok e).placeWrite.ok e2
    · rename_i e2
      exact (h.hostPlace.ok e).placeWrite.fail e2
    · exact h.hostPlace.ok e
  · exact h

theorem PcsAligned.execHostRequest {q : HostReq} {s : State} (h : PcsAligned s) : NextPcs (execHostRequest q s) := by
  unfold Machine.execHostRequest
  split
  · exact h.ctrlRead.frame
  · exact PcsAligned.ite h h.masterWrite
  · exact PcsAligned.ite h h.hostLoad
  · exact PcsAligned.ite h h.hostStore

/-! ### Instructions on objects, cohorts and loans -/

theorem PcsAligned.execAcq {d a : Reg} {s : State} (h : PcsAligned s) : NextPcs (execAcq d a s) :=
  h.advance.issueAcquire

theorem PcsAligned.execAcqs {d a : Reg} {s : State} (h : PcsAligned s) : NextPcs (execAcqs d a s) :=
  h.advance.issueAcquire

theorem PcsAligned.execRel {a : Reg} {s : State} (h : PcsAligned s) : NextPcs (execRel a s) :=
  h.advance.issueRelease

theorem PcsAligned.execBind {d a b : Reg} {s : State} (h : PcsAligned s) : NextPcs (execBind d a b s) :=
  h.advance.issueBind

theorem PcsAligned.execUnbind {d a : Reg} {s : State} (h : PcsAligned s) : NextPcs (execUnbind d a s) :=
  h.advance.issueUnbind

theorem PcsAligned.execWaitw {d a b : Reg} {s : State} (h : PcsAligned s) : NextPcs (execWaitw d a b s) :=
  h.advance.issueWaitw

theorem PcsAligned.execJoin {d a b : Reg} {s : State} (h : PcsAligned s) : NextPcs (execJoin d a b s) :=
  h.advance.issueJoin

theorem PcsAligned.execLeave {s : State} (h : PcsAligned s) : NextPcs (execLeave s) := by
  unfold Machine.execLeave
  split
  · exact h
  · split
    · exact h
    · split
      · exact h.updClerk.leaveCohort.advance
      · exact h.trapInstr

theorem PcsAligned.execCbar {s : State} (h : PcsAligned s) : NextPcs (execCbar s) := by
  unfold Machine.execCbar
  dsimp only
  split
  · exact h
  · split
    · exact h
    · split
      · exact h.trapInstr
      · split
        · exact h
        · split
          · exact h.updCohort
          · exact NextPcs.ite h.updCohort.updCohort.advance h.updCohort

theorem PcsAligned.execLoan {d a b : Reg} {s : State} (h : PcsAligned s) : NextPcs (execLoan d a b s) :=
  h.advance.issueLoan

theorem PcsAligned.execLstat {d a : Reg} {s : State} (h : PcsAligned s) : NextPcs (execLstat d a s) :=
  h.advance.issueLstat

theorem PcsAligned.execFence {_scope : Scope} {s : State} (h : PcsAligned s) : NextPcs (execFence _scope s) :=
  NextPcs.ite h.advance h

theorem PcsAligned.execSpawn {d a : Reg} {s : State} (h : PcsAligned s) : NextPcs (execSpawn d a s) :=
  h.advance.issueSpawn

theorem PcsAligned.execArm {d a b : Reg} {s : State} (h : PcsAligned s) : NextPcs (execArm d a b s) :=
  h.advance.issueArm

theorem PcsAligned.execRls {d a : Reg} {s : State} (h : PcsAligned s) : NextPcs (execRls d a s) :=
  h.advance.issueRls

theorem PcsAligned.execTself {d : Reg} {s : State} (h : PcsAligned s) : NextPcs (execTself d s) :=
  h.advance.pushDone

theorem PcsAligned.execTage {d : Reg} {s : State} (h : PcsAligned s) : NextPcs (execTage d s) :=
  h.advance.pushDone

theorem PcsAligned.execTlook {d a : Reg} {s : State} (h : PcsAligned s) : NextPcs (execTlook d a s) :=
  h.advance.issueTag

theorem PcsAligned.execTins {d a : Reg} {s : State} (h : PcsAligned s) : NextPcs (execTins d a s) :=
  h.advance.issueTag

theorem PcsAligned.execTdel {d a : Reg} {s : State} (h : PcsAligned s) : NextPcs (execTdel d a s) :=
  h.advance.issueTag

theorem PcsAligned.execXbank {a b : Reg} {s : State} (h : PcsAligned s) : NextPcs (execXbank a b s) :=
  h.advance.issueXbank

/-! ### Accesses performed -/

theorem PcsAligned.writeResult {s : State} {k : Nat} {u : Unfin} {v : Qword} (h : PcsAligned s) : PcsAligned
    (s.writeResult k u v) :=
  h.keepPc fun _ => (Clerk.complete_keeps ..).1

theorem PcsAligned.execAsyncResultWrite {k : Nat} {s : State} (h : PcsAligned s) : NextPcs (execAsyncResultWrite k s) := by
  unfold Machine.execAsyncResultWrite
  split
  · exact h
  · split
    · exact h.writeResult
    · exact NextPcs.ite h.updHandle.writeResult h
    · exact h.trapUnfin
    · exact h

theorem PcsAligned.execAsyncTrap {s : State} (h : PcsAligned s) : NextPcs (execAsyncTrap s) :=
  PcsAligned.ite h.takeAsync h

theorem PcsAligned.execWfeWake {s : State} (h : PcsAligned s) : NextPcs (execWfeWake s) :=
  PcsAligned.ite h.jump h

theorem PcsAligned.execDebugInterfaceResume {s : State} (h : PcsAligned s) : NextPcs (execDebugInterfaceResume s) :=
  PcsAligned.ite h.updClerk h

theorem PcsAligned.atHome {s : State} {k : Nat} {u : Unfin} {kind : AccKind} {n : Nat} {pl : Place} {act : State → State}
    (h : PcsAligned s) (h2 : ∀ t, PcsAligned t → PcsAligned (act t)) :
    PcsAligned (s.atHome k u kind n pl act) := by
  unfold State.atHome
  split
  · exact h.trapUnfin
  · split
    · exact h.trapUnfin
    · split
      · rename_i e
        exact (h.touch.fault e).trapUnfin
      · rename_i e
        exact (h.touch.stall e).trapUnfin
      · rename_i e
        exact h.touch.wait e
      · rename_i e
        split
        · exact (h.touch.ok e).trapUnfin
        · split
          · split
            · exact (h.touch.ok e).trapUnfin
            · rename_i e3
              exact h2 _ ((h.touch.ok e).undoLog.ok e3)
          · exact h2 _ (h.touch.ok e)

theorem PcsAligned.homeGot {α : Type} {s : State} {k : Nat} {u : Unfin} {g : Got α} {f : α → State → State}
    (h : PcsAligned s)
    (h2 : GotPcs g) (h3 : ∀ (a : α) (t : State), PcsAligned t → PcsAligned (f a t)) :
    PcsAligned (s.homeGot k u g f) := by
  unfold State.homeGot
  split
  · exact h3 _ _ h2
  · exact h2
  · exact h.trapUnfin
  · exact PcsAligned.ite h.trapUnfin (PcsAligned.ite h2.trapUnfin h.trapUnfin)

theorem PcsAligned.loadAtHome {s : State} {k : Nat} {u : Unfin} {pl : Place} {n : Nat} {ext : Nat → Qword}
    (h : PcsAligned s) :
    PcsAligned (s.loadAtHome k u pl n ext) := by
  unfold State.loadAtHome
  refine PcsAligned.atHome h ?_
  intro s2 h2
  split
  · exact h2.ctrlRead.finishUnfin
  · exact PcsAligned.ite h2.finishUnfin (h2.homeGot h2.placeRead (fun _ _ h3 => h3.finishUnfin))

theorem PcsAligned.storeAtHome {s : State} {k : Nat} {u : Unfin} {pl : Place} {n v : Nat} (h : PcsAligned s) :
    PcsAligned (s.storeAtHome k u pl n v) := by
  unfold State.storeAtHome
  refine PcsAligned.atHome h ?_
  intro s2 h2
  split
  · split
    · rename_i e
      exact h2.dropUnfin.ctrlWrite.ok e
    · exact h2
    · exact h2
    · exact h2.trapUnfin
  · exact h2.homeGot h2.placeWrite (fun _ _ h3 => h3.dropUnfin)

theorem PcsAligned.amo {s : State} {pl : Place} {va n : Nat} {op : AtomicOp} {b c : Nat} (h : PcsAligned s) :
    GotPcs (s.amo pl va n op b c) := by
  unfold State.amo
  dsimp only
  split
  · exact h
  · split
    · rename_i e
      split
      · exact h.placeRead.ok e
      · split
        · rename_i e3
          exact (h.placeRead.ok e).placeWrite.ok e3
        · rename_i e3
          exact (h.placeRead.ok e).placeWrite.wait e3
        · rename_i e3
          exact (h.placeRead.ok e).placeWrite.stall e3
        · rename_i e3
          exact (h.placeRead.ok e).placeWrite.fail e3
    · exact h.placeRead

theorem PcsAligned.atomicAtHome {s : State} {k : Nat} {u : Unfin} {op : AtomicOp} {pl : Place} {b c : Dword} {n : Nat} (h
    : PcsAligned s) :
    PcsAligned (s.atomicAtHome k u op pl b c n) := by
  unfold State.atomicAtHome
  split
  · exact h
  · refine PcsAligned.atHome h ?_
    intro s2 h2
    refine PcsAligned.homeGot h2 h2.amo ?_
    intro a s3 h3
    refine PcsAligned.finishUnfin ?_
    split
    · exact PcsAligned.ite h3.watchAtomic h3
    · exact h3

theorem PcsAligned.waitAtHome {s : State} {k : Nat} {u : Unfin} {pl : Place} {v : Word} (h : PcsAligned s) :
    PcsAligned (s.waitAtHome k u pl v) :=
  PcsAligned.ite h.trapUnfin (h.homeGot h.placeRead (fun _ _ h2 => PcsAligned.ite h2.finishUnfin h2))

theorem PcsAligned.spawnAtHome {s : State} {k : Nat} {u : Unfin} {tcb : Nat} (h : PcsAligned s) :
    PcsAligned (s.spawnAtHome k u tcb) := by
  unfold State.spawnAtHome
  split
  · exact h
  · split
    · split
      · exact h.trapUnfin
      · rename_i e2
        exact (h.deferSpawn.ok e2).finishUnfin
    · exact (PcsAligned.ite h.launchTask h).finishUnfin

theorem PcsAligned.joinAtDesk {s : State} {k : Nat} {u : Unfin} {id cnt : Nat} (h : PcsAligned s) :
    PcsAligned (s.joinAtDesk k u id cnt) := by
  unfold State.joinAtDesk
  split
  · exact h
  · split
    · exact h.trapUnfin
    · split
      · exact PcsAligned.ite h.updClerk (PcsAligned.ite h.trapUnfin h.updClerk.joinCohort)
      · exact h.updClerk.joinCohort

theorem PcsAligned.answer {k : Nat} {r : Dword × State} (h : PcsAligned r.2) : PcsAligned (State.answer k r) :=
  h.finishUnfin

theorem PcsAligned.checkUnfin {s : State} {k : Nat} {u : Unfin} (h : PcsAligned s) : PcsAligned (s.checkUnfin k u) := by
  unfold State.checkUnfin
  dsimp only
  split
  · exact h
  · split
    · exact h
    · rename_i e
      have hissued := h.updClerk.reissue.some e
      exact PcsAligned.ite (hissued.keepPc fun c => (c.completes_keep _).1) hissued.updClerk

theorem PcsAligned.performClerk {s : State} {k : Nat} (h : PcsAligned s) : PcsAligned (s.performClerk k) := by
  unfold State.performClerk
  split
  · exact h
  · split
    · exact h.checkUnfin
    · split
      · exact h.loadAtHome
      · exact h.loadAtHome
      · exact h.storeAtHome
      · exact h.waitAtHome
      · exact h.spawnAtHome
      · exact h.joinAtDesk
      · exact h.answer
      · exact h.tagInsert.answer
      · exact PcsAligned.ite h h.bindOp.answer
      · exact h.unbindOp.answer
      · exact h

theorem PcsAligned.performStep {s : State} {r : ReqRef} {i : Instr} (h : PcsAligned s) : PcsAligned (s.performStep r i) :=
    by
  unfold State.performStep
  split
  · exact PcsAligned.ite h.performClerk h
  · exact PcsAligned.ite h.reqPerform h

theorem PcsAligned.execAccessPerform {r : ReqRef} {s : State} (h : PcsAligned s) : NextPcs (execAccessPerform r s) :=
  h.performStep

theorem PcsAligned.execBankAccess {r : ReqRef} {s : State} (h : PcsAligned s) : NextPcs (execBankAccess r s) :=
  h.performStep

theorem PcsAligned.execCompressedTileAccess {r : ReqRef} {s : State} (h : PcsAligned s) :
    NextPcs (execCompressedTileAccess r s) :=
  h.performStep

theorem PcsAligned.armAt {s : State} {pa cnt : Nat} (h : PcsAligned s) : PcsAligned (s.armAt pa cnt).2 := by
  unfold State.armAt
  dsimp only
  split
  · exact h
  · exact h.tcbSet

theorem PcsAligned.rlsAt {s : State} {key : TaskKey} {pa : Nat} (h : PcsAligned s) : PcsAligned (s.rlsAt key pa).2 :=
  h.decrementAt

theorem PcsAligned.tcbAtHome {s : State} {k : Nat} {u : Unfin} {pl : Place} {act : Nat → Dword × State}
    (h : PcsAligned s) (h2
    : ∀ (a : Nat), PcsAligned (act a).2) :
    PcsAligned (s.tcbAtHome k u pl act) :=
  PcsAligned.ite h.trapUnfin (PcsAligned.ite h.trapUnfin (PcsAligned.ite h.eccHit.trapUnfin (h2 _).finishUnfin))

theorem PcsAligned.execAtomicPerform {r : ReqRef} {s : State} (h : PcsAligned s) : NextPcs (execAtomicPerform r s) := by
  unfold Machine.execAtomicPerform
  split
  · split
    · exact h
    · split
      · exact h
      · split
        · exact h.atomicAtHome
        · exact h.tcbAtHome (fun _ => h.armAt)
        · exact h.tcbAtHome (fun _ => h.rlsAt)
        · exact h
  · exact PcsAligned.ite h.reqPerform h

theorem PcsAligned.xbankAtHome {s : State} {k : Nat} {u : Unfin} {w : Nat} (h : PcsAligned s) :
    PcsAligned (s.xbankAtHome k u w) := by
  unfold State.xbankAtHome
  split
  · rename_i e
    exact (h.xfLoans.fault e).trapUnfin
  · rename_i e
    exact (h.xfLoans.stall e).trapUnfin
  · rename_i e
    exact h.xfLoans.wait e
  · rename_i e
    split
    · exact (h.xfLoans.ok e).trapUnfin
    · split
      · exact (h.xfLoans.ok e).eccHit.trapUnfin
      · split
        · exact (h.xfLoans.ok e).trapUnfin
        · rename_i e2
          exact ((h.xfLoans.ok e).xfPerform.ok e2).dropUnfin

theorem PcsAligned.execBankTransform {r : ReqRef} {s : State} (h : PcsAligned s) : NextPcs (execBankTransform r s) := by
  unfold Machine.execBankTransform
  split
  · split
    · exact h
    · split
      · exact h
      · split
        · exact h.xbankAtHome
        · exact h
  · exact PcsAligned.ite h.reqPerform h

theorem PcsAligned.execPageLayoutDone {t : BitVec 6} {s : State} (h : PcsAligned s) : NextPcs (execPageLayoutDone t s) :=
  h.layoutDone

theorem PcsAligned.tdelAt {s : State} {k a : Nat} (h : PcsAligned s) : PcsAligned (s.tdelAt k a) := by
  unfold State.tdelAt
  split
  · exact h.finishUnfin
  · exact PcsAligned.ite h.setTag.finishUnfin h

theorem PcsAligned.execTdelPerform {k : Nat} {s : State} (h : PcsAligned s) : NextPcs (execTdelPerform k s) := by
  unfold Machine.execTdelPerform
  split
  · exact h
  · split
    · exact h
    · split
      · exact h.tdelAt
      · exact h

theorem PcsAligned.requestAtHome {s : State} {k : Nat} {u : Unfin} {home : Place} {excl : Bool} (h : PcsAligned s) :
    PcsAligned (s.requestAtHome k u home excl) := by
  unfold State.requestAtHome
  split
  · exact h
  · exact PcsAligned.ite h.updClerk.trapUnfin (PcsAligned.ite h.eccHit.updClerk.trapUnfin
        (PcsAligned.ite h.updClerk.trapUnfin h.updClerk.objRequest))

theorem PcsAligned.execObjectRequest {q : ObjectReq} {s : State} (h : PcsAligned s) : NextPcs (execObjectRequest q s) := by
  unfold Machine.execObjectRequest
  split
  · split
    · exact h
    · split
      · exact h
      · split
        · exact h.requestAtHome
        · exact h
  · exact NextPcs.ite h (NextPcs.ite h.eccHit (NextPcs.ite h h.objRequest))

theorem PcsAligned.execObjectRelease {q : ObjectRel} {s : State} (h : PcsAligned s) : NextPcs (execObjectRelease q s) := by
  unfold Machine.execObjectRelease
  split
  · split
    · exact h
    · split
      · exact h
      · split
        · exact NextPcs.ite h.eccHit.trapUnfin h.objRelease.updClerk.dropUnfin
        · exact h
  · exact NextPcs.ite h (NextPcs.ite h.eccHit (NextPcs.ite h h.objRelease))

theorem PcsAligned.holdTimeout {s : State} (h : PcsAligned s) : PcsAligned s.holdTimeout := by
  unfold State.holdTimeout
  dsimp only
  split
  · exact h
  · rename_i e
    split
    · exact PcsAligned.ite (h.clerkTurn.ok e).trapInstr h
    · split
      · exact PcsAligned.ite h (h.clerkTurn.ok e).trapInstr
      · exact h
    · exact h

theorem PcsAligned.unitTimeout {s : State} {j : Nat} (h : PcsAligned s) : PcsAligned (s.unitTimeout j) := by
  unfold State.unitTimeout
  split
  · split
    · exact h.portFault
    · exact h
  · split
    · split
      · exact h.portFault
      · exact h
    · split
      · split
        · exact h.meFault
        · exact h
      · split
        · split
          · exact h.tmuFault
          · exact h
        · exact PcsAligned.ite h.ceTimeout h

theorem PcsAligned.execMemoryTimeout {r : ReqRef} {s : State} (h : PcsAligned s) : NextPcs (execMemoryTimeout r s) := by
  unfold Machine.execMemoryTimeout
  split
  · split
    · exact h.holdTimeout
    · exact NextPcs.ite h h.trapUnfin
  · split
    · exact h.unitTimeout
    · split
      · exact h.reqFail
      · exact h.reqFail
      · exact PcsAligned.ite h h.reqFail
      · exact h

/-! ### Branches and jumps -/

theorem PcsAligned.branchOp {taken : Dword → Dword → Bool} {a b : Reg} {off : BitVec 14} {s : State} (h : PcsAligned s) :
    NextPcs (branchOp taken a b off s) :=
  NextPcs.ite h.setPc h.advance

theorem PcsAligned.execBeq {a b : Reg} {off : BitVec 14} {s : State} (h : PcsAligned s) : NextPcs (execBeq a b off s) :=
  h.branchOp

theorem PcsAligned.execBne {a b : Reg} {off : BitVec 14} {s : State} (h : PcsAligned s) : NextPcs (execBne a b off s) :=
  h.branchOp

theorem PcsAligned.execBlt {a b : Reg} {off : BitVec 14} {s : State} (h : PcsAligned s) : NextPcs (execBlt a b off s) :=
  h.branchOp

theorem PcsAligned.execBge {a b : Reg} {off : BitVec 14} {s : State} (h : PcsAligned s) : NextPcs (execBge a b off s) :=
  h.branchOp

theorem PcsAligned.execBltu {a b : Reg} {off : BitVec 14} {s : State} (h : PcsAligned s) : NextPcs (execBltu a b off s) :=
  h.branchOp

theorem PcsAligned.execBgeu {a b : Reg} {off : BitVec 14} {s : State} (h : PcsAligned s) : NextPcs (execBgeu a b off s) :=
  h.branchOp

theorem PcsAligned.execJal {d : Reg} {imm : BitVec 19} {s : State} (h : PcsAligned s) : NextPcs (execJal d imm s) :=
  h.setReg.setPc

theorem PcsAligned.execJalr {d a : Reg} {imm : BitVec 14} {s : State} (h : PcsAligned s) : NextPcs (execJalr d a imm s) :=
  NextPcs.ite h.trapInstr (NextPcs.ite h.trapInstr h.setReg.setPc)

/-! ### Floating point -/

theorem PcsAligned.fpOp2 {i : Instr} {f : Rnd → Nat → Nat → Nat × FFlags} {d a b : Reg} {s : State} (h : PcsAligned s) :
    NextPcs (fpOp2 i f d a b s) :=
  h.finishFp

theorem PcsAligned.fpOp1 {i : Instr} {f : Rnd → Nat → Nat × FFlags} {d a : Reg} {s : State} (h : PcsAligned s) :
    NextPcs (fpOp1 i f d a s) :=
  h.finishFp

theorem PcsAligned.fpCmp {i : Instr} {f : Nat → Nat → Bool × FFlags} {d a b : Reg} {s : State} (h : PcsAligned s) :
    NextPcs (fpCmp i f d a b s) :=
  h.finishFp

theorem PcsAligned.execFadd {d a b : Reg} {s : State} (h : PcsAligned s) : NextPcs (execFadd d a b s) :=
  h.fpOp2

theorem PcsAligned.execFsub {d a b : Reg} {s : State} (h : PcsAligned s) : NextPcs (execFsub d a b s) :=
  h.fpOp2

theorem PcsAligned.execFmul {d a b : Reg} {s : State} (h : PcsAligned s) : NextPcs (execFmul d a b s) :=
  h.fpOp2

theorem PcsAligned.execFdiv {d a b : Reg} {s : State} (h : PcsAligned s) : NextPcs (execFdiv d a b s) :=
  h.fpOp2

theorem PcsAligned.execFmin {d a b : Reg} {s : State} (h : PcsAligned s) : NextPcs (execFmin d a b s) :=
  h.fpOp2

theorem PcsAligned.execFmax {d a b : Reg} {s : State} (h : PcsAligned s) : NextPcs (execFmax d a b s) :=
  h.fpOp2

theorem PcsAligned.execFeq {d a b : Reg} {s : State} (h : PcsAligned s) : NextPcs (execFeq d a b s) :=
  h.fpCmp

theorem PcsAligned.execFlt {d a b : Reg} {s : State} (h : PcsAligned s) : NextPcs (execFlt d a b s) :=
  h.fpCmp

theorem PcsAligned.execFle {d a b : Reg} {s : State} (h : PcsAligned s) : NextPcs (execFle d a b s) :=
  h.fpCmp

theorem PcsAligned.execFma {d a b : Reg} {s : State} (h : PcsAligned s) : NextPcs (execFma d a b s) :=
  h.finishFp

theorem PcsAligned.execFsqrt {d a : Reg} {s : State} (h : PcsAligned s) : NextPcs (execFsqrt d a s) :=
  h.fpOp1

theorem PcsAligned.execFcvtF32I64 {d a : Reg} {s : State} (h : PcsAligned s) : NextPcs (execFcvtF32I64 d a s) :=
  h.fpOp1

theorem PcsAligned.execFcvtI64F32 {d a : Reg} {s : State} (h : PcsAligned s) : NextPcs (execFcvtI64F32 d a s) :=
  h.fpOp1

theorem PcsAligned.execFcvtBf16F32 {d a : Reg} {s : State} (h : PcsAligned s) : NextPcs (execFcvtBf16F32 d a s) :=
  h.fpOp1

theorem PcsAligned.execFcvtF32Bf16 {d a : Reg} {s : State} (h : PcsAligned s) : NextPcs (execFcvtF32Bf16 d a s) :=
  h.fpOp1

theorem PcsAligned.execFclass {d a : Reg} {s : State} (h : PcsAligned s) : NextPcs (execFclass d a s) :=
  h.finish

theorem PcsAligned.execFabs {d a : Reg} {s : State} (h : PcsAligned s) : NextPcs (execFabs d a s) :=
  h.finish

theorem PcsAligned.execFneg {d a : Reg} {s : State} (h : PcsAligned s) : NextPcs (execFneg d a s) :=
  h.finish

/-! ### Integer forms -/

theorem PcsAligned.intOp {f : Dword → Dword → Dword} {d a b : Reg} {s : State} (h : PcsAligned s) : NextPcs
    (intOp f d a b s) :=
  h.finish

theorem PcsAligned.intOp1 {f : Dword → Dword} {d a : Reg} {s : State} (h : PcsAligned s) : NextPcs (intOp1 f d a s) :=
  h.finish

theorem PcsAligned.divOp {i : Instr} {f : Dword → Dword → Dword} {d a b : Reg} {s : State} (h : PcsAligned s) :
    NextPcs (divOp i f d a b s) :=
  NextPcs.ite h.trapInstr h.finish

theorem PcsAligned.execAdd {d a b : Reg} {s : State} (h : PcsAligned s) : NextPcs (execAdd d a b s) :=
  h.intOp

theorem PcsAligned.execSub {d a b : Reg} {s : State} (h : PcsAligned s) : NextPcs (execSub d a b s) :=
  h.intOp

theorem PcsAligned.execMul {d a b : Reg} {s : State} (h : PcsAligned s) : NextPcs (execMul d a b s) :=
  h.intOp

theorem PcsAligned.execMulh {d a b : Reg} {s : State} (h : PcsAligned s) : NextPcs (execMulh d a b s) :=
  h.intOp

theorem PcsAligned.execMulhu {d a b : Reg} {s : State} (h : PcsAligned s) : NextPcs (execMulhu d a b s) :=
  h.intOp

theorem PcsAligned.execAnd {d a b : Reg} {s : State} (h : PcsAligned s) : NextPcs (execAnd d a b s) :=
  h.intOp

theorem PcsAligned.execOr {d a b : Reg} {s : State} (h : PcsAligned s) : NextPcs (execOr d a b s) :=
  h.intOp

theorem PcsAligned.execXor {d a b : Reg} {s : State} (h : PcsAligned s) : NextPcs (execXor d a b s) :=
  h.intOp

theorem PcsAligned.execAndn {d a b : Reg} {s : State} (h : PcsAligned s) : NextPcs (execAndn d a b s) :=
  h.intOp

theorem PcsAligned.execOrn {d a b : Reg} {s : State} (h : PcsAligned s) : NextPcs (execOrn d a b s) :=
  h.intOp

theorem PcsAligned.execSll {d a b : Reg} {s : State} (h : PcsAligned s) : NextPcs (execSll d a b s) :=
  h.intOp

theorem PcsAligned.execSrl {d a b : Reg} {s : State} (h : PcsAligned s) : NextPcs (execSrl d a b s) :=
  h.intOp

theorem PcsAligned.execSra {d a b : Reg} {s : State} (h : PcsAligned s) : NextPcs (execSra d a b s) :=
  h.intOp

theorem PcsAligned.execRol {d a b : Reg} {s : State} (h : PcsAligned s) : NextPcs (execRol d a b s) :=
  h.intOp

theorem PcsAligned.execRor {d a b : Reg} {s : State} (h : PcsAligned s) : NextPcs (execRor d a b s) :=
  h.intOp

theorem PcsAligned.execMin {d a b : Reg} {s : State} (h : PcsAligned s) : NextPcs (execMin d a b s) :=
  h.intOp

theorem PcsAligned.execMax {d a b : Reg} {s : State} (h : PcsAligned s) : NextPcs (execMax d a b s) :=
  h.intOp

theorem PcsAligned.execMinu {d a b : Reg} {s : State} (h : PcsAligned s) : NextPcs (execMinu d a b s) :=
  h.intOp

theorem PcsAligned.execMaxu {d a b : Reg} {s : State} (h : PcsAligned s) : NextPcs (execMaxu d a b s) :=
  h.intOp

theorem PcsAligned.execSeq {d a b : Reg} {s : State} (h : PcsAligned s) : NextPcs (execSeq d a b s) :=
  h.intOp

theorem PcsAligned.execSne {d a b : Reg} {s : State} (h : PcsAligned s) : NextPcs (execSne d a b s) :=
  h.intOp

theorem PcsAligned.execSlt {d a b : Reg} {s : State} (h : PcsAligned s) : NextPcs (execSlt d a b s) :=
  h.intOp

theorem PcsAligned.execSltu {d a b : Reg} {s : State} (h : PcsAligned s) : NextPcs (execSltu d a b s) :=
  h.intOp

theorem PcsAligned.execSle {d a b : Reg} {s : State} (h : PcsAligned s) : NextPcs (execSle d a b s) :=
  h.intOp

theorem PcsAligned.execSleu {d a b : Reg} {s : State} (h : PcsAligned s) : NextPcs (execSleu d a b s) :=
  h.intOp

theorem PcsAligned.execDiv {d a b : Reg} {s : State} (h : PcsAligned s) : NextPcs (execDiv d a b s) :=
  h.divOp

theorem PcsAligned.execDivu {d a b : Reg} {s : State} (h : PcsAligned s) : NextPcs (execDivu d a b s) :=
  h.divOp

theorem PcsAligned.execRem {d a b : Reg} {s : State} (h : PcsAligned s) : NextPcs (execRem d a b s) :=
  h.divOp

theorem PcsAligned.execRemu {d a b : Reg} {s : State} (h : PcsAligned s) : NextPcs (execRemu d a b s) :=
  h.divOp

theorem PcsAligned.execClz {d a : Reg} {s : State} (h : PcsAligned s) : NextPcs (execClz d a s) :=
  h.intOp1

theorem PcsAligned.execCtz {d a : Reg} {s : State} (h : PcsAligned s) : NextPcs (execCtz d a s) :=
  h.intOp1

theorem PcsAligned.execPopc {d a : Reg} {s : State} (h : PcsAligned s) : NextPcs (execPopc d a s) :=
  h.intOp1

theorem PcsAligned.execSext8 {d a : Reg} {s : State} (h : PcsAligned s) : NextPcs (execSext8 d a s) :=
  h.intOp1

theorem PcsAligned.execSext16 {d a : Reg} {s : State} (h : PcsAligned s) : NextPcs (execSext16 d a s) :=
  h.intOp1

theorem PcsAligned.execSext32 {d a : Reg} {s : State} (h : PcsAligned s) : NextPcs (execSext32 d a s) :=
  h.intOp1

theorem PcsAligned.execZext32 {d a : Reg} {s : State} (h : PcsAligned s) : NextPcs (execZext32 d a s) :=
  h.intOp1

theorem PcsAligned.execBswap {d a : Reg} {s : State} (h : PcsAligned s) : NextPcs (execBswap d a s) :=
  h.intOp1

theorem PcsAligned.execAddi {d a : Reg} {imm : BitVec 14} {s : State} (h : PcsAligned s) : NextPcs (execAddi d a imm s) :=
  h.intOp1

theorem PcsAligned.execAndi {d a : Reg} {imm : BitVec 14} {s : State} (h : PcsAligned s) : NextPcs (execAndi d a imm s) :=
  h.intOp1

theorem PcsAligned.execOri {d a : Reg} {imm : BitVec 14} {s : State} (h : PcsAligned s) : NextPcs (execOri d a imm s) :=
  h.intOp1

theorem PcsAligned.execXori {d a : Reg} {imm : BitVec 14} {s : State} (h : PcsAligned s) : NextPcs (execXori d a imm s) :=
  h.intOp1

theorem PcsAligned.execSlti {d a : Reg} {imm : BitVec 14} {s : State} (h : PcsAligned s) : NextPcs (execSlti d a imm s) :=
  h.intOp1

theorem PcsAligned.execSltui {d a : Reg} {imm : BitVec 14} {s : State} (h : PcsAligned s) : NextPcs (execSltui d a imm s) :=
  h.intOp1

theorem PcsAligned.execSlli {d a : Reg} {n : BitVec 6} {s : State} (h : PcsAligned s) : NextPcs (execSlli d a n s) :=
  h.intOp1

theorem PcsAligned.execSrli {d a : Reg} {n : BitVec 6} {s : State} (h : PcsAligned s) : NextPcs (execSrli d a n s) :=
  h.intOp1

theorem PcsAligned.execSrai {d a : Reg} {n : BitVec 6} {s : State} (h : PcsAligned s) : NextPcs (execSrai d a n s) :=
  h.intOp1

theorem PcsAligned.execLui {d : Reg} {imm : BitVec 19} {s : State} (h : PcsAligned s) : NextPcs (execLui d imm s) :=
  h.finish

theorem PcsAligned.execLi {d : Reg} {lit : Word} {s : State} (h : PcsAligned s) : NextPcs (execLi d lit s) :=
  h.finishLong

theorem PcsAligned.execLih {d : Reg} {lit : Word} {s : State} (h : PcsAligned s) : NextPcs (execLih d lit s) :=
  h.finishLong

theorem PcsAligned.execAddli {d a : Reg} {lit : Word} {s : State} (h : PcsAligned s) : NextPcs (execAddli d a lit s) :=
  h.finishLong

/-! ### Loads and stores -/

theorem PcsAligned.loadAt {s : State} {i : Instr} {w : LoadWidth} {d : Reg} {ea n : Nat} (h : PcsAligned s)
    (hn : n % 4 = 0) :
    NextPcs (s.loadAt i w d ea n) :=
  (h.advanceBy hn).issueLoad

theorem PcsAligned.storeAt {s : State} {i : Instr} {w : StoreWidth} {ea : Nat} {v : Dword} {n : Nat} (h : PcsAligned s)
    (hn : n % 4 = 0) :
    NextPcs (s.storeAt i w ea v n) :=
  (h.advanceBy hn).issueStore

theorem PcsAligned.execLd8 {d a : Reg} {imm : BitVec 14} {s : State} (h : PcsAligned s) : NextPcs (execLd8 d a imm s) :=
  h.loadAt rfl

theorem PcsAligned.execLd16 {d a : Reg} {imm : BitVec 14} {s : State} (h : PcsAligned s) : NextPcs (execLd16 d a imm s) :=
  h.loadAt rfl

theorem PcsAligned.execLd32 {d a : Reg} {imm : BitVec 14} {s : State} (h : PcsAligned s) : NextPcs (execLd32 d a imm s) :=
  h.loadAt rfl

theorem PcsAligned.execLd64 {d a : Reg} {imm : BitVec 14} {s : State} (h : PcsAligned s) : NextPcs (execLd64 d a imm s) :=
  h.loadAt rfl

theorem PcsAligned.execLds8 {d a : Reg} {imm : BitVec 14} {s : State} (h : PcsAligned s) : NextPcs (execLds8 d a imm s) :=
  h.loadAt rfl

theorem PcsAligned.execLds16 {d a : Reg} {imm : BitVec 14} {s : State} (h : PcsAligned s) : NextPcs (execLds16 d a imm s) :=
  h.loadAt rfl

theorem PcsAligned.execLds32 {d a : Reg} {imm : BitVec 14} {s : State} (h : PcsAligned s) : NextPcs (execLds32 d a imm s) :=
  h.loadAt rfl

theorem PcsAligned.execSt8 {a d : Reg} {imm : BitVec 14} {s : State} (h : PcsAligned s) : NextPcs (execSt8 a d imm s) :=
  h.storeAt rfl

theorem PcsAligned.execSt16 {a d : Reg} {imm : BitVec 14} {s : State} (h : PcsAligned s) : NextPcs (execSt16 a d imm s) :=
  h.storeAt rfl

theorem PcsAligned.execSt32 {a d : Reg} {imm : BitVec 14} {s : State} (h : PcsAligned s) : NextPcs (execSt32 a d imm s) :=
  h.storeAt rfl

theorem PcsAligned.execSt64 {a d : Reg} {imm : BitVec 14} {s : State} (h : PcsAligned s) : NextPcs (execSt64 a d imm s) :=
  h.storeAt rfl

theorem PcsAligned.execLdl {w : LoadWidth} {d a : Reg} {lit : Word} {s : State} (h : PcsAligned s) :
    NextPcs (execLdl w d a lit s) :=
  h.loadAt rfl

theorem PcsAligned.execStl {w : StoreWidth} {a d : Reg} {lit : Word} {s : State} (h : PcsAligned s) :
    NextPcs (execStl w a d lit s) :=
  h.storeAt rfl

theorem PcsAligned.execKmov {k : KReg} {a b : Reg} {s : State} (h : PcsAligned s) : NextPcs (execKmov k a b s) :=
  h.setKreg.advance

theorem PcsAligned.execKld {k : KReg} {a : Reg} {s : State} (h : PcsAligned s) : NextPcs (execKld k a s) :=
  h.advance.issueKld

theorem PcsAligned.execKst {k : KReg} {a : Reg} {s : State} (h : PcsAligned s) : NextPcs (execKst k a s) :=
  h.advance.issueKst

/-! ### What happens outside the core -/

theorem PcsAligned.outsideJoin {s : State} {t : TaskKey} {id count : Nat} (h : PcsAligned s) :
    PcsAligned (s.outsideJoin t id count) := by
  unfold State.outsideJoin
  split
  · exact h
  · split
    · exact h
    · split
      · exact PcsAligned.ite h h.joinCohort
      · exact h.joinCohort

theorem PcsAligned.outsideLeave {s : State} {t : TaskKey} (h : PcsAligned s) : PcsAligned (s.outsideLeave t) :=
  PcsAligned.ite h.leaveCohort h

theorem PcsAligned.outsideCbar {s : State} {t : TaskKey} (h : PcsAligned s) : PcsAligned (s.outsideCbar t) := by
  unfold State.outsideCbar
  split
  · exact PcsAligned.ite h.updCohort h
  · exact h

theorem PcsAligned.outsideLoan {s : State} {t : TaskKey} {base len : Nat} (h : PcsAligned s) :
    PcsAligned (s.outsideLoan t base len) := by
  unfold State.outsideLoan
  split
  · exact h
  · exact PcsAligned.ite h h.updRec

theorem PcsAligned.outsideTouch {s : State} {t : TaskKey} {i : Nat} {write : Bool} (h : PcsAligned s) :
    PcsAligned (s.outsideTouch t i write) := by
  unfold State.outsideTouch
  split
  · split
    · split
      · rename_i e4
        exact h.touchDecl.ok e4
      · rename_i e4
        exact h.touchDecl.wait e4
      · exact h
    · exact h
  · exact h

theorem PcsAligned.outsideSpawn {s : State} {t : TaskKey} {tcb : Nat} (h : PcsAligned s) : PcsAligned
    (s.outsideSpawn t tcb) :=
  PcsAligned.ite h (PcsAligned.ite h.launchTask (PcsAligned.ite h h.updRec))

theorem PcsAligned.outsideTend {s : State} {t : TaskKey} (h : PcsAligned s) : PcsAligned (s.outsideTend t) := by
  unfold State.outsideTend
  split
  · exact h
  · exact h.endSteps.frame

theorem PcsAligned.outsideWrite {s : State} {key n v : Nat} (h : PcsAligned s) : PcsAligned (s.outsideWrite key n v) :=
  PcsAligned.ite h (PcsAligned.ite h.eccHit h.wr)

theorem PcsAligned.outsideStore {s : State} {key n v : Nat} (h : PcsAligned s) : PcsAligned (s.outsideStore key n v) :=
  PcsAligned.ite h h.outsideWrite

theorem PcsAligned.otherWrite {s : State} {t : TaskKey} {kind : AccKind} {va n : Nat} {act : Place → State → State} (h :
    PcsAligned s) (h2 : ∀ (a : Place) (t : State), PcsAligned t → PcsAligned (act a t)) :
    PcsAligned (s.otherWrite t kind va n act) := by
  unfold State.otherWrite
  dsimp only
  split
  · exact h
  · split
    · exact h
    · split
      · exact h
      · split
        · exact h
        · split
          · rename_i e3
            split
            · rename_i e4
              exact h2 _ _ ((h.touchOf.ok e3).undoLogOf.ok e4)
            · exact h.touchOf.ok e3
          · rename_i e3
            exact h.touchOf.wait e3
          · rename_i e3
            exact h.touchOf.fault e3
          · rename_i e3
            exact h.touchOf.stall e3

theorem PcsAligned.outsideTaskStore {s : State} {t : TaskKey} {va n v : Nat} (h : PcsAligned s) :
    PcsAligned (s.outsideTaskStore t va n v) := by
  unfold State.outsideTaskStore
  refine PcsAligned.otherWrite h ?_
  intro a s2 h2
  split
  · split
    · rename_i e
      exact h2.placeWrite.ok e
    · rename_i e
      exact h2.placeWrite.wait e
    · rename_i e
      exact h2.placeWrite.stall e
    · rename_i e
      exact h2.placeWrite.fail e
  · exact h2.outsideWrite

theorem PcsAligned.outsideAtomic {s : State} {t : TaskKey} {va n v : Nat} (h : PcsAligned s) :
    PcsAligned (s.outsideAtomic t va n v) := by
  unfold State.outsideAtomic
  split
  · exact h
  · refine PcsAligned.otherWrite h ?_
    intro a s2 h2
    split
    · exact h2
    · split
      · exact h2.eccHit
      · split
        · exact PcsAligned.ite h2.wr (PcsAligned.ite h2 h2.wr.watchAtomic)
        · exact h2.wr

theorem PcsAligned.niPut {s : State} {len : Nat} (h : PcsAligned s) : PcsAligned (s.niPut len) :=
  PcsAligned.ite h h.frame

theorem PcsAligned.niBytes {s : State} {n : Nat} (h : PcsAligned s) : PcsAligned (s.niBytes n) :=
  h

theorem PcsAligned.corrected {s : State} {w : Nat} (h : PcsAligned s) : PcsAligned (s.corrected w) :=
  h.updWing

theorem PcsAligned.poisonUnit {s : State} {key : Nat} (h : PcsAligned s) : PcsAligned (s.poisonUnit key) :=
  PcsAligned.ite h h.frame

theorem PcsAligned.unitError {s : State} {u : UnitRef} (h : PcsAligned s) : PcsAligned (s.unitError u) := by
  unfold State.unitError
  split
  · exact PcsAligned.ite h.eccHit.contain h.eccHit
  · exact PcsAligned.ite h.eccHit h.eccHit.portFault
  · exact PcsAligned.ite h.eccHit h.eccHit.portFault
  · exact h.eccHit.meFault
  · exact h.eccHit.meFault
  · exact h.eccHit.tmuFault
  · exact h

theorem PcsAligned.outsideStep {o : Outside} {s : State} (h : PcsAligned s) : PcsAligned (outsideStep o s) := by
  unfold Machine.outsideStep
  split
  · exact h
  · split
    · exact h.outsideJoin
    · exact h.outsideLeave
    · exact h.outsideCbar
    · exact h.outsideLoan
    · exact h.outsideTouch
    · exact h.outsideSpawn
    · exact h.outsideTend
    · exact h.outsideTaskStore
    · exact h.outsideAtomic
    · exact h.outsideStore
    · exact h.nvmeReadBad
    · exact h.niPut
    · exact h.niBytes
    · exact h.corrected
    · exact h.poisonUnit
    · exact h.unitError

/-! ### The round of the agents -/

theorem PcsAligned.refill {s : State} (h : PcsAligned s) : PcsAligned s.refill := by
  unfold State.refill
  split
  · exact h
  · exact h

theorem PcsAligned.execWatchdogExpiry {s : State} (h : PcsAligned s) : NextPcs (execWatchdogExpiry s) :=
  PcsAligned.ite h.pendCause h

/-! ### Every instruction -/

theorem PcsAligned.exec {i : Instr} {s : State} (h : PcsAligned s) : NextPcs (exec i s) := by
  unfold Machine.exec
  split
  · exact h.execAdd
  · exact h.execSub
  · exact h.execMul
  · exact h.execMulh
  · exact h.execMulhu
  · exact h.execDiv
  · exact h.execDivu
  · exact h.execRem
  · exact h.execRemu
  · exact h.execAnd
  · exact h.execOr
  · exact h.execXor
  · exact h.execAndn
  · exact h.execOrn
  · exact h.execSll
  · exact h.execSrl
  · exact h.execSra
  · exact h.execRol
  · exact h.execRor
  · exact h.execMin
  · exact h.execMax
  · exact h.execMinu
  · exact h.execMaxu
  · exact h.execSeq
  · exact h.execSne
  · exact h.execSlt
  · exact h.execSltu
  · exact h.execSle
  · exact h.execSleu
  · exact h.execClz
  · exact h.execCtz
  · exact h.execPopc
  · exact h.execSext8
  · exact h.execSext16
  · exact h.execSext32
  · exact h.execZext32
  · exact h.execBswap
  · exact h.execFadd
  · exact h.execFsub
  · exact h.execFmul
  · exact h.execFdiv
  · exact h.execFsqrt
  · exact h.execFmin
  · exact h.execFmax
  · exact h.execFeq
  · exact h.execFlt
  · exact h.execFle
  · exact h.execFma
  · exact h.execFcvtF32I64
  · exact h.execFcvtI64F32
  · exact h.execFcvtBf16F32
  · exact h.execFcvtF32Bf16
  · exact h.execFclass
  · exact h.execFabs
  · exact h.execFneg
  · exact h.execAcq
  · exact h.execAcqs
  · exact h.execRel
  · exact h.execBind
  · exact h.execUnbind
  · exact h.execWaitw
  · exact h.execJoin
  · exact h.execLeave
  · exact h.execCbar
  · exact h.execLoan
  · exact h.execLstat
  · exact h.execSpawn
  · exact h.execArm
  · exact h.execRls
  · exact h.execTend
  · exact h.execTyield
  · exact h.execTself
  · exact h.execTage
  · exact h.execTlook
  · exact h.execTins
  · exact h.execTdel
  · exact h.execXbank
  · exact h.execIssue
  · exact h.execIssuex
  · exact h.execKmov
  · exact h.execKld
  · exact h.execKst
  · exact h.execCfgld
  · exact h.execCfgwait
  · exact h.execWbar
  · exact h.execHwait
  · exact h.execHalloc
  · exact h.execHfree
  · exact h.execMfs
  · exact h.execMts
  · exact h.execTrap
  · exact h.execTrapret
  · exact h.execTack
  · exact h.execHalt
  · exact h.execWfe
  · exact h.execNop
  · exact h.execBrk
  · exact h.execIfence
  · exact h.execFence
  · exact h.execAddi
  · exact h.execAndi
  · exact h.execOri
  · exact h.execXori
  · exact h.execSlli
  · exact h.execSrli
  · exact h.execSrai
  · exact h.execSlti
  · exact h.execSltui
  · exact h.execLui
  · exact h.execLd8
  · exact h.execLd16
  · exact h.execLd32
  · exact h.execLd64
  · exact h.execLds8
  · exact h.execLds16
  · exact h.execLds32
  · exact h.execSt8
  · exact h.execSt16
  · exact h.execSt32
  · exact h.execSt64
  · exact h.execBeq
  · exact h.execBne
  · exact h.execBlt
  · exact h.execBge
  · exact h.execBltu
  · exact h.execBgeu
  · exact h.execJal
  · exact h.execJalr
  · exact h.execAmoadd
  · exact h.execAmoand
  · exact h.execAmoor
  · exact h.execAmoxor
  · exact h.execAmomin
  · exact h.execAmomax
  · exact h.execAmominu
  · exact h.execAmomaxu
  · exact h.execAmoswap
  · exact h.execAmocas
  · exact h.execAmofadd
  · exact h.execLi
  · exact h.execLih
  · exact h.execAddli
  · exact h.execLdl
  · exact h.execStl
  · exact h.execSread
  · exact h.execSwrite
  · exact h.execSgather
  · exact h.execSscatter
  · exact h.execStile
  · exact h.execSsegt
  · exact h.execScfg
  · exact h.execSbar
  · exact h.execSend
  · exact h.execSclose
  · exact h.execSgateSetPlvl
  · exact h.execSgateGate
  · exact h.execSgateUngate
  · exact h.execSreq
  · exact h.execCchain
  · exact h.execCabort
  · exact h.execMload
  · exact h.execMswap
  · exact h.execMdense
  · exact h.execMseg
  · exact h.execMbatch
  · exact h.execMgather
  · exact h.execMdrain
  · exact h.execMzero
  · exact h.execMbankClaim
  · exact h.execMbankRelease
  · exact h.execMspill
  · exact h.execMfill
  · exact h.execMstat
  · exact h.execTmatch
  · exact h.execTmerge
  · exact h.execTlogsz
  · exact h.execTunmerge
  · exact h.execTcompose
  · exact h.execTsave
  · exact h.execTload
  · exact h.execTfree
  · exact h.execTstat
  · exact h.execAsyncResultWrite
  · exact h.execAsyncTrap
  · exact h.execWfeWake
  · exact h.execAccessPerform
  · exact h.execBankAccess
  · exact h.execAtomicPerform
  · exact h.execBankTransform
  · exact h.execCompressedTileAccess
  · exact h.execPageLayoutDone
  · exact h.execPageWalkEnd
  · exact h.execTdelPerform
  · exact h.execMemoryTimeout
  · exact h.execWatchdogExpiry
  · exact h.execHostRequest
  · exact h.execObjectRequest
  · exact h.execObjectRelease
  · exact h.execRecallRollback
  · exact h.execLaunch
  · exact h.execLaunchstRead
  · exact h.execDeskctlWrite
  · exact h.execDispatch
  · exact h.execQuantumPreempt
  · exact h.execPreemptSave
  · exact h.execPreemptionTimeout
  · exact h.execFaultend
  · exact h.execPartitionSwap
  · exact h.execPartitionSwapDone
  · exact h.execPartcurClearError
  · exact h.execCorerstDhalt
  · exact h.execTokenHop
  · exact h.execMapFire
  · exact h.execSfnFire
  · exact h.execRedFire
  · exact h.execSteerFire
  · exact h.execMergeFire
  · exact h.execCarryFire
  · exact h.execGenEmit
  · exact h.execMemFire
  · exact h.execMemResponse
  · exact h.execSegFire
  · exact h.execShufFire
  · exact h.execConvFire
  · exact h.execForkFire
  · exact h.execEndTokenAlign
  · exact h.execErrorEndPass
  · exact h.execBarrierAlign
  · exact h.execFeConfigApply
  · exact h.execFeGoLive
  · exact h.execFolioChange
  · exact h.execLaneEmitToken
  · exact h.execLaneAbsorbToken
  · exact h.execLaneCommandComplete
  · exact h.execHandleClaim
  · exact h.execSpctlUnseal
  · exact h.execMeAToken
  · exact h.execMePlaneToken
  · exact h.execMeProductCommit
  · exact h.execMeCommandComplete
  · exact h.execMesealEnd
  · exact h.execTmuInToken
  · exact h.execTmuCommandComplete
  · exact h.execTmsealEnd
  · exact h.execCeChainStart
  · exact h.execCeClearError
  · exact h.execCeAbort
  · exact h.execCeResume
  · exact h.execCeKick
  · exact h.execCopyRecordRead
  · exact h.execCopyHandleReady
  · exact h.execCopyRecordComplete
  · exact h.execCopyRecordStop
  · exact h.execCopyBoundaryStop
  · exact h.execXinvWrite
  · exact h.execXinvComplete
  · exact h.execXinvstatClearError
  · exact h.execCtxkillGo
  · exact h.execCtxkillDone
  · exact h.execCtxkillClearError
  · exact h.execTagcfgWrite
  · exact h.execCpdescWrite
  · exact h.execOwnreqRequest
  · exact h.execOwnreqClrerr
  · exact h.execOwnpass
  · exact h.execOwnershipGrant
  · exact h.execMasterLinkDown
  · exact h.execWpwrWrite
  · exact h.execClockChangeEffect
  · exact h.execPowerLimitStepDown
  · exact h.execAttestationRequest
  · exact h.execAttestationReportDone
  · exact h.execBootFirmwareCheck
  · exact h.execEccstatRead
  · exact h.execSpanFlitReceive
  · exact h.execSpanPortTrain
  · exact h.execNvmeWriteComplete
  · exact h.execNiMessageSend
  · exact h.execNiMessageDeliver
  · exact h.execControlRegisterWrite
  · exact h.execDebugInterfaceResume

/-! ### The step -/

theorem PcsAligned.clerkStep {s : State} (h : PcsAligned s) : NextPcs (clerkStep s) := by
  unfold Machine.clerkStep
  split
  · rename_i e
    exact h.clerkTurn.error e
  · rename_i i t e
    have ht : PcsAligned t := h.clerkTurn.ok e
    have hx : NextPcs (Machine.exec i (t.prepare i)) := ht.prepare.exec
    split
    · rename_i e2
      exact (hx.next e2).settle
    · trivial
    · trivial

theorem PcsAligned.agentStep {i : Instr} {s : State} (h : PcsAligned s) : NextPcs (agentStep i s) :=
  NextPcs.ite trivial (NextPcs.ite h h.exec)

theorem NextPcs.afterTurn {o : Host.Outcome State Fault Refusal} (h : NextPcs o) : NextPcs (afterTurn o) := by
  unfold Machine.afterTurn
  split
  · exact h.refill
  · exact trivial
  · exact trivial

theorem PcsAligned.innerStep {s : State} (h : PcsAligned s) : NextPcs (innerStep s) := by
  unfold Machine.innerStep
  split
  · exact h.frame.tick.agentStep
  · exact h.frame.tick.clerkStep
  · exact h.tick.clerkStep.afterTurn

theorem PcsAligned.step {s : State} (h : PcsAligned s) : NextPcs (step s) := by
  unfold Machine.step
  split
  · exact h.frame.tick.outsideStep
  · exact h.innerStep

/-- Settles O60: each function of the model leaves the PCs aligned, from the single update up to the step. -/
theorem pcAlignedKept : Obligations.PcAlignedKept := by
  unfold Obligations.PcAlignedKept
  intro s t h e
  exact h.step.next e

end Sys2Proof.Claims
end

section
/-!
# Firings of the operators with streams of their own (O54)

Each firing is what `act` makes of the FE that `operator_of_fires` finds fit. A MEM load sends its request from a state that
differs from the first in the FE's registers alone, which no translation reads (`sentReq_updFe`).
-/

namespace Sys2Proof.Claims
open Sys2Proof.Machine

/-! ### The state of an operator, which sending leaves -/

@[simp] theorem refill_op (f : Fe) (k : Nat) : (f.refill k).op = f.op := by
  unfold Fe.refill
  split
  · split <;> rfl
  · rfl

@[simp] theorem send_op (f : Fe) (k : Nat) (ts : List Token) : (f.send k ts).op = f.op := by
  unfold Fe.send
  split
  · exact refill_op _ k
  · rfl

/-- Taking a firing's tokens changes the FIFOs, the windows and POS alone. -/
theorem takeAll_frame (f : Fe) :
    ∃ fifo window pos, f.takeAll = { f with fifo := fifo, window := window, pos := pos } := by
  suffices h : ∀ (is : List Nat) (g : Fe), (∃ fifo window pos, g = { f with fifo := fifo, window := window, pos := pos }) →
      ∃ fifo window pos, is.foldl (fun g i => g.take i (g.need i)) g = { f with fifo := fifo, window := window, pos := pos } by
    exact h f.slots f ⟨_, _, _, rfl⟩
  intro is
  induction is with
  | nil => exact fun _ hg => hg
  | cons i is ih =>
    rintro g ⟨fifo, window, pos, rfl⟩
    obtain ⟨_, _, _, h⟩ := take_frame { f with fifo := fifo, window := window, pos := pos } i
      (Fe.need { f with fifo := fifo, window := window, pos := pos } i)
    exact ih _ ⟨_, _, _, h⟩

/-! ### MERGE, CARRY, GEN and SEG -/

/-- MERGE `arrv` takes from the input that is ready, of two from the one that it did not take from last (R187). -/
theorem mergePick_of_arrv {f : Fe} (hsub : f.sub = 1) {i : Nat} (hi : i < 2) (hready : f.ready i = true)
    (hturn : f.ready (1 - i) = true → f.op.last = (i == 0)) : f.mergePick = some i := by
  obtain rfl | rfl : i = 0 ∨ i = 1 := by omega
  · cases hother : f.ready 1 <;> simp_all [Fe.mergePick]
  · cases hother : f.ready 0 <;> simp_all [Fe.mergePick]

/-- The state of GEN behind the next token of its sweep, with the end token that follows it, if one does. -/
def genSwept (f : Fe) : OpState :=
  let n := f.op.count + 1
  let x := f.genNext f.op.idx
  { f.op with
    idx := x.1, count := n, fin := x.2 == 4
    outq := if x.2 == 0 then [] else if x.2 == 4 then [endTok 7 n] else [endTok x.2 0] }

section
variable {r c : Nat} {s : State}

theorem exec_mergeFire_of_arrv (hfires : Fires s r c 4) (hsub : (s.fe r c).sub = 1) {i : Nat}
    (hpick : (s.fe r c).mergePick = some i)
    (hroom : max ((s.fe r c).rateOut 0) ((s.fe r c).need i) ≤ (s.fe r c).emitRoom 0) : let f := s.fe r c
    let g := (f.take i (f.need i)).send 0 (f.group i)
    exec (.mergeFire r c) s = .next (s.updFe r c fun _ => { g with op := { g.op with last := i == 1 } }) := by
  have htaken : ((s.fe r c).take i ((s.fe r c).need i)).sub = 1 := by
    obtain ⟨_, _, _, h⟩ := take_frame (s.fe r c) i ((s.fe r c).need i)
    rw [h]
    exact hsub
  show execMergeFire r c s = _
  rw [execMergeFire, operator_of_fires hfires, hpick]
  simp only [if_pos hroom, Option.getD_some]
  rw [updFe_eq_const]
  simp [htaken]

/-- A CARRY that begins with a fixed count sends the first iteration's token to OUT0 (R188). -/
theorem exec_carryFire_of_first (hfires : Fires s r c 5) (hsub : (s.fe r c).sub = 0) (hidle : (s.fe r c).op.busy = false)
    (hside : (s.fe r c).side 2 = none) (hready : (s.fe r c).ready 0 = true) (hcount : 0 < (s.fe r c).param 0)
    (hrate : (s.fe r c).roomRate = true) (hroom : (s.fe r c).need 0 ≤ (s.fe r c).emitRoom 0) : let f := s.fe r c
    let g := (f.take 0 (f.need 0)).send 0 (f.group 0)
    exec (.carryFire r c) s = .next (s.updFe r c fun _ =>
      { g with op := { g.op with busy := true, iter := 1, limit := f.param 0 } }) := by
  have hgoes : ((s.fe r c).param 0 == 0) = false := by simpa using Nat.ne_of_gt hcount
  show execCarryFire r c s = _
  rw [execCarryFire, operator_of_fires hfires]
  simp only [hidle, hside, hsub, hready, hrate, hgoes, Option.isSome_none, Bool.false_and, Bool.false_eq_true, if_false,
    Bool.not_false, Bool.true_or, Bool.and_true, beq_self_eq_true, decide_eq_true hroom, decide_false, if_true,
    Option.getD_some, Bool.and_false, send_op, take_op]
  rw [updFe_eq_const]

/-- GEN emits the next token of its sweep (R189). -/
theorem exec_genEmit_of_sweep (hfires : Fires s r c 6) (hroom : (s.fe r c).emitRoom 0 ≠ 0)
    (hrate : (s.fe r c).roomRate = true) (houtq : (s.fe r c).op.outq = []) (hfin : (s.fe r c).op.fin = false)
    (hlim : (s.fe r c).lim = 0) : let f := s.fe r c
    exec (.genEmit r c) s =
      .next (s.updFe r c fun _ => { f.send 0 [f.genToken f.op.idx] with op := genSwept f }) := by
  show execGenEmit r c s = _
  rw [execGenEmit, operator_of_fires hfires]
  simp only [houtq, hfin, hrate, hlim, beq_false_of_ne hroom, bne_self_eq_false, Bool.not_true, Bool.or_false,
    Bool.false_and, Bool.false_eq_true, if_false, Option.getD_some]
  rw [updFe_eq_const]
  simp only [genSwept]

/-- SEG gathers the token of a block that is not whole (R193). -/
theorem exec_segFire_of_partial (hfires : Fires s r c 8) (houtq : (s.fe r c).op.outq = [])
    (hready : (s.fe r c).readyAll = true) (hrate : (s.fe r c).roomRate = true) {t : Token}
    (hgroup : (s.fe r c).group 0 = [t]) : let f := s.fe r c
    let b := f.op.bufs.getD f.copyOf [] ++ [t]
    b.length * (if f.sub = 1 then 2 else 4) < 64 →
    exec (.segFire r c) s = .next (s.updFe r c fun _ => { f.takeAll with op := { f.takeAll.op with
      bufs := updAt f.takeAll.op.bufs f.copyOf fun _ => b, elem := f.takeAll.op.elem + 1 } }) := by
  intro f b hpartial
  obtain ⟨_, _, _, htaken⟩ := takeAll_frame (s.fe r c)
  show execSegFire r c s = _
  rw [execSegFire, operator_of_fires hfires]
  simp only [houtq, hready, hrate, List.isEmpty_nil, Bool.not_true, Bool.false_eq_true, if_false, Bool.and_self, if_true,
    Option.getD_some]
  rw [updFe_eq_const]
  have hshort : ((s.fe r c).op.bufs.getD (s.fe r c).copyOf [] ++ [t]).length *
      (if ((s.fe r c).sub == 1) = true then 2 else 4) < 64 := by simpa [f, b] using hpartial
  simp only [hgroup, List.foldl_cons, List.foldl_nil]
  rw [htaken, segTake]
  exact congrArg (fun g => Host.Outcome.next (s.updFe r c fun _ => Fe.nextElem g)) (if_pos hshort)

end

/-! ### Requests of a MEM load -/

theorem walkFrom_updFe (s : State) (r c : Nat) (g : Fe → Fe) (ctx : BitVec 12) (va tbl fuel : Nat) :
    walkFrom (s.updFe r c g) ctx va tbl fuel = walkFrom s ctx va tbl fuel := by
  induction fuel generalizing tbl with
  | zero => rfl
  | succ fuel ih =>
    simp only [walkFrom, ih]
    rfl

/-- A walk does not read the fabric. -/
theorem walk_updFe (s : State) (r c : Nat) (g : Fe → Fe) (ctx : BitVec 12) (va : Nat) :
    (s.updFe r c g).walk ctx va = s.walk ctx va := by
  simp only [State.walk, walkFrom_updFe]
  rfl

theorem lookup_updFe (s : State) (r c : Nat) (g : Fe → Fe) (ctx : BitVec 12) (va : Nat) :
    (s.updFe r c g).lookup ctx va = s.lookup ctx va := by
  unfold State.lookup
  rw [walk_updFe]
  rfl

theorem resolve_updFe (s : State) (r c : Nat) (g : Fe → Fe) (ctx : BitVec 12) (a : Acc) (va : Nat) :
    (s.updFe r c g).resolve ctx a va = s.resolve ctx a va := by
  unfold State.resolve
  rw [lookup_updFe]
  rfl

/-- Where a request goes does not depend on the registers of an FE. -/
theorem sentReq_updFe (s : State) (r c : Nat) (g : Fe → Fe) (q : Req) : (s.updFe r c g).sentReq q = s.sentReq q := by
  have hctx : (s.updFe r c g).ctx = s.ctx := rfl
  have hplace : (s.updFe r c g).reqPlace q = s.reqPlace q := by
    unfold State.reqPlace
    rw [hctx, resolve_updFe]
  have hport (pl : Place) : (s.updFe r c g).portOf s.ctx pl q.va = s.portOf s.ctx pl q.va := by
    unfold State.portOf
    rw [lookup_updFe]
    rfl
  unfold State.sentReq
  rw [hctx, hplace]
  simp only [hport]
  rfl

/-- A request that needs no access goes nowhere. -/
theorem sentReq_memAnswer (s : State) (r c cp : Nat) (kind : ReqKind) (v : Nat) :
    s.sentReq (memAnswer r c cp kind v) = memAnswer r c cp kind v := rfl

/-- The address of a MEM load whose offset is the token `t` (R191). -/
def memLoadAddr (f : Fe) (t : Token) : Nat :=
  (((f.memBase : Int) + signedOf 32 t.payload.toNat) % (2 ^ 48 : Int)).toNat

/-- What a load of 4 bytes asks for: PAD for a void token, else the word at its address. -/
def memLoadReq (r c : Nat) (f : Fe) (t : Token) : Req :=
  if t.isVoid then memAnswer r c f.copyOf .const (f.param 4)
  else memReq r c f.copyOf (.load 4 false) (memLoadAddr f t) 0 0

theorem memElem_of_load {s : State} {r c : Nat} {f : Fe} {t : Token} (hsub : f.sub = 4)
    (hfe : ∃ fifo window pos, s.fe r c = { f with fifo := fifo, window := window, pos := pos })
    (haligned : t.isVoid = false → memLoadAddr f t % 4 = 0) (j : Nat) (ofs : Option Token) :
    s.memElem r c f.copyOf j t ofs = s.addReq (memLoadReq r c f t) := by
  obtain ⟨_, _, _, hfe⟩ := hfe
  have hload : (s.fe r c).sub = 4 := by rw [hfe]; exact hsub
  have haddr : ((((s.fe r c).memBase : Int) + signedOf 32 t.payload.toNat) % (2 ^ 48 : Int)).toNat = memLoadAddr f t := by
    rw [hfe]
    rfl
  have hpad : (s.fe r c).param 4 = f.param 4 := by rw [hfe]; rfl
  simp only [State.memElem, hload, hpad, haddr, memLoadReq]
  cases hvoid : t.isVoid
  · simp [memWrites, memWidth, memKind, State.memAccess, haligned hvoid]
  · simp [memWrites]

/-- The state behind a firing of one token that sends the request `q`. -/
def memFired (s : State) (r c : Nat) (q : Req) : State :=
  ((s.updFe r c Fe.takeAll).addReq q).updFe r c fun f =>
    { f.nextElem with op := { f.nextElem.op with k := f.op.k + 1 } }

theorem reqs_memFired (s : State) (r c : Nat) (q : Req) :
    (memFired s r c q).core.fab.reqs = s.core.fab.reqs ++ [s.sentReq q] :=
  congrArg (fun x => s.core.fab.reqs ++ [x]) (sentReq_updFe s r c Fe.takeAll q)

/-- A MEM load of one token sends what it asks for, and touches no memory (R190, R191). -/
theorem exec_memFire_of_load {r c : Nat} {s : State} {t : Token} (hfires : Fires s r c 7) (hsub : (s.fe r c).sub = 4)
    (hready : (s.fe r c).readyAll = true) (hrate : (s.fe r c).roomRate = true) (hgroup : (s.fe r c).group 0 = [t])
    (hcount : s.reqCount r c < 15) (haligned : t.isVoid = false → memLoadAddr (s.fe r c) t % 4 = 0) :
    exec (.memFire r c) s = .next (memFired s r c (memLoadReq r c (s.fe r c) t)) := by
  obtain ⟨_, _, _, htaken⟩ := takeAll_frame (s.fe r c)
  have hfe : (s.updFe r c Fe.takeAll).fe r c = (s.fe r c).takeAll := fe_updFe_same ..
  have hopen : (s.fe r c).sealed = false := by
    obtain ⟨hactive, -, -⟩ := hfires
    simp only [State.feActive, Bool.and_eq_true, Bool.not_eq_true'] at hactive
    exact hactive.1.2
  have hopen' : ((s.updFe r c Fe.takeAll).fe r c).sealed = false := by
    rw [hfe, htaken]
    exact hopen
  have helem (j : Nat) (ofs : Option Token) := memElem_of_load hsub ⟨_, _, _, hfe.trans htaken⟩ haligned j ofs
  have hlimit : ¬memLimit < s.reqCount r c + 1 := by
    rw [memLimit]
    omega
  show execMemFire r c s = _
  rw [execMemFire, operator_of_fires hfires]
  simp only [hready, hrate, hsub, hgroup, List.length_singleton, hlimit, Bool.not_true, Bool.or_false,
    Nat.reduceBEq, Bool.false_and, Bool.false_eq_true, if_false, Option.getD_some, List.zipIdx_singleton,
    List.foldl_cons, List.foldl_nil, hopen', helem]
  exact congrArg Host.Outcome.next (if_neg (Bool.eq_false_iff.1 hopen'))

/-- The first reply of an operator goes to its OUT0, and one behind another of the same operator waits (R192). -/
theorem exec_memResponse_of_reply {s : State} {k r c : Nat} {q : Req} {y : Token} (hq : s.req k = some q)
    (hwho : q.who = .fe r c) (hreply : q.reply = some y) (hto : (s.fe r c).replyTo = none)
    (hrouted : (s.fe r c).routed 0 = true) (hroom : 1 ≤ (s.fe r c).emitRoom 0) :
    exec (.memResponse k) s = .next (if ∃ e ∈ s.core.fab.reqs.take k, e.who = .fe r c then s else
      (s.updFab fun b => { b with reqs := b.reqs.eraseIdx k }).updFe r c fun f => f.send 0 [y]) := by
  show execMemResponse k s = _
  rw [execMemResponse, hq]
  simp only [hwho, hreply, hto, hrouted, if_pos hroom, List.any_eq_true, decide_eq_true_eq, Bool.not_true,
    Bool.false_eq_true, if_false]
  split <;> rfl

/-- Settles O54: each operator's firing is that of its rule, and a MEM operator's first reply goes out in stream order. -/
theorem streamOperators : Obligations.StreamOperators := by
  unfold Obligations.StreamOperators
  intro r c t s f
  refine ⟨fun hfires hsub i hi hready hturn hroom => ?_, fun hfires hsub hidle hside hready hcount hrate hroom => ?_,
    fun hfires hroom hrate houtq hfin hlim => ?_, fun hfires houtq hready hrate hgroup => ?_,
    fun hfires hsub hready hrate hgroup _ hcount => ?_, fun k q y hq hwho hreply hto hrouted hroom => ⟨?_, ?_⟩⟩
  · exact exec_mergeFire_of_arrv hfires hsub (mergePick_of_arrv hsub hi hready hturn) hroom
  · exact exec_carryFire_of_first hfires hsub hidle hside hready hcount hrate hroom
  · refine ⟨_, exec_genEmit_of_sweep hfires hroom hrate houtq hfin hlim, ?_⟩
    rw [fe_updFe_same]
    exact ⟨rfl, rfl, rfl, rfl, rfl⟩
  · exact exec_segFire_of_partial hfires houtq hready hrate hgroup
  · have hload := exec_memFire_of_load hfires hsub hready hrate hgroup hcount
    refine ⟨fun hvoid => ⟨_, hload (by simp [hvoid]), ?_⟩, fun hvoid haligned => ⟨_, hload fun _ => haligned, ?_, rfl⟩⟩
    · rw [reqs_memFired, memLoadReq, if_pos hvoid, sentReq_memAnswer]
    · rw [reqs_memFired, memLoadReq, if_neg (Bool.eq_false_iff.1 hvoid)]
      rfl
  · intro hfirst
    rw [exec_memResponse_of_reply hq hwho hreply hto hrouted hroom, if_neg (by simpa using hfirst)]
  · intro hbehind
    rw [exec_memResponse_of_reply hq hwho hreply hto hrouted hroom, if_pos hbehind]

end Sys2Proof.Claims
end

section
/-!
# Steps of the token-merge unit (O57)

With the lanes not held and no barrier that waits, TMU_COMMAND_COMPLETE acts on the command at the head of the queue
(`exec_tmuCommandComplete_of_head`): one that has begun emits or completes, and another is performed.
-/

namespace Sys2Proof.Claims
open Sys2Proof.Machine

theorem isBar_of_isData {x : Token} (h : x.isData = true) : x.isBar = false := by
  simp only [Token.isData, Bool.or_eq_true, decide_eq_true_eq] at h
  obtain h | h := h <;> simp [Token.isBar, h]

/-! ### Tokens of `tmu.in` -/

/-- What TMU_IN_TOKEN does with a data token that is neither discarded nor drained (R298, R307). -/
theorem exec_tmuInToken_of_data {s : State} {x : Token} {rest : List Token} (hin : s.core.tmu.infifo = x :: rest)
    (hopen : s.core.tmu.sealed = false) (hruns : s.lanesHeld = false) (hskip : s.core.tmu.skip = 0)
    (hdata : x.isData = true) :
    exec .tmuInToken s = .next (if s.core.tmu.taking.isSome then s.updTmu fun u => { u.pop with
      part := u.part ++ [rowWord x] } else s) := by
  have hkind : ¬x.kind = 7#4 := by
    intro hkind
    simp [Token.isData, hkind] at hdata
  show execTmuInToken s = _
  rw [execTmuInToken, hin]
  cases s.core.tmu.taking <;> simp [hopen, hruns, hskip, isBar_of_isData hdata, hdata, hkind]

/-! ### The command at the head of the queue -/

section
variable {s : State} {i : Instr} {begun held : Bool} {pos : Nat} {rest : List EngCmd} (hruns : s.lanesHeld = false)
  (hbars : s.core.tmu.bars = []) (hqueue : s.core.tmu.queue = ⟨i, begun, pos, held⟩ :: rest)
include hruns hbars hqueue

theorem exec_tmuCommandComplete_of_begun (hbegun : begun = true) (hemitting : s.core.tmu.emitting = []) :
    exec .tmuCommandComplete s = .next (s.updTmu Tmu.complete) := by
  show execTmuCommandComplete s = _
  simp [execTmuCommandComplete, hruns, hbars, execTmuCommandComplete.go, hqueue, hbegun, hemitting]

/-- A command that takes no input is performed at the head (R299). -/
theorem exec_tmuCommandComplete_of_noInput (hbegun : begun = false) (hstalled : s.stalledAt .tmu = false)
    (hinput : Instr.tmuInput i = none) : exec .tmuCommandComplete s = .next (s.tmuRun i) := by
  have htaking : s.core.tmu.taking = none := by simp [Tmu.taking, hqueue, hinput]
  show execTmuCommandComplete s = _
  simp [execTmuCommandComplete, hruns, hbars, execTmuCommandComplete.go, hqueue, hbegun, htaking, hstalled]

end

/-! ### What a command at the head does -/

/-- The command at the head is done: what the unit holds is gone, and the command leaves the queue and is counted. -/
def tmuDone (s : State) : State := (s.unhold .tmu).updTmu Tmu.complete

theorem conc_commit_same {t : Tmu} {n : Nat} (hn : n < t.slots.length) (c : Option Conc) : (t.commit n c).conc n = c := by
  simp only [Tmu.conc, Tmu.slot, Tmu.commit]
  rw [getD_updAt_same _ _ _ _ hn]

/-- A slot whose contents are discarded holds none, also one that the TMU does not have. -/
theorem conc_commit_none (t : Tmu) (n : Nat) : (t.commit n none).conc n = none := by
  by_cases hn : n < t.slots.length
  · exact conc_commit_same hn none
  · simp only [Tmu.conc, Tmu.slot, Tmu.commit, List.getD_eq_getElem?_getD]
    rw [List.getElem?_eq_none (by rw [length_updAt]; omega)]
    rfl

/-- A command that commits a slot leaves the head of the queue. -/
theorem queue_tmuDone {s : State} {c : EngCmd} {rest : List EngCmd} (hqueue : s.core.tmu.queue = c :: rest) (n : Nat)
    (x : Option Conc) : (tmuDone (s.updTmu (·.commit n x))).core.tmu.queue = rest := by
  show s.core.tmu.queue.drop 1 = rest
  rw [hqueue]
  rfl

/-- Settles O57: each step is that of its rule, of the token at the head of `tmu.in` or the command at the head. -/
theorem mergeUnitSteps : Obligations.MergeUnitSteps := by
  unfold Obligations.MergeUnitSteps
  intro s t
  refine ⟨fun x rest i hin hopen hruns hskip htaking hdata => ?_, fun x rest hin hopen hruns hskip htaking hdata => ?_,
    fun hruns hbars hstalled => ⟨fun slot two c rest hqueue hconc => ?_,
      fun slot a b x y rest hqueue hx hy hsizes hslot => ?_, fun slot rest hqueue => ?_, fun i rest hqueue hemitting => ?_⟩, rfl⟩
  · have hstate : { t.pop with part := t.pop.part ++ [rowWord x] } = { t with
        infifo := rest, inpos := t.inpos + 1, part := t.part ++ [if x.isVoid then 0 else x.payload] } := by
      simp only [Tmu.pop, t, hin, rowWord, List.drop_succ_cons, List.drop_zero]
    rw [exec_tmuInToken_of_data hin hopen hruns hskip hdata, htaking]
    exact congrArg (fun u => Host.Outcome.next (s.updTmu fun _ => u)) hstate
  · rw [exec_tmuInToken_of_data hin hopen hruns hskip hdata, htaking]
    rfl
  · refine ⟨_, exec_tmuCommandComplete_of_noInput hruns hbars hqueue rfl hstalled rfl, ?_⟩
    rw [State.tmuRun]
    simp only [hconc, t]
    exact ⟨congrArg (· ++ [endTok 7 c.m]) List.map_map, rfl⟩
  · refine ⟨tmuDone (s.updTmu (·.commit slot.toNat (some (x.compose y)))), ?_, queue_tmuDone hqueue _ _, rfl,
      conc_commit_same hslot _, rfl, rfl, rfl⟩
    rw [exec_tmuCommandComplete_of_noInput hruns hbars hqueue rfl hstalled rfl, State.tmuRun]
    simp only [t, hx, hy, hsizes, bne_self_eq_false, Bool.false_eq_true, if_false]
    rfl
  · exact ⟨tmuDone (s.updTmu (·.commit slot.toNat none)),
      exec_tmuCommandComplete_of_noInput hruns hbars hqueue rfl hstalled rfl, queue_tmuDone hqueue _ _, rfl,
      conc_commit_none _ _⟩
  · exact exec_tmuCommandComplete_of_begun hruns hbars hqueue rfl hemitting

end Sys2Proof.Claims
end

section
/-!
# What a retiring command of a matrix engine drops (O56)

A command that leaves its engine's queue takes with it the bytes that the engine has read and holds (`State.unhold`); the next
states that O56 gives for `mswap` and for a finished command keep them. An engine that holds bytes when its finished command
retires refutes it: O56 speaks of every state, not of those alone that a run from reset reaches.
-/

namespace Sys2Proof.Claims
open Sys2Proof.Machine

/-- At the head of the queue every command can begin. -/
theorem canBegin_nil (c : EngCmd) : canBegin [] c = true := by
  cases hload : Instr.isMload c.cmd <;> cases hproduct : Instr.product c.cmd <;> simp [canBegin, hload, hproduct]

/-- A finished command alone in its queue retires, and its engine holds nothing any more. -/
theorem exec_meCommandComplete_of_fin {e : BitVec 1} {s : State} {i : Instr}
    (hqueue : (s.me e.toNat).queue = [⟨i, true, 0, true⟩]) :
    exec (.meCommandComplete e) s = .next ((s.unhold (.me e.toNat)).updMe e.toNat (Me.retire · 0)) := by
  show execMeCommandComplete e s = _
  simp [execMeCommandComplete, hqueue, Me.runnable, canBegin_nil, EngCmd.runs, State.meRun]

/-- The machine after reset, but for engine 0, whose `mswap` is finished and which holds bytes of an access. -/
def finishedHoldsState : State :=
  { State.reset with core := { State.reset.core with
      mes := [{ Me.reset with queue := [⟨.mswap 0, true, 0, true⟩] }]
      fab := { State.reset.core.fab with held := [(.me 0, ⟨0, 0, [], none⟩)] } } }

/-- What the fabric's units hold of their accesses in the state that a step gives. -/
def heldAfter (o : Result) : List (UnitRef × Piece) :=
  match o with
  | .next s => s.core.fab.held
  | _ => []

/-- Refutes O56: a finished command that retires drops the bytes that its engine holds, which the statement's next state keeps. -/
theorem not_matrixEngineSteps : ¬ Obligations.MatrixEngineSteps := by
  unfold Obligations.MatrixEngineSteps
  intro h
  have hqueue : (finishedHoldsState.me (0 : BitVec 1).toNat).queue = [⟨.mswap 0, true, 0, true⟩] := rfl
  obtain ⟨-, -, -, -, hfin, -⟩ := h 0 0 finishedHoldsState (by decide) (by decide)
  have hheld := congrArg heldAfter ((exec_meCommandComplete_of_fin hqueue).symm.trans (hfin _ hqueue))
  have hdropped : [] = [((.me 0 : UnitRef), (⟨0, 0, [], none⟩ : Piece))] := hheld
  exact absurd hdropped (List.cons_ne_nil _ _).symm

end Sys2Proof.Claims
end

section
/-!
# Ownership, power, attestation, boot and links (O50)

Each agent's step changes the module's or one wing's registers; two such changes that agree on what the registers hold are one
(`updMod_congr`, `updWing_congr`).
-/

namespace Sys2Proof.Claims
open Sys2Proof.Machine

theorem updMod_congr {s : State} {f g : Module → Module} (h : f s.modl = g s.modl) : s.updMod f = s.updMod g :=
  congrArg (fun m => { s with modl := m }) h

theorem updWing_congr {s : State} {w : Nat} {f g : Wing → Wing} (h : f (s.wing w) = g (s.wing w)) :
    s.updWing w f = s.updWing w g :=
  congrArg (fun l => { s with wings := l }) (updAt_congr (d := Wing.reset) h)

theorem wing_updWing_same {s : State} {w : Nat} (hw : w < s.wings.length) (f : Wing → Wing) :
    (s.updWing w f).wing w = f (s.wing w) := getD_updAt_same _ _ _ _ hw

/-! ### Ownership (R335, R336) -/

/-- The owner gives ownership up by passing it to no master. -/
theorem exec_ownpass_none {s : State} {m : BitVec 2} (hown : s.modl.owner = some m) :
    exec (.ownpass m 15) s = .next (s.updMod fun x => { x with owner := none }) := by
  refine congrArg Host.Outcome.next (updMod_congr ?_)
  simp [hown]

theorem exec_ownpass_to {s : State} {m : BitVec 2} {o : BitVec 4} (hown : s.modl.owner = some m) (ho : o.toNat < 4) :
    exec (.ownpass m o) s = .next (s.updMod fun x => { x with
      owner := some (o.setWidth 2), ownPend := putBit x.ownPend (o.setWidth 2).toNat false }) := by
  have hne : o ≠ 15#4 := fun h => by simp [h] at ho
  have hlt : o < 4#4 := ho
  refine congrArg Host.Outcome.next (updMod_congr ?_)
  simp [hown, hne, hlt, putNibble]

/-- A pass by another master, or to what is no master, is an error. -/
theorem exec_ownpass_error {s : State} {m : BitVec 2} {o : BitVec 4}
    (h : s.modl.owner ≠ some m ∨ (4 ≤ o.toNat ∧ o ≠ 15)) :
    exec (.ownpass m o) s = .next (s.updMod fun x => { x with ownErr := true }) := by
  refine congrArg Host.Outcome.next (updMod_congr ?_)
  obtain hown | ⟨ho, hne⟩ := h
  · simp [hown]
  · have hne' : o ≠ 15#4 := hne
    have hge : ¬o < 4#4 := Nat.not_lt.2 ho
    simp [hne', hge]

/-- The lowest master with a request is the one below which none has. -/
theorem lowestPend_of_lowest {x : BitVec 4} {m : BitVec 2} (hm : x.getLsbD m.toNat = true)
    (hlow : ∀ j, j < m.toNat → x.getLsbD j = false) : lowestPend x = some m := by
  revert x m
  decide

theorem exec_ownershipGrant_of_lowest {s : State} {m : BitVec 2} (hown : s.modl.owner = none)
    (hm : s.modl.ownPend.getLsbD m.toNat = true) (hlow : ∀ j, j < m.toNat → s.modl.ownPend.getLsbD j = false) :
    exec .ownershipGrant s =
      .next (s.updMod fun x => { x with owner := some m, ownPend := putBit x.ownPend m.toNat false }) := by
  show execOwnershipGrant s = _
  rw [execOwnershipGrant, hown, lowestPend_of_lowest hm hlow]
  rfl

/-- Where there is an owner, or no master has a request, the grant changes nothing. -/
theorem exec_ownershipGrant_idle {s : State} (h : s.modl.owner.isSome = true ∨ s.modl.ownPend = 0) :
    exec .ownershipGrant s = .next s := by
  show execOwnershipGrant s = _
  unfold execOwnershipGrant
  obtain hown | hpend := h
  · obtain ⟨m, hm⟩ := Option.isSome_iff_exists.1 hown
    rw [hm]
  · rw [hpend]
    cases s.modl.owner <;> rfl

theorem exec_masterLinkDown (s : State) (m : BitVec 2) : exec (.masterLinkDown m) s =
    .next (if s.modl.owner = some m then s.updMod fun x => { x with owner := none } else s) := by
  refine congrArg Host.Outcome.next ?_
  split
  next hown => exact updMod_congr (by simp [hown])
  next hown =>
    refine (updMod_congr (g := id) ?_).trans rfl
    simp [hown]

/-! ### Power (R343) -/

/-- One code down, but not below the last. -/
theorem stepDown_eq (c : BitVec 2) : (if c = 3 then 3 else c + 1) = BitVec.ofNat 2 (min 3 (c.toNat + 1)) := by
  revert c
  decide

/-- A request for a clock takes effect (R343). -/
theorem exec_clockChangeEffect_of_request {s : State} {w : BitVec 3} {c : BitVec 2}
    (hreq : (s.wing w.toNat).wpwrReq = some c) :
    exec (.clockChangeEffect w) s = .next (s.updWing w.toNat fun g => { g with wpwr := c, wpwrReq := none }) :=
  congrArg Host.Outcome.next (updWing_congr (by simp [hreq]))

theorem exec_powerLimitStepDown_below {s : State} {draw : Nat} (h : draw ≤ s.modl.pwrlim.toNat) :
    exec (.powerLimitStepDown draw) s = .next s := if_pos h

theorem exec_powerLimitStepDown_above {s : State} {draw : Nat} (h : s.modl.pwrlim.toNat < draw) :
    exec (.powerLimitStepDown draw) s = .next { s with
      wings := s.wings.map fun (g : Wing) => { g with wpwr := BitVec.ofNat 2 (min 3 (g.wpwr.toNat + 1)) } } := by
  show execPowerLimitStepDown draw s = _
  rw [execPowerLimitStepDown, if_neg (Nat.not_le.2 h)]
  simp only [stepDown_eq]

/-! ### Attestation and boot (R342) -/

theorem exec_attestationReportDone_of_busy {s : State} (hbusy : s.modl.attBusy = true) :
    ∃ t, exec .attestationReportDone s = .next t ∧ t.modl.attBusy = false ∧ t.modl.attDone = 1 ∧
      t.core.clerk.regs = s.core.clerk.regs := by
  refine ⟨_, if_neg (by simp [hbusy]), rfl, rfl, ?_⟩
  dsimp only [State.updMod]
  split <;> rfl

/-! ### Links (R331, R337, R339) -/

/-- A good flit ends the count of its port's failures. -/
theorem exec_spanFlitReceive_good (s : State) (p : BitVec 5) : exec (.spanFlitReceive p true) s =
    .next (s.updWing (p.toNat / 4) fun g => { g with spanFails := updAt g.spanFails (p.toNat % 4) fun _ => 0 }) := rfl

section
variable {s : State} {p : BitVec 5} (hup : (s.wing (p.toNat / 4)).spanUp.getD (p.toNat % 4) false = true)
include hup

/-- A flit that fails is replayed and counted. -/
theorem exec_spanFlitReceive_replayed (hfails : (s.wing (p.toNat / 4)).spanFails.getD (p.toNat % 4) 0 < 16) :
    exec (.spanFlitReceive p false) s = .next (s.updWing (p.toNat / 4) fun g => { g with
      spanReplay := updAt g.spanReplay (p.toNat % 4) fun x => if x = BitVec.allOnes 32 then x else x + 1
      spanFails := updAt g.spanFails (p.toNat % 4) (· + 1) }) := by
  have hkept : ¬16 ≤ (s.wing (p.toNat / 4)).spanFails.getD (p.toNat % 4) 0 := by omega
  show execSpanFlitReceive p false s = _
  simp only [execSpanFlitReceive, decide_eq_false hkept, Bool.not_false, Bool.and_false, Bool.false_eq_true, if_false]
  refine congrArg Host.Outcome.next (updWing_congr ?_)
  simp only [Wing.flitBad, hup, hkept, Bool.not_true, Bool.false_eq_true, if_false]

/-- After 16 failed replays the port goes down. -/
theorem exec_spanFlitReceive_down (hz : p.toNat / 4 < s.wings.length)
    (hfails : 16 ≤ (s.wing (p.toNat / 4)).spanFails.getD (p.toNat % 4) 0) :
    ∃ t, exec (.spanFlitReceive p false) s = .next t ∧
      (t.wing (p.toNat / 4)).spanUp.getD (p.toNat % 4) false = false := by
  have hwing : (s.loseBy p.toNat).wing (p.toNat / 4) = s.wing (p.toNat / 4) := rfl
  have hlen : (p.toNat / 4) < (s.loseBy p.toNat).wings.length := hz
  have hlane : p.toNat % 4 < (s.wing (p.toNat / 4)).spanUp.length := by
    by_contra hout
    rw [List.getD_eq_default _ _ (Nat.not_lt.1 hout)] at hup
    exact Bool.false_ne_true hup
  refine ⟨(s.loseBy p.toNat).updWing (p.toNat / 4) (Wing.flitBad (p.toNat % 4)), ?_, ?_⟩
  · show execSpanFlitReceive p false s = _
    simp only [execSpanFlitReceive, decide_eq_true hfails, Bool.not_false, Bool.and_self, Bool.false_eq_true, if_false, if_true]
  · rw [wing_updWing_same hlen, hwing, Wing.flitBad]
    simp only [hup, hfails, Bool.not_true, Bool.false_eq_true, if_false, if_true]
    exact getD_updAt_same _ _ _ _ hlane

end

/-- A port that is present trains, and what found no port up goes out. -/
theorem exec_spanPortTrain_of_present {s : State} {p : BitVec 5} (lanes8 : Bool)
    (h : (s.modl.modcfg.getD 8 0).getLsbD p.toNat = true) :
    let up := s.updWing (p.toNat / 4) fun g => { g with
      spanUp := updAt g.spanUp (p.toNat % 4) fun _ => true
      spanLanes := updAt g.spanLanes (p.toNat % 4) fun _ => if lanes8 then 8 else 4
      spanFails := updAt g.spanFails (p.toNat % 4) fun _ => 0 }
    exec (.spanPortTrain p lanes8) s = .next (up.updClerk fun c => { c with
      unfin := c.unfin.map fun u => if u.done = none then up.sent u else u }).sendReqs := by
  show execSpanPortTrain p lanes8 s = _
  simp only [execSpanPortTrain, h, Bool.not_true, Bool.false_eq_true, if_false, Option.isNone_iff_eq_none]

section
variable {s : State} {m : NiMsg} {rest : List NiMsg}

/-- The first message goes when the whole of it stands in the send buffer. -/
theorem exec_niMessageSend_whole (hout : s.niOut = m :: rest) (hwhole : m.len ≤ m.have_) (hfits : m.len ≤ 288) :
    exec .niMessageSend s = .next { s with niOut := rest, niFlight := s.niFlight ++ [m] } := by
  show execNiMessageSend s = _
  simp [execNiMessageSend, hout, hwhole, hfits]

theorem exec_niMessageSend_part (hout : s.niOut = m :: rest) (hpart : m.have_ < m.len) :
    exec .niMessageSend s = .next s := by
  show execNiMessageSend s = _
  simp [execNiMessageSend, hout, Nat.not_le.2 hpart]

/-- The first message in flight is delivered when the whole of it has come. -/
theorem exec_niMessageDeliver_whole (hflight : s.niFlight = m :: rest) (hwhole : m.len ≤ m.have_) :
    exec .niMessageDeliver s = .next { s with niFlight := rest, niIn := s.niIn ++ [m], niGot := s.niGot + 1 } := by
  show execNiMessageDeliver s = _
  simp [execNiMessageDeliver, hflight, hwhole]

theorem exec_niMessageDeliver_part (hflight : s.niFlight = m :: rest) (hpart : m.have_ < m.len) :
    exec .niMessageDeliver s = .next s := by
  show execNiMessageDeliver s = _
  simp [execNiMessageDeliver, hflight, Nat.not_le.2 hpart]

end

/-- Settles O50: each agent's step is that of its rule. -/
theorem moduleAgents : Obligations.ModuleAgents := by
  unfold Obligations.ModuleAgents
  intro m on o w code draw p lanes8 s pend
  refine ⟨rfl, rfl, fun hown => ⟨exec_ownpass_none hown, exec_ownpass_to hown⟩, exec_ownpass_error,
    exec_ownershipGrant_of_lowest, exec_ownershipGrant_idle, ?_, ?_, rfl, fun c hreq _ => exec_clockChangeEffect_of_request hreq,
    exec_powerLimitStepDown_below, exec_powerLimitStepDown_above, rfl, exec_attestationReportDone_of_busy, ?_, rfl, ?_, rfl,
    fun hup hz => ⟨exec_spanFlitReceive_replayed hup, exec_spanFlitReceive_down hup hz⟩, exec_spanPortTrain_of_present lanes8,
    ?_, ?_, ?_⟩
  · intro hown
    rw [exec_masterLinkDown, if_pos hown]
  · intro hown
    rw [exec_masterLinkDown, if_neg hown]
  · exact fun hidle => if_pos (by simp [hidle])
  · exact ⟨_, rfl, rfl, rfl, rfl, rfl, rfl, rfl⟩
  · exact fun habsent => if_pos (by simp only [habsent, Bool.not_false])
  · exact fun m rest hout => ⟨exec_niMessageSend_whole hout, exec_niMessageSend_part hout⟩
  · exact fun m rest hflight => ⟨exec_niMessageDeliver_whole hflight, exec_niMessageDeliver_part hflight⟩

end Sys2Proof.Claims
end

section
/-!
# Steps of the lanes of a stream port (O55)

A step of a lane that takes a command changes its port alone (`updPort_congr`). A lane with no command in its queue stays as a
command's completion leaves it (`takeEmit_of_empty`, `takeAbsorb_of_empty`).
-/

namespace Sys2Proof.Claims
open Sys2Proof.Machine

theorem port_updPort_same {s : State} {n : Nat} (hn : n < s.core.ports.length) (f : Port → Port) :
    (s.updPort n f).port n = f (s.port n) := getD_updAt_same _ _ _ _ hn

/-! ### The emit lane -/

theorem nextEmit_of_head {i : Instr} (hemits : Instr.emits i = true) (rest : List PortItem) :
    nextEmit (.cmd i :: rest) = some (0, .cmd i) := by
  simp [nextEmit, hemits]

/-- A free emit lane takes an emitting command at the head of its queue. -/
theorem takeEmit_of_head {q : Port} {i : Instr} {rest : List PortItem} (hfree : q.emitCmd = none)
    (hqueue : q.queue = .cmd i :: rest) (hemits : Instr.emits i = true) (hsingle : Instr.paired i = false) :
    q.takeEmit = { q with queue := rest, emitCmd := some (LaneCmd.start i), posE := 0 } := by
  unfold Port.takeEmit
  rw [hfree, hqueue, nextEmit_of_head hemits]
  simp only [hsingle, Bool.false_eq_true, if_false, List.eraseIdx_cons_zero]

section
variable {p : BitVec 4} {s : State}

/-- A sealed port sends the error ends that it owes first. -/
theorem exec_laneEmitToken_of_sealToks {w : Word} {rest : List Word} (howed : (s.port p.toNat).sealToks = w :: rest)
    (hroom : s.laneRoom p.toNat = true) : exec (.laneEmitToken p) s =
      .next ((s.laneSend p.toNat ⟨9, w⟩).updPort p.toNat fun x => { x with sealToks := rest, bnd := 8 }) := by
  show execLaneEmitToken p s = _
  simp only [execLaneEmitToken, howed, if_pos hroom]

/-- The record of a `stile` is read whatever else holds the lane (R262). -/
theorem exec_laneEmitToken_of_record {c d : LaneCmd} {u : State} (hnone : (s.port p.toNat).sealToks = [])
    (hdue : (s.port p.toNat).recordDue = some c) (hfree : s.stalledAt (.lane p.toNat) = false)
    (hform : formNext (.lane p.toNat) c s = .ok d u) : exec (.laneEmitToken p) s =
      .next ((u.unhold (.lane p.toNat)).updPort p.toNat fun x => { x with emitCmd := some d }) := by
  show execLaneEmitToken p s = _
  simp only [execLaneEmitToken, hnone, hdue, hfree, State.laneRecord, hform, Bool.false_eq_true, if_false]

/-- A stopped lane does nothing. -/
theorem exec_laneEmitToken_of_stopped (hnone : (s.port p.toNat).sealToks = [])
    (hdue : (s.port p.toNat).recordDue = none) (hstopped : s.laneStopped p.toNat = true) :
    exec (.laneEmitToken p) s = .next s := by
  show execLaneEmitToken p s = _
  simp only [execLaneEmitToken, hnone, hdue, if_pos hstopped]

/-- A free lane takes the command at the head of its queue. -/
theorem exec_laneEmitToken_of_free {i : Instr} {rest : List PortItem} (hnone : (s.port p.toNat).sealToks = [])
    (hruns : s.laneStopped p.toNat = false) (hfree : (s.port p.toNat).emitCmd = none) (hwhole : s.midEntry p.toNat = false)
    (hqueue : (s.port p.toNat).queue = .cmd i :: rest) (hemits : Instr.emits i = true) (hsingle : Instr.paired i = false) :
    exec (.laneEmitToken p) s = .next (s.updPort p.toNat fun x =>
      { x with queue := rest, emitCmd := some (LaneCmd.start i), posE := 0 }) := by
  have hdue : (s.port p.toNat).recordDue = none := by rw [Port.recordDue, hfree]; rfl
  have hnext : nextEmit (s.port p.toNat).queue = some (0, .cmd i) := by rw [hqueue, nextEmit_of_head hemits]
  show execLaneEmitToken p s = _
  simp only [execLaneEmitToken, hnone, hdue, hruns, hfree, hwhole, hnext, Bool.false_eq_true, if_false]
  exact congrArg Host.Outcome.next (updPort_congr (takeEmit_of_head hfree hqueue hemits hsingle))

/-- A lane that performs an `sread` and has tokens formed sends the next to every place it goes to, or waits. -/
theorem exec_laneEmitToken_of_formed {c : LaneCmd} {f : ReadFields} {t : Token} {rest : List Token}
    (hnone : (s.port p.toNat).sealToks = []) (hruns : s.laneStopped p.toNat = false)
    (hcmd : (s.port p.toNat).emitCmd = some c) (hread : c.cmd = .sread p f) (hout : c.out = t :: rest)
    (hcut : (s.port p.toNat).cut = none) :
    exec (.laneEmitToken p) s = .next (if s.laneRoom p.toNat then (s.laneSend p.toNat t).updPort p.toNat fun x =>
      { x with emitCmd := some { c with out := rest } }.emitted t else s) := by
  have hdue : (s.port p.toNat).recordDue = none := by
    simp [Port.recordDue, hcmd, hread, Instr.isStile]
  show execLaneEmitToken p s = _
  simp only [execLaneEmitToken, hnone, hdue, hruns, hcmd, State.laneMove, hread, Port.cutNow, hcut, hout, Bool.false_eq_true,
    if_false]

end

/-! ### The absorb lane -/

/-- Void tokens alone write nothing. -/
theorem pieces_isEmpty_iff {c : LaneCmd} : c.pieces.isEmpty = true ↔ ∀ t ∈ c.out, t.isVoid = true := by
  conv_rhs => rw [← List.zipIdx_map_fst 0 c.out, List.forall_mem_map]
  simp only [LaneCmd.pieces, List.isEmpty_iff, List.map_eq_nil_iff, List.filter_eq_nil_iff, Bool.not_eq_true, Bool.not_eq_false']

section
variable {p : BitVec 4} {s : State} {c : LaneCmd} {f : WriteFields} (hcmd : (s.port p.toNat).absCmd = some c)
  (hwrite : c.cmd = .swrite p f) (hfree : s.stalledAt (.absorb p.toNat) = false)
include hcmd hwrite hfree

/-- A full block is written before a further token is looked at. -/
theorem exec_laneAbsorbToken_of_blockFull (hfull : c.blockFull = true) :
    exec (.laneAbsorbToken p) s = .next (s.absFlush p.toNat c) := by
  have hout : c.out.isEmpty = false := by
    simp only [LaneCmd.blockFull, Bool.and_eq_true, Bool.not_eq_true'] at hfull
    exact hfull.1
  have hdue : s.absDue p.toNat c = true := by simp [State.absDue, hwrite, Instr.paired, hout, hfull]
  show execLaneAbsorbToken p s = _
  simp [execLaneAbsorbToken, hcmd, hfree, hdue]

omit hwrite in
/-- With no block at hand the lane takes the lone token that has come, if it is no barrier. -/
theorem exec_laneAbsorbToken_of_lone {t : Token} (hout : c.out = []) (hin : (s.port p.toNat).inq = [(0, t)])
    (hbar : t.isBar = false) : exec (.laneAbsorbToken p) s = .next (s.absToken p.toNat 0 c t) := by
  have hhead : ∀ k u, (s.port p.toNat).trackHead k = some u → u = t := by
    intro k u hu
    simp only [Port.trackHead, hin, List.find?_cons, List.find?_nil] at hu
    split at hu
    · exact (Option.some.inj hu).symm
    · exact nomatch hu
  have hbars : ((s.laneTracks p.toNat).filterMap (s.port p.toNat).trackHead).filter Token.isBar = [] := by
    refine List.filter_eq_nil_iff.2 fun u hu => ?_
    obtain ⟨k, -, hk⟩ := List.mem_filterMap.1 hu
    rw [hhead k u hk, hbar]
    exact Bool.false_ne_true
  have hnext : s.absNext p.toNat = .token 0 t := by
    simp [State.absNext, hbars, hin, oldestFree, hbar]
  have hdue : s.absDue p.toNat c = false := by simp [State.absDue, hout]
  show execLaneAbsorbToken p s = _
  simp [execLaneAbsorbToken, hcmd, hfree, hdue, hnext]

/-- A void token of `swrite` is counted and takes its place in the block at hand. -/
theorem exec_laneAbsorbToken_of_void {t : Token} (hopen : c.closing = false) (hout : c.out = [])
    (hin : (s.port p.toNat).inq = [(0, t)]) (hvoid : t.isVoid = true)
    (hmore : c.n ≠ max f.rows.toNat 1 * (f.len.toNat / 4)) :
    exec (.laneAbsorbToken p) s = .next (s.updPort p.toNat fun x => { x with
      inq := [], absCmd := some { c with n := c.n + 1, out := [t] }, posA := x.posA + 1 }) := by
  have hkind : t.kind = 13#4 := by simpa [Token.isVoid] using hvoid
  rw [exec_laneAbsorbToken_of_lone hcmd hfree hout hin (by simp [Token.isBar, hkind])]
  refine congrArg Host.Outcome.next ?_
  have htaken : s.absToken p.toNat 0 c t = s.absTaken p.toNat 0 { c with n := c.n + 1, out := c.out ++ [t] } := by
    simp [State.absToken, State.absData, hopen, hkind, hwrite, Instr.paired, Token.isData, Token.isVoid, absSize, hmore,
      LaneCmd.wantsIndex]
  rw [htaken, hout]
  refine updPort_congr ?_
  rw [hin]
  rfl

/-- The last end ends the command. -/
theorem exec_laneAbsorbToken_of_last {t : Token} (hopen : c.closing = false) (hout : c.out = [])
    (hin : (s.port p.toNat).inq = [(0, t)]) (hkind : t.kind = 7) :
    exec (.laneAbsorbToken p) s = .next (s.updPort p.toNat fun x => { x with
      inq := [], absCmd := some { c with closing := true }, posA := x.posA + 1 }) := by
  have hkind : t.kind = 7#4 := hkind
  rw [exec_laneAbsorbToken_of_lone hcmd hfree hout hin (by simp [Token.isBar, hkind])]
  refine congrArg Host.Outcome.next ?_
  have htaken : s.absToken p.toNat 0 c t = s.absTaken p.toNat 0 { c with closing := true } := by
    simp [State.absToken, hopen, hkind, hwrite, Instr.paired, Token.isData]
  rw [htaken]
  refine updPort_congr ?_
  rw [hin]
  rfl

/-- The command behind a block that has been written. -/
def flushedCmd (c : LaneCmd) (f : WriteFields) : LaneCmd :=
  { c with out := [], hdr := if c.n % (f.len.toNat / 4) = 0 then [] else c.hdr }

/-- A block of void tokens alone writes nothing. -/
theorem exec_laneAbsorbToken_of_voidBlock (hfull : c.blockFull = true) (hvoid : ∀ t ∈ c.out, t.isVoid = true) :
    exec (.laneAbsorbToken p) s = .next (s.updPort p.toNat fun x => { x with absCmd := some (flushedCmd c f) }) := by
  have hnone : c.pieces.isEmpty = true := pieces_isEmpty_iff.2 hvoid
  rw [exec_laneAbsorbToken_of_blockFull hcmd hwrite hfree hfull]
  simp [State.absFlush, hnone, hwrite, absSize, flushedCmd]

/-- A block that holds data is written in one access. -/
theorem exec_laneAbsorbToken_of_dataBlock (hfull : c.blockFull = true) (hdata : ∃ t ∈ c.out, t.isVoid = false) {u : State}
    (hdone : s.absWrite c = .ok () u) :
    exec (.laneAbsorbToken p) s = .next (u.updPort p.toNat fun x => { x with absCmd := some (flushedCmd c f) }) := by
  have hsome : c.pieces.isEmpty = false := by
    obtain ⟨t, ht, hvoid⟩ := hdata
    refine Bool.eq_false_iff.2 fun hnone => ?_
    rw [pieces_isEmpty_iff.1 hnone t ht] at hvoid
    exact Bool.false_ne_true hvoid.symm
  rw [exec_laneAbsorbToken_of_blockFull hcmd hwrite hfree hfull]
  simp [State.absFlush, hsome, hdone, laneGot, hwrite, absSize, flushedCmd]

end

/-! ### Completion and claims -/

theorem takeEmit_of_empty {q : Port} (h : q.queue = []) : q.takeEmit = q := by
  unfold Port.takeEmit
  rw [h]
  cases q.emitCmd <;> rfl

theorem takeAbsorb_of_empty {q : Port} (h : q.queue = []) (held : Bool) : q.takeAbsorb held = q := by
  unfold Port.takeAbsorb
  rw [h]
  cases q.absCmd <;> rfl

/-- With no command queued no lane takes one. -/
theorem takeNext_of_empty {s : State} {n : Nat} (h : (s.port n).queue = []) :
    (if s.laneKept n then s.updPort n (·.takeAbsorb true) else s.updPort n fun q => q.takeEmit.takeAbsorb false) = s := by
  split
  · exact updPort_of_unchanged (takeAbsorb_of_empty h true)
  · refine updPort_of_unchanged ?_
    rw [takeEmit_of_empty h, takeAbsorb_of_empty h]

/-- A gate that takes effect changes the port's gate alone. -/
theorem atGate_frame (q : Port) : ∃ gated gate, q.atGate = { q with gated := gated, gate := gate } := by
  unfold Port.atGate
  split
  · split <;> exact ⟨_, _, rfl⟩
  · exact ⟨_, _, rfl⟩

theorem freeEmit_spec (q : Port) :
    q.freeEmit.emitCmd = none ∧ q.freeEmit.serialE = q.serialE + 1 ∧ q.freeEmit.queue = q.queue := by
  obtain ⟨_, _, h⟩ := atGate_frame { q with emitCmd := none, serialE := q.serialE + 1, bnd := 8, cut := none }
  rw [Port.freeEmit, h]
  exact ⟨rfl, rfl, rfl⟩

section
variable {p : BitVec 4} {s : State} {c : LaneCmd} (hport : p.toNat < s.core.ports.length) (hclosing : c.closing = true)
  (hout : c.out = []) (hqueue : (s.port p.toNat).queue = [])
include hport hclosing hout hqueue

/-- An emitting command that has formed and emitted everything is counted, and the lane is free. -/
theorem exec_laneCommandComplete_emit (hcmd : (s.port p.toNat).emitCmd = some c) (hother : (s.port p.toNat).absCmd = none)
    (hcut : (s.port p.toNat).cut = none) :
    exec (.laneCommandComplete p false) s = .next (s.updPort p.toNat Port.freeEmit) := by
  obtain ⟨-, -, hfree⟩ := freeEmit_spec (s.port p.toNat)
  have hempty : ((s.updPort p.toNat Port.freeEmit).port p.toNat).queue = [] := by
    rw [port_updPort_same hport, hfree, hqueue]
  have hdone : (c.closing && c.out.isEmpty && ((s.port p.toNat).cutNow c).isNone) = true := by
    simp [hclosing, hout, Port.cutNow, hcut]
  show execLaneCommandComplete p false s = _
  simp only [execLaneCommandComplete, hcmd, hother, hdone, Bool.not_false, Bool.and_self, if_true]
  rw [takeNext_of_empty hempty]

/-- An absorbing command that has taken and written everything is counted, and the lane is free. -/
theorem exec_laneCommandComplete_absorb (hcmd : (s.port p.toNat).absCmd = some c) (hother : (s.port p.toNat).emitCmd = none) :
    exec (.laneCommandComplete p true) s =
      .next (s.updPort p.toNat fun q => { q with absCmd := none, serialA := q.serialA + 1 }) := by
  have hempty : ((s.updPort p.toNat fun q => { q with absCmd := none, serialA := q.serialA + 1 }).port p.toNat).queue = [] := by
    rw [port_updPort_same hport, hqueue]
  show execLaneCommandComplete p true s = _
  simp only [execLaneCommandComplete, hcmd, hother, hclosing, hout, List.isEmpty_nil, Bool.and_self, if_true]
  rw [takeNext_of_empty hempty]

end

/-- The command behind its claim: a handle with ERR gives an error end and closes it (R261). -/
def claimedCmd (c : LaneCmd) (err : Byte) : LaneCmd :=
  if err = 0 then { c with claimed := true } else { c with claimed := true, out := [errTok err.toNat], closing := true }

theorem ports_updHandle (s : State) (h : Nat) (g : Handle → Handle) : (s.updHandle h g).core.ports = s.core.ports := by
  unfold State.updHandle
  dsimp only
  split <;> rfl

/-- A claim makes a FULL or DRAINING handle DRAINING, and waits on any other (R89, R261). -/
theorem exec_handleClaim_of_claims {p : BitVec 4} {s : State} {c : LaneCmd} {h : Nat}
    (hcmd : (s.port p.toNat).emitCmd = some c) (hclaims : c.claims = some h) :
    exec (.handleClaim p) s = .next (if (s.handle h).st = .full || (s.handle h).st = .draining then
      (s.updHandle h fun e => { e with st := .draining }).updPort p.toNat fun q =>
        { q with emitCmd := some (claimedCmd c (s.handle h).err) } else s) := by
  show execHandleClaim p s = _
  simp only [execHandleClaim, hcmd, hclaims]
  split <;> rfl

/-- Settles O55: each step of a lane is that of its rule. -/
theorem laneSteps : Obligations.LaneSteps := by
  unfold Obligations.LaneSteps
  intro p s n q hport
  refine ⟨fun w rest howed hroom => exec_laneEmitToken_of_sealToks howed hroom, exec_laneEmitToken_of_stopped,
    fun c d u hnone hdue hfree hform => exec_laneEmitToken_of_record hnone hdue hfree hform,
    fun hnone hruns => ⟨fun i rest => exec_laneEmitToken_of_free hnone hruns, fun c f t rest hcmd hread hout hcut => ?_⟩,
    fun c f hcmd hwrite hfree => ⟨fun t hopen hout hin => ⟨fun hvoid hmore => ?_, fun hkind => ?_⟩,
      fun hfull => ⟨fun hvoid => ?_, fun u hdata hdone => ?_⟩⟩,
    fun c hcmd hother hclosing hout hcut hqueue => ?_, fun c hother hcmd hclosing hout hqueue => ?_,
    fun c h hcmd hclaims hh => ?_, rfl⟩
  · have hstep := exec_laneEmitToken_of_formed hnone hruns hcmd hread hout hcut
    refine ⟨fun hroom => ?_, fun hfull => ?_⟩
    · rw [hstep, if_pos hroom]
    · rw [hstep, if_neg (Bool.eq_false_iff.1 hfull)]
  · exact exec_laneAbsorbToken_of_void hcmd hwrite hfree hopen hout hin hvoid hmore
  · exact exec_laneAbsorbToken_of_last hcmd hwrite hfree hopen hout hin hkind
  · exact exec_laneAbsorbToken_of_voidBlock hcmd hwrite hfree hfull hvoid
  · exact exec_laneAbsorbToken_of_dataBlock hcmd hwrite hfree hfull hdata hdone
  · obtain ⟨hfree, hserial, -⟩ := freeEmit_spec q
    refine ⟨_, exec_laneCommandComplete_emit hport hclosing hout hqueue hcmd hother hcut, ?_, ?_, rfl, rfl⟩
    · rw [port_updPort_same hport, hfree]
    · rw [port_updPort_same hport, hserial]
  · refine ⟨_, exec_laneCommandComplete_absorb hport hclosing hout hqueue hcmd hother, ?_, ?_, rfl, rfl⟩
    all_goals rw [port_updPort_same hport]
  · have hstep := exec_handleClaim_of_claims hcmd hclaims
    refine ⟨fun hst => ?_, fun hst => ?_⟩
    · rw [if_pos (by simpa using hst)] at hstep
      refine ⟨_, claimedCmd c (s.handle h).err, hstep, ?_, ?_, ?_, fun herr => ?_⟩
      · exact congrArg Handle.st (handle_updHandle (fun e => { e with st := .draining }) hh)
      · rw [port_updPort_same (by rw [ports_updHandle]; exact hport)]
      · unfold claimedCmd
        split <;> rfl
      · rw [claimedCmd, if_neg herr]
        exact ⟨rfl, rfl⟩
    · rw [hstep, if_neg (by obtain hst | hst := hst <;> simp [hst])]

end Sys2Proof.Claims
end
